-- ==== Sys2Proof/Word.lean ====
section
/-! DEFINITION. The word types of the PY9 (00 R3): a general register holds 64 bits, an instruction word 32, memory is
read by bytes, and a pointer or address is computed in 64 bits. -/

namespace Sys2Proof

/-- A 64-bit general register, special register or dword. -/
abbrev Word := BitVec 64

/-- One byte of memory. -/
abbrev Byte := BitVec 8

/-- One 32-bit instruction word (03 R59). -/
abbrev IWord := BitVec 32

end Sys2Proof
end

