-- ==== Sys2Proof/Syntax.lean ====
section
/-! DEFINITION. The syntax of Kresuzar at ISA level 1: one constructor for each row of spec/opcode_table.json. A row with
an encoding carries the operand fields of its format (03 R62, R66 to R69); a row without one is a step or event of an
agent (95_what_each_step_holds.md) and carries the operands that say where it happens and what arrives. -/

namespace Sys2Proof

/-- The extended word (03 R67) and the advisory and mask fields of the hint word (03 R69). The fields that must be zero
(extended word [15], HM, hint [31:22]) are not operands: the decoder refuses them. -/
structure Ext where
  mod : BitVec 8
  c   : BitVec 7
  imm : BitVec 16
  ha  : BitVec 4
  hb  : BitVec 4
  hr  : BitVec 4
  pt  : BitVec 5
  pe  : Bool
  deriving DecidableEq, Repr

/-- What follows word 0, by LEN (03 R59, R60). -/
inductive Tail where
  | none
  | lit (v : Word)
  | ext (e : Ext)
  | extLit (e : Ext) (v : Word)
  deriving DecidableEq, Repr

/-- Format R (03 R62): destination, two sources or immediate, and Q. -/
structure RForm where
  d : BitVec 7
  a : BitVec 7
  b : BitVec 7
  q : Bool
  t : Tail
  deriving DecidableEq, Repr

/-- Format M (03 R62): data or destination, base, displacement, Q. -/
structure MForm where
  d    : BitVec 7
  a    : BitVec 7
  disp : BitVec 7
  q    : Bool
  t    : Tail
  deriving DecidableEq, Repr

/-- Format B (03 R62): two compared registers and an offset in words. -/
structure BForm where
  a   : BitVec 7
  b   : BitVec 7
  off : BitVec 8
  t   : Tail
  deriving DecidableEq, Repr

/-- Format J (03 R62): an offset in words. -/
structure JForm where
  off : BitVec 22
  t   : Tail
  deriving DecidableEq, Repr

/-- Format LI (03 R62): destination and constant. -/
structure LForm where
  d   : BitVec 7
  imm : BitVec 15
  t   : Tail
  deriving DecidableEq, Repr

/-- Format Z (03 R62, R65): no operand; the 22 bits are hint bits in nop and zero elsewhere. -/
structure ZForm where
  hint : BitVec 22
  t    : Tail
  deriving DecidableEq, Repr

/-- Format X (03 R62): destination (mfs), source (mts) and special-register index. -/
structure XForm where
  d     : BitVec 7
  a     : BitVec 7
  index : BitVec 8
  t     : Tail
  deriving DecidableEq, Repr

/-- Every row of spec/opcode_table.json. Threads are named by a key (core * 64 + context, or 8192 + host core). -/
inductive Instr where
  /-- ADD (R136). -/
  | add (f : RForm)
  /-- SUB (R136). -/
  | sub (f : RForm)
  /-- MUL (R139). -/
  | mul (f : RForm)
  /-- MULH (R139). -/
  | mulh (f : RForm)
  /-- DIV (R140). -/
  | div (f : RForm)
  /-- REM (R140). -/
  | rem (f : RForm)
  /-- AND (R136). -/
  | and (f : RForm)
  /-- OR (R136). -/
  | or (f : RForm)
  /-- XOR (R136). -/
  | xor (f : RForm)
  /-- SHL (R137). -/
  | shl (f : RForm)
  /-- SHR (R137). -/
  | shr (f : RForm)
  /-- SAR (R137). -/
  | sar (f : RForm)
  /-- MIN (R136). -/
  | min (f : RForm)
  /-- MAX (R136). -/
  | max (f : RForm)
  /-- SLT (R136). -/
  | slt (f : RForm)
  /-- SEL (R145). -/
  | sel (f : RForm)
  /-- ADDSAT (R138). -/
  | addsat (f : RForm)
  /-- SUBSAT (R138). -/
  | subsat (f : RForm)
  /-- CLZ (R141). -/
  | clz (f : RForm)
  /-- BEXT (R142). -/
  | bext (f : RForm)
  /-- BINS (R142). -/
  | bins (f : RForm)
  /-- LEA (R143). -/
  | lea (f : RForm)
  /-- LI (R144). -/
  | li (f : LForm)
  /-- FADD (R147). -/
  | fadd (f : RForm)
  /-- FSUB (R147). -/
  | fsub (f : RForm)
  /-- FMUL (R147). -/
  | fmul (f : RForm)
  /-- FFMA (R147). -/
  | ffma (f : RForm)
  /-- FDIV (R147). -/
  | fdiv (f : RForm)
  /-- FSQRT (R147). -/
  | fsqrt (f : RForm)
  /-- FMIN (R148). -/
  | fmin (f : RForm)
  /-- FMAX (R148). -/
  | fmax (f : RForm)
  /-- FLT (R149). -/
  | flt (f : RForm)
  /-- FCVT (R150). -/
  | fcvt (f : RForm)
  /-- BEQ (R154). -/
  | beq (f : BForm)
  /-- BNE (R154). -/
  | bne (f : BForm)
  /-- BLT (R154). -/
  | blt (f : BForm)
  /-- BGE (R154). -/
  | bge (f : BForm)
  /-- JMP (R155). -/
  | jmp (f : JForm)
  /-- JAL (R155). -/
  | jal (f : JForm)
  /-- JR (R156). -/
  | jr (f : RForm)
  /-- JR_LINK (R156). -/
  | jrLink (f : RForm)
  /-- LOOP (R157). -/
  | loop (f : MForm)
  /-- NOP (R160). -/
  | nop (f : ZForm)
  /-- TEND (R161). -/
  | tend (f : ZForm)
  /-- TRAP (R164). -/
  | trap (f : MForm)
  /-- BRK (R164). -/
  | brk (f : MForm)
  /-- ERET (R166). -/
  | eret (f : ZForm)
  /-- UIRET (R169). -/
  | uiret (f : ZForm)
  /-- LD8 (R271). -/
  | ld8 (f : MForm)
  /-- LD16 (R271). -/
  | ld16 (f : MForm)
  /-- LD32 (R271). -/
  | ld32 (f : MForm)
  /-- LD64 (R271). -/
  | ld64 (f : MForm)
  /-- ST8 (R271). -/
  | st8 (f : MForm)
  /-- ST16 (R271). -/
  | st16 (f : MForm)
  /-- ST32 (R271). -/
  | st32 (f : MForm)
  /-- ST64 (R271). -/
  | st64 (f : MForm)
  /-- LDACQ (R273). -/
  | ldacq (f : MForm)
  /-- STREL (R273). -/
  | strel (f : MForm)
  /-- LDFE (R276). -/
  | ldfe (f : MForm)
  /-- STFE (R276). -/
  | stfe (f : MForm)
  /-- FECHK (R276). -/
  | fechk (f : MForm)
  /-- FENCE (R274). -/
  | fence (f : MForm)
  /-- CACHECTL (R275). -/
  | cachectl (f : RForm)
  /-- AMOADD (R279). -/
  | amoadd (f : RForm)
  /-- AMOBIT (R279). -/
  | amobit (f : RForm)
  /-- AMOMIN (R279). -/
  | amomin (f : RForm)
  /-- AMOMAX (R279). -/
  | amomax (f : RForm)
  /-- AMOSWAP (R279). -/
  | amoswap (f : RForm)
  /-- CAS (R279). -/
  | cas (f : RForm)
  /-- FADDA_U (R280). -/
  | faddaU (f : RForm)
  /-- FADDA_O (R280). -/
  | faddaO (f : RForm)
  /-- FMAXA (R280). -/
  | fmaxa (f : RForm)
  /-- ACQ (R281). -/
  | acq (f : RForm)
  /-- ACQ_SH (R281). -/
  | acqSh (f : RForm)
  /-- ACQ_GRANT (R252). -/
  | acqGrant (part obj : Nat)
  /-- REL (R282). -/
  | rel (f : RForm)
  /-- BMOVE (R283). -/
  | bmove (f : RForm)
  /-- BFILL (R283). -/
  | bfill (f : RForm)
  /-- TCFG_WRITE (R183). -/
  | tcfgWrite (f : RForm)
  /-- TCFG_READ (R183). -/
  | tcfgRead (f : RForm)
  /-- TLD (R184). -/
  | tld (f : RForm)
  /-- TST (R184). -/
  | tst (f : RForm)
  /-- TGATHER (R185). -/
  | tgather (f : RForm)
  /-- TSCATTER (R185). -/
  | tscatter (f : RForm)
  /-- TSCADD_U (R186). -/
  | tscaddU (f : RForm)
  /-- TSCADD_O (R186). -/
  | tscaddO (f : RForm)
  /-- TMOVR (R187). -/
  | tmovr (f : RForm)
  /-- TMOVS (R187). -/
  | tmovs (f : RForm)
  /-- TBCAST (R187). -/
  | tbcast (f : RForm)
  /-- VADD (R188). -/
  | vadd (f : RForm)
  /-- VSUB (R188). -/
  | vsub (f : RForm)
  /-- VMUL (R188). -/
  | vmul (f : RForm)
  /-- VFMA (R188). -/
  | vfma (f : RForm)
  /-- VMIN (R188). -/
  | vmin (f : RForm)
  /-- VMAX (R188). -/
  | vmax (f : RForm)
  /-- VLOG (R189). -/
  | vlog (f : RForm)
  /-- VSHR (R190). -/
  | vshr (f : RForm)
  /-- VCMP (R191). -/
  | vcmp (f : RForm)
  /-- VSEL (R192). -/
  | vsel (f : RForm)
  /-- VCVT (R193). -/
  | vcvt (f : RForm)
  /-- VRECIP (R188). -/
  | vrecip (f : RForm)
  /-- VRSQRT (R198). -/
  | vrsqrt (f : RForm)
  /-- VEXP2 (R198). -/
  | vexp2 (f : RForm)
  /-- VRED (R200). -/
  | vred (f : RForm)
  /-- VARGMAX (R201). -/
  | vargmax (f : RForm)
  /-- VQUANT (R202). -/
  | vquant (f : RForm)
  /-- VDEQ (R203). -/
  | vdeq (f : RForm)
  /-- BQADD (R204). -/
  | bqadd (f : RForm)
  /-- MMA (R206). -/
  | mma (f : RForm)
  /-- MMASP (R207). -/
  | mmasp (f : RForm)
  /-- MATRIX_ENTRY_START (R209). -/
  | matrixEntryStart (slab : Nat)
  /-- MATRIX_KSTEP_BOUNDARY (R209). -/
  | matrixKstepBoundary (slab : Nat)
  /-- MATRIX_ENTRY_COMPLETE (R208). -/
  | matrixEntryComplete (slab : Nat)
  /-- TLOOK (R285). -/
  | tlook (f : RForm)
  /-- TSET (R285). -/
  | tset (f : RForm)
  /-- TSET_INVALIDATE (R285). -/
  | tsetInvalidate (f : RForm)
  /-- BFMT (R286). -/
  | bfmt (f : RForm)
  /-- BFMT_READ (R286). -/
  | bfmtRead (f : RForm)
  /-- SGSET (R287). -/
  | sgset (f : RForm)
  /-- PROBE (R288). -/
  | probe (f : RForm)
  /-- SPAWN (R306). -/
  | spawn (f : RForm)
  /-- TAKE (R307). -/
  | take (f : RForm)
  /-- GJOIN (R404). -/
  | gjoin (f : RForm)
  /-- GLEAVE (R404). -/
  | gleave (f : RForm)
  /-- GBAR (R404). -/
  | gbar (f : RForm)
  /-- TCADD (R445). -/
  | tcadd (f : RForm)
  /-- TCWAIT (R446). -/
  | tcwait (f : RForm)
  /-- TCWAIT_ARM (R447). -/
  | tcwaitArm (f : RForm)
  /-- TCWAIT_DISARM (R447). -/
  | tcwaitDisarm (f : RForm)
  /-- TCSET (R448). -/
  | tcset (f : RForm)
  /-- CSEND (R310). -/
  | csend (f : RForm)
  /-- CHANNEL_WORD_ARRIVE (R310). -/
  | channelWordArrive (part ch : Nat)
  /-- CRECV (R310). -/
  | crecv (f : RForm)
  /-- CHANNEL_CREDIT_RETURN (R310). -/
  | channelCreditReturn (part ch : Nat)
  /-- CPOLL (R311). -/
  | cpoll (f : RForm)
  /-- LAUNCH (R301). -/
  | launch (f : RForm)
  /-- FORK (R379). -/
  | fork (f : RForm)
  /-- CHOOSE (R385). -/
  | choose (f : RForm)
  /-- CHOOSE_MIN (R385). -/
  | chooseMin (f : RForm)
  /-- WEND (R382). -/
  | wend (f : RForm)
  /-- WJOIN (R384). -/
  | wjoin (f : RForm)
  /-- KICK (R336). -/
  | kick (f : RForm)
  /-- KICK_APPLY (R337). -/
  | kickApply (chain : Nat) (tail : Word) (view kicker : Nat)
  /-- BINIT (R451). -/
  | binit (f : RForm)
  /-- BWAIT (R452). -/
  | bwait (f : RForm)
  /-- BWAIT_ARM (R452). -/
  | bwaitArm (f : RForm)
  /-- BWAIT_DISARM (R452). -/
  | bwaitDisarm (f : RForm)
  /-- BTEST (R453). -/
  | btest (f : RForm)
  /-- SEQWAIT (R454). -/
  | seqwait (f : RForm)
  /-- PUBLISH (R410). -/
  | publish (f : RForm)
  /-- SREAD (R291). -/
  | sread (f : MForm)
  /-- SREAD_STATUS (R291). -/
  | sreadStatus (f : MForm)
  /-- SWRITE (R292). -/
  | swrite (f : MForm)
  /-- CWAIT (R441). -/
  | cwait (f : RForm)
  /-- RDPTP (R443). -/
  | rdptp (f : RForm)
  /-- RDCYC (R443). -/
  | rdcyc (f : RForm)
  /-- MFS (R170). -/
  | mfs (f : XForm)
  /-- MTS (R170). -/
  | mts (f : XForm)
  /-- SBIND_WRITE (R344). -/
  | sbindWrite (f : RForm)
  /-- SBIND_READ (R344). -/
  | sbindRead (f : RForm)
  /-- SLOTW_WRITE (R354). -/
  | slotwWrite (f : RForm)
  /-- SLOTW_READ (R354). -/
  | slotwRead (f : RForm)
  /-- PTINV (R289). -/
  | ptinv (f : RForm)
  /-- PTINV_ALL (R289). -/
  | ptinvAll (f : RForm)
  /-- MBSEND (R313). -/
  | mbsend (f : RForm)
  /-- MAILBOX_ARRIVE (R315). -/
  | mailboxArrive (core sender : Nat) (msg : List Byte)
  /-- MBRECV (R316). -/
  | mbrecv (f : RForm)
  /-- MBRECV_ARM (R316). -/
  | mbrecvArm (f : RForm)
  /-- MBRECV_DISARM (R316). -/
  | mbrecvDisarm (f : RForm)
  /-- SPILL (R362). -/
  | spill (f : RForm)
  /-- FILL (R363). -/
  | fill (f : RForm)
  /-- TRAP_ENTRY (R162). -/
  | trapEntry (k cause : Nat) (info tpc : Word)
  /-- UI_DELIVERY (R167). -/
  | uiDelivery (k : Nat)
  /-- WAIT_LIMIT_EXPIRY (R56). -/
  | waitLimitExpiry (k : Nat)
  /-- THREAD_END (R29). -/
  | threadEnd (k : Nat)
  /-- DISPATCHER_FAULT_REPLY (R302). -/
  | dispatcherFaultReply (part : Nat) (token : Word) (action : Nat)
  /-- DISPATCH_PLACE (R357). -/
  | dispatchPlace (part : Nat)
  /-- RIVAL_PLACE (R380). -/
  | rivalPlace (part : Nat)
  /-- PREEMPT_PARK (R359). -/
  | preemptPark (part : Nat)
  /-- HUSK_SPILL (R359). -/
  | huskSpill (k : Nat)
  /-- HUSK_AUTO_FILL (R364). -/
  | huskAutoFill (part : Nat)
  /-- SPROUT_LOCAL_START (R308). -/
  | sproutLocalStart (core : Nat)
  /-- SPROUT_STEAL (R46). -/
  | sproutSteal (core : Nat)
  /-- TRANSLATION_WALK (R236). -/
  | translationWalk (k : Nat) (va : Word) (kind : Nat)
  /-- FAULT_REPLY (R239). -/
  | faultReply (core : Nat) (token : Word) (action : Nat)
  /-- POST_RETRY (R315). -/
  | postRetry (core : Nat)
  /-- LOAD_VALUE_QUEUE_STUCK (R401). -/
  | loadValueQueueStuck (k : Nat)
  /-- CHAIN_ENTRY_READ (R324). -/
  | chainEntryRead (chain : Nat)
  /-- CHAIN_ENTRY_REREAD (R324). -/
  | chainEntryReread (chain : Nat)
  /-- CHAIN_ENTRY_NOT_READY (R324). -/
  | chainEntryNotReady (chain : Nat)
  /-- ENGINE_CHUNK (R317). -/
  | engineChunk (engine : Nat)
  /-- CHAIN_FAULT_REPLY (R330). -/
  | chainFaultReply (chain : Nat) (token : Word) (action : Nat)
  /-- ENTRY_COMPLETION (R328). -/
  | entryCompletion (chain : Nat)
  /-- FOLLOW_ON_MMA (R333). -/
  | followOnMma (chain : Nat)
  /-- MCAST_GROUP_CLOSE (R332). -/
  | mcastGroupClose (group : Nat)
  /-- CHAIN_START (R319). -/
  | chainStart (chain : Nat)
  /-- CHAIN_STOP (R319). -/
  | chainStop (chain : Nat)
  /-- CHAIN_RESYNC (R319). -/
  | chainResync (chain : Nat)
  /-- EGRESS_CHECK (R435). -/
  | egressCheck (pubcount : Nat)
  /-- JOB_DEADLINE_MISS (R51). -/
  | jobDeadlineMiss (node : Nat)
  /-- PTP_STEP (R469). -/
  | ptpStep (v : Word)
  /-- PTP_ADJUST (R468). -/
  | ptpAdjust (v : Word)
  /-- GATE_LIST_CONTROL_STORE (R417). -/
  | gateListControlStore (port : Nat) (v : Word)
  /-- GATE_LIST_ENTRY (R417). -/
  | gateListEntry (port : Nat)
  /-- FRAME_RECEIVED (R416). -/
  | frameReceived (port : Nat) (frame : List Byte) (ts : Nat)
  /-- TX_FRAME_SEND (R465). -/
  | txFrameSend (port : Nat)
  /-- EGRESS_FRAME_BUILD (R467). -/
  | egressFrameBuild (port entry : Nat)
  /-- LINK_CHANGE (R462). -/
  | linkChange (port : Nat) (up : Bool)
  /-- LANE_LOSS (R470). -/
  | laneLoss (lanes : Nat)
  /-- REPLICATION_SEND (R471). -/
  | replicationSend (entry : Nat)
  /-- REPLICATION_RECORD_RECEIVE (R471). -/
  | replicationRecordReceive (rec : List Byte)
  /-- HEARTBEAT_RECEIVE (R473). -/
  | heartbeatReceive (stamp : Word) (role : Nat) (promo : Word) (rxseq serial : Nat)
  /-- HEARTBEAT_MISSED (R473). -/
  | heartbeatMissed (stamp : Word)
  /-- SLOT_SHED (R368). -/
  | slotShed (core : Nat)
  /-- SHED_CLEAR (R368). -/
  | shedClear (core : Nat)
  /-- THERMAL_RANKING_UPDATE (R366). -/
  | thermalRankingUpdate (temps : List Byte)
  /-- THERMAL_DISPLACEMENT (R369). -/
  | thermalDisplacement (k : Nat)
  /-- CORE_GATE (R370). -/
  | coreGate (core : Nat)
  /-- CORE_WAKE (R370). -/
  | coreWake (core : Nat)
  /-- THERMMODE_WRITE (R367). -/
  | thermmodeWrite (v : Word)
  /-- VIEW_SWEEP (R388). -/
  | viewSweep (part view : Nat)
  /-- VIEW_FOLD (R393). -/
  | viewFold (part view : Nat)
  /-- SHADOW_FRAME_WRITEOUT (R391). -/
  | shadowFrameWriteout (part view line : Nat)
  /-- HELD_MBSEND_RETRY (R394). -/
  | heldMbsendRetry (core : Nat)
  /-- PATROL_SCRUB (R228). -/
  | patrolScrub (sector : Nat)
  /-- DIRTY_LINE_UNOWNED (R229). -/
  | dirtyLineUnowned (core view : Nat) (line : Word)
  /-- TRACE_CONFLICT_LOG (R257). -/
  | traceConflictLog (slice : Nat)
  /-- TRACECTL_WRITE (R255). -/
  | tracectlWrite (v : Word)
  /-- SLAB_HARD_FAULT (R339). -/
  | slabHardFault (half : Nat)
  /-- MACHINE_CHECK (R430). -/
  | machineCheck (cause unit inst : Nat)
  /-- DRAM_CHANNEL_FAILURE (R474). -/
  | dramChannelFailure (channel : Nat)
  /-- WATCHDOG_EXPIRY (R457). -/
  | watchdogExpiry (part : Nat)
  /-- WDOGLIM_WRITE (R457). -/
  | wdoglimWrite (part : Nat) (v : Word)
  /-- PERFSEL_WRITE (R455). -/
  | perfselWrite (part : Nat) (v : Word)
  /-- AUDIT_WRITE (R172). -/
  | auditWrite (part : Nat) (v : Word)
  /-- ERRINJ_WRITE (R431). -/
  | errinjWrite (v : Word)
  /-- EVENT_RING_READ_ADVANCE (R421). -/
  | eventRingReadAdvance (part : Nat) (v : Word)
  /-- SERVICE_THREAD_START (R349). -/
  | serviceThreadStart (part : Nat)
  /-- CONTROL_SPACE_STORE (R234). -/
  | controlSpaceStore (addr : Nat) (v : Word)
  /-- ATTESTATION_REQUEST (R477). -/
  | attestationRequest (v : Word)
  /-- SCOREBOARD_RESULT_ARRIVAL (R35). -/
  | scoreboardResultArrival (k id : Nat)
  /-- REPLICATION_ACK (R471). -/
  | replicationAck (ack : Nat) (missing : Option Nat)
  /-- BOUNDARY_TICK (R435). -/
  | boundaryTick
  /-- SCAN_RELEASE (R441). -/
  | scanRelease
  /-- CYCLE_DOMAIN_START (R433). -/
  | cycleDomainStart
  /-- CYCLE_DOMAIN_STOP (R433). -/
  | cycleDomainStop
  /-- PTP_DISCIPLINE_LOST (R434). -/
  | ptpDisciplineLost
  /-- PTP_DISCIPLINE_RESTORED (R434). -/
  | ptpDisciplineRestored
  /-- BOOT (R475). -/
  | boot
  /-- ATTESTATION_DONE (R477). -/
  | attestationDone
  /-- THERMAL_TRIP (R479). -/
  | thermalTrip
  /-- ERRLOG_CLEAR (R428). -/
  | errlogClear
  deriving DecidableEq, Repr

end Sys2Proof
end

