-- ==== Sys2Proof/Machine/Encoding.lean ====
section
/-! DEFINITION. How each instruction sits in its words: the major opcode (03 R87), the 22 operand bits of word 0 by format
(03 R62), what each field names, and which forms 03 R63, R66, R68 and R71 allow. The decoder, the encoder and
well-formedness all read this one table. -/

namespace Sys2Proof.Machine

/-- What a 7-bit field names (03 R72): a general register, a tile, nothing (it must be zero), or a number that is not a
register (an immediate, a conversion code, a segment number). -/
inductive Use where
  | g | t | z | n
  deriving DecidableEq, Repr

/-- MOD, 0 without an extended word (03 R68). -/
def tailMod : Tail → Nat
  | .none => 0
  | .lit _ => 0
  | .ext e => e.mod.toNat
  | .extLit e _ => e.mod.toNat

/-- The extended word's operands, if there is one. -/
def tailExt : Tail → Option Ext
  | .none => none
  | .lit _ => none
  | .ext e => some e
  | .extLit e _ => some e

/-- The literal, if there is one. -/
def tailLit : Tail → Option Word
  | .none => none
  | .lit v => some v
  | .ext _ => none
  | .extLit _ v => some v

/-- LEN (03 R59). -/
def tailLen : Tail → BitVec 2
  | .none => 0
  | .lit _ => 1
  | .ext _ => 2
  | .extLit _ _ => 3

/-- The words of an instruction (03 R59). -/
def tailWords : Tail → Nat
  | .none => 1
  | .lit _ => 3
  | .ext _ => 3
  | .extLit _ _ => 5

def tailHasLit (t : Tail) : Bool := (tailLit t).isSome
def tailHasExt (t : Tail) : Bool := (tailExt t).isSome
/-- C, 0 without an extended word. -/
def tailC (t : Tail) : BitVec 7 := ((tailExt t).map (fun e => e.c)).getD 0
/-- IMM16, 0 without an extended word. -/
def tailImm (t : Tail) : BitVec 16 := ((tailExt t).map (fun e => e.imm)).getD 0
/-- PE and PT, 0 without a hint word. -/
def tailPe (t : Tail) : Bool := ((tailExt t).map (fun e => e.pe)).getD false
def tailPt (t : Tail) : BitVec 5 := ((tailExt t).map (fun e => e.pt)).getD 0

/-- One instruction as its words hold it: the opcode, bits [31:10] of word 0, the tail, what each 7-bit field names,
whether Q = 1, a literal and a nonzero IMM16 are forms its entry has, the one-word immediate field that an extended word
or literal replaces (lowest bit and width in word 0; 03 R66), whether its MOD is defined, whether a mask is accepted
(03 R71), and places of other refused values (03 R63, R68). -/
structure Enc where
  op   : BitVec 8
  body : BitVec 22
  tail : Tail
  f10  : Use
  f17  : Use
  f24  : Use
  fc   : Use
  q    : Bool
  lit  : Bool
  imm  : Bool
  one  : Option (Nat × Nat)
  mods : Bool
  mask : Bool
  bad  : List (Nat × Nat)
  deriving DecidableEq, Repr

/-! Formats (03 R62). -/

def rBody (f : RForm) : BitVec 22 := BitVec.ofBool f.q ++ f.b ++ f.a ++ f.d
def mBody (f : MForm) : BitVec 22 := BitVec.ofBool f.q ++ f.disp ++ f.a ++ f.d
def bBody (f : BForm) : BitVec 22 := f.off ++ f.b ++ f.a
def lBody (f : LForm) : BitVec 22 := f.imm ++ f.d
def xBody (f : XForm) : BitVec 22 := f.index ++ f.a ++ f.d

def rForm (x : BitVec 22) (t : Tail) : RForm :=
  ⟨x.extractLsb' 0 7, x.extractLsb' 7 7, x.extractLsb' 14 7, x.getLsbD 21, t⟩
def mForm (x : BitVec 22) (t : Tail) : MForm :=
  ⟨x.extractLsb' 0 7, x.extractLsb' 7 7, x.extractLsb' 14 7, x.getLsbD 21, t⟩
def bForm (x : BitVec 22) (t : Tail) : BForm := ⟨x.extractLsb' 0 7, x.extractLsb' 7 7, x.extractLsb' 14 8, t⟩
def jForm (x : BitVec 22) (t : Tail) : JForm := ⟨x, t⟩
def lForm (x : BitVec 22) (t : Tail) : LForm := ⟨x.extractLsb' 0 7, x.extractLsb' 7 15, t⟩
def zForm (x : BitVec 22) (t : Tail) : ZForm := ⟨x, t⟩
def xForm (x : BitVec 22) (t : Tail) : XForm := ⟨x.extractLsb' 0 7, x.extractLsb' 7 7, x.extractLsb' 14 8, t⟩

/-! Which MOD values an entry defines (03 R68). -/

def m0 (t : Tail) : Bool := tailMod t == 0
def m01 (t : Tail) : Bool := tailMod t < 2
def mLt (n : Nat) (t : Tail) : Bool := tailMod t < n
def mIs (n : Nat) (t : Tail) : Bool := tailMod t == n
/-- fcvt and vcvt: 0, or 4 + the rounding mode (06 R150, 08 R193). -/
def mCvt (t : Tail) : Bool := tailMod t == 0 || (4 ≤ tailMod t && tailMod t < 8)
/-- The atomics: OP in [1:0], SZ in [5:4] (12 R278). -/
def mAmo (ops szs : Nat) (t : Tail) : Bool := tailMod t % 16 < ops && tailMod t / 16 < szs

/-- A refused value's place: word number and lowest bit of the field. -/
def badIf (c : Bool) (word bit : Nat) : List (Nat × Nat) := if c then [(word, bit)] else []

/-- A field that names a source register is zero when a literal replaces it (03 R66). -/
def litZ (t : Tail) (u : Use) : Use := if tailHasLit t then .z else u

def rEnc (op : BitVec 8) (f : RForm) (d a b c : Use) (q lit imm mods mask : Bool) (bad : List (Nat × Nat)) : Enc :=
  ⟨op, rBody f, f.t, d, a, b, c, q, lit, imm, none, mods, mask, bad⟩

/-- The integer ALU opcodes (03 R63, 06 R131); sh: a shift, whose immediate amount is below 64. -/
def aluEnc (op : BitVec 8) (f : RForm) (mods sh : Bool) : Enc :=
  ⟨op, rBody f, f.t, .g, .g, if f.q then .n else litZ f.t .g, .z, true, true, f.q,
    if f.q then some (24, 7) else none, mods, false,
    badIf (tailHasLit f.t && f.q) 0 31 ++
    badIf (sh && f.q && !tailHasLit f.t && !tailHasExt f.t && decide (64 ≤ f.b.toNat)) 0 24 ++
    badIf (sh && f.q && !tailHasLit f.t && tailHasExt f.t && decide (64 ≤ (tailImm f.t).toNat)) 1 16⟩

/-- The elementwise opcodes whose B is a tile, or a scalar when Q = 1 (08 R177). -/
def vecEnc (op : BitVec 8) (f : RForm) (c : Use) (mods : Bool) : Enc :=
  ⟨op, rBody f, f.t, .t, .t, if f.q then litZ f.t .g else .t, c, true, true, f.q && f.b == 0, none, mods, true,
    badIf (tailHasLit f.t && !f.q) 0 31⟩

def mEnc (op : BitVec 8) (f : MForm) (d a c : Use) (q lit imm mods : Bool) (bad : List (Nat × Nat)) : Enc :=
  ⟨op, mBody f, f.t, d, a, .n, c, q, lit, imm, if imm then some (24, 7) else none, mods, false, bad⟩

def bEnc (op : BitVec 8) (f : BForm) (mods : Bool) : Enc :=
  ⟨op, bBody f, f.t, .g, .g, .n, .z, true, true, true, some (24, 8), mods, false, []⟩

def jEnc (op : BitVec 8) (f : JForm) : Enc :=
  ⟨op, f.off, f.t, .n, .n, .n, .z, true, true, true, some (10, 22), m0 f.t, false, []⟩

def lEnc (f : LForm) : Enc :=
  ⟨0x1A, lBody f, f.t, .g, .n, .n, .z, true, true, true, some (17, 15), m0 f.t, false, []⟩

/-- Format Z; in nop the operand bits are hint bits (03 R65). -/
def zEnc (op : BitVec 8) (f : ZForm) (hint : Bool) : Enc :=
  ⟨op, f.hint, f.t, if hint then .n else .z, if hint then .n else .z, if hint then .n else .z, .z, hint, false, false,
    none, m0 f.t, false, []⟩

def xEnc (op : BitVec 8) (f : XForm) (d a : Use) : Enc :=
  ⟨op, xBody f, f.t, d, a, .n, .z, true, false, false, none, m0 f.t, false, []⟩

/-- The words of each instruction, by the field tables of its chapter. A step or event without an encoding has none, and
a row that is one of two forms of an opcode has none where its operands select the other form. The 0x07 that sgset, fence and fadda.o
give in their entries, and a zero C of sread with Q = 1, are taken with the form and field checks of 03 R73 (Log 101). -/
def enc : Instr → Option Enc
  | .add f => some (aluEnc 0x01 f (m0 f.t) false)
  | .sub f => some (aluEnc 0x02 f (m0 f.t) false)
  | .mul f => some (rEnc 0x03 f .g .g (litZ f.t .g) .z false true false (m0 f.t) false [])
  | .mulh f => some (rEnc 0x04 f .g .g (litZ f.t .g) .z false true false (mLt 3 f.t) false [])
  | .div f => some (rEnc 0x05 f .g .g (litZ f.t .g) .z false true false (m01 f.t) false [])
  | .rem f => some (rEnc 0x06 f .g .g (litZ f.t .g) .z false true false (m01 f.t) false [])
  | .and f => some (aluEnc 0x07 f (m0 f.t) false)
  | .or f => some (aluEnc 0x08 f (m0 f.t) false)
  | .xor f => some (aluEnc 0x09 f (m0 f.t) false)
  | .shl f => some (aluEnc 0x0A f (m0 f.t) true)
  | .shr f => some (aluEnc 0x0B f (m0 f.t) true)
  | .sar f => some (aluEnc 0x0C f (m0 f.t) true)
  | .min f => some (aluEnc 0x10 f (m01 f.t) false)
  | .max f => some (aluEnc 0x11 f (m01 f.t) false)
  | .slt f => some (aluEnc 0x12 f (m01 f.t) false)
  | .sel f => some (rEnc 0x13 f .g .g (litZ f.t .g) .z false true false (m0 f.t) false [])
  | .addsat f => some (aluEnc 0x14 f (m01 f.t) false)
  | .subsat f => some (aluEnc 0x15 f (m01 f.t) false)
  | .clz f => some (rEnc 0x16 f .g .g .z .z false false false (m0 f.t) false [])
  | .bext f => some (rEnc 0x17 f .g .g (litZ f.t .g) .z true true (f.b == 0) (m0 f.t) false [])
  | .bins f => some (rEnc 0x18 f .g .g (litZ f.t .g) .z false true (f.b == 0) (m0 f.t) false [])
  | .lea f => some (rEnc 0x19 f .g .g (litZ f.t .g) .z false true true (mLt 4 f.t) false [])
  | .li f => some (lEnc f)
  | .fadd f => some (rEnc 0x20 f .g .g (litZ f.t .g) .z true true false (m0 f.t) false [])
  | .fsub f => some (rEnc 0x21 f .g .g (litZ f.t .g) .z true true false (m0 f.t) false [])
  | .fmul f => some (rEnc 0x22 f .g .g (litZ f.t .g) .z true true false (m0 f.t) false [])
  | .ffma f => some (rEnc 0x23 f .g .g (litZ f.t .g) .z true true false (m0 f.t) false [])
  | .fdiv f => some (rEnc 0x24 f .g .g (litZ f.t .g) .z true true false (m0 f.t) false [])
  | .fsqrt f => some (rEnc 0x25 f .g .g .z .z true false false (m0 f.t) false [])
  | .fmin f => some (rEnc 0x26 f .g .g (litZ f.t .g) .z true true false (m0 f.t) false [])
  | .fmax f => some (rEnc 0x27 f .g .g (litZ f.t .g) .z true true false (m0 f.t) false [])
  | .flt f => some (rEnc 0x28 f .g .g (litZ f.t .g) .z true true false (mLt 4 f.t) false [])
  | .fcvt f => some (rEnc 0x29 f .g .g .n .z false false false (mCvt f.t) false (badIf (17 < f.b.toNat) 0 24))
  | .beq f => some (bEnc 0x30 f (m0 f.t))
  | .bne f => some (bEnc 0x31 f (m0 f.t))
  | .blt f => some (bEnc 0x32 f (m01 f.t))
  | .bge f => some (bEnc 0x33 f (m01 f.t))
  | .jmp f => some (jEnc 0x34 f)
  | .jal f => some (jEnc 0x35 f)
  | .jr f => some (rEnc 0x36 f .z .g .z .z false false false (m0 f.t) false [])
  | .jrLink f => if f.q then some (rEnc 0x36 f .g .g .z .z true false false (m0 f.t) false []) else none
  | .loop f => some (mEnc 0x37 f .z .g .z false true true (m0 f.t) [])
  | .nop f => some (zEnc 0x38 f true)
  | .tend f => some (zEnc 0x39 f false)
  | .trap f => some (mEnc 0x3A f .z .z .z false true true (m0 f.t) [])
  | .brk f => if f.q then some (mEnc 0x3A f .z .z .z true true true (m0 f.t) []) else none
  | .eret f => some (zEnc 0x3B f false)
  | .uiret f => some (zEnc 0x3C f false)
  | .ld8 f => some (mEnc 0x40 f .g .g .z true true true (m0 f.t) [])
  | .ld16 f => some (mEnc 0x41 f .g .g .z true true true (m0 f.t) [])
  | .ld32 f => some (mEnc 0x42 f .g .g .z true true true (m0 f.t) [])
  | .ld64 f => some (mEnc 0x43 f .g .g .z false true true (m0 f.t) [])
  | .st8 f => some (mEnc 0x44 f .g .g .z false true true (m0 f.t) [])
  | .st16 f => some (mEnc 0x45 f .g .g .z false true true (m0 f.t) [])
  | .st32 f => some (mEnc 0x46 f .g .g .z false true true (m0 f.t) [])
  | .st64 f => some (mEnc 0x47 f .g .g .z false true true (m0 f.t) [])
  | .ldacq f => some (mEnc 0x48 f .g .g .z false true true (mLt 5 f.t) [])
  | .strel f => some (mEnc 0x49 f .g .g .z false true true (mLt 5 f.t) [])
  | .ldfe f => some (mEnc 0x4A f .g .g .z false false true (m0 f.t) [])
  | .stfe f => some (mEnc 0x4B f .g .g .z false false true (m0 f.t) [])
  | .fechk f => some (mEnc 0x4C f .g .g .g false false true (m0 f.t) [])
  | .fence f => some (mEnc 0x4D f .z .z .z false false false (m0 f.t) (badIf (4 < f.disp.toNat) 0 24))
  | .cachectl f => some (rEnc 0x4E f .z .g (litZ f.t .g) .z false true false (mLt 4 f.t) false [])
  | .amoadd f => some (rEnc 0x50 f .g .g (litZ f.t .g) .z false true true (mAmo 1 2 f.t) false [])
  | .amobit f => some (rEnc 0x51 f .g .g (litZ f.t .g) .z false true true (mAmo 3 2 f.t) false [])
  | .amomin f => some (rEnc 0x52 f .g .g (litZ f.t .g) .z false true true (mAmo 2 2 f.t) false [])
  | .amomax f => some (rEnc 0x53 f .g .g (litZ f.t .g) .z false true true (mAmo 2 2 f.t) false [])
  | .amoswap f => some (rEnc 0x54 f .g .g (litZ f.t .g) .z false true true (mAmo 1 2 f.t) false [])
  | .cas f => some (rEnc 0x55 f .g .g (litZ f.t .g) .z false true true (mAmo 1 2 f.t) false [])
  | .faddaU f => some (rEnc 0x56 f .g .g (litZ f.t .g) .z false true true (mAmo 1 4 f.t) false [])
  | .faddaO f => if f.q then some (rEnc 0x56 f .g .g (litZ f.t .g) .z true true true (mAmo 1 4 f.t) false (badIf (f.d != 0) 0 10)) else none
  | .fmaxa f => some (rEnc 0x57 f .g .g (litZ f.t .g) .z false true true (mAmo 2 4 f.t) false [])
  | .acq f => some (rEnc 0x58 f .z .g .z .z false false true (m0 f.t) false [])
  | .acqSh f => if f.q then some (rEnc 0x58 f .z .g .z .z true false true (m0 f.t) false []) else none
  | .acqGrant _ _ => none
  | .rel f => some (rEnc 0x59 f .z .g .z .z false false true (m0 f.t) false [])
  | .bmove f => some (rEnc 0x5A f .g .g .g .z false false false (m0 f.t) false [])
  | .bfill f => some (rEnc 0x5B f .g .g .g .z false false false (m0 f.t) false [])
  | .tcfgWrite f => some (rEnc 0x60 f .t .z (litZ f.t .g) .z false true (f.b == 0) (m0 f.t) false [])
  | .tcfgRead f => if f.q then some (rEnc 0x60 f .g .t .z .z true false false (m0 f.t) false (badIf (tailHasLit f.t) 0 31)) else none
  | .tld f => some (rEnc 0x61 f .t .g (litZ f.t .g) .z false true true (m0 f.t) true [])
  | .tst f => some (rEnc 0x62 f .t .g (litZ f.t .g) .z false true true (m0 f.t) true [])
  | .tgather f => some (rEnc 0x63 f .t .g .t .z false false true (m0 f.t) true [])
  | .tscatter f => some (rEnc 0x64 f .t .g .t .z false false true (m0 f.t) true [])
  | .tscaddU f => some (rEnc 0x65 f .t .g .t .z false false true (m0 f.t) true [])
  | .tscaddO f => if f.q then some (rEnc 0x65 f .t .g .t .z true false true (m0 f.t) true []) else none
  | .tmovr f => some (rEnc 0x66 f .t .g (litZ f.t .g) .z false true (f.b == 0) (m0 f.t) true [])
  | .tmovs f => some (rEnc 0x67 f .g .t (litZ f.t .g) .z true true (f.b == 0) (m0 f.t) true [])
  | .tbcast f => some (rEnc 0x68 f .t .z (litZ f.t .g) .z false true (f.b == 0) (m0 f.t) true [])
  | .vadd f => some (vecEnc 0x70 f .z (m01 f.t))
  | .vsub f => some (vecEnc 0x71 f .z (m01 f.t))
  | .vmul f => some (vecEnc 0x72 f .z (m01 f.t))
  | .vfma f => some (vecEnc 0x73 f .z (m0 f.t))
  | .vmin f => some (vecEnc 0x74 f .z (m0 f.t))
  | .vmax f => some (vecEnc 0x75 f .z (m0 f.t))
  | .vlog f => some (vecEnc 0x76 f .z (mLt 4 f.t))
  | .vshr f => some (rEnc 0x77 f .t .t (litZ f.t .g) .z true true (f.b == 0) (m0 f.t) true [])
  | .vcmp f => some (vecEnc 0x78 f .z (mLt 5 f.t))
  | .vsel f => some (vecEnc 0x79 f .t (m0 f.t))
  | .vcvt f => some (rEnc 0x7A f .t .t .z .z false false false (mCvt f.t) true [])
  | .vrecip f => some (rEnc 0x7B f .t .t .z .z false false false (m0 f.t) true [])
  | .vrsqrt f => some (rEnc 0x80 f .t .t .z .z false false false (m0 f.t) true [])
  | .vexp2 f => some (rEnc 0x81 f .t .t .z .z false false false (m0 f.t) true [])
  | .vred f => some (rEnc 0x82 f .t .t .z .z true false false (mLt 3 f.t) true [])
  | .vargmax f => some (rEnc 0x83 f .t .t .z .z false false false (m0 f.t) true [])
  | .vquant f => some (rEnc 0x84 f .t .t (if f.q then litZ f.t .g else .z) .z true true false (m0 f.t) true (badIf (tailHasLit f.t && !f.q) 0 31))
  | .vdeq f => some (rEnc 0x85 f .t .t .z .z false false false (m0 f.t) true [])
  | .bqadd f => some (rEnc 0x86 f .t .t .t .z false false false (m0 f.t) true [])
  | .mma f => some (rEnc 0x87 f .t .t .t .z false false false (mLt 16 f.t) false [])
  | .mmasp f => some (rEnc 0x88 f .t .t .t .z false false false (mLt 16 f.t) false [])
  | .matrixEntryStart _ => none
  | .matrixKstepBoundary _ => none
  | .matrixEntryComplete _ => none
  | .tlook f => some (rEnc 0x90 f .g .g .z .z false false false (m0 f.t) false [])
  | .tset f => some (rEnc 0x91 f .g .g .g .z false false false (m0 f.t) false [])
  | .tsetInvalidate f => if f.q then some (rEnc 0x91 f .g .z .g .z true false false (m0 f.t) false []) else none
  | .bfmt f => some (rEnc 0x92 f .g .g (litZ f.t .g) .z false true false (m0 f.t) false [])
  | .bfmtRead f => if f.q then some (rEnc 0x92 f .g .g .z .z true true false (m0 f.t) false []) else none
  | .sgset f => some (rEnc 0x93 f .n .g .g .z false false false (mLt 9 f.t) false (badIf (7 < f.d.toNat) 0 10))
  | .probe f => some (rEnc 0x94 f .g .g (if tailMod f.t == 2 then litZ f.t .g else .z) .z false true false (mLt 4 f.t) false [])
  | .spawn f => some (rEnc 0xA0 f .g .g .z .z false false false (m0 f.t) false [])
  | .take f => some (rEnc 0xA1 f .g .g .z .z false false false (m0 f.t) false [])
  | .gjoin f => some (rEnc 0xA2 f .z .g .z .z false false false (m0 f.t) false [])
  | .gleave f => some (rEnc 0xA3 f .z .g .z .z false false false (m0 f.t) false [])
  | .gbar f => some (rEnc 0xA4 f .g .g .z .z false false false (m0 f.t) false [])
  | .tcadd f => some (rEnc 0xA5 f .g .g (litZ f.t .g) .z false true false (m0 f.t) false [])
  | .tcwait f => some (rEnc 0xA6 f .g .g (litZ f.t .g) .z false true false (m0 f.t) false [])
  | .tcwaitArm f => if mIs 1 f.t then some (rEnc 0xA6 f .g .g (litZ f.t .g) .z false true false (mIs 1 f.t) false []) else none
  | .tcwaitDisarm f => if mIs 2 f.t then some (rEnc 0xA6 f .g .g .z .z false true false (mIs 2 f.t) false []) else none
  | .tcset f => some (rEnc 0xA7 f .g .g (litZ f.t .g) .z false true false (m0 f.t) false [])
  | .csend f => some (rEnc 0xA8 f .z .g (litZ f.t .g) .z false true false (m0 f.t) false [])
  | .channelWordArrive _ _ => none
  | .crecv f => some (rEnc 0xA9 f .g .g .z .z false false false (m0 f.t) false [])
  | .channelCreditReturn _ _ => none
  | .cpoll f => some (rEnc 0xAA f .g .g .z .z false false false (m0 f.t) false [])
  | .launch f => some (rEnc 0xAB f .g .g .z .z false false false (m0 f.t) false [])
  | .fork f => some (rEnc 0xB0 f .g .g .g .z false false false (m0 f.t) false [])
  | .choose f => some (rEnc 0xB1 f .g .g (litZ f.t .g) .z false true false (m0 f.t) false [])
  | .chooseMin f => if f.q then some (rEnc 0xB1 f .g .g .z .z true false false (m0 f.t) false (badIf (tailHasLit f.t) 0 31)) else none
  | .wend f => some (rEnc 0xB2 f .z .g .z .z false false false (m0 f.t) false [])
  | .wjoin f => some (rEnc 0xB3 f .g .g .z .z false false false (m0 f.t) false [])
  | .kick f => some (rEnc 0xC0 f .z .g (litZ f.t .g) .z false true false (m0 f.t) false [])
  | .kickApply _ _ _ _ => none
  | .binit f => some (rEnc 0xC1 f .g .g (litZ f.t .g) .z false true false (m0 f.t) false [])
  | .bwait f => some (rEnc 0xC2 f .g .g .g .z false false false (m0 f.t) false [])
  | .bwaitArm f => if mIs 1 f.t then some (rEnc 0xC2 f .g .g .g .z false false false (mIs 1 f.t) false []) else none
  | .bwaitDisarm f => if mIs 2 f.t then some (rEnc 0xC2 f .g .g .z .z false false false (mIs 2 f.t) false []) else none
  | .btest f => some (rEnc 0xC3 f .g .g .z .z false false false (m0 f.t) false [])
  | .seqwait f => some (rEnc 0xC4 f .g .g (litZ f.t .g) .z false true false (m0 f.t) false [])
  | .publish f => some (rEnc 0xC5 f .g .g .z .z false false false (m0 f.t) false [])
  | .sread f => if f.q then some (mEnc 0xD0 f .g .g .z true false true (m0 f.t) []) else none
  | .sreadStatus f => some (mEnc 0xD0 f .g .g .g false false true (m0 f.t) [])
  | .swrite f => some (mEnc 0xD1 f .g .g .z false false true (m0 f.t) [])
  | .cwait f => some (rEnc 0xD2 f .g .z .z .z false false false (m0 f.t) false [])
  | .rdptp f => some (rEnc 0xD3 f .g .z .z .z false false false (m0 f.t) false [])
  | .rdcyc f => some (rEnc 0xD4 f .g .z .z .z false false false (mLt 3 f.t) false [])
  | .mfs f => some (xEnc 0xE0 f .g .z)
  | .mts f => some (xEnc 0xE1 f .z .g)
  | .sbindWrite f => some (rEnc 0xE2 f .g .g (litZ f.t .g) .z false true false (m0 f.t) false [])
  | .sbindRead f => if f.q then some (rEnc 0xE2 f .g .g .z .z true false false (m0 f.t) false (badIf (tailHasLit f.t) 0 31)) else none
  | .slotwWrite f => some (rEnc 0xE3 f .g .g (litZ f.t .g) .z false true false (m0 f.t) false [])
  | .slotwRead f => if f.q then some (rEnc 0xE3 f .g .g .z .z true false false (m0 f.t) false (badIf (tailHasLit f.t) 0 31)) else none
  | .ptinv f => some (rEnc 0xE4 f .z .g .z .z false false false (m0 f.t) false [])
  | .ptinvAll f => if mIs 1 f.t then some (rEnc 0xE4 f .z .z .z .z false false false (mIs 1 f.t) false []) else none
  | .mbsend f => some (rEnc 0xE5 f .z .g .g .z false false false (m0 f.t) false [])
  | .mailboxArrive _ _ _ => none
  | .mbrecv f => some (rEnc 0xE6 f .g .g .z .z false false false (m0 f.t) false [])
  | .mbrecvArm f => if mIs 1 f.t then some (rEnc 0xE6 f .g .z .z .z false false false (mIs 1 f.t) false []) else none
  | .mbrecvDisarm f => if mIs 2 f.t then some (rEnc 0xE6 f .g .z .z .z false false false (mIs 2 f.t) false []) else none
  | .spill f => some (rEnc 0xE7 f .g .g .z .z false false false (m0 f.t) false [])
  | .fill f => some (rEnc 0xE8 f .g .g (litZ f.t .g) .z false true false (m0 f.t) false [])
  | .trapEntry _ _ _ _ => none
  | .uiDelivery _ => none
  | .waitLimitExpiry _ => none
  | .threadEnd _ => none
  | .dispatcherFaultReply _ _ _ => none
  | .dispatchPlace _ => none
  | .rivalPlace _ => none
  | .preemptPark _ => none
  | .huskSpill _ => none
  | .huskAutoFill _ => none
  | .sproutLocalStart _ => none
  | .sproutSteal _ => none
  | .translationWalk _ _ _ => none
  | .faultReply _ _ _ => none
  | .postRetry _ => none
  | .loadValueQueueStuck _ => none
  | .chainEntryRead _ => none
  | .chainEntryReread _ => none
  | .chainEntryNotReady _ => none
  | .engineChunk _ => none
  | .chainFaultReply _ _ _ => none
  | .entryCompletion _ => none
  | .followOnMma _ => none
  | .mcastGroupClose _ => none
  | .chainStart _ => none
  | .chainStop _ => none
  | .chainResync _ => none
  | .boundaryTick => none
  | .scanRelease => none
  | .egressCheck _ => none
  | .jobDeadlineMiss _ => none
  | .cycleDomainStart => none
  | .cycleDomainStop => none
  | .ptpDisciplineLost => none
  | .ptpDisciplineRestored => none
  | .ptpStep _ => none
  | .ptpAdjust _ => none
  | .gateListControlStore _ _ => none
  | .gateListEntry _ => none
  | .frameReceived _ _ _ => none
  | .txFrameSend _ => none
  | .egressFrameBuild _ _ => none
  | .linkChange _ _ => none
  | .laneLoss _ => none
  | .replicationSend _ => none
  | .replicationRecordReceive _ => none
  | .heartbeatReceive _ _ _ _ _ => none
  | .heartbeatMissed _ => none
  | .slotShed _ => none
  | .shedClear _ => none
  | .thermalRankingUpdate _ => none
  | .thermalDisplacement _ => none
  | .coreGate _ => none
  | .coreWake _ => none
  | .thermalTrip => none
  | .thermmodeWrite _ => none
  | .viewSweep _ _ => none
  | .viewFold _ _ => none
  | .shadowFrameWriteout _ _ _ => none
  | .heldMbsendRetry _ => none
  | .patrolScrub _ => none
  | .dirtyLineUnowned _ _ _ => none
  | .traceConflictLog _ => none
  | .tracectlWrite _ => none
  | .slabHardFault _ => none
  | .machineCheck _ _ _ => none
  | .dramChannelFailure _ => none
  | .watchdogExpiry _ => none
  | .wdoglimWrite _ _ => none
  | .perfselWrite _ _ => none
  | .auditWrite _ _ => none
  | .errinjWrite _ => none
  | .errlogClear => none
  | .eventRingReadAdvance _ _ => none
  | .serviceThreadStart _ => none
  | .controlSpaceStore _ _ => none
  | .boot => none
  | .attestationRequest _ => none
  | .attestationDone => none
  | .scoreboardResultArrival _ _ => none
  | .replicationAck _ _ => none

/-! Places that 03 R73 steps 5 and 6 refuse: word number and lowest offending bit. -/

/-- The lowest set bit of v among the first n. -/
def lowBit (v : Nat) : Nat → Nat
  | 0 => 0
  | n + 1 => if v % 2 = 1 then 0 else lowBit (v / 2) n + 1

/-- A field of word `word` at bit `lo` that must be zero. -/
def mbz (word lo : Nat) (v : Nat) : List (Nat × Nat) := if v = 0 then [] else [(word, lo + lowBit v 32)]

/-- The fields of MOD that an opcode's entry defines, as lowest bit, width and number of defined values: the code of fcvt and
vcvt is RM with the bit that enables it (06 R150, 08 R193), that of the atomics OP and SZ (12 R278), every other one field. -/
def modFields (op : Nat) : List (Nat × Nat × Nat) :=
  if op == 0x29 || op == 0x7A then [(0, 2, 4), (2, 1, 2)]
  else if op == 0x51 then [(0, 2, 3), (4, 2, 2)]
  else if op == 0x52 || op == 0x53 then [(0, 1, 2), (4, 2, 2)]
  else if op == 0x57 then [(0, 1, 2), (4, 2, 4)]
  else if op == 0x56 then [(4, 2, 4)]
  else if 0x50 ≤ op && op ≤ 0x55 then [(4, 2, 2)]
  else if op == 0x04 || op == 0x82 || op == 0xA6 || op == 0xC2 || op == 0xD4 || op == 0xE6 then [(0, 2, 3)]
  else if op == 0x05 || op == 0x06 || (0x10 ≤ op && op ≤ 0x15 && op != 0x13) || op == 0x32 || op == 0x33 ||
    (0x70 ≤ op && op ≤ 0x72) || op == 0xE4 then [(0, 1, 2)]
  else if op == 0x19 || op == 0x28 || op == 0x4E || op == 0x76 || op == 0x94 then [(0, 2, 4)]
  else if op == 0x48 || op == 0x49 || op == 0x78 then [(0, 3, 5)]
  else if op == 0x87 || op == 0x88 then [(0, 4, 16)]
  else if op == 0x93 then [(0, 4, 9)]
  else []

/-- The lowest offending bit of a refused MOD (03 R68, R73): the lowest set bit outside the entry's fields, or the lowest bit
of a field that holds an undefined value (Log 14). -/
def modBit (op m : Nat) : Nat :=
  let used := modFields op
  let outside := (List.range 8).find? (fun b => m / 2 ^ b % 2 == 1 && !(used.any (fun f => f.1 ≤ b && b < f.1 + f.2.1)))
  let field := (used.find? (fun f => decide (f.2.2 ≤ m / 2 ^ f.1 % 2 ^ f.2.1))).map (fun f => f.1)
  match outside, field with
  | some a, some b => min a b
  | some a, none => a
  | none, some b => b
  | none, none => 0

/-- Step 5: a form that 03 R63, R66, R68 or R71 does not allow. -/
def formFaults (e : Enc) : List (Nat × Nat) :=
  badIf (tailHasLit e.tail && !e.lit) 0 0 ++ e.bad ++ badIf (!e.mods) 1 (modBit e.op.toNat (tailMod e.tail)) ++ badIf (tailPe e.tail && !e.mask) 2 21

/-- Bits [lo + w - 1 : lo] of word 0, from its operand bits. -/
def bodyBits (e : Enc) (lo w : Nat) : Nat := e.body.toNat / 2 ^ (lo - 10) % 2 ^ w

/-- Step 6: must-be-zero bits and fields other than MOD. -/
def zeroFaults (e : Enc) : List (Nat × Nat) :=
  (if e.f10 = .z then mbz 0 10 (bodyBits e 10 7) else []) ++
  (if e.f17 = .z then mbz 0 17 (bodyBits e 17 7) else []) ++
  (match e.one with
    | some (lo, w) => if tailHasExt e.tail || tailHasLit e.tail then mbz 0 lo (bodyBits e lo w) else []
    | none => []) ++
  (if e.f24 = .z then mbz 0 24 (bodyBits e 24 7) else []) ++
  (if e.q then [] else mbz 0 31 (bodyBits e 31 1)) ++
  (if e.fc = .z then mbz 1 8 (tailC e.tail).toNat else []) ++
  (if e.imm && !tailHasLit e.tail then [] else mbz 1 16 (tailImm e.tail).toNat) ++
  (if tailPe e.tail then [] else mbz 2 16 (tailPt e.tail).toNat)

/-- The first of the places by word and then by bit. -/
def leastFault : List (Nat × Nat) → Option (Nat × Nat)
  | [] => none
  | p :: ps =>
    match leastFault ps with
    | none => some p
    | some r => if p.1 < r.1 ∨ (p.1 = r.1 ∧ p.2 ≤ r.2) then some p else some r

/-- Every form and must-be-zero rule holds of the words that encode this instruction. -/
def encodable (i : Instr) : Bool :=
  match enc i with
  | none => false
  | some e => (formFaults e).isEmpty && (zeroFaults e).isEmpty

/-- The privileged opcodes (03 R74). -/
def privilegedOp (op : BitVec 8) : Bool := op == 0xA7 || op == 0xE2 || op == 0xE3 || op == 0xE7 || op == 0xE8

/-- The opcodes the host profile lacks (03 R75). -/
def hostLacks (op : BitVec 8) : Bool :=
  let n := op.toNat
  (0x60 ≤ n && n ≤ 0x68) || (0x70 ≤ n && n ≤ 0x7B) || (0x80 ≤ n && n ≤ 0x88) || (0x90 ≤ n && n ≤ 0x92) ||
  (0xB0 ≤ n && n ≤ 0xB3) || (0xD0 ≤ n && n ≤ 0xD2)

end Sys2Proof.Machine
end

