-- ==== Sys2Proof/WellFormed.lean ====
section
/-! DEFINITION. Well-formedness: an instruction term whose words the device accepts at steps 5 and 6 of 03 R73. -/

namespace Sys2Proof

/-- The instruction has an encoding, its form is one that 03 R63, R66, R68 and R71 allow, and every must-be-zero field of
03 R59 to R71 is zero. The fields a term has no operand for (extended word [15], HM, hint word [31:22]) are zero by
construction. A step or event without an encoding is not an instruction word and is not well formed. -/
def WellFormed (i : Instr) : Bool := Machine.encodable i

end Sys2Proof
end

