-- ==== Sys2Proof/Decode.lean ====
section
/-! DEFINITION. The decoder, total on any words, which rejects by the cause and the place of 03 R73; then the encoder,
written from the same field tables. -/

namespace Sys2Proof

open Machine

/-- What decoding answers (03 R73 steps 3 to 7): an instruction, a trap cause with the offending word and bit, or how many
words of the instruction are missing. -/
inductive Decoded where
  | ok (i : Instr)
  | bad (cause word bit : Nat)
  | short (missing : Nat)
  deriving DecidableEq, Repr

/-- Row 0x0_ of the opcode map (03 R87). -/
def buildRow0 (lo : Nat) (x : BitVec 22) (t : Tail) : Option Instr :=
  match lo with
  | 1 => some (.add (rForm x t))
  | 2 => some (.sub (rForm x t))
  | 3 => some (.mul (rForm x t))
  | 4 => some (.mulh (rForm x t))
  | 5 => some (.div (rForm x t))
  | 6 => some (.rem (rForm x t))
  | 7 => some (.and (rForm x t))
  | 8 => some (.or (rForm x t))
  | 9 => some (.xor (rForm x t))
  | 10 => some (.shl (rForm x t))
  | 11 => some (.shr (rForm x t))
  | 12 => some (.sar (rForm x t))
  | _ => none

/-- Row 0x1_ of the opcode map (03 R87). -/
def buildRow1 (lo : Nat) (x : BitVec 22) (t : Tail) : Option Instr :=
  match lo with
  | 0 => some (.min (rForm x t))
  | 1 => some (.max (rForm x t))
  | 2 => some (.slt (rForm x t))
  | 3 => some (.sel (rForm x t))
  | 4 => some (.addsat (rForm x t))
  | 5 => some (.subsat (rForm x t))
  | 6 => some (.clz (rForm x t))
  | 7 => some (.bext (rForm x t))
  | 8 => some (.bins (rForm x t))
  | 9 => some (.lea (rForm x t))
  | 10 => some (.li (lForm x t))
  | _ => none

/-- Row 0x2_ of the opcode map (03 R87). -/
def buildRow2 (lo : Nat) (x : BitVec 22) (t : Tail) : Option Instr :=
  match lo with
  | 0 => some (.fadd (rForm x t))
  | 1 => some (.fsub (rForm x t))
  | 2 => some (.fmul (rForm x t))
  | 3 => some (.ffma (rForm x t))
  | 4 => some (.fdiv (rForm x t))
  | 5 => some (.fsqrt (rForm x t))
  | 6 => some (.fmin (rForm x t))
  | 7 => some (.fmax (rForm x t))
  | 8 => some (.flt (rForm x t))
  | 9 => some (.fcvt (rForm x t))
  | _ => none

/-- Row 0x3_ of the opcode map (03 R87). -/
def buildRow3 (lo : Nat) (x : BitVec 22) (t : Tail) : Option Instr :=
  match lo with
  | 0 => some (.beq (bForm x t))
  | 1 => some (.bne (bForm x t))
  | 2 => some (.blt (bForm x t))
  | 3 => some (.bge (bForm x t))
  | 4 => some (.jmp (jForm x t))
  | 5 => some (.jal (jForm x t))
  | 6 => some (if x.getLsbD 21 then .jrLink (rForm x t) else .jr (rForm x t))
  | 7 => some (.loop (mForm x t))
  | 8 => some (.nop (zForm x t))
  | 9 => some (.tend (zForm x t))
  | 10 => some (if x.getLsbD 21 then .brk (mForm x t) else .trap (mForm x t))
  | 11 => some (.eret (zForm x t))
  | 12 => some (.uiret (zForm x t))
  | _ => none

/-- Row 0x4_ of the opcode map (03 R87). -/
def buildRow4 (lo : Nat) (x : BitVec 22) (t : Tail) : Option Instr :=
  match lo with
  | 0 => some (.ld8 (mForm x t))
  | 1 => some (.ld16 (mForm x t))
  | 2 => some (.ld32 (mForm x t))
  | 3 => some (.ld64 (mForm x t))
  | 4 => some (.st8 (mForm x t))
  | 5 => some (.st16 (mForm x t))
  | 6 => some (.st32 (mForm x t))
  | 7 => some (.st64 (mForm x t))
  | 8 => some (.ldacq (mForm x t))
  | 9 => some (.strel (mForm x t))
  | 10 => some (.ldfe (mForm x t))
  | 11 => some (.stfe (mForm x t))
  | 12 => some (.fechk (mForm x t))
  | 13 => some (.fence (mForm x t))
  | 14 => some (.cachectl (rForm x t))
  | _ => none

/-- Row 0x5_ of the opcode map (03 R87). -/
def buildRow5 (lo : Nat) (x : BitVec 22) (t : Tail) : Option Instr :=
  match lo with
  | 0 => some (.amoadd (rForm x t))
  | 1 => some (.amobit (rForm x t))
  | 2 => some (.amomin (rForm x t))
  | 3 => some (.amomax (rForm x t))
  | 4 => some (.amoswap (rForm x t))
  | 5 => some (.cas (rForm x t))
  | 6 => some (if x.getLsbD 21 then .faddaO (rForm x t) else .faddaU (rForm x t))
  | 7 => some (.fmaxa (rForm x t))
  | 8 => some (if x.getLsbD 21 then .acqSh (rForm x t) else .acq (rForm x t))
  | 9 => some (.rel (rForm x t))
  | 10 => some (.bmove (rForm x t))
  | 11 => some (.bfill (rForm x t))
  | _ => none

/-- Row 0x6_ of the opcode map (03 R87). -/
def buildRow6 (lo : Nat) (x : BitVec 22) (t : Tail) : Option Instr :=
  match lo with
  | 0 => some (if x.getLsbD 21 then .tcfgRead (rForm x t) else .tcfgWrite (rForm x t))
  | 1 => some (.tld (rForm x t))
  | 2 => some (.tst (rForm x t))
  | 3 => some (.tgather (rForm x t))
  | 4 => some (.tscatter (rForm x t))
  | 5 => some (if x.getLsbD 21 then .tscaddO (rForm x t) else .tscaddU (rForm x t))
  | 6 => some (.tmovr (rForm x t))
  | 7 => some (.tmovs (rForm x t))
  | 8 => some (.tbcast (rForm x t))
  | _ => none

/-- Row 0x7_ of the opcode map (03 R87). -/
def buildRow7 (lo : Nat) (x : BitVec 22) (t : Tail) : Option Instr :=
  match lo with
  | 0 => some (.vadd (rForm x t))
  | 1 => some (.vsub (rForm x t))
  | 2 => some (.vmul (rForm x t))
  | 3 => some (.vfma (rForm x t))
  | 4 => some (.vmin (rForm x t))
  | 5 => some (.vmax (rForm x t))
  | 6 => some (.vlog (rForm x t))
  | 7 => some (.vshr (rForm x t))
  | 8 => some (.vcmp (rForm x t))
  | 9 => some (.vsel (rForm x t))
  | 10 => some (.vcvt (rForm x t))
  | 11 => some (.vrecip (rForm x t))
  | _ => none

/-- Row 0x8_ of the opcode map (03 R87). -/
def buildRow8 (lo : Nat) (x : BitVec 22) (t : Tail) : Option Instr :=
  match lo with
  | 0 => some (.vrsqrt (rForm x t))
  | 1 => some (.vexp2 (rForm x t))
  | 2 => some (.vred (rForm x t))
  | 3 => some (.vargmax (rForm x t))
  | 4 => some (.vquant (rForm x t))
  | 5 => some (.vdeq (rForm x t))
  | 6 => some (.bqadd (rForm x t))
  | 7 => some (.mma (rForm x t))
  | 8 => some (.mmasp (rForm x t))
  | _ => none

/-- Row 0x9_ of the opcode map (03 R87). -/
def buildRow9 (lo : Nat) (x : BitVec 22) (t : Tail) : Option Instr :=
  match lo with
  | 0 => some (.tlook (rForm x t))
  | 1 => some (if x.getLsbD 21 then .tsetInvalidate (rForm x t) else .tset (rForm x t))
  | 2 => some (if x.getLsbD 21 then .bfmtRead (rForm x t) else .bfmt (rForm x t))
  | 3 => some (.sgset (rForm x t))
  | 4 => some (.probe (rForm x t))
  | _ => none

/-- Row 0xA_ of the opcode map (03 R87). -/
def buildRowA (lo : Nat) (x : BitVec 22) (t : Tail) : Option Instr :=
  match lo with
  | 0 => some (.spawn (rForm x t))
  | 1 => some (.take (rForm x t))
  | 2 => some (.gjoin (rForm x t))
  | 3 => some (.gleave (rForm x t))
  | 4 => some (.gbar (rForm x t))
  | 5 => some (.tcadd (rForm x t))
  | 6 => some (if tailMod t = 1 then .tcwaitArm (rForm x t) else if tailMod t = 2 then .tcwaitDisarm (rForm x t) else .tcwait (rForm x t))
  | 7 => some (.tcset (rForm x t))
  | 8 => some (.csend (rForm x t))
  | 9 => some (.crecv (rForm x t))
  | 10 => some (.cpoll (rForm x t))
  | 11 => some (.launch (rForm x t))
  | _ => none

/-- Row 0xB_ of the opcode map (03 R87). -/
def buildRowB (lo : Nat) (x : BitVec 22) (t : Tail) : Option Instr :=
  match lo with
  | 0 => some (.fork (rForm x t))
  | 1 => some (if x.getLsbD 21 then .chooseMin (rForm x t) else .choose (rForm x t))
  | 2 => some (.wend (rForm x t))
  | 3 => some (.wjoin (rForm x t))
  | _ => none

/-- Row 0xC_ of the opcode map (03 R87). -/
def buildRowC (lo : Nat) (x : BitVec 22) (t : Tail) : Option Instr :=
  match lo with
  | 0 => some (.kick (rForm x t))
  | 1 => some (.binit (rForm x t))
  | 2 => some (if tailMod t = 1 then .bwaitArm (rForm x t) else if tailMod t = 2 then .bwaitDisarm (rForm x t) else .bwait (rForm x t))
  | 3 => some (.btest (rForm x t))
  | 4 => some (.seqwait (rForm x t))
  | 5 => some (.publish (rForm x t))
  | _ => none

/-- Row 0xD_ of the opcode map (03 R87). -/
def buildRowD (lo : Nat) (x : BitVec 22) (t : Tail) : Option Instr :=
  match lo with
  | 0 => some (if x.getLsbD 21 then .sread (mForm x t) else .sreadStatus (mForm x t))
  | 1 => some (.swrite (mForm x t))
  | 2 => some (.cwait (rForm x t))
  | 3 => some (.rdptp (rForm x t))
  | 4 => some (.rdcyc (rForm x t))
  | _ => none

/-- Row 0xE_ of the opcode map (03 R87). -/
def buildRowE (lo : Nat) (x : BitVec 22) (t : Tail) : Option Instr :=
  match lo with
  | 0 => some (.mfs (xForm x t))
  | 1 => some (.mts (xForm x t))
  | 2 => some (if x.getLsbD 21 then .sbindRead (rForm x t) else .sbindWrite (rForm x t))
  | 3 => some (if x.getLsbD 21 then .slotwRead (rForm x t) else .slotwWrite (rForm x t))
  | 4 => some (if tailMod t = 1 then .ptinvAll (rForm x t) else .ptinv (rForm x t))
  | 5 => some (.mbsend (rForm x t))
  | 6 => some (if tailMod t = 1 then .mbrecvArm (rForm x t) else if tailMod t = 2 then .mbrecvDisarm (rForm x t) else .mbrecv (rForm x t))
  | 7 => some (.spill (rForm x t))
  | 8 => some (.fill (rForm x t))
  | _ => none

/-- The instruction of an opcode (03 R87), from bits [31:10] of word 0 and the tail; none where the opcode is reserved. -/
def build (op : BitVec 8) (x : BitVec 22) (t : Tail) : Option Instr :=
  match op.toNat / 16 with
  | 0 => buildRow0 (op.toNat % 16) x t
  | 1 => buildRow1 (op.toNat % 16) x t
  | 2 => buildRow2 (op.toNat % 16) x t
  | 3 => buildRow3 (op.toNat % 16) x t
  | 4 => buildRow4 (op.toNat % 16) x t
  | 5 => buildRow5 (op.toNat % 16) x t
  | 6 => buildRow6 (op.toNat % 16) x t
  | 7 => buildRow7 (op.toNat % 16) x t
  | 8 => buildRow8 (op.toNat % 16) x t
  | 9 => buildRow9 (op.toNat % 16) x t
  | 10 => buildRowA (op.toNat % 16) x t
  | 11 => buildRowB (op.toNat % 16) x t
  | 12 => buildRowC (op.toNat % 16) x t
  | 13 => buildRowD (op.toNat % 16) x t
  | 14 => buildRowE (op.toNat % 16) x t
  | _ => none

def opOf (w : IWord) : BitVec 8 := w.extractLsb' 2 8
def bodyOf (w : IWord) : BitVec 22 := w.extractLsb' 10 22
/-- The words that LEN gives (03 R59). -/
def lenWords (w : IWord) : Nat := if w.extractLsb' 0 2 = 0 then 1 else if w.extractLsb' 0 2 = 3 then 5 else 3

/-- The opcode of word 0 is reserved, or absent from the host profile (03 R73, step 3). -/
def badOp (host : Bool) (w : IWord) : Bool := (host && hostLacks (opOf w)) || (build (opOf w) (bodyOf w) .none).isNone

/-- The operands of an extended word and a hint word (03 R67, R69). -/
def extOf (x h : IWord) : Ext :=
  { mod := x.extractLsb' 0 8, c := x.extractLsb' 8 7, imm := x.extractLsb' 16 16,
    ha := h.extractLsb' 0 4, hb := h.extractLsb' 4 4, hr := h.extractLsb' 8 4,
    pt := h.extractLsb' 16 5, pe := h.getLsbD 21 }

/-- The tail of an instruction and the extended and hint words as they stand (03 R59, R60: a literal's low word first);
none when words are missing. -/
def tailOf (len : BitVec 2) (ws : List IWord) : Option (Tail × Option (IWord × IWord)) :=
  match len.toNat, ws with
  | 0, _ => some (.none, none)
  | 1, l :: h :: _ => some (.lit (h ++ l), none)
  | 2, x :: m :: _ => some (.ext (extOf x m), some (x, m))
  | 3, x :: m :: l :: h :: _ => some (.extLit (extOf x m) (h ++ l), some (x, m))
  | _, _ => none

/-- Extended word [15] is among the must-be-zero fields (03 R67). -/
def rawZero : Option (IWord × IWord) → List (Nat × Nat)
  | none => []
  | some (x, _) => if x.getLsbD 15 then [(1, 15)] else []

/-- HM and hint word [31:22] (03 R69). -/
def rawHint : Option (IWord × IWord) → List (Nat × Nat)
  | none => []
  | some (_, h) => mbz 2 12 (h.extractLsb' 12 4).toNat ++ mbz 2 22 (h.extractLsb' 22 10).toNat

/-- Steps 3 to 7 of 03 R73 on the words from an instruction's PC to the limit of sg0. -/
def decode (host : Bool) : List IWord → Decoded
  | [] => .short 1
  | w :: ws =>
    if host && hostLacks (opOf w) then .bad 0x01 0 2
    else
      match tailOf (w.extractLsb' 0 2) ws with
      | none => if (build (opOf w) (bodyOf w) .none).isNone then .bad 0x01 0 2 else .short (lenWords w - 1 - ws.length)
      | some (t, raw) =>
        match build (opOf w) (bodyOf w) t with
        | none => .bad 0x01 0 2
        | some i =>
          match enc i with
          | none => .bad 0x01 0 2
          | some e =>
            match leastFault (formFaults e) with
            | some (wd, b) => .bad 0x07 wd b
            | none =>
              match leastFault (zeroFaults e ++ rawZero raw) with
              | some (wd, b) => .bad 0x02 wd b
              | none =>
                match leastFault (rawHint raw) with
                | some (wd, b) => .bad 0x03 wd b
                | none => .ok i

/-- Little-endian words of a byte string (03 R59); a last part of fewer than four bytes is no word. -/
def wordsOfBytes : List Byte → List IWord
  | a :: b :: c :: d :: r => (d ++ c ++ b ++ a : BitVec 32) :: wordsOfBytes r
  | _ => []

/-- Decoding from bytes, with the bytes after the instruction. -/
def decodeBytes (host : Bool) (bs : List Byte) : Decoded × List Byte :=
  match wordsOfBytes bs with
  | [] => (.short 1, bs)
  | w :: ws => (decode host (w :: ws), bs.drop (4 * lenWords w))

/-! The encoder. -/

def extWord (e : Ext) : IWord := e.imm ++ (0#1 : BitVec 1) ++ e.c ++ e.mod
def hintWord (e : Ext) : IWord := (0#10 : BitVec 10) ++ BitVec.ofBool e.pe ++ e.pt ++ (0#4 : BitVec 4) ++ e.hr ++ e.hb ++ e.ha
def litLo (v : Word) : IWord := v.extractLsb' 0 32
def litHi (v : Word) : IWord := v.extractLsb' 32 32

/-- The words after word 0 (03 R59, R60). -/
def encTail : Tail → List IWord
  | .none => []
  | .lit v => [litLo v, litHi v]
  | .ext e => [extWord e, hintWord e]
  | .extLit e v => [extWord e, hintWord e, litLo v, litHi v]

/-- Word 0 (03 R59). -/
def word0 (e : Enc) : IWord := e.body ++ e.op ++ tailLen e.tail

/-- The words of an instruction; a step or event without an encoding has none. -/
def encode (i : Instr) : List IWord :=
  match enc i with
  | none => []
  | some e => word0 e :: encTail e.tail

/-- The bytes of a word as memory holds them, little-endian (03 R59). -/
def bytesOfWord (w : IWord) : List Byte :=
  [w.extractLsb' 0 8, w.extractLsb' 8 8, w.extractLsb' 16 8, w.extractLsb' 24 8]

/-- n little-endian words of a number: bits [31:0] first. -/
def wordsOfNat : Nat → Nat → List IWord
  | 0, _ => []
  | n + 1, w => BitVec.ofNat 32 w :: wordsOfNat n (w / 2 ^ 32)

/-- The instruction the decoder reads from an instruction whose bits are w, numbered as spec/opcode_table.json numbers
them, the bits at and above nbits zero, on a device core. -/
def decodeTableWord (nbits w : Nat) : Option Instr :=
  match decode false (wordsOfNat 5 (w % 2 ^ nbits)) with
  | .ok i => some i
  | _ => none

end Sys2Proof
end

