-- ==== Sys2Proof/Config.lean ====
section
/-! DEFINITION. What the spec leaves open: constants without a body, so that no proof can see their value. -/

namespace Sys2Proof.Config

/-- A fresh free choice between two allowed outcomes (02 R34: a fixed-latency result read early is the old or the new
value); applied to State.free, which every use advances (Log 13). -/
opaque freeBit : Nat → Bool

/-- A fresh free word, for a value the spec states no rule for (Log 13). -/
opaque freeWord : Nat → Word

/-- Whether an instruction word that L1I holds, and memory no longer does, is read as its new value (03 R76); applied to the
device clk and the word's address (Log 13). -/
opaque newWord : Nat → Nat → Bool

/-- The clk that a path without an upper bound takes beyond its least (10 R241: DRAM after an L2 miss; 20 R458: a host core's
L2 and DRAM), by device clk and location (Log 68). -/
opaque pathDelay : Nat → Nat → Nat

/-- The temperature of a core, in °C, that the device measures at a clk (15 R366; Log 99). -/
opaque coreTemp : Nat → Nat → Byte

/-- Where host core n of 1 to 7 starts once an image is accepted, or that it never does: the spec gives the start of host core 0
alone (20 R475, R476; Log 19). -/
opaque hostStart : Nat → Option Word

/-- The key digest the fuses hold (20 R476; Log 9). -/
opaque fusedKeyDigest : Nat

/-- Whether a signature of a message verifies under a public key, for the two schemes the spec names (20 R476: public key,
signature, message; Log 9). -/
opaque verifyEd25519 : List Byte → List Byte → List Byte → Bool
opaque verifyMlDsa65 : List Byte → List Byte → List Byte → Bool

/-- The device's signatures of a message under its two identity keys, its identity, its serial number (20 R470, R477;
Log 9). -/
opaque signEd25519 : List Byte → List Byte
opaque signMlDsa65 : List Byte → List Byte
opaque deviceIdentity : List Byte
opaque serialNumber : Nat

end Sys2Proof.Config
end

