-- ==== Sys2Proof/Machine/Tab.lean ====
section
/-! DEFINITION. Sparse tables keyed by natural numbers: a list of pairs in strictly rising key order. A lookup stops at the
first key above the one sought, so the laws of get, put and del hold of every list. Memories, register windows and the
device's tables are held this way. -/

namespace Sys2Proof

/-- A table: keys strictly rising. -/
abbrev Tab (α : Type) := List (Nat × α)

namespace Tab

/-- The value at a key. -/
def get? {α : Type} : Tab α → Nat → Option α
  | [], _ => none
  | (i, v) :: r, k => if i < k then get? r k else if i = k then some v else none

/-- Puts a value at a key. -/
def put {α : Type} : Tab α → Nat → α → Tab α
  | [], k, v => [(k, v)]
  | (i, x) :: r, k, v =>
    if i < k then (i, x) :: put r k v else if i = k then (k, v) :: r else (k, v) :: (i, x) :: r

/-- Drops the entries at the front whose key is at most k. -/
def dropLe {α : Type} : Tab α → Nat → Tab α
  | [], _ => []
  | (i, x) :: r, k => if i ≤ k then dropLe r k else (i, x) :: r

/-- Removes a key. -/
def del {α : Type} : Tab α → Nat → Tab α
  | [], _ => []
  | (i, x) :: r, k => if i < k then (i, x) :: del r k else if i = k then dropLe r k else (i, x) :: r

/-- The value at a key, or a default that an unlisted key reads as. -/
def getD {α : Type} (t : Tab α) (k : Nat) (d : α) : α := (get? t k).getD d

/-- Writes a value, unlisting a key whose value is what an unlisted key reads as. -/
def putD {α : Type} [DecidableEq α] (t : Tab α) (k : Nat) (d v : α) : Tab α :=
  if v = d then del t k else put t k v

/-- Changes the value at a listed key. -/
def modify {α : Type} (t : Tab α) (k : Nat) (f : α → α) : Tab α :=
  match get? t k with
  | some v => put t k (f v)
  | none => t

/-- The values, in key order. -/
def vals {α : Type} (t : Tab α) : List α := t.map Prod.snd

/-- Keys strictly rise. -/
def sorted {α : Type} : Tab α → Bool
  | [] => true
  | [_] => true
  | a :: b :: r => decide (a.1 < b.1) && sorted (b :: r)

/-- Canonical form: keys strictly rise and no entry equals what an unlisted key reads as. -/
def wf {α : Type} [DecidableEq α] (d : α) (t : Tab α) : Bool := sorted t && t.all (fun p => p.2 != d)

end Tab

end Sys2Proof
end

