-- ==== Sys2Proof/Machine/State.lean ====
section
/-! DEFINITION. The machine's state as plain data, its stops, and the state after reset. Every field names the rule of
spec/ that gives it; the reset values the spec does not give are those of the log entries named.

Keys. A thread is named by its key: physical core × 64 + context for a device thread (01 R11, 02 R28), 8192 + n for host
core n (20 R458). A byte of memory is named by its location: a physical DRAM address, 0x9_0000_0000_0000 + offset for the
PIM (10 R231), 0x8_0000_0000_0000 + half-slab × 262,144 + offset for scratchpad (15 R343: banks 0 to 7 of a slab belong to
its A half, 8 to 15 to its B half). A version of a location in view v of partition p is keyed
(p × 1024 + v) × 2^52 + location; view 0 is the root and its versions are the memory itself. -/

namespace Sys2Proof.Machine

/-- A tile: its configuration word (05 R119) and its elements by element number row × (g × COLS) + logical index (05 R121,
08 R174); an element not listed is zero. -/
structure Tile where
  cfg   : Word
  elems : Tab Nat
  deriving DecidableEq, Repr

/-- A fixed-latency result not yet elapsed (02 R34): the register, its value before, and the first clk at which a consumer
may issue. -/
structure Flight where
  reg   : Nat
  old   : Word
  ready : Nat
  deriving DecidableEq, Repr

/-- A scoreboarded result still to arrive (02 R35): registers with the values they take, tiles it holds locked (08 R179),
and, for an MFS or a floating check, nothing more. -/
structure Pending where
  id    : Nat
  due   : Nat
  regs  : List (Nat × Word)
  tiles : List Nat
  deriving DecidableEq, Repr

/-- What a waiting thread waits on (02 R28, 03 R85 wait_for). -/
inductive WaitKind where
  /-- A scoreboarded result or a fixed time: the instruction issues again when it has passed (02 R35). -/
  | result
  /-- stfe's release actions: it issues again when they have completed (11 R250). -/
  | release
  /-- A tile lock (08 R179). -/
  | tileLock
  /-- A reply to a translation fault message (10 R238). -/
  | translation
  /-- csend on a full channel, crecv on an empty one (13 R310). -/
  | chanSend | chanRecv
  /-- ldfe on an empty word, stfe on a full one (11 R259). -/
  | feLoad | feStore
  /-- acq of a held object (11 R252). -/
  | object
  /-- gbar (17 R404). -/
  | group
  /-- tcwait (19 R446). -/
  | timeline
  /-- bwait (19 R452). -/
  | barrier
  /-- seqwait (19 R454). -/
  | sequence
  /-- cwait (19 R441). -/
  | cycle
  /-- mbrecv on an empty mailbox, mbsend to a full one (13 R313, R316). -/
  | mailRecv | mailSend
  /-- A full matrix queue (09 R208). -/
  | matrix
  /-- wjoin, and wend's wait for chain entries (16 R384, R382). -/
  | join | wend
  /-- publish waiting for the replication link (20 R471). -/
  | replication
  /-- publish and kick until their effect is made at the port or engine (17 R410; 14 R337). -/
  | port
  /-- kick on a chain (14 R336). -/
  | kick
  /-- A held write-back of the trace ring (11 R257). -/
  | trace
  /-- The answer of a unit that has been taken offline (18 R430). -/
  | unit
  /-- A redundant pair's queue or comparison (16 R401). -/
  | redundant
  deriving DecidableEq, Repr

/-- A wait: what on, the object's key, an operand and the destination register the completing event uses, the cause and
TINFO of its wait limit, the clk it began and its limit's clk if any (02 R56), its place in arrival order, and the words of
its instruction. -/
structure Wait where
  kind     : WaitKind
  key      : Nat
  arg      : Word
  dst      : Nat
  cause    : Nat
  info     : Word
  since    : Nat
  deadline : Option Nat
  order    : Nat
  words    : Nat
  deriving DecidableEq, Repr

/-- The state of a context that holds a thread (02 R28); a free context holds none, and a husk is bytes of the husk area. -/
inductive Run where
  | ready
  | waiting (w : Wait)
  | parked
  /-- Placed, displaced or filled, and not yet issuing (15 R358, R369). -/
  | incoming
  /-- Its end is due: outstanding stores and results complete first (02 R29). -/
  | ending
  deriving DecidableEq, Repr

/-- Why a thread is parked (15 R352, R359, R363, R369). -/
inductive Park where
  | none | preempted | spilling | noSlots | displaced | filled
  /-- Its context is copied from a core, which it has left (15 R369). -/
  | moved (core : Nat)
  deriving DecidableEq, Repr

/-- A thread: its visible registers (05) and its scheduling state (02, 15). -/
structure Thread where
  /-- Host profile (03 R75). -/
  host     : Bool
  pc       : Word
  /-- GWIN and TWIN (05 R124), as counts of registers and tiles. -/
  gbase    : Nat
  gsize    : Nat
  tbase    : Nat
  tcount   : Nat
  /-- General registers g1 up; an unlisted register holds 0 (05 R113). -/
  gpr      : Tab Word
  /-- Tiles; an unlisted tile is unconfigured (05 R120). -/
  tiles    : Tab Tile
  /-- Segment registers (05 R115); unlisted is 0. -/
  segs     : Tab (BitVec 128)
  /-- h0 to h3 (05 R122). -/
  shadow   : Tab Word
  /-- Thread-scoped special registers by index (05 R123); unlisted is 0. PC, GWIN, TWIN and UISTAT are other fields. -/
  spr      : Tab Word
  /-- Completions waiting: h0 and h1 of each (05 R122, 07 R167). -/
  uiq      : List (Word × Word)
  /-- The clk of the latest arrival among them, and how many arrived at it (05 R127, 07 R167). -/
  uiAt     : Nat
  uiNew    : Nat
  run      : Run
  /-- Ready after a wait: the wait whose event has come, for the instruction issues again in its next slot (02 R28, 05 R128). -/
  again    : Option Wait
  /-- Ready to take a trap, in its own next slot: cause and TINFO (02 R28, R58; 07 R152). -/
  trapDue  : Option (Nat × Word)
  /-- The clk of its latest trap, and PC and the special registers before it: a kill of that clk replaces the trap (18 R426). -/
  trapOld  : Option (Nat × Word × Tab Word)
  /-- The first clk at which it may issue (07 R152, R134). -/
  earliest : Nat
  flight   : List Flight
  sb       : List Pending
  /-- Stamped reads under way: the clk each completes, and the stamp it lowers STAMPIN to (05 R129). -/
  stamps   : List (Nat × Nat)
  /-- clk by which its floating instructions have completed (05 R128). -/
  fpUntil  : Nat
  /-- The latest clk at which a message it sent arrives (13 R315). -/
  mailAt   : Nat
  /-- clk by which its stores are accepted, and by which those to ports are performed (11 R493). -/
  stAccept : Nat
  stPerform : Nat
  /-- Groups joined, and whether counted in the open phase (17 R403 to R405). -/
  groups   : Tab Bool
  /-- Sync objects held, by location key, with the next ordered-update sequence number (11 R264, 12 R281). -/
  held     : Tab Nat
  /-- A barrier object armed by bwait: its address (19 R452). -/
  barArm   : Option Word
  /-- The clk of its last issue, and of its placement (02 R32, 15 R359). -/
  lastIssue : Option Nat
  placedAt : Nat
  /-- Its share number on its core, or none for fixed entries (15 R352). -/
  share    : Option Nat
  /-- The node it belongs to, by the physical address of the record; none for a service thread or a host (13 R301). -/
  node     : Option Nat
  /-- Its rival index if it is a rival thread, else 0 (16 R380, R382). -/
  rival    : Nat
  /-- Started from a sprout (13 R308). -/
  sprout   : Bool
  /-- Executed cwait and was released in this cycle (19 R442). -/
  released : Bool
  /-- Deferred traps 0x73 and 0x27: cause and TINFO (18 R425). -/
  deferred : List (Nat × Word)
  park     : Park
  /-- Audit: passes over its next slot (07 R173). -/
  auditSkip : Bool
  deriving DecidableEq, Repr

/-- A byte of an L1D line: value, dirty bit, last-writer context (10 R222, R223), and whether it was written by a store of its
whole sector, or by one after it (10 R229). -/
structure L1Byte where
  val    : Byte
  dirty  : Bool
  writer : Nat
  whole  : Bool
  deriving DecidableEq, Repr

/-- A way of an L1D set that holds a line: its key, and whether a hint keeps it (10 R222; 03 R70). -/
structure L1Way where
  line : Nat
  keep : Bool
  deriving DecidableEq, Repr

/-- A way of an L2 set that holds a line: its versioned location, whether it is dirty, the partition that wrote it, and whether
a hint keeps it (10 R222, R224; 03 R70). -/
structure L2Way where
  line  : Nat
  dirty : Bool
  part  : Nat
  keep  : Bool
  deriving DecidableEq, Repr


/-- A translation-cache entry: partition key, page number, 32 MiB page, rights R W X A, frame (10 R235, R237). -/
structure TlbEntry where
  part : Nat
  vpn  : Nat
  big  : Bool
  r    : Bool
  w    : Bool
  x    : Bool
  a    : Bool
  pfn  : Nat
  deriving DecidableEq, Repr

/-- A translation walk at a port (10 R237): the partition and 64 KiB page it looks for, what it finds, the clk at which it ends, and
whether a ptinv met it in flight (12 R289). -/
structure Walk where
  part  : Nat
  vpn   : Nat
  entry : Option TlbEntry
  due   : Nat
  dead  : Bool
  deriving DecidableEq, Repr

/-- A service message waiting to be accepted by a mailbox, with the partition it is for (13 R315), or a kept mbsend with
the core it is for and the thread that committed it (16 R394), and the clk of its next try. -/
structure Held where
  core  : Nat
  part  : Option Nat
  owner : Nat
  msg   : List Byte
  next  : Nat
  deriving DecidableEq, Repr

/-- A core's mailbox (13 R295, R312 to R316): messages in arrival order, entries reserved by mbsends under way, the
notifier. -/
structure Mailbox where
  msgs     : List (List Byte)
  reserved : Nat
  notifier : Option Nat
  deriving DecidableEq, Repr

/-- A sprout in a deque (13 R306): its record, and its issuer's node, VIEW, WDEPTH and POD. -/
structure Sprout where
  bytes  : List Byte
  node   : Nat
  view   : Nat
  depth  : Nat
  pod    : Nat
  deriving DecidableEq, Repr

/-- A sync object (11 R252, R265): its holders, whether held exclusively, whether failed in this period, the clk at which the
release that left it free completes (12 R282). -/
structure SyncObj where
  holders : List Nat
  excl    : Bool
  failed  : Bool
  freeAt  : Nat
  deriving DecidableEq, Repr

/-- An ordered update at an MSU (11 R264, R267). -/
structure Ordered where
  part   : Nat
  object : Nat
  addr   : Nat
  value  : Word
  tid    : Nat
  seq    : Nat
  node   : Nat
  fmt    : Nat
  rm     : Nat
  view   : Nat
  deriving DecidableEq, Repr

/-- A run in an MSU's ORDLOG share (11 R265): where it lies and which of its 16 records are not yet merged. -/
structure OrdRun where
  part    : Nat
  slice   : Nat
  offset  : Nat
  objects : List Nat
  deriving DecidableEq, Repr

/-- The device's own copy of a launched node (13 R298, R299), by the physical address of its record. -/
structure Node where
  vaddr    : Word
  part     : Nat
  entry    : Word
  args     : Word
  count    : Nat
  shapex   : Nat
  shapey   : Nat
  pri      : Nat
  flags    : Nat
  gprs8    : Nat
  tiles    : Nat
  share    : Nat
  space    : Nat
  budget   : Nat
  preds    : Nat
  succs    : Nat
  succlist : Word
  stamp    : Nat
  tline    : Nat
  tinc     : Nat
  origin   : Nat
  deadline : Nat
  /-- 0 idle, 1 blocked, 2 queued, 3 running, 4 complete. -/
  state    : Nat
  lastst   : Nat
  started  : Nat
  ended    : Nat
  sprouts  : Nat
  first    : Nat
  qclk     : Nat
  /-- Next tile task to place; tasks started in this cycle (02 R51); STAMPIN (02 R52); its view; rollbacks (16 R398). -/
  nextTid  : Nat
  inCycle  : Nat
  stampin  : Nat
  view     : Nat
  rollbacks : Nat
  /-- Reports made once: 0x61 of this cycle, 0x6F, 0x40, 0x7A; HB of the launch (03 R70) and its issuer's core. -/
  held61   : Bool
  missed   : Bool
  no40     : Bool
  no7A     : Bool
  hint     : Nat
  hintCore : Nat
  /-- sg1 to sg6 of the service thread at acceptance, and sg0 (05 R118); PROMISE (02 R54). -/
  segs     : Tab (BitVec 128)
  promise  : Nat
  /-- Threads still live and rivals waiting to be placed; a tile task placed a first time. -/
  live     : Nat
  firstSet : Bool
  deriving DecidableEq, Repr

/-- A kernel that the loader is given for a partition (03 R82 to R84, 05 R118): its object's code section as placed, its note of 32
bytes, and the words of its code, from ENTRY over CODELEN. -/
structure Kernel where
  part   : Nat
  base   : Word
  length : Nat
  note   : List Byte
  code   : List IWord
  deriving DecidableEq, Repr

/-- A rival not yet placed (16 R380): the register state it starts with and its pod. -/
structure RivalReq where
  part  : Nat
  node  : Nat
  index : Nat
  core  : Nat
  image : Thread
  deriving DecidableEq, Repr

/-- A held external operation of a view (16 R394): 0 store, 1 swrite, 2 publish, 3 mbsend, with its address, size, data,
STAMPIN, message or data bytes, and the PC, core and context it was issued at. -/
structure OutOp where
  kind  : Nat
  addr  : Nat
  size  : Nat
  data  : Word
  stamp : Nat
  msg   : List Byte
  pc    : Word
  thread : Nat
  deriving DecidableEq, Repr

/-- A matrix queue entry of a slab (09 R208, R209): the issuing thread, the operation's number, its priority, k-steps done,
its tiles and instruction (0 mma, 1 mmasp), whether it has started, its entry clk, whether it has overtaken another. -/
structure MatEntry where
  op      : Nat
  thread  : Nat
  pri     : Nat
  sparse  : Bool
  zero    : Bool
  d       : Nat
  a       : Nat
  b       : Nat
  steps   : Nat
  done    : Nat
  started : Bool
  order   : Nat
  overtook : Bool
  deriving DecidableEq, Repr

/-- A matrix operation in progress over a core's slabs (09 R208, R211): slabs yet to complete, element results and flags
gathered, tiles with an uncorrectable element and the slabs that found it, such tiles of slab 0's broadcast part (09 R206),
the chain entry that it follows on, as chain × 2^32 + sequence (14 R333). -/
structure MatOp where
  thread : Nat
  tile   : Nat
  tiles  : List Nat
  left   : Nat
  flags  : BitVec 5
  bad    : List (Nat × Nat)
  badA   : List Nat
  chain  : Option Nat
  deriving DecidableEq, Repr

/-- A copy-engine entry in flight (14 R317 to R334): its address, sequence, 64 bytes, view and kicker; destination bytes
performed; the fault token it is stalled on; the cause it was abandoned with, or 0; its phase (0 waits for its multicast
group, 1 moves, 2 has landed and its follow-on is to start, 3 its follow-on runs, 4 complete, 5 its follow-on waits with the
tile loaded and locked); fixed at its start, the location of its shadow buffer and the formats of its conversion (14 R327,
10 R219); the FAULTOFF of its stall; the entry of its multicast group that reads the source for it, as chain and sequence
(14 R332). -/
structure ChainEntry where
  addr    : Nat
  seq     : Nat
  desc    : List Byte
  view    : Nat
  kicker  : Nat
  moved   : Nat
  token   : Option Nat
  cause   : Nat
  phase   : Nat
  buffer  : Nat
  srcFmt  : Nat
  dstFmt  : Nat
  convert : Bool
  faultAt : Nat
  lead    : Option (Nat × Nat)
  deriving DecidableEq, Repr

/-- What a chain holds beside its control block (14 R318, R324, R330, R336): entries in flight in order; the kicks whose entries
are pending, as tail and kicker (14 R332); the clk at which it began to wait for an entry that does not match; whether a read of
HEAD is due; an entry read whose ORDER holds it; the token of a fault on the read; whether the view of its pending entries was
discarded (16 R388). -/
structure Chain where
  entries : List ChainEntry
  kicks   : List (Nat × Nat)
  wait    : Option Nat
  reading : Bool
  hold    : Option (List Byte)
  token   : Option Nat
  gone    : Bool
  deriving DecidableEq, Repr

/-- An entry offered for multicast combining, by group (14 R332). -/
structure Offer where
  chain : Nat
  seq   : Nat
  group : Nat
  deriving DecidableEq, Repr

/-- A load-value queue or store-comparison entry (16 R401): the pair; the opcode, address, size, operation and data it was made
with; what it gave: the values of its registers and tiles in the order of its fields, the clk it took, a trap, and whether TPC is
past it (18 R425); its units; whether the trailing thread has matched it. -/
structure RedEntry where
  pair    : Nat
  name    : List Nat
  regsOut : List Word
  tileOut : List Tile
  lat     : Nat
  fault   : Option (Nat × Word)
  past    : Bool
  units   : Nat
  seen    : Bool
  deriving DecidableEq, Repr

/-- What a husk keeps that 15 R361 gives no place: memberships, arming, sequence numbers, rival index, flags; the rest of the image is
read back from the slot (Log 27). -/
structure HuskExtra where
  image : Thread
  deriving DecidableEq, Repr

/-- What a port holds for the preemption of frames (17 R412): the mask of its preemptable traffic classes and addFragSize, for which
the spec gives no register (Log 100); whether a gate operation holds them; the preemptable frame on the wire, as the clk of its
fragment's start and the bytes of it left then; the bytes left of one that was interrupted. -/
structure Wire where
  classes : Nat
  addFrag : Nat
  held    : Bool
  sending : Option (Nat × Nat)
  rest    : Option Nat
  deriving DecidableEq, Repr

/-- A frame a port sends: class, bytes without FCS, the PTP time of its start, the transmit descriptor it came from
(20 R465, R467). -/
structure Frame where
  port  : Nat
  tc    : Nat
  bytes : List Byte
  at_   : Nat
  desc  : Option Nat
  deriving DecidableEq, Repr

/-- An error-log entry: three words (18 R428). -/
structure ErrEntry where
  w0 : Word
  w1 : Word
  w2 : Word
  deriving DecidableEq, Repr

/-- An error found in this clk: its log (array × 4096 + instance), ADDR, CONTEXT, and whether it is uncorrectable (18 R429). -/
structure ErrFound where
  log  : Nat
  addr : Nat
  ctx  : Nat
  ue   : Bool
  deriving DecidableEq, Repr

/-- An event of this clk: its partition, and CAUSE, SRC, CORE, CTX and INFO (18 R421). -/
structure Event where
  part  : Nat
  cause : Nat
  src   : Nat
  core  : Nat
  ctx   : Nat
  info  : Word
  deriving DecidableEq, Repr

/-- A latch write of a received frame (17 R416): its ingress timestamp and port, the offset in the input image, the bytes,
and whether it is held for the cycle after. -/
structure Latch where
  ts    : Nat
  port  : Nat
  off   : Nat
  bytes : List Byte
  held  : Bool
  deriving DecidableEq, Repr

/-- A change that a timeline's port receives (19 R449): the timeline, its class (0 tcset, 1 tcadd, 2 chain completion, 3 node
completion, 4 no change but a look at the arming), its place within the class, its operand, the thread, register and clk of its
result, and the clk in which it reaches the port. -/
structure TlOp where
  key   : Nat
  cls   : Nat
  ord   : Nat
  val   : Word
  who   : Option Nat
  dst   : Nat
  due   : Nat
  at_   : Nat
  deriving DecidableEq, Repr

/-- A publish on its way to its entry's port (17 R410): who waits for it, the partition and entry, and the clk of its arrival. -/
structure PubOp where
  who   : Nat
  part  : Nat
  entry : Nat
  at_   : Nat
  deriving DecidableEq, Repr

/-- A slotw that waits for rotation index 0 (15 R355): core, entries, value, issuer and its result's name. -/
structure SlotReq where
  core  : Nat
  set   : List Nat
  value : Word
  who   : Nat
  id    : Nat
  deriving DecidableEq, Repr

/-- A staged copy of a replicated entry on the standby (20 R472). -/
structure Staging where
  entry : Nat
  stamp : Nat
  bytes : List Byte
  whole : Bool
  deriving DecidableEq, Repr

/-- A slice's record of a write-back of a line (11 R254, R256, R257): its writer, first byte and size, the clk and the cycle
stamp of its arrival, whether it is logged. -/
structure WriteBack where
  core   : Nat
  ctx    : Nat
  addr   : Nat
  size   : Nat
  clk    : Nat
  stamp  : Nat
  logged : Bool
  deriving DecidableEq, Repr

/-- The reasons for which the machine itself stops. -/
inductive Fault where
  /-- Raised by the meaning of an instruction when no thread is issuing (State.cur names none): the model's own misuse, which
  no step makes. Safe. -/
  | noThread
  deriving DecidableEq, Repr

/-- The reasons for which an instruction is refused. -/
inductive Refusal where
  /-- Raised by an arm of exec whose instruction has no meaning yet. Safe. -/
  | notModelled (mnemonic : String)
  deriving DecidableEq, Repr

set_option maxRecDepth 2048 in
/-- The machine. -/
structure State where
  /-- The device clk (19 R438); the rotation index is clk mod 16 (02 R30). -/
  clk     : Nat
  /-- The model's own: how many cores have been served in this clk, the thread whose instruction runs, due events in order,
  the counters that name results, tokens and arrivals, the counter of free values (Log 10, Log 13). -/
  bpos    : Nat
  cur     : Option Nat
  agenda  : List (Nat × Instr)
  nextId  : Nat
  free    : Nat
  /-- Every thread, by key (02 R27, R28; 20 R458). -/
  threads : Tab Thread
  /-- Memory bytes by location (10 R212, R215, R227, R231); an unlisted byte reads 0 (Log 2). -/
  mem     : Tab Byte
  /-- Lines written in views, whole lines by versioned location (16 R386, R389). -/
  vmem    : Tab Byte
  /-- Full/empty tags by versioned word number (10 R225, 11 R259); unlisted is empty. -/
  tags    : Tab Bool
  /-- Poisoned 32-byte sectors by versioned sector number, as L2 and the memory behind it hold them (10 R227, R229); and places with wrong check bits, keyed
  (array × 4096 + instance) × 2^52 + place, true for an uncorrectable pattern (18 R431). -/
  poison  : Tab Bool
  /-- Those of them that an error of L2 has poisoned in a clean line, DRAM holding them whole (10 R240). -/
  l2Poison : Tab Bool
  badEcc  : Tab Bool
  /-- L1D bytes, keyed ((core × 16 + partition) × 1024 + view) × 2^52 + address (10 R222 to R224). -/
  l1d     : Tab L1Byte
  /-- Sectors that an L1D holds poisoned, by their key over 32 (10 R229, R240). -/
  l1Poison : Tab Bool
  /-- L1I bytes, keyed core × 2^52 + address (10 R222, 03 R76); host core n counts as core 128 + n (20 R458). -/
  l1i     : Tab Byte
  /-- The lines in each set of the caches, the most recently used first (10 R222): core × 1,024 + set of an L1D, core × 256 + set
  of an L1I, slice × 4,096 + set of L2. -/
  l1dSets : Tab (List L1Way)
  l1iSets : Tab (List Nat)
  l2Sets  : Tab (List L2Way)
  /-- How many of the next transfers of a line fail their CRC, by line of the memory they read or write (10 R230). -/
  crcBad  : Tab Nat
  /-- Lines of which the directory records copies in host caches (10 R225; 11 R250, R493). -/
  copies  : Tab Bool
  /-- The locality hint of the instruction that issues (03 R70). -/
  hint    : Nat
  /-- Translation caches, by cluster; host cores' own at 16 + n (10 R237, 20 R458). -/
  tlb     : Tab (List TlbEntry)
  /-- Walks in flight, by port, in the order of their ends, and those that have ended since the port was last asked (10 R237). -/
  walks   : Tab (List Walk)
  /-- Device control space, by dword address (10 R234, R402; 14 R318; 15 R346 and so on); unlisted reads 0. -/
  ctl     : Tab Word
  /-- Binding table, slot tables (core × 16 + entry), bank formats (half-slab × 8 + bank), tag tables (slab × 256 + entry):
  15 R340, R351; 10 R218, R220. -/
  binding : Tab Word
  /-- The clk until which an sbind is being applied to a core's entry (15 R345). -/
  bindBusy : Tab Nat
  slots   : Tab Word
  bankFmt : Tab Word
  /-- Formats still in effect for a bank whose register was written: each with the clk until which it is (10 R219). -/
  fmtOld  : Tab (List (Nat × Word))
  tagTab  : Tab Word
  /-- slotw writes that wait for a clk of rotation index 0 (15 R355). -/
  slotReq : List SlotReq
  /-- Entries that the dispatcher has written since the last rotation index 0, as they stand until the next (15 R355). -/
  slotNow : Tab Word
  /-- The last thread that issued from a share: core × 16 + share (02 R32). -/
  shares  : Tab Nat
  /-- Device-scoped special registers by index, partition-scoped ones by partition × 256 + index (05 R123). -/
  dspr    : Tab Word
  pspr    : Tab Word
  /-- Performance counters, partition × 64 + number (19 R455, R456). -/
  perf    : Tab Word
  /-- Watchdog: clk of the service thread's last mbrecv, by partition (19 R457). -/
  wdog    : Tab Nat
  nodes   : Tab Node
  kernels : List Kernel
  rivals  : List RivalReq
  /-- Cluster of a partition's previous placement (03 R70). -/
  lastPut : Tab Nat
  /-- The first clk at which a partition's dispatcher may place again (13 R303), and the partitions whose dispatcher is to make a view
  for a staged or redundant node at the end of this clk, behind its forks (16 R396). -/
  tried   : Tab Nat
  lateDisp : List Nat
  deques  : Tab (List Sprout)
  mboxes  : Tab Mailbox
  posts   : List Held
  /-- Fault messages awaiting a reply: token, who waits (thread key, 0x8000 + chain, 0xC000 + partition), cause, address
  (10 R238). -/
  tokens  : Tab (Nat × Nat × Word)
  /-- Channel words, partition × 1024 + channel: words in the reader's buffer, words under way with the core sent from,
  words held for a reader, credits (13 R309, R310). -/
  chanBuf  : Tab (List Word)
  chanWay  : Tab (List (Nat × Word))
  chanUsed : Tab Nat
  /-- Credits under way to the writer. -/
  chanBack : Tab Nat
  /-- Sync objects by versionless location, MSU buffers and ORDLOG runs (11 R252, R264, R265). -/
  objs    : Tab SyncObj
  updates : List Ordered
  runs    : List OrdRun
  /-- Outboxes, partition × 1024 + view (16 R394). -/
  outbox  : Tab (List OutOp)
  /-- Rivals whose thread was killed or ended, and failed views: partition × 1024 + view ↦ (thread ended, killed). -/
  viewEnd : Tab (Bool × Bool)
  /-- The thread that made a pod, by partition × 256 + index (16 R376); it follows the thread when it moves. -/
  podOwner : Tab Nat
  /-- The pool of a rival's view, by partition × 1024 + view, while its pod's entry may already be another's (16 R390); and the view
  and granule of a failed view (16 R392; 18 R424). -/
  viewPool : Tab Nat
  viewFail : Tab Word
  /-- A rival's scratchpad window, partition × 1024 + view: first address and bytes (16 R380, R381). -/
  rwin    : Tab (Nat × Nat)
  /-- Redundant pairs' queues, by core (16 R401). -/
  lvq     : Tab (List RedEntry)
  scb     : Tab (List RedEntry)
  matq    : Tab (List MatEntry)
  matops  : Tab MatOp
  chains  : Tab Chain
  /-- Stores to control blocks that reach their engines in this clk, applied at its end (14 R319). -/
  chainOps : List (Nat × Word)
  /-- Engines whose next chunk meets an uncorrectable error in the engine (14 R331, cause 0x5D). -/
  engErr  : Tab Bool
  engRot  : Tab Nat
  engLate : Tab Nat
  offers  : List Offer
  husks   : Tab HuskExtra
  /-- Successors of completed nodes still to process: partition, completed node, remaining list addresses, token
  (13 R302). -/
  succWait : List (Nat × Nat × List Word × Nat)
  /-- Thermal: hot, gated and waking cores, the clk at which a core's last context became free (15 R366 to R370). -/
  hot     : Tab Bool
  gated   : Tab Bool
  waking  : Tab Nat
  idleAt  : Tab Nat
  /-- PTP time, in units of 2^-40 / 21 ns, at clk ptpAt; ADJ; the clk of the last write of ADJ or STEP (19 R438; 20 R468,
  R469). -/
  ptpBase : Int
  ptpRate : Int
  ptpAt   : Nat
  ptpWrote : Option Nat
  /-- Cycle domain (19 R432 to R442): running, the due time of the next tick in ns, whether a tick was made since EN was set,
  and in holdover its place on the device's own oscillator, in tenths of a clk. -/
  cycOn   : Bool
  cycDue  : Int
  cycTick : Bool
  cycHold : Int
  /-- SLIP holds the difference by which the next tick was moved (19 R434). -/
  slipKept : Bool
  /-- Changes of timelines and groups of this clk, evaluated at its end (19 R449, 17 R405), and the notifiers of armed
  timelines (19 R447). -/
  tlOps   : List TlOp
  groupOps : List Nat
  /-- Barrier instructions of this clk that an engine's update of this clk precedes, by thread (19 R450). -/
  barOps  : List (Nat × Instr)
  /-- Publishes under way to their ports (17 R410). -/
  pubOps  : List PubOp
  tlNote  : Tab Nat
  /-- Thread keys waiting in no table of their own are in Thread.run; frames queued and sent, per port. -/
  frames  : List Frame
  sent    : List Frame
  /-- Flow meters: committed and excess tokens in 10^-6 bits, and the PTP ns of their last refill; unlisted is full (17 R415). -/
  meters  : Tab (Nat × Nat × Nat)
  /-- Gate lists, by port: the next entry, and the states of the gates, all open where unlisted (17 R417); the ns after the
  tick at which that entry begins, and the tick's PTP time in its units; the clk until which a port sends. -/
  gateAt  : Tab Nat
  gateOn  : Tab Nat
  gateNs  : Tab Nat
  gateTick : Int
  sendAt  : Tab Nat
  /-- By port: frame preemption (17 R412). -/
  wires   : Tab Wire
  /-- PTP times, in ns, of the ticks whose stream gate windows may still be open (17 R415). -/
  ticks   : List Int
  /-- Latched frames' bytes due at the tick (17 R416). -/
  latches : List Latch
  /-- Testa link (20 R470 to R473): staging copies and the stamp last applied of each entry; heartbeats missed in a row and the
  stamp of the last one received; records sent, those not yet acknowledged, acknowledgements and heartbeats sent; sends under
  way (stamp, offset); the role due at the next tick (0 none). -/
  staging : List Staging
  applied : Tab Nat
  missed  : Nat
  lastBeat : Option Nat
  sentRecs : List (Nat × List Byte)
  unacked : List (Nat × List Byte)
  acks    : List (Nat × Option Nat)
  outHb   : List (List Byte)
  sending : Tab (Nat × Nat)
  roleDue : Nat
  /-- Error logs, keyed array × 4096 + instance (18 R427 to R429), and errors lost. -/
  errlog  : Tab (List ErrEntry)
  errLost : Tab Bool
  /-- Errors found and events logged in this clk, written at its end (18 R421, R429). -/
  errFound : List ErrFound
  events  : List Event
  /-- Units taken offline by a machine cause: UNIT × 65536 + instance (18 R430). -/
  offline : Tab Bool
  /-- Trace rings, by slice: entries written, entries consumed, the next entry to replay (unlisted: that of the lowest SEQ);
  write-backs of the last 1,024 clk by line, the L1D keys of the lines whose write-back a slice holds, the clk of each core's
  latest acquire (11 R254 to R258). -/
  traceSeq : Tab Nat
  traceUse : Tab Nat
  replayAt : Tab Nat
  wbs     : Tab (List WriteBack)
  heldWbs : List Nat
  /-- The held write-backs as they arrived, and those they conflict with (11 R257, R258). -/
  heldRecs : Tab (WriteBack × List WriteBack)
  acqAt   : Tab Nat
  /-- Flash, boot and attestation (20 R475 to R477): the boot flash, whether FAULT_N is driven low, VERSION and PROFILE of the
  accepted image, the fused rollback counter. -/
  flash   : Tab Byte
  faultLow : Bool
  imgVersion : Nat
  imgProfile : Nat
  rollback : Nat
  /-- Thermal trip: the device is held in reset (20 R479). -/
  tripped : Bool
  deriving DecidableEq, Repr

/-- The machine right after reset: no thread, nothing in memory, every table at its reset value, and the boot ROM's work
due (20 R475). BINDBASE, THERMMODE and the tables keep their reset values by the accessors' defaults. -/
def State.reset : State :=
  { clk := 0, bpos := 0, cur := none, agenda := [(0, .boot)], nextId := 0, free := 0,
    threads := [], mem := [], vmem := [], tags := [], poison := [], l2Poison := [], badEcc := [], l1d := [], l1Poison := [], l1i := [], l1dSets := [], l1iSets := [], l2Sets := [],
    crcBad := [], copies := [], hint := 0, tlb := [], walks := [],
    ctl := [], binding := [], bindBusy := [], slots := [], bankFmt := [], fmtOld := [], tagTab := [], slotReq := [], slotNow := [], shares := [],
    dspr := [], pspr := [], perf := [], wdog := [], nodes := [], kernels := [], rivals := [], lastPut := [], tried := [], lateDisp := [], deques := [],
    mboxes := [], posts := [], tokens := [], chanBuf := [], chanWay := [], chanUsed := [], chanBack := [],
    objs := [], updates := [], runs := [], outbox := [], viewEnd := [], podOwner := [], viewPool := [], viewFail := [], rwin := [], lvq := [], scb := [], matq := [],
    matops := [], chains := [], chainOps := [], engErr := [], engRot := [], engLate := [], offers := [], husks := [], succWait := [], hot := [], gated := [],
    waking := [], idleAt := [], ptpBase := 0, ptpRate := 0, ptpAt := 0, ptpWrote := none, cycOn := false, cycDue := 0,
    cycTick := false, cycHold := 0, slipKept := false, tlOps := [], groupOps := [], barOps := [], pubOps := [], tlNote := [], frames := [], sent := [], meters := [], gateAt := [], gateOn := [], gateNs := [], gateTick := 0, sendAt := [], wires := [], ticks := [],
    latches := [], staging := [], applied := [], missed := 0, lastBeat := none,
    sentRecs := [], unacked := [], acks := [], outHb := [], sending := [], roleDue := 0, errlog := [], errLost := [], errFound := [], events := [], offline := [], traceSeq := [],
    traceUse := [], replayAt := [], wbs := [], heldWbs := [], heldRecs := [], acqAt := [], flash := [], faultLow := false, imgVersion := 0, imgProfile := 0, rollback := 0, tripped := false }

end Sys2Proof.Machine
end

