-- ==== Sys2Proof/Machine/Bits.lean ====
section
/-! DEFINITION. Fields of words, sign extension, little-endian bytes, and tie_hash (03 R85, R86). -/

namespace Sys2Proof.Machine

/-- Bits [lo + n - 1 : lo] of a word, as a number. -/
def bits (w : Word) (lo n : Nat) : Nat := w.toNat / 2 ^ lo % 2 ^ n

/-- Bit i of a word. -/
def bit (w : Word) (i : Nat) : Bool := w.toNat / 2 ^ i % 2 == 1

/-- w with bits [lo + n - 1 : lo] replaced by v. -/
def setBits (w : Word) (lo n v : Nat) : Word :=
  BitVec.ofNat 64 (w.toNat % 2 ^ lo + (v % 2 ^ n) * 2 ^ lo + w.toNat / 2 ^ (lo + n) * 2 ^ (lo + n))

/-- A number as a word, modulo 2^64. -/
def wd (n : Nat) : Word := BitVec.ofNat 64 n

/-- v[n-1:0] sign-extended (03 R85), as an integer and as a word. -/
def sextInt (v n : Nat) : Int :=
  let m := v % 2 ^ n
  if 2 ^ (n - 1) ≤ m then (m : Int) - 2 ^ n else m

def sext (v n : Nat) : Word := BitVec.ofInt 64 (sextInt v n)

/-- An integer modulo 2^64. -/
def wdi (z : Int) : Word := BitVec.ofInt 64 z

/-- A word read as two's complement. -/
def sgn (w : Word) : Int := w.toInt

/-- n little-endian bytes of a number. -/
def toBytes : Nat → Nat → List Byte
  | 0, _ => []
  | n + 1, v => BitVec.ofNat 8 v :: toBytes n (v / 256)

/-- The number that little-endian bytes hold. -/
def ofBytes : List Byte → Nat
  | [] => 0
  | b :: r => b.toNat + 256 * ofBytes r

/-- n little-endian bytes of a record at an offset, as a number; bytes beyond the record read 0. -/
def fieldOf (bs : List Byte) (off n : Nat) : Nat := ofBytes ((bs.drop off).take n)

/-- The bytes of a record with n little-endian bytes replaced at an offset. -/
def setField (bs : List Byte) (off n v : Nat) : List Byte :=
  bs.take off ++ toBytes n v ++ bs.drop (off + n)

def allZero (bs : List Byte) : Bool := bs.all (fun b => b == 0)

/-- tie_hash (03 R86). -/
def tieHash (seed i : Word) : Word :=
  let x := seed ^^^ (i * 0x9E3779B97F4A7C15)
  let x := x ^^^ (x >>> 30)
  let x := x * 0xBF58476D1CE4E5B9
  let x := x ^^^ (x >>> 27)
  let x := x * 0x94D049BB133111EB
  x ^^^ (x >>> 31)

/-- The numbers lo, lo + 1, … (n of them). -/
def upFrom (lo : Nat) : Nat → List Nat
  | 0 => []
  | n + 1 => lo :: upFrom (lo + 1) n

/-- The first number from lo, of n tried, that has a property. -/
def firstFrom (p : Nat → Bool) (lo : Nat) : Nat → Option Nat
  | 0 => none
  | n + 1 => if p lo then some lo else firstFrom p (lo + 1) n

end Sys2Proof.Machine
end

