-- ==== Sys2Proof/Machine/Ctl.lean ====
section
/-! DEFINITION. Where the tables of device control space lie, and their fields. The space is held as its dwords; a field is
read and written in place. -/

namespace Sys2Proof.Machine

/-- The dword at a control-space address. -/
def rdCtl (s : State) (a : Nat) : Word := s.ctl.getD a 0

def wrCtl (s : State) (a : Nat) (v : Word) : State := { s with ctl := s.ctl.putD a 0 v }

/-- Bits [lo + n - 1 : lo] of the dword at a. -/
def ctlF (s : State) (a lo n : Nat) : Nat := bits (rdCtl s a) lo n

def setCtlF (s : State) (a lo n v : Nat) : State := wrCtl s a (setBits (rdCtl s a) lo n v)

/-! Addresses. -/

def chainBase (n : Nat) : Nat := 0xF000000100000 + n * 0x40
def fuseBase : Nat := 0xF000000001000
def rankBase : Nat := 0xF000000002000
def tempBase : Nat := 0xF000000002100
def machineBase : Nat := 0xF000000003000
def cycleBase : Nat := 0xF000000004000
def ptpBlock : Nat := 0xF000000005000
def testaBase : Nat := 0xF000000006000
def bootBlock : Nat := 0xF000000007000
def hostTable : Nat := 0xF000000008000
def partBase (p : Nat) : Nat := 0xF000000200000 + p * 0x10000
def tableBase (p : Nat) : Nat := 0xF000001000000 + p * 0x100000
def timelineBase (p i : Nat) : Nat := 0xF000002000000 + p * 0x40000 + i * 32
def streamBase : Nat := 0xF000004000000
def portBase (n : Nat) : Nat := 0xF000005000000 + n * 0x1000
def egressBase (n : Nat) : Nat := 0xF000006000000 + n * 0x1000

/-- The remap table (15 R346), view, pod and pool tables (16 R373), event ring (18 R421). -/
def remapHdr (p : Nat) : Nat := partBase p + 0x1000
def remapMap (p l : Nat) : Nat := partBase p + 0x1008 + 8 * l
def viewEnt (p v : Nat) : Nat := partBase p + 0x2000 + 16 * v
def podEnt (p i : Nat) : Nat := partBase p + 0x6000 + 32 * i
def poolEnt (p i : Nat) : Nat := partBase p + 0x8000 + 16 * i
def ringCtl (p : Nat) : Nat := partBase p + 0x9000
def ringEnt (p i : Nat) : Nat := partBase p + 0xA000 + 32 * i

/-- Channel, group, twin-buffer and region binding tables (17 R402). -/
def chanEnt (p c : Nat) : Nat := tableBase p + 32 * c
def groupEnt (p n : Nat) : Nat := tableBase p + 0x8000 + 16 * n
/-- Twin entries 0 and 1 are one copy seen alike by every partition (02 R47). -/
def twinEnt (p e : Nat) : Nat := if e < 2 then tableBase 0 + 0x10000 + 32 * e else tableBase p + 0x10000 + 32 * e
def regionEnt (p i : Nat) : Nat := tableBase p + 0x20000 + 32 * i

/-! The partition's cores (15 R346) and a core's place on the die (01 R11). -/

/-- L, the number of logical cores of a partition. -/
def logicals (s : State) (p : Nat) : Nat := ctlF s (remapHdr p) 0 8

/-- MAP(l). -/
def physOf (s : State) (p l : Nat) : Nat := ctlF s (remapMap p l) 0 7

/-- The physical cores of a partition, in logical order. -/
def coreList (s : State) (p : Nat) : List Nat := (upFrom 0 (logicals s p)).map (physOf s p)

def coreIn (s : State) (p c : Nat) : Bool := (coreList s p).contains c

/-- The partition a core belongs to (02 R47). -/
def partOfCore (s : State) (c : Nat) : Option Nat := firstFrom (fun p => coreIn s p c) 0 16

/-- The lowest logical core of a partition that MAP sends to physical core c. -/
def logicalOf (s : State) (p c : Nat) : Nat := (firstFrom (fun l => physOf s p l == c) 0 (logicals s p)).getD 0

/-- Cluster of a front end (01 R11). -/
def clusterOf (c : Nat) : Nat := 8 * (c / 16 / 4) + c % 16 / 2

/-! Bindings (15 R340). -/

def bindEntry (s : State) (c : Nat) : Word := s.binding.getD c 0xFFFFFFFFFFFFFFFF

/-- The slab references of an entry, (SA, SB) each, those that are not empty. -/
def slabRefs (w : Word) : List (Nat × Nat) :=
  ((upFrom 0 4).map (fun k => (bits w (16 * k) 8, bits w (16 * k + 8) 8))).filter (fun r => r != (255, 255))

/-- The gang width of a core, 0 when disabled (01 R13). -/
def gangOf (s : State) (c : Nat) : Nat := (slabRefs (bindEntry s c)).length

/-- Slab reference k of a core. -/
def slabRef (s : State) (c k : Nat) : Nat × Nat := ((slabRefs (bindEntry s c)).drop k).headD (0, 0)

/-- The half-slab, by number (15 R339), that holds lanes or banks of one half of slab k of a core. -/
def halfOf (s : State) (c k : Nat) (upper : Bool) : Nat :=
  if upper then (slabRef s c k).2 * 2 + 1 else (slabRef s c k).1 * 2

/-- Fuse bit of a half: 1 passed test, at reset all good (Log 8); a hard fault clears it (15 R339). -/
def fuseGood (s : State) (h : Nat) : Bool := ctlF s (fuseBase + 8 * (h / 64)) (h % 64) 1 == 0

/-! The cycle domain (19 R432). -/

def nowStamp (s : State) : Nat := ctlF s (cycleBase + 0x18) 0 48
def cyclePeriod (s : State) : Nat := ctlF s cycleBase 0 32
def cycleEn (s : State) : Bool := ctlF s cycleBase 32 1 == 1

/-- CYCPERIOD (05 R123). -/
def cycPeriodReg (s : State) : Nat := if cycleEn s then cyclePeriod s % 2 ^ 30 else 0

/-- A partition is the scan partition (02 R49), and scan rules bind while the cycle domain runs. -/
def isScan (s : State) (p : Nat) : Bool := p == 0 && ctlF s (partBase p) 0 1 == 1
def scanRuns (s : State) (p : Nat) : Bool := isScan s p && cycleEn s

/-! Performance counters (19 R455, R456): a partition's running total of an event. -/

def perfKey (p i : Nat) : Nat := p * 64 + i

/-- One more of event e in partition p. -/
def perfBump (s : State) (p e : Nat) : State :=
  { s with perf := s.perf.putD (perfKey p (32 + e)) 0 (s.perf.getD (perfKey p (32 + e)) 0 + 1) }

/-! The view table (16 R374). -/

def viewParent (s : State) (p v : Nat) : Nat := ctlF s (viewEnt p v) 0 10
def viewState (s : State) (p v : Nat) : Nat := ctlF s (viewEnt p v) 10 3
def viewDepth (s : State) (p v : Nat) : Nat := ctlF s (viewEnt p v) 13 3
def viewKind (s : State) (p v : Nat) : Nat := ctlF s (viewEnt p v) 32 2
def viewFailed (s : State) (p v : Nat) : Bool := ctlF s (viewEnt p v) 31 1 == 1

/-- A view and its ancestors up to the root, a view being merged counting as its parent (16 R389). -/
def viewChainGo (s : State) (p : Nat) : Nat → Nat → List Nat
  | 0, _ => [0]
  | _ + 1, 0 => [0]
  | n + 1, v => if viewState s p v = 3 then viewChainGo s p n (viewParent s p v) else v :: viewChainGo s p n (viewParent s p v)

def viewChain (s : State) (p v : Nat) : List Nat := viewChainGo s p 8 v

/-- Whether view u is v or one of its descendants. -/
def inView (s : State) (p v u : Nat) : Bool := (viewChainGo s p 8 u).contains v

end Sys2Proof.Machine
end

