-- ==== Sys2Proof/Machine/Fp.lean ====
section
/-! DEFINITION. Exact floating arithmetic and its one rounding (04 R89 to R100, R106). A finite value is a sign and a
fraction num / den of naturals; every operation computes the exact value first and rounds once, and flags fall out of
comparing the two. -/

namespace Sys2Proof.Machine

/-- The layout of a format (04 R89, R97, R99, R102): total bits, mantissa bits, exponent bias, the magnitude code of the
largest finite value, whether infinities exist, and the canonical NaN (04 R92; 0 where there is none). -/
structure FpFmt where
  width  : Nat
  mb     : Nat
  bias   : Nat
  maxFin : Nat
  hasInf : Bool
  nan    : Nat
  deriving DecidableEq, Repr

def fp64 : FpFmt := ⟨64, 52, 1023, 0x7FEFFFFFFFFFFFFF, true, 0x7FF8000000000000⟩
def fp32 : FpFmt := ⟨32, 23, 127, 0x7F7FFFFF, true, 0x7FC00000⟩
def fp16 : FpFmt := ⟨16, 10, 15, 0x7BFF, true, 0x7E00⟩
def bf16 : FpFmt := ⟨16, 7, 127, 0x7F7F, true, 0x7FC0⟩
def e4m3 : FpFmt := ⟨8, 3, 7, 0x7E, false, 0x7F⟩
def e5m2 : FpFmt := ⟨8, 2, 15, 0x7B, true, 0x7E⟩
def fp4 : FpFmt := ⟨4, 1, 1, 0x7, false, 0⟩
/-- The E3M5 scale byte, which has no sign: e = 0 is subnormal with exponent -2 (04 R102). -/
def e3m5 : FpFmt := ⟨9, 5, 3, 0xFF, false, 0⟩

/-- A floating value: a NaN, an infinity, or (-1)^neg × num / den with den > 0. -/
inductive FpVal where
  | nan (signalling : Bool)
  | inf (neg : Bool)
  | fin (neg : Bool) (num den : Nat)
  deriving DecidableEq, Repr

/-- FPFLAGS bits (04 R94). -/
abbrev FpFlags := BitVec 5
def flagNV : FpFlags := 1
def flagDZ : FpFlags := 2
def flagOF : FpFlags := 4
def flagUF : FpFlags := 8
def flagNX : FpFlags := 16

/-- A code and the flags its making raised. -/
structure FpRes where
  code  : Nat
  flags : FpFlags
  deriving DecidableEq, Repr

/-- 2^e as a fraction multiplied in. -/
def scaleNum (n : Nat) (e : Int) : Nat := n * 2 ^ e.toNat
def scaleDen (e : Int) : Nat := 2 ^ (-e).toNat

def fpSignBit (f : FpFmt) (neg : Bool) : Nat := if neg then 2 ^ (f.width - 1) else 0

/-- The value a code stands for (04 R92, R97, R99, R102). -/
def fpDecode (f : FpFmt) (code : Nat) : FpVal :=
  let c := code % 2 ^ f.width
  let neg := 2 ^ (f.width - 1) ≤ c
  let m := c % 2 ^ (f.width - 1)
  if f.maxFin < m then
    if f.hasInf && m == f.maxFin + 1 then .inf neg
    else .nan (f.hasInf && m % 2 ^ f.mb < 2 ^ (f.mb - 1))
  else
    let ef := m / 2 ^ f.mb
    let mant := m % 2 ^ f.mb
    let q : Int := (if ef = 0 then 1 else (ef : Int)) - f.bias - f.mb
    let n := if ef = 0 then mant else 2 ^ f.mb + mant
    .fin neg (scaleNum n q) (scaleDen q)

/-- The exponent of num / den > 0: 2^E ≤ num / den < 2^(E+1). -/
def fpExp (num den : Nat) : Int :=
  let l : Int := (num.log2 : Int) - den.log2
  if scaleNum den l ≤ num * scaleDen l then l else l - 1

/-- Whether the magnitude quotient n with remainder r / d is rounded up (04 R93: 0 RNE, 1 RTZ, 2 RUP, 3 RDN). -/
def roundsUp (rm : Nat) (neg : Bool) (n r d : Nat) : Bool :=
  match rm with
  | 0 => d < 2 * r || (2 * r == d && n % 2 == 1)
  | 1 => false
  | 2 => !neg && r != 0
  | _ => neg && r != 0

/-- What rounding a magnitude gives: its code with the exponent unbounded above, whether it was inexact, and whether it is
tiny after rounding (04 R94). -/
structure Rounded where
  code    : Nat
  inexact : Bool
  tiny    : Bool
  deriving DecidableEq, Repr

/-- num / den in units of 2^q, rounded to an integer. -/
def roundQuot (rm : Nat) (neg : Bool) (num den : Nat) (q : Int) : Nat × Bool :=
  let a := num * scaleDen q
  let b := scaleNum den q
  let n := a / b
  let r := a % b
  (if roundsUp rm neg n r b then n + 1 else n, r != 0)

/-- Rounds num / den to the precision of f. -/
def roundMag (f : FpFmt) (rm : Nat) (neg : Bool) (num den : Nat) : Rounded :=
  if num = 0 then ⟨0, false, false⟩
  else
    let e := fpExp num den
    let emin : Int := 1 - f.bias
    let q := (if e < emin then emin else e) - f.mb
    let j := (q - (emin - f.mb)).toNat
    let (n, ix) := roundQuot rm neg num den q
    let tiny := e < emin && !(e == emin - 1 && (roundQuot rm neg num den (e - f.mb)).1 == 2 ^ (f.mb + 1))
    ⟨j * 2 ^ f.mb + n, ix, tiny⟩

/-- Whether an overflow in mode rm gives an infinity (IEEE 754-2019 for the rounding mode). -/
def overflowsToInf (rm : Nat) (neg : Bool) : Bool := rm == 0 || (rm == 2 && !neg) || (rm == 3 && neg)

/-- Rounds a finite value into an IEEE format, with its flags (04 R92 to R95). -/
def fpRound (f : FpFmt) (rm : Nat) (neg : Bool) (num den : Nat) : FpRes :=
  let r := roundMag f rm neg num den
  if f.maxFin < r.code then
    ⟨fpSignBit f neg + (if overflowsToInf rm neg then f.maxFin + 1 else f.maxFin), flagOF ||| flagNX⟩
  else
    ⟨fpSignBit f neg + r.code,
      (if r.inexact then flagNX else 0) ||| (if r.inexact && r.tiny then flagUF else 0)⟩

/-- Rounds a finite value into a format that saturates (04 R100): FP4, E3M5, and BF16 in quantisation (04 R104). -/
def fpRoundSat (f : FpFmt) (rm : Nat) (neg : Bool) (num den : Nat) : FpRes :=
  let r := roundMag f rm neg num den
  if f.maxFin < r.code then ⟨fpSignBit f neg + f.maxFin, flagNX⟩
  else ⟨fpSignBit f neg + r.code, if r.inexact then flagNX else 0⟩

/-- Rounds a finite value into FP8 by 04 R98. -/
def fpRound8 (f : FpFmt) (rm : Nat) (sat : Bool) (neg : Bool) (num den : Nat) : FpRes :=
  let r := roundMag f rm neg num den
  if f.maxFin < r.code then
    let m := if sat then f.maxFin else if overflowsToInf rm neg then f.maxFin + 1 else f.maxFin
    ⟨fpSignBit f neg + m, flagOF ||| flagNX⟩
  else
    ⟨fpSignBit f neg + r.code,
      (if r.inexact then flagNX else 0) ||| (if r.inexact && r.tiny then flagUF else 0)⟩

/-- Converts a value into FP8 (04 R98). -/
def fpTo8 (f : FpFmt) (rm : Nat) (sat : Bool) : FpVal → FpRes
  | .nan s => ⟨f.nan, if s then flagNV else 0⟩
  | .inf neg =>
    if sat then ⟨fpSignBit f neg + f.maxFin, 0⟩
    else if f.hasInf then ⟨fpSignBit f neg + f.maxFin + 1, 0⟩ else ⟨f.nan, 0⟩
  | .fin neg n d => fpRound8 f rm sat neg n d

/-- Converts a value into an IEEE format (06 R150). -/
def fpConvert (f : FpFmt) (rm : Nat) : FpVal → FpRes
  | .nan s => ⟨f.nan, if s then flagNV else 0⟩
  | .inf neg => ⟨fpSignBit f neg + f.maxFin + 1, 0⟩
  | .fin neg n d => fpRound f rm neg n d

def FpVal.isNan : FpVal → Bool
  | .nan _ => true
  | _ => false
def FpVal.isSnan : FpVal → Bool
  | .nan s => s
  | _ => false
def FpVal.isInf : FpVal → Bool
  | .inf _ => true
  | _ => false
def FpVal.isZero : FpVal → Bool
  | .fin _ n _ => n == 0
  | _ => false
def FpVal.isNeg : FpVal → Bool
  | .nan _ => false
  | .inf s => s
  | .fin s _ _ => s
def FpVal.negate : FpVal → FpVal
  | .nan s => .nan s
  | .inf s => .inf (!s)
  | .fin s n d => .fin (!s) n d
def FpVal.abs : FpVal → FpVal
  | .nan s => .nan s
  | .inf _ => .inf false
  | .fin _ n d => .fin false n d

def signed (neg : Bool) (n : Nat) : Int := if neg then -(n : Int) else n

/-- The exact sum of two finite values; an exact zero of opposite signs takes the sign of 06 R146. -/
def finAdd (rm : Nat) (s1 : Bool) (n1 d1 : Nat) (s2 : Bool) (n2 d2 : Nat) : FpVal :=
  let z := signed s1 (n1 * d2) + signed s2 (n2 * d1)
  if z = 0 then .fin (if s1 == s2 then s1 else rm == 3) 0 1
  else .fin (decide (z < 0)) z.natAbs (d1 * d2)

/-- An exact value with the invalid flag its making raised; NaN results are canonical when written. -/
structure FpExact where
  val   : FpVal
  flags : FpFlags
  deriving DecidableEq, Repr

def nvIf (c : Bool) : FpFlags := if c then flagNV else 0

def exactAdd (rm : Nat) (a b : FpVal) : FpExact :=
  match a, b with
  | .nan s, .nan t => ⟨.nan false, nvIf (s || t)⟩
  | .nan s, _ => ⟨.nan false, nvIf s⟩
  | _, .nan t => ⟨.nan false, nvIf t⟩
  | .inf s, .inf t => if s == t then ⟨.inf s, 0⟩ else ⟨.nan false, flagNV⟩
  | .inf s, .fin _ _ _ => ⟨.inf s, 0⟩
  | .fin _ _ _, .inf t => ⟨.inf t, 0⟩
  | .fin s1 n1 d1, .fin s2 n2 d2 => ⟨finAdd rm s1 n1 d1 s2 n2 d2, 0⟩

def exactMul (a b : FpVal) : FpExact :=
  match a, b with
  | .nan s, .nan t => ⟨.nan false, nvIf (s || t)⟩
  | .nan s, _ => ⟨.nan false, nvIf s⟩
  | _, .nan t => ⟨.nan false, nvIf t⟩
  | .inf s, .inf t => ⟨.inf (s != t), 0⟩
  | .inf s, .fin t n _ => if n = 0 then ⟨.nan false, flagNV⟩ else ⟨.inf (s != t), 0⟩
  | .fin s n _, .inf t => if n = 0 then ⟨.nan false, flagNV⟩ else ⟨.inf (s != t), 0⟩
  | .fin s1 n1 d1, .fin s2 n2 d2 => ⟨.fin (s1 != s2) (n1 * n2) (d1 * d2), 0⟩

def exactDiv (a b : FpVal) : FpExact :=
  match a, b with
  | .nan s, .nan t => ⟨.nan false, nvIf (s || t)⟩
  | .nan s, _ => ⟨.nan false, nvIf s⟩
  | _, .nan t => ⟨.nan false, nvIf t⟩
  | .inf _, .inf _ => ⟨.nan false, flagNV⟩
  | .inf s, .fin t _ _ => ⟨.inf (s != t), 0⟩
  | .fin s _ _, .inf t => ⟨.fin (s != t) 0 1, 0⟩
  | .fin s1 n1 d1, .fin s2 n2 d2 =>
    if n2 = 0 then (if n1 = 0 then ⟨.nan false, flagNV⟩ else ⟨.inf (s1 != s2), flagDZ⟩)
    else ⟨.fin (s1 != s2) (n1 * d2) (d1 * n2), 0⟩

/-- The integer square root, one bit at a time from bit k down. -/
def isqrtGo (x : Nat) : Nat → Nat → Nat
  | 0, r => r
  | k + 1, r =>
    let c := r + 2 ^ k
    if c * c ≤ x then isqrtGo x k c else isqrtGo x k r

def isqrt (x : Nat) : Nat := isqrtGo x (x.log2 / 2 + 1) 0

/-- A number that rounds as the square root of num / den does: the root in units of 2^-k, with one sticky bit below it. -/
def sqrtSticky (num den : Nat) : Nat × Nat :=
  let k := 130 + den.log2
  let x := num * 2 ^ (2 * k) / den
  let r := isqrt x
  let exact := r * r * den == num * 2 ^ (2 * k)
  (2 * r + (if exact then 0 else 1), 2 ^ (k + 1))

def exactSqrt (a : FpVal) : FpExact :=
  match a with
  | .nan s => ⟨.nan false, nvIf s⟩
  | .inf s => if s then ⟨.nan false, flagNV⟩ else ⟨.inf false, 0⟩
  | .fin s n d =>
    if n = 0 then ⟨.fin s 0 1, 0⟩
    else if s then ⟨.nan false, flagNV⟩
    else ⟨.fin false (sqrtSticky n d).1 (sqrtSticky n d).2, 0⟩

/-- 1 / √a for vrsqrt (09 R198). -/
def exactRsqrt (a : FpVal) : FpExact :=
  match a with
  | .nan s => ⟨.nan false, nvIf s⟩
  | .inf s => if s then ⟨.nan false, flagNV⟩ else ⟨.fin false 0 1, 0⟩
  | .fin s n d =>
    if n = 0 then ⟨.inf s, flagDZ⟩
    else if s then ⟨.nan false, flagNV⟩
    else ⟨.fin false (sqrtSticky d n).1 (sqrtSticky d n).2, 0⟩

/-- ln 2 in units of 2^-320. -/
def ln2Fix : Nat := 0xb17217f7d1cf79abc9e3b39803f2f6af40f343267298b62d8a0d175b8baafa2be7b876206debac98

/-- The terms of exp's series in units of 2^-320: term × x / k for k rising. -/
def expSeries (x : Nat) : Nat → Nat → Nat → Nat → Nat
  | 0, _, _, acc => acc
  | fuel + 1, k, term, acc =>
    let t := term * x / 2 ^ 320 / k
    expSeries x fuel (k + 1) t (acc + t)

/-- 2^f in units of 2^-320, f = fr / 2^320 in [0, 1). -/
def exp2Frac (fr : Nat) : Nat := expSeries (fr * ln2Fix / 2 ^ 320) 90 1 (2 ^ 320) (2 ^ 320)

/-- 2^a for vexp2 (09 R198): exact for an integer, else a number that rounds as 2^a does. An exponent beyond 2^15 in
magnitude overflows or underflows every format. -/
def exactExp2 (a : FpVal) : FpExact :=
  match a with
  | .nan s => ⟨.nan false, nvIf s⟩
  | .inf s => if s then ⟨.fin false 0 1, 0⟩ else ⟨.inf false, 0⟩
  | .fin s n d =>
    if n = 0 then ⟨.fin false 1 1, 0⟩
    else if 2 ^ 15 * d ≤ n then
      (if s then ⟨.fin false 1 (2 ^ 40000), 0⟩ else ⟨.fin false (2 ^ 40000) 1, 0⟩)
    else if n * 2 ^ 80 < d then
      (if s then ⟨.fin false (2 ^ 200 - 1) (2 ^ 200), 0⟩ else ⟨.fin false (2 ^ 200 + 1) (2 ^ 200), 0⟩)
    else
      let fl : Int := if s then -(((n + d - 1) / d : Nat) : Int) else ((n / d : Nat) : Int)
      let fr := ((signed s n - fl * d).toNat) * 2 ^ 320 / d
      if fr = 0 then ⟨.fin false (scaleNum 1 fl) (scaleDen fl), 0⟩
      else ⟨.fin false (scaleNum (2 * exp2Frac fr + 1) fl) (2 ^ 321 * scaleDen fl), 0⟩

/-- Rounds an exact result into a format, with all its flags and the canonical NaN. -/
def fpFinish (f : FpFmt) (rm : Nat) (x : FpExact) : FpRes :=
  match x.val with
  | .nan _ => ⟨f.nan, x.flags⟩
  | .inf s => ⟨fpSignBit f s + f.maxFin + 1, x.flags⟩
  | .fin s n d =>
    let r := fpRound f rm s n d
    ⟨r.code, x.flags ||| r.flags⟩

def fpAdd (f : FpFmt) (rm a b : Nat) : FpRes := fpFinish f rm (exactAdd rm (fpDecode f a) (fpDecode f b))
def fpSub (f : FpFmt) (rm a b : Nat) : FpRes := fpFinish f rm (exactAdd rm (fpDecode f a) (fpDecode f b).negate)
def fpMul (f : FpFmt) (rm a b : Nat) : FpRes := fpFinish f rm (exactMul (fpDecode f a) (fpDecode f b))
def fpDiv (f : FpFmt) (rm a b : Nat) : FpRes := fpFinish f rm (exactDiv (fpDecode f a) (fpDecode f b))
def fpSqrt (f : FpFmt) (rm a : Nat) : FpRes := fpFinish f rm (exactSqrt (fpDecode f a))
def fpRsqrt (f : FpFmt) (rm a : Nat) : FpRes := fpFinish f rm (exactRsqrt (fpDecode f a))
def fpExp2 (f : FpFmt) (rm a : Nat) : FpRes := fpFinish f rm (exactExp2 (fpDecode f a))

/-- a × b + c with one rounding (06 R147: 0 × ∞ raises NV whatever c holds). -/
def exactFma (rm : Nat) (a b c : FpVal) : FpExact :=
  let p := exactMul a b
  match p.val with
  | .nan _ => ⟨.nan false, p.flags ||| nvIf c.isSnan⟩
  | v =>
    let x := exactAdd rm v c
    ⟨x.val, p.flags ||| x.flags⟩

def fpFma (f : FpFmt) (rm a b c : Nat) : FpRes :=
  fpFinish f rm (exactFma rm (fpDecode f a) (fpDecode f b) (fpDecode f c))

/-- a < b of two values that are not NaN, -0 and +0 equal. -/
def fpLtVal (a b : FpVal) : Bool :=
  match a, b with
  | .nan _, _ => false
  | _, .nan _ => false
  | .inf s, .inf t => s && !t
  | .inf s, .fin _ _ _ => s
  | .fin _ _ _, .inf t => !t
  | .fin s n d, .fin t m e => decide (signed s (n * e) < signed t (m * d))

def fpEqVal (a b : FpVal) : Bool := !a.isNan && !b.isNan && !fpLtVal a b && !fpLtVal b a

/-- minimumNumber and maximumNumber (06 R148); -0 counts as less than +0. -/
def fpMinMax (f : FpFmt) (isMax : Bool) (a b : Nat) : FpRes :=
  let x := fpDecode f a
  let y := fpDecode f b
  let nv := nvIf (x.isSnan || y.isSnan)
  let lt := fpLtVal x y || (fpEqVal x y && x.isNeg && !y.isNeg)
  if x.isNan && y.isNan then ⟨f.nan, nv⟩
  else if x.isNan then ⟨b % 2 ^ f.width, nv⟩
  else if y.isNan then ⟨a % 2 ^ f.width, nv⟩
  else ⟨(if lt != isMax then a else b) % 2 ^ f.width, 0⟩

/-- The relations of flt (06 R149): 0 less, 1 less or equal, 2 equal, 3 unordered. -/
def fpCompare (f : FpFmt) (c a b : Nat) : Bool × FpFlags :=
  let x := fpDecode f a
  let y := fpDecode f b
  let un := x.isNan || y.isNan
  let sn := nvIf (x.isSnan || y.isSnan)
  match c with
  | 0 => (!un && fpLtVal x y, nvIf un)
  | 1 => (!un && !fpLtVal y x, nvIf un)
  | 2 => (fpEqVal x y, sn)
  | _ => (un, sn)

/-- A finite magnitude rounded to an integer. -/
def roundInt (rm : Nat) (neg : Bool) (num den : Nat) : Nat × Bool := roundQuot rm neg num den 0

/-- Conversion to an integer in [lo, hi] (04 R106). -/
def fpToInt (rm : Nat) (lo hi : Int) : FpVal → Int × FpFlags
  | .nan _ => (0, flagNV)
  | .inf s => (if s then lo else hi, flagNV)
  | .fin s n d =>
    let r := roundInt rm s n d
    let z := signed s r.1
    if z < lo then (lo, flagNV) else if hi < z then (hi, flagNV)
    else (z, if r.2 then flagNX else 0)

/-- Conversion from an integer (04 R106). -/
def fpOfInt (f : FpFmt) (rm : Nat) (z : Int) : FpRes := fpRound f rm (decide (z < 0)) z.natAbs 1

/-- FTZ on an input: a subnormal becomes a zero of its sign (04 R95). -/
def flushIn (f : FpFmt) (ftz : Bool) (a : Nat) : Nat :=
  if ftz && f == fp32 && a % 2 ^ 31 < 2 ^ 23 then a / 2 ^ 31 % 2 * 2 ^ 31 else a

/-- FTZ on a result: a subnormal becomes a zero of its sign, raising UF and NX (04 R95). -/
def flushOut (f : FpFmt) (ftz : Bool) (r : FpRes) : FpRes :=
  if ftz && f == fp32 && r.code % 2 ^ 31 != 0 && r.code % 2 ^ 31 < 2 ^ 23 then
    ⟨r.code / 2 ^ 31 % 2 * 2 ^ 31, r.flags ||| flagUF ||| flagNX⟩
  else r

end Sys2Proof.Machine
end

