-- ==== Sys2Proof/Machine/Flags.lean ====
section
/-! DEFINITION. FPFLAGS and FPCTL (04 R93, R94, R96): accumulation of flags and the enabled exceptions. The integer opcodes
raise no flag (06 R136). -/

namespace Sys2Proof.Machine

/-- Fields of FPCTL (04 R93). -/
def ctlRm (w : Word) : Nat := bits w 0 2
def ctlFtz (w : Word) : Bool := bit w 5
def ctlSat8 (w : Word) : Bool := bit w 6

/-- Sticky accumulation into FPFLAGS (04 R94). -/
def accrue (old : Word) (f : FpFlags) : Word := old ||| f.setWidth 64

/-- The cause an enabled exception traps with (04 R96): 0x1C for invalid, 0x1D for divide by zero or overflow, invalid first;
none where no raised flag is enabled. -/
def fpCause (fpctl : Word) (f : FpFlags) : Option Nat :=
  if bit fpctl 2 && f &&& flagNV != 0 then some 0x1C
  else if (bit fpctl 3 && f &&& flagDZ != 0) || (bit fpctl 4 && f &&& flagOF != 0) then some 0x1D
  else none

/-- Some trap enable is set (06 R134). -/
def fpTrapsOn (fpctl : Word) : Bool := bit fpctl 2 || bit fpctl 3 || bit fpctl 4

end Sys2Proof.Machine
end

