-- ==== Sys2Proof/Machine/Ops.lean ====
section
/-! DEFINITION. The named operations over threads and registers, the agenda of due events, service messages and event
rings, taking an exception and returning from one. -/

namespace Sys2Proof.Machine

/-! Special-register indices (05 R123). -/

def rPC : Nat := 0x00
def rTID : Nat := 0x01
def rTCOORD : Nat := 0x02
def rCORE : Nat := 0x03
def rPCORE : Nat := 0x04
def rNODE : Nat := 0x05
def rGWIN : Nat := 0x06
def rTWIN : Nat := 0x07
def rMODE : Nat := 0x08
def rTVEC : Nat := 0x09
def rTCAUSE : Nat := 0x0A
def rTPC : Nat := 0x0B
def rTINFO : Nat := 0x0C
def rUIVEC : Nat := 0x0D
def rUIPC : Nat := 0x0E
def rUISTAT : Nat := 0x0F
def rWAITLIM : Nat := 0x10
def rLOOPCNT : Nat := 0x11
def rLOOPTOP : Nat := 0x15
def rLOOPEND : Nat := 0x19
def rVIEW : Nat := 0x1D
def rWDEPTH : Nat := 0x1E
def rPOD : Nat := 0x1F
def rTIESEED : Nat := 0x20
def rFPCTL : Nat := 0x21
def rFPFLAGS : Nat := 0x22
def rSTAMPIN : Nat := 0x23
def rGANG : Nat := 0x24
def rSLOTS : Nat := 0x25
def rSPACING : Nat := 0x26
def rPROMISE : Nat := 0x27
def rREDUND : Nat := 0x28
def rCYCPERIOD : Nat := 0x29
def rROLE : Nat := 0x2A
def rPARTITION : Nat := 0x2B
def rBINDBASE : Nat := 0x80
def rSLOTBASE : Nat := 0x81
def rERRINJ : Nat := 0x82
def rERRLOGSEL : Nat := 0x83
def rERRLOG : Nat := 0x84
def rTHERMMODE : Nat := 0x85
def rAUDIT : Nat := 0x86
def rTRACECTL : Nat := 0x87
def rHUSKBASE : Nat := 0x88
def rORDLOG : Nat := 0x89
def rSVCTHREAD : Nat := 0x8A
def rPERFSEL : Nat := 0x8B
def rPERFCNT : Nat := 0x8C
def rWDOGLIM : Nat := 0x8D

/-! Threads and their registers. -/

def thr (s : State) (k : Nat) : Option Thread := s.threads.get? k
def setThr (s : State) (k : Nat) (t : Thread) : State := { s with threads := s.threads.put k t }
def modThr (s : State) (k : Nat) (f : Thread → Thread) : State := { s with threads := s.threads.modify k f }

/-- Physical core and context of a device thread's key. -/
def coreOf (k : Nat) : Nat := k / 64
def ctxOf (k : Nat) : Nat := k % 64
def isHostKey (k : Nat) : Bool := 8192 ≤ k

/-- The key under which a husk's thread is named. -/
def huskKey (slot : Nat) : Nat := 2 ^ 20 + slot
def isHuskKey (k : Nat) : Bool := 2 ^ 20 ≤ k

def getSpr (t : Thread) (i : Nat) : Word := t.spr.getD i 0
def setSpr (t : Thread) (i : Nat) (v : Word) : Thread := { t with spr := t.spr.putD i 0 v }

/-- MODE's fields (05 R125). -/
def supOf (t : Thread) : Bool := bit (getSpr t rMODE) 0
def thOf (t : Thread) : Bool := bit (getSpr t rMODE) 1
def uihOf (t : Thread) : Bool := bit (getSpr t rMODE) 2
def uienOf (t : Thread) : Bool := bit (getSpr t rMODE) 3
def ldepthOf (t : Thread) : Nat := bits (getSpr t rMODE) 4 3
def sstepOf (t : Thread) : Bool := bit (getSpr t rMODE) 7
def setMode (t : Thread) (lo n v : Nat) : Thread := setSpr t rMODE (setBits (getSpr t rMODE) lo n v)

def partOf (t : Thread) : Nat := if t.host then 16 else bits (getSpr t rPARTITION) 0 4
def viewOf (t : Thread) : Nat := bits (getSpr t rVIEW) 0 10
def podOf (t : Thread) : Nat := bits (getSpr t rPOD) 0 16
def fpctlOf (t : Thread) : Word := getSpr t rFPCTL

/-- Whether a register number names a shadow register (03 R72). -/
def isShadow (t : Thread) (n : Nat) : Bool := uihOf t && 124 ≤ n

/-- gpr(n) (03 R85): 0 for g0, h0 to h3 for 124 to 127 in a user-interrupt handler. -/
def gprOf (t : Thread) (n : Nat) : Word :=
  if n = 0 then 0 else if isShadow t n then t.shadow.getD (n - 124) 0 else t.gpr.getD n 0

/-- set_gpr(n, v) (03 R85): ignored for g0. -/
def setGpr (t : Thread) (n : Nat) (v : Word) : Thread :=
  if n = 0 then t
  else if isShadow t n then { t with shadow := t.shadow.putD (n - 124) 0 v }
  else { t with gpr := t.gpr.putD n 0 v }

/-- The name under which a register's pending results are kept: a shadow register is not the window's register. -/
def regId (t : Thread) (n : Nat) : Nat := if isShadow t n then n + 4 else n

/-- Writes a register by the name its pending results are kept under. -/
def setById (t : Thread) (r : Nat) (v : Word) : Thread :=
  if r = 0 then t
  else if 128 ≤ r then { t with shadow := t.shadow.putD (r - 128) 0 v }
  else { t with gpr := t.gpr.putD r 0 v }

/-- A register as an instruction issuing now reads it: a fixed-latency result not yet elapsed is read as the old or the new
value, a free choice (02 R34, Log 13). -/
def readG (s : State) (t : Thread) (n : Nat) : Word :=
  match t.flight.find? (fun x => x.reg == regId t n && s.clk < x.ready) with
  | none => gprOf t n
  | some x => if n = 0 then 0 else if Config.freeBit (s.free * 256 + x.reg) then x.old else gprOf t n

/-- A fixed-latency result (02 R34): written with the value before it kept until it elapses. -/
def putFixed (s : State) (k lat n : Nat) (v : Word) : State :=
  modThr s k fun t =>
    if n = 0 then t
    else
      let r := regId t n
      let keep := t.flight.filter (fun x => x.reg != r && s.clk < x.ready)
      { setGpr t n v with flight := ⟨r, gprOf t n, s.clk + lat⟩ :: keep }

/-! The agenda. Due events run in order of their clk; of one clk the tick comes first (19 R436) and the dispatchers after the frees
of sweeps and folds (16 R396). Those that come after its instructions are the local starts and steals of sprouts (13 R308) and the
chunks of the copy engines (11 R247); behind what the clk's end settles, the messages that reach mailboxes, posts first and then
by sender (13 R315), the starts of matrix entries, which look at every entry of the clk (09 R209), and wait-limit expiries (18
R426). -/

def eventPhase : Instr → Nat
  | .engineChunk _ => 1
  | .sproutLocalStart _ => 1
  | .sproutSteal _ => 1
  | .postRetry _ => 2
  | .heldMbsendRetry _ => 2
  | .mailboxArrive _ _ _ => 2
  | .matrixEntryStart _ => 2
  | .waitLimitExpiry _ => 2
  | _ => 0

/-- The place of an event among those of its clk and phase: messages by sender (13 R315), kicks by kicker (14 R337),
steals after local starts, by stealer (13 R308), chunks by engine (11 R247). -/
def eventRank : Instr → Nat
  | .postRetry _ => 0
  | .heldMbsendRetry _ => 1
  | .mailboxArrive _ sender _ => 2 + sender
  | .matrixEntryStart _ => 15000
  | .waitLimitExpiry _ => 16000
  | .kickApply _ _ _ kicker => 2 + kicker
  | .sproutSteal core => 1 + core
  | .engineChunk engine => 9000 + engine
  | .boundaryTick => 0
  | .dispatchPlace _ => 16000
  | _ => 1

/-- An event's place. -/
def agendaKey (p : Nat × Instr) : Nat := (4 * p.1 + eventPhase p.2) * 2 ^ 14 + eventRank p.2

def agendaPut (p : Nat × Instr) : List (Nat × Instr) → List (Nat × Instr)
  | [] => [p]
  | q :: r => if agendaKey q ≤ agendaKey p then q :: agendaPut p r else p :: q :: r

/-- Makes an event due at a clk. -/
def sched (s : State) (due : Nat) (i : Instr) : State := { s with agenda := agendaPut (due, i) s.agenda }

/-- Withdraws every due event that has a property. -/
def unsched (s : State) (p : Instr → Bool) : State := { s with agenda := s.agenda.filter (fun q => !p q.2) }

/-- A scoreboarded result (02 R35): values that reach registers, and tiles that unlock, at clk due. -/
def putScored (s : State) (k due : Nat) (regs : List (Nat × Word)) (tiles : List Nat) : State :=
  let s1 := modThr s k fun t =>
    { t with sb := t.sb ++ [⟨s.nextId, due, (regs.filter (fun r => r.1 != 0)).map (fun r => (regId t r.1, r.2)), tiles⟩] }
  sched { s1 with nextId := s.nextId + 1 } due (.scoreboardResultArrival k s.nextId)

def findPending (t : Thread) (id : Nat) : Option Pending := t.sb.find? (fun p => p.id == id)

/-- A result arrives: its registers are written, its tiles unlock. -/
def arrive (t : Thread) (id : Nat) : Thread :=
  match findPending t id with
  | none => t
  | some p => { p.regs.foldl (fun a r => setById a r.1 r.2) t with sb := t.sb.filter (fun q => q.id != id) }

/-- Every result of the scalar and tile instructions already issued is written (07 R162, 06 R135, 08 R181); the locks of
matrix work, which are kept elsewhere, stay. -/
def settle (t : Thread) : Thread :=
  { t.sb.foldl (fun a p => p.regs.foldl (fun b r => setById b r.1 r.2) a) t with sb := [], flight := [] }

/-- The clk by which they are all written, and by which its floating instructions have completed: the thread issues nothing
before. -/
def settleAt (s : State) (t : Thread) : Nat :=
  t.sb.foldl (fun m p => max m p.due) (t.flight.foldl (fun m x => max m x.ready) (max s.clk t.fpUntil))

/-- Stamped reads that complete by a clk lower the node's STAMPIN (02 R52; 05 R129). -/
def lowerStamps (s : State) (k by_ : Nat) : State :=
  match thr s k with
  | none => s
  | some t =>
    match t.stamps.filter (fun x => x.1 ≤ by_) with
    | [] => s
    | done =>
      let s1 := setThr s k { t with stamps := t.stamps.filter (fun x => by_ < x.1) }
      match t.node with
      | none => s1
      | some key =>
        { s1 with nodes := s1.nodes.modify key (fun n => { n with stampin := done.foldl (fun m x => min m x.2) n.stampin }) }

/-- The stamped reads that complete in a clk lower STAMPIN at its end: an swrite of another thread counts those completed before its
own clk (05 R129). -/
def lowerAll (s : State) : State := s.threads.foldl (fun a q => if q.2.stamps.isEmpty then a else lowerStamps a q.1 s.clk) s

/-- Locks (08 R179): a pending result holds tile n locked for writing as n and for reading as n + 32. -/
def readLock (n : Nat) : Nat := n + 32

/-- Tile locks that work in flight holds for thread k: of its tile instructions, of its matrix operations. -/
def locksOf (s : State) (k : Nat) (t : Thread) : List Nat :=
  t.sb.flatMap (fun p => p.tiles) ++ ((s.matops.filter (fun q => q.2.thread == k)).flatMap (fun q => q.2.tiles))

/-- A tile that an instruction reads must not be locked for writing; one that it writes must not be locked at all. -/
def mustWait (locks : List Nat) (n : Nat) (writes : Bool) : Bool :=
  locks.contains n || (writes && locks.contains (readLock n))

/-! Service messages (18 R420, 13 R315) and event rings (18 R421). -/

def sprPart (s : State) (p i : Nat) : Word := s.pspr.getD (p * 256 + i) 0
def setSprPart (s : State) (p i : Nat) (v : Word) : State := { s with pspr := s.pspr.putD (p * 256 + i) 0 v }

/-- The key of a partition's service thread (15 R350). -/
def svcThread (s : State) (p : Nat) : Option Nat :=
  let w := sprPart s p rSVCTHREAD
  if bit w 14 then some (bits w 0 7 * 64 + bits w 8 6) else none

/-- The 64 bytes of a service message. -/
def svcMessage (s : State) (cause src core ctx : Nat) (info pc node : Word) (view : Nat) : List Byte :=
  toBytes 1 cause ++ toBytes 1 src ++ toBytes 2 0 ++ toBytes 2 core ++ toBytes 1 ctx ++ toBytes 1 0 ++
  toBytes 8 info.toNat ++ toBytes 8 pc.toNat ++ toBytes 8 node.toNat ++ toBytes 6 (nowStamp s) ++ toBytes 2 view ++
  toBytes 8 s.clk ++ toBytes 16 0

/-- Sends a message to a partition's service thread after some clk: it is accepted by the mailbox of the core SVCTHREAD names when
that has room (13 R315). -/
def postLate (s : State) (p : Nat) (msg : List Byte) (late : Nat) : State :=
  let s1 := { s with posts := s.posts ++ [⟨0, some p, 0, msg, s.clk + late⟩] }
  match svcThread s p with
  | some k => sched s1 (s.clk + late) (.postRetry (coreOf k))
  | none => s1

/-- The same at once. -/
def postRaw (s : State) (p : Nat) (msg : List Byte) : State := postLate s p msg 0

/-- The 64 bytes of a translation fault message (10 R238). -/
def faultMessage (cause kind size core ctx addr token : Nat) (pc : Word) (view : Nat) : List Byte :=
  toBytes 1 cause ++ toBytes 1 kind ++ toBytes 2 size ++ toBytes 2 core ++ toBytes 1 ctx ++ toBytes 1 0 ++
  toBytes 8 addr ++ toBytes 8 token ++ toBytes 8 pc.toNat ++ toBytes 2 view ++ toBytes 30 0

/-- post() from a unit of the device (18 R420), with the view concerned or without. -/
def postView (s : State) (p cause src unit : Nat) (info : Word) (view : Nat) : State :=
  postRaw s p (svcMessage s cause src unit 0xFF info 0 0 view)

def postUnit (s : State) (p cause src unit : Nat) (info : Word) : State := postView s p cause src unit info 0

def nodeAddr (t : Thread) : Word := getSpr t rNODE

/-- post() that concerns a thread: SRC 0, its core, context, PC, node and view. Causes 0x24 and 0x25 keep the layout of 10 R238,
with the wait's ADDR, KIND and SIZE and TOKEN 0, for no reply is awaited (Log 37). -/
def postThread (s : State) (k : Nat) (t : Thread) (cause : Nat) (info pc : Word) : State :=
  if t.host then s
  else if cause = 0x24 ∨ cause = 0x25 then
    let w : Word × Nat := match t.run with
      | .waiting v => if v.kind = .translation then (v.info, v.arg.toNat) else (info, 0)
      | _ => (info, 0)
    postRaw s (partOf t) (faultMessage cause (w.2 % 8) (w.2 / 8) (coreOf k) (ctxOf k) w.1.toNat 0 pc (viewOf t))
  else postRaw s (partOf t) (svcMessage s cause 0 (coreOf k) (ctxOf k) info pc (nodeAddr t) (viewOf t))

/-- The first dword of an event: CAUSE, SRC, CORE, CTX. -/
def ringHead (cause src core ctx : Nat) : Word := wd (cause + src * 2 ^ 8 + core * 2 ^ 32 + ctx * 2 ^ 48)

/-- Writes an event into its partition's ring (18 R421). -/
def writeEvent (s : State) (v : Event) : State :=
  let c := ringCtl v.part
  let nx := ctlF s c 0 8
  let rd := ctlF s c 10 8
  let full := ctlF s c 9 1 = 1
  let last := ringEnt v.part ((nx + 255) % 256)
  let head := ringHead v.cause v.src v.core v.ctx
  if rdCtl s last = head ∧ rdCtl s (last + 8) = v.info then
    let n := ctlF s (last + 0x18) 48 16
    setCtlF s (last + 0x18) 48 16 (if n = 0xFFFF then n else n + 1)
  else
    let e := ringEnt v.part nx
    let s := wrCtl (wrCtl (wrCtl (wrCtl s e head) (e + 8) v.info) (e + 0x10) (wd s.clk))
      (e + 0x18) (wd (nowStamp s + 2 ^ 48))
    let nx' := (nx + 1) % 256
    let s := setCtlF s c 0 8 nx'
    if full then setCtlF (setCtlF s c 8 1 1) c 10 8 nx'
    else if nx' = rd then setCtlF s c 9 1 1 else s

/-- An event takes its place among those of its clk: ascending cause, then core. -/
def eventPlace (e : Event) : List Event → List Event
  | [] => [e]
  | x :: r => if x.cause * 2 ^ 16 + x.core ≤ e.cause * 2 ^ 16 + e.core then x :: eventPlace e r else e :: x :: r

/-- log(): the event is written into its partition's ring at the end of the clk (18 R421). -/
def logEvent (s : State) (p cause src core ctx : Nat) (info : Word) : State :=
  { s with events := eventPlace ⟨p, cause, src, core, ctx, info⟩ s.events }

/-- Writes the events of this clk. -/
def writeEvents (s : State) : State := s.events.foldl writeEvent { s with events := [] }

def logThread (s : State) (k : Nat) (t : Thread) (cause : Nat) (info : Word) : State :=
  if t.host then s else logEvent s (partOf t) cause 0 (coreOf k) (ctxOf k) info

/-! Waits that end without the awaited event (02 R28, R29; 17 R404), and matrix work of a killed thread (09 R210). -/

/-- The wait a thread is in. -/
def waitOf (t : Thread) : Option Wait :=
  match t.run with
  | .waiting w => some w
  | _ => none

/-- The wait a thread is in, or has just left to issue its instruction again. -/
def waitMark (t : Thread) : Option Wait := (waitOf t).or t.again

/-- Ready (02 R28): also a thread placed, once its placement has ended (15 R358). -/
def isReady (s : State) (t : Thread) : Bool := t.run == .ready || (t.run == .incoming && decide (t.earliest ≤ s.clk))

/-! Groups, by key partition × 256 + number (17 R403). -/

def groupAt (key : Nat) : Nat := groupEnt (key / 256) (key % 256)
def groupMembers (s : State) (key : Nat) : Nat := ctlF s (groupAt key) 0 14
def groupCounted (s : State) (key : Nat) : Nat := ctlF s (groupAt key) 14 14
def groupArrived (s : State) (key : Nat) : Nat := ctlF s (groupAt key) 28 14
def groupPhase (s : State) (key : Nat) : Nat := ctlF s (groupAt key + 8) 0 32

def setGroup (s : State) (key members counted arrived : Nat) : State :=
  wrCtl s (groupAt key) (wd (members + counted * 2 ^ 14 + arrived * 2 ^ 28))

/-- A gbar that leaves its wait without the release is withdrawn. -/
def withdrawGroup (s : State) (t : Thread) (key : Nat) : State :=
  if t.groups.get? (key % 256) = some true then
    setGroup s key (groupMembers s key) (groupCounted s key) (groupArrived s key - 1)
  else s

/-- Leaves a wait without the awaited event: the instruction has had no effect (15 R359; 02 R56). -/
def withdrawWait (s : State) (k : Nat) : State :=
  match thr s k with
  | none => s
  | some t =>
    match waitOf t with
    | none => s
    | some w =>
      let s1 := setThr s k { t with run := .ready }
      match w.kind with
      | .group => withdrawGroup s1 t w.key
      | .object => sched s1 s1.clk (.acqGrant (partOf t) w.key)
      | .translation => { s1 with tokens := s1.tokens.del w.key }
      | .port =>
        { s1 with pubOps := s1.pubOps.filter (fun o => o.who != k),
                  agenda := s1.agenda.filter (fun q => match q.2 with
                    | .kickApply _ _ _ who => who != k
                    | _ => true) }
      | _ => s1

/-- A killed thread's matrix work: waiting and suspended entries go at once; a running one is abandoned at its next k-step
boundary, and nothing is written (09 R210). -/
def killMatrix (s : State) (k : Nat) : State :=
  let s0 := (s.matops.filter (fun q => q.2.thread == k)).foldl (fun a q =>
    match q.2.chain with
    | some n => sched a a.clk (.entryCompletion (n / 2 ^ 32))
    | none => a) s
  let s1 := { s0 with matops := s0.matops.filter (fun q => q.2.thread != k) }
  { s1 with matq := s1.matq.map (fun q => (q.1, match q.2 with
      | [] => []
      | e :: r => (if e.thread == k && !e.started then [] else [e]) ++ r.filter (fun x => x.thread != k))) }

/-! Ends, traps and returns. -/

/-- The thread ends in the clk after its last instruction retires and its outstanding results complete (02 R29). -/
def beginEnd (s : State) (k : Nat) : State :=
  match thr s k with
  | none => s
  | some t =>
    if t.run = .ending then s
    else
      let due := max (settleAt s t) (max t.stAccept t.stPerform)
      sched (setThr s k { t with run := .ending, park := .none }) (due + 1) (.threadEnd k)

/-- Records how a rival's thread ended (16 R383): true when it was killed. -/
def markRivalEnd (s : State) (t : Thread) (killed : Bool) : State :=
  if t.rival = 0 then s
  else { s with viewEnd := s.viewEnd.put (partOf t * 1024 + viewOf t) (true, killed) }

/-- A thread as it stood before a trap of this clk: a kill replaces it (18 R426). -/
def beforeTrap (s : State) (t : Thread) : Thread :=
  match t.trapOld with
  | some (c, pc, spr) => if c = s.clk then { t with pc := pc, spr := spr, trapOld := none } else t
  | none => t

/-- A killed thread ends by 02 R29: it leaves its wait, its matrix work goes at once (09 R210), and nothing is posted here. -/
def killQuiet (s : State) (k : Nat) : State :=
  match thr s k with
  | none => s
  | some t =>
    if t.run = .ending then s
    else beginEnd (markRivalEnd (killMatrix (withdrawWait (setThr s k (beforeTrap s t)) k) k) t true) k

/-- kill (18 R418, R419): the cause is posted with the thread's core, context and PC. -/
def killThread (s : State) (k cause : Nat) (info pc : Word) : State :=
  match thr s k with
  | none => s
  | some t =>
    let u := beforeTrap s t
    killQuiet (postThread s k u cause info (if u.pc = t.pc then pc else u.pc)) k

/-- Taking an exception (07 R162, R163; 05 R126): register results complete, TCAUSE, TPC and TINFO are written, TH is set
and the next PC is TVEC, resolved at least 4 clk later (07 R152). With TH already set or TVEC = 0 the handler is not
entered: the thread is killed and the cause is posted with the new trap's TPC. Of TVEC the low 52 bits become PC (Log 83). A
thread that is ending takes none, and one that is parked or not yet started stays so. -/
def takeTrap (s : State) (k cause : Nat) (info tpc : Word) : State :=
  match thr s k with
  | none => s
  | some t =>
    if t.run = .ending then s
    else if thOf t || getSpr t rTVEC == 0 then killThread s k cause tpc tpc
    else
      let at_ := max (settleAt s t) t.earliest
      let u := settle t
      let u := setSpr (setSpr (setSpr u rTCAUSE (wd cause)) rTPC tpc) rTINFO info
      let u := setMode u 1 1 1
      setThr s k { u with pc := wd (bits (getSpr t rTVEC) 0 52), run := if t.run = .parked ∨ t.run = .incoming then t.run else .ready,
                           again := none, trapDue := none, trapOld := some (s.clk, t.pc, t.spr), earliest := max (s.clk + 4) at_ }

/-- A trap that arises outside the thread's own slots is taken in its next one (02 R28, R58; 07 R152). -/
def dueTrap (s : State) (k cause : Nat) (info : Word) : State :=
  modThr s k fun t => if t.run = .ending then t else { t with run := if t.run = .parked ∨ t.run = .incoming then t.run else .ready,
                                                              again := none, trapDue := some (cause, info) }

/-- The return from a trap handler (07 R166): TH is cleared and the next PC is TPC. -/
def trapReturn (t : Thread) : Thread := { setMode t 1 1 0 with pc := getSpr t rTPC }

/-- The return from a user-interrupt handler (07 R169). -/
def uiReturn (t : Thread) : Thread := { setMode t 2 1 0 with pc := getSpr t rUIPC }

/-- A completion takes its place among those that arrived in the same clk: ascending KIND, then ID (07 R167). -/
def uiPlace (x : Word × Word) : List (Word × Word) → List (Word × Word)
  | [] => [x]
  | y :: r => if bits y.1 0 4 * 2 ^ 16 + bits y.1 16 16 ≤ bits x.1 0 4 * 2 ^ 16 + bits x.1 16 16 then y :: uiPlace x r else x :: y :: r

/-- Queues a completion for a thread; of more than four, the last is lost and logged as 0x1B (05 R122, 07 R167). -/
def announce (s : State) (k : Nat) (h0 h1 : Word) : State :=
  match thr s k with
  | none => s
  | some t =>
    let fresh := if t.uiAt = s.clk then t.uiNew else 0
    let old := t.uiq.length - fresh
    let q := t.uiq.take old ++ uiPlace (h0, h1) (t.uiq.drop old)
    let s1 := setThr s k { t with uiq := q.take 4, uiAt := s.clk, uiNew := min (fresh + 1) (4 - min 4 old) }
    match q.drop 4 with
    | [] => s1
    | x :: _ => logThread s1 k t 0x1B x.1

/-- The h0 value of a completion (07 R168). -/
def uiWord (kind id : Nat) : Word := wd (kind + id * 2 ^ 16)

/-- PC arithmetic is modulo 2^52 (07 R153). -/
def pcAdd (pc : Word) (z : Int) : Word := wd (((pc.toNat : Int) + z) % 2 ^ 52).toNat

/-- The loop-end check on reaching an address sequentially or by a handler return (07 R158): whether it loops back, the
levels and counts after it, and the next PC. An inner level popped at an address that also ends an outer body lets the
outer level count (Log 21). -/
def loopEnd : Nat → Thread → Word → Thread × Word × Bool
  | 0, t, next => (t, next, false)
  | fuel + 1, t, next =>
    let d := ldepthOf t
    if d = 0 ∨ 4 < d then (t, next, false)
    else
      let n := d - 1
      if next ≠ pcAdd (getSpr t (rLOOPEND + n)) 4 then (t, next, false)
      else
        let c := (getSpr t (rLOOPCNT + n)).toNat
        if 1 < c then (setSpr t (rLOOPCNT + n) (wd (c - 1)), getSpr t (rLOOPTOP + n), true)
        else loopEnd fuel (setMode (setSpr t (rLOOPCNT + n) 0) 4 3 n) next

end Sys2Proof.Machine
end

