-- ==== Sys2Proof/Machine/Mem.lean ====
section
/-! DEFINITION. Memory: pointer checks, the address map, translation, versions of lines in views, the L1 data caches and
their write-backs, and the named operations over one byte and over ranges (05 R114 to R117; 10; 11 R245 to R258, R493). -/

namespace Sys2Proof.Machine

/-- Why an access is not performed: a trap, or a fault message on the path of 10 R238 (cause, KIND, SIZE and the first faulting
byte), sent once the walk that failed has ended; each with the state that the errors found leave. -/
inductive Bad where
  | trap (s : State) (cause : Nat) (info : Word)
  | msg (s : State) (cause kind size addr late : Nat)
  deriving DecidableEq, Repr

/-- The rights an access needs (05 R116). -/
structure Rights where
  r : Bool := false
  w : Bool := false
  x : Bool := false
  a : Bool := false
  f : Bool := false
  s : Bool := false
  deriving DecidableEq, Repr

def needR : Rights := { r := true }
def needW : Rights := { w := true }
def needRW : Rights := { r := true, w := true }
def needAtomic : Rights := { r := true, w := true, a := true }
def needFe : Rights := { r := true, w := true, f := true }
def needFeRead : Rights := { r := true, f := true }
def needSRead : Rights := { r := true, s := true }
def needSWrite : Rights := { w := true, s := true }
def needNone : Rights := {}

/-! Segment registers (05 R115). -/

def segOf (t : Thread) (n : Nat) : BitVec 128 := t.segs.getD n 0
def segBits (g : BitVec 128) (lo n : Nat) : Nat := g.toNat / 2 ^ lo % 2 ^ n
def segBit (g : BitVec 128) (i : Nat) : Bool := segBits g i 1 == 1
def segBase (g : BitVec 128) : Nat := segBits g 0 52
def segValid (g : BitVec 128) : Bool := segBit g 52
def segLimit (g : BitVec 128) : Nat := segBits g 64 52
def segR (g : BitVec 128) : Bool := segBit g 116
def segW (g : BitVec 128) : Bool := segBit g 117
def segX (g : BitVec 128) : Bool := segBit g 118
def segA (g : BitVec 128) : Bool := segBit g 119
def segF (g : BitVec 128) : Bool := segBit g 120
def segS (g : BitVec 128) : Bool := segBit g 121
def segV (g : BitVec 128) : Bool := segBit g 122
def segT (g : BitVec 128) : Bool := segBit g 123

def ptrSeg (p : Word) : Nat := bits p 61 3
def ptrOff (p : Word) : Nat := bits p 0 52

/-- The rights that segment i lacks make the cause of 05 R116; X is honoured only in sg0 (R115). -/
def rightsCause (g : BitVec 128) (i : Nat) (n : Rights) : Option Nat :=
  if (n.r && !segR g) || (n.w && !segW g) || (n.x && !(segX g && i == 0)) || (n.a && !segA g) || (n.f && !segF g) ||
      (n.s && !segS g) then
    some (if n.a && !segA g then 0x2B else if n.f && !segF g then 0x2C else if n.s && !segS g then 0x29 else 0x21)
  else none

/-- The twin-space address of offset o of twin entry b[7:0], in its current or non-current buffer by b[8] (05 R117,
10 R232); the selector is read when the access is performed. An offset beyond 2^32 names no byte of any entry. -/
def twinAddress (b o : Nat) : Nat :=
  if o < 2 ^ 32 then 0xA000000000000 + b % 256 * 2 ^ 33 + b / 256 % 2 * 2 ^ 32 + o else 0xA020000000000

/-- ea(p, size, rights) of 05 R116: the cause of the first check that fails, or the 52-bit address. The alignment check is
that of single accesses; a tile row or a chunk of a block move has the checks of its own entry. -/
def eaGen (align : Bool) (t : Thread) (p : Word) (size : Nat) (need : Rights) : Except Nat Nat :=
  let g := segOf t (ptrSeg p)
  if bits p 52 9 ≠ 0 ∨ segValid g = false then .error 0x22
  else match rightsCause g (ptrSeg p) need with
    | some c => .error c
    | none =>
      if segLimit g < ptrOff p + size - 1 then .error 0x20
      else if align = true ∧ (size = 2 ∨ size = 4 ∨ size = 8) ∧ ptrOff p % size ≠ 0 then .error 0x23
      else if segT g then .ok (twinAddress (segBase g) (ptrOff p))
      else .ok (segBase g + ptrOff p)

def ea (t : Thread) (p : Word) (size : Nat) (need : Rights) : Except Nat Nat := eaGen true t p size need
def eaRow (t : Thread) (p : Word) (size : Nat) (need : Rights) : Except Nat Nat := eaGen false t p size need

/-- The view an access through pointer p is made in: the root through a V segment (11 R262). -/
def viewFor (t : Thread) (p : Word) : Nat := if segV (segOf t (ptrSeg p)) then 0 else viewOf t

/-! The address map (10 R212 to R215, R231, R232). -/

/-- Where an address lies: translated DRAM; a scratchpad port of a core; the PIM; pinned physical DRAM of a twin buffer;
device control space. -/
inductive Place where
  | dram (va : Nat)
  | scratch (core loc : Nat)
  | pim (loc : Nat)
  | pinned (loc : Nat)
  | ctl (addr : Nat)
  deriving DecidableEq, Repr

/-- The location of offset o of core c's scratchpad (10 R216, 15 R343). -/
def scratchLoc (s : State) (c o : Nat) : Nat :=
  let w := o % 524288
  let upper := 8 ≤ w / 32768
  0x8000000000000 + halfOf s c (o / 524288) upper * 262144 + w % 262144

/-- X and Y base, and SIZE, of a twin entry (17 R409); entries 0 and 1 are fixed by 10 R231. -/
def twinBases (s : State) (p e : Nat) : Nat × Nat × Nat :=
  if e = 0 then (0x9000000000000, 0x9000000400000, 0x400000)
  else if e = 1 then (0x9000000800000, 0x9000000C00000, 0x400000)
  else (ctlF s (twinEnt p e) 0 52, ctlF s (twinEnt p e + 8) 0 52, ctlF s (twinEnt p e + 0x10) 0 32)

def twinValid (s : State) (p e : Nat) : Bool := e < 2 || ctlF s (twinEnt p e + 0x10) 40 1 == 1
/-- SEL: 1 when Y is current. -/
def twinSel (s : State) (p e : Nat) : Nat := ctlF s (twinEnt p e + 0x10) 32 8

/-- The buffer of entry e that is current (other = false) or not. -/
def twinBuffer (s : State) (p e : Nat) (other : Bool) : Nat :=
  let b := twinBases s p e
  if (twinSel s p e % 2 == 1) != other then b.2.1 else b.1

/-- A rival reaches no scratchpad byte outside its own window (16 R381). -/
def rivalOutside (s : State) (t : Thread) (a n : Nat) : Bool :=
  podOf t != 0 &&
    (let w := s.rwin.getD (partOf t * 1024 + viewOf t) (0, 0)
     !(w.1 ≤ a && a + n ≤ w.1 + w.2))

/-- Resolves an access of n bytes at address a, made through pointer p, by the address map: crossing out of a range is
refused at the first byte outside it. -/
def place (s : State) (t : Thread) (p : Word) (kind a n : Nat) : Except Bad Place :=
  let part := partOf t
  if a < 0x8000000000000 then
    if a + n ≤ 0x8000000000000 then .ok (.dram a) else .error (.trap s 0x28 (wd 0x8000000000000))
  else if a < 0x9000000000000 then
    let c := (a - 0x8000000000000) / 2 ^ 32
    let o := a % 2 ^ 32
    let size := 524288 * gangOf s c
    if 128 ≤ c ∨ size = 0 ∨ (partOfCore s c).isNone ∨ size ≤ o then .error (.trap s 0x28 (wd a))
    else if size < o + n then .error (.trap s 0x28 (wd (a - o + size)))
    else if rivalOutside s t a n then .error (.trap s 0x4A (wd a))
    else .ok (.scratch c (scratchLoc s c o))
  else if a < 0x9000001000000 then
    if a + n ≤ 0x9000001000000 then .ok (.pim a) else .error (.msg s 0x25 kind n 0x9000001000000 0)
  else if 0xA000000000000 ≤ a ∧ a < 0xA020000000000 then
    let e := (a - 0xA000000000000) / 2 ^ 33
    let o := a % 2 ^ 32
    let size := (twinBases s part e).2.2
    if twinValid s part e = false ∨ size ≤ o then .error (.msg s 0x25 kind n a 0)
    else if size < o + n then .error (.msg s 0x25 kind n (a - o + size) 0)
    else
      let loc := twinBuffer s part e (a / 2 ^ 32 % 2 == 1) + o
      .ok (if e < 2 then .pim loc else .pinned loc)
  else if 0xF000000000000 ≤ a then
    if n = 8 ∧ a % 8 = 0 then .ok (.ctl a) else .error (.trap s 0x23 p)
  else .error (.msg s 0x25 kind n a 0)

/-! Translation (10 R235 to R239). -/

def rdMem (s : State) (loc : Nat) : Byte := s.mem.getD loc 0
def rdMemN (s : State) (loc n : Nat) : Nat := ofBytes ((upFrom loc n).map (rdMem s))
def wrMem (s : State) (loc : Nat) (b : Byte) : State := { s with mem := s.mem.putD loc 0 b }
def wrMemBytes (s : State) (loc : Nat) : List Byte → State
  | [] => s
  | b :: r => wrMemBytes (wrMem s loc b) (loc + 1) r
def wrMemN (s : State) (loc n v : Nat) : State := wrMemBytes s loc (toBytes n v)

/-- Bucket exponent and physical base of shard sh of partition p's page table; p = 16 is the host complex (20 R460). -/
def shardOf (s : State) (p sh : Nat) : Nat × Nat :=
  if p = 16 then
    let n := ctlF s hostTable 0 6
    (n, ctlF s hostTable 12 40 * 4096 + sh * 2 ^ n * 64)
  else
    (ctlF s (partBase p + 0x100 + 8 * sh) 0 6, ctlF s (partBase p + 0x100 + 8 * sh) 12 40 * 4096)

/-- A page-table entry's two dwords as a translation, if valid and of this key (10 R235, R236). -/
def pageEntry (p v : Nat) (big : Bool) (lo hi : Nat) : Option TlbEntry :=
  let vpn := lo / 2 ^ 8 % 2 ^ 35
  let pfn := hi % 2 ^ 36
  let ok := lo % 2 == 1 && (lo / 2 % 2 == 1) == big && lo / 2 ^ 6 % 4 == 0 && lo / 2 ^ 43 == 0 && hi / 2 ^ 36 == 0 &&
    (!big || (vpn % 512 == 0 && pfn % 512 == 0)) && vpn == (if big then v / 2 ^ 25 * 512 else v / 2 ^ 16)
  if ok then some ⟨p, vpn, big, lo / 4 % 2 == 1, lo / 8 % 2 == 1, lo / 16 % 2 == 1, lo / 32 % 2 == 1, pfn⟩ else none

/-- The four entries of a bucket in order. An entry whose sector is poisoned counts as invalid (Log 69). -/
def bucketHit (s : State) (p v : Nat) (big : Bool) (base : Nat) : Option TlbEntry :=
  ((upFrom 0 4).filterMap (fun i =>
    if s.poison.getD ((base + 16 * i) / 32) false then none
    else pageEntry p v big (rdMemN s (base + 16 * i) 8) (rdMemN s (base + 16 * i + 8) 8))).head?

def pageKey (v : Nat) (big : Bool) : Nat := if big then v / 2 ^ 25 * 1024 + 1 else v / 2 ^ 16 * 2

/-- The home shard of a key (10 R236). -/
def homeShard (p v : Nat) (big : Bool) : Nat := bits (tieHash (wd p) (wd (pageKey v big))) 0 4

/-- The two candidate buckets of a key, the lower bucket number first (10 R236). -/
def bucketsOf (s : State) (p v : Nat) (big : Bool) : List Nat :=
  let h := tieHash (wd p) (wd (pageKey v big))
  let sh := shardOf s p (bits h 0 4)
  let n := sh.1
  if n < 10 ∨ 24 < n then [] else [sh.2 + min (bits h 4 n) (bits h (n + 4) n) * 64, sh.2 + max (bits h 4 n) (bits h (n + 4) n) * 64]

/-- One probe of the walk. -/
def probeKey (s : State) (p v : Nat) (big : Bool) : Option TlbEntry := (bucketsOf s p v big).findSome? (bucketHit s p v big)

/-- The walk (10 R236): the 64 KiB entry if both keys hit. -/
def walk (s : State) (p v : Nat) : Option TlbEntry :=
  match probeKey s p v false with
  | some e => some e
  | none => probeKey s p v true

def tlbCovers (p v : Nat) (e : TlbEntry) : Bool :=
  e.part == p && e.vpn == (if e.big then v / 2 ^ 25 * 512 else v / 2 ^ 16)

/-- The cluster port of a thread: its core's cluster, or a host core's own translation cache at 16 + n. -/
def portOf (k : Nat) : Nat := if isHostKey k then 16 + (k - 8192) else clusterOf (coreOf k)

def tlbFind (s : State) (port p v : Nat) : Option TlbEntry := (s.tlb.getD port []).find? (tlbCovers p v)

def tlbCap (port : Nat) : Nat := if 16 ≤ port then 1024 else 4096

/-- Installs a walk's entry in the place of an older one of its page; of a full cache the entry installed longest ago leaves, for
the spec names no policy (Log 86). -/
def tlbPut (s : State) (port : Nat) (e : TlbEntry) : State :=
  let rest := (s.tlb.getD port []).filter (fun x => !(x.part == e.part && x.vpn == e.vpn && x.big == e.big))
  { s with tlb := s.tlb.put port ((e :: rest).take (tlbCap port)) }

/-- Walks in flight at a port. -/
def walksAt (s : State) (port : Nat) : List Walk := (s.walks.getD port []).filter (fun w => s.clk < w.due)

/-- A port whose walks that have ended are installed, in the order of their ends: but for those that found nothing and those that
a ptinv met in flight (10 R237; 12 R289). -/
def tlbNow (s : State) (port : Nat) : State :=
  match (s.walks.getD port []).filter (fun w => w.due ≤ s.clk) with
  | [] => s
  | done =>
    let s1 := (done.filterMap (fun w => if w.dead then none else w.entry)).foldl (fun a e => tlbPut a port e) s
    { s1 with walks := s1.walks.put port (walksAt s port) }

/-- Invalidates the entries that a predicate picks, in the ports that a predicate picks; walks in flight there will install
nothing, and no later access joins them (12 R289). -/
def tlbDrop (s : State) (ports : Nat → Bool) (pick : TlbEntry → Bool) : State :=
  let s1 := (s.walks.map (fun q => q.1)).foldl tlbNow s
  { s1 with tlb := s1.tlb.map (fun q => if ports q.1 then (q.1, q.2.filter (fun e => !pick e)) else q),
            walks := s1.walks.map (fun q => if ports q.1 then (q.1, q.2.map (fun w => { w with dead := true })) else q) }

/-- A walk looks for the page of v: for its 64 KiB, or it has found the page that covers v. -/
def walkFor (p v : Nat) (w : Walk) : Bool :=
  !w.dead && w.part == p && (w.vpn == v / 2 ^ 16 || (w.entry.map (tlbCovers p v)).getD false)

/-- The walk in flight that an access to v joins: the latest one. -/
def walkJoined (s : State) (port p v : Nat) : Option Walk := (walksAt s port).reverse.find? (walkFor p v)

/-- What a port holds of the page of v: the entry of a walk, ended or in flight, else of its cache. -/
def tlbLook (s : State) (port p v : Nat) : Option TlbEntry :=
  (((s.walks.getD port []).reverse.find? (walkFor p v)).bind (fun w => w.entry)).or (tlbFind s port p v)

/-- The physical address of v under an entry. -/
def physAddr (e : TlbEntry) (v : Nat) : Nat := e.pfn * 65536 + v % (if e.big then 2 ^ 25 else 2 ^ 16)

def kindAllowed (kind : Nat) (e : TlbEntry) : Bool :=
  match kind with
  | 0 => e.r
  | 1 => e.w
  | 2 => e.w && e.a && e.r
  | 3 => e.x
  | 4 => e.r
  | _ => e.w

/-- The walk figure for the slower of the two probes (10 R236, R237). -/
def walkCost (port p v : Nat) : Nat :=
  if homeShard p v false = port ∧ homeShard p v true = port then 120 else 170

/-- Physical DRAM ends at 120 GiB (10 R227). -/
def dramTop : Nat := 120 * 2 ^ 30

/-- Until the host complex's page table is described, host addresses are physical (Log 31). -/
def hostFlat (s : State) (p : Nat) : Bool := p == 16 && rdCtl s hostTable == 0

/-- Translation that checks no right, for write-backs and agents that were checked before. -/
def translateAny (s : State) (port p v : Nat) : Option Nat :=
  if hostFlat s p then some v else
  match tlbLook s port p v with
  | some e => some (physAddr e v)
  | none => (walk s p v).map (fun e => physAddr e v)

/-! Versions of lines (10 R224; 11 R262; 16 R386, R389 to R391). -/

def verKey (p v loc : Nat) : Nat := (p * 1024 + v) * 2 ^ 52 + loc
def lineOf (a : Nat) : Nat := a / 64 * 64

/-- The shadow-frame pool of a view, from its allocation until its identifier is free: that which its pod named, or 0 (16 R390,
R391). -/
def poolOf (s : State) (p v : Nat) : Nat :=
  if viewKind s p v = 0 then s.viewPool.getD (p * 1024 + v) (ctlF s (podEnt p (ctlF s (viewEnt p v) 16 8)) 40 8 % 16) else 0

def poolEn (s : State) (p i : Nat) : Bool := ctlF s (poolEnt p i) 0 1 == 1
def poolBase (s : State) (p i : Nat) : Nat := ctlF s (poolEnt p i) 12 40 * 4096
def poolFrames (s : State) (p i : Nat) : Nat := ctlF s (poolEnt p i + 8) 0 32
/-- Frames that hold the shadow map (16 R390). -/
def poolMap (s : State) (p i : Nat) : Nat := (poolFrames s p i + 63) / 64

/-- The bucket of the map entry of a granule in a view (16 R391). -/
def shadowBucket (s : State) (p i v granule : Nat) : Nat :=
  poolBase s p i + (tieHash (wd v) (wd granule)).toNat % (poolMap s p i * 16) * 256

/-- The map entry of a granule in a view, by physical address. -/
def shadowFind (s : State) (p v granule : Nat) : Option Nat :=
  let i := poolOf s p v
  if v = 0 ∨ poolEn s p i = false ∨ poolMap s p i = 0 then none
  else
    let b := shadowBucket s p i v granule
    let key := granule % 2 ^ 40 + v * 2 ^ 40 + 2 ^ 63
    (firstFrom (fun j => rdMemN s (b + 32 * j) 8 == key) 0 8).map (fun j => b + 32 * j)

/-- Where a shadow frame holds a line of a view, by physical address. -/
def shadowLine (s : State) (p v line : Nat) : Option Nat :=
  match shadowFind s p v (line / 4096) with
  | none => none
  | some e =>
    if rdMemN s (e + 8) 8 / 2 ^ (line / 64 % 64) % 2 = 1 then
      some (poolBase s p (rdMemN s (e + 0x14) 1 % 16) + rdMemN s (e + 0x10) 4 * 4096 + line % 4096)
    else none

/-- View v itself holds a version of the line. -/
def lineHeld (s : State) (p v line : Nat) : Bool :=
  (s.vmem.get? (verKey p v line)).isSome || (shadowLine s p v line).isSome

/-- A byte of view v's own version of its line. -/
def ownByte (s : State) (p v loc : Nat) : Byte :=
  match s.vmem.get? (verKey p v loc) with
  | some b => b
  | none =>
    match shadowLine s p v (lineOf loc) with
    | some f => rdMem s (f + loc % 64)
    | none => rdMem s loc

/-- A byte at its owning port as a chain of views sees it: the nearest version, or memory (11 R262). -/
def portByteGo (s : State) (p loc : Nat) : List Nat → Byte
  | [] => rdMem s loc
  | v :: r =>
    if v = 0 then rdMem s loc
    else if lineHeld s p v (lineOf loc) then ownByte s p v loc
    else portByteGo s p loc r

def portByte (s : State) (p v loc : Nat) : Byte := portByteGo s p loc (viewChain s p v)

/-- The view whose version of a line a chain finds. -/
def versionOf (s : State) (p loc : Nat) : List Nat → Nat
  | [] => 0
  | v :: r => if v = 0 then 0 else if lineHeld s p v (lineOf loc) then v else versionOf s p loc r

/-! Full/empty tags and poison travel with a version (10 R225, R229). -/

def tagKey (p v loc : Nat) : Nat := verKey p v loc / 8
def tagOf (s : State) (p v loc : Nat) : Bool :=
  s.tags.getD (if versionOf s p loc (viewChain s p v) = 0 then loc / 8 else tagKey p (versionOf s p loc (viewChain s p v)) loc) false

def sectorKey (p v loc : Nat) : Nat := if v = 0 then loc / 32 else verKey p v loc / 32
def poisonedAt (s : State) (p v loc : Nat) : Bool :=
  s.poison.getD (sectorKey p (versionOf s p loc (viewChain s p v)) loc) false

/-! The L1 data caches (10 R222 to R224). -/

def l1Key (c p v a : Nat) : Nat := ((c * 16 + p) * 1024 + v) * 2 ^ 52 + a
def l1Core (key : Nat) : Nat := key / 2 ^ 66
def l1Part (key : Nat) : Nat := key / 2 ^ 62 % 16
def l1View (key : Nat) : Nat := key / 2 ^ 52 % 1024
def l1Addr (key : Nat) : Nat := key % 2 ^ 52

/-- A byte as a load of core c in a chain of views finds it: L1D and the owning port, level by level. -/
def coreByteGo (s : State) (c p va loc : Nat) : List Nat → Byte
  | [] => rdMem s loc
  | v :: r =>
    match s.l1d.get? (l1Key c p v va) with
    | some b => b.val
    | none =>
      if v = 0 then rdMem s loc
      else if lineHeld s p v (lineOf loc) then ownByte s p v loc
      else coreByteGo s c p va loc r

def coreByte (s : State) (c p v va loc : Nat) : Byte := coreByteGo s c p va loc (viewChain s p v)

/-- Some byte of a line lies in core c's L1D under view v. -/
def l1Line (s : State) (c p v line : Nat) : Bool :=
  (upFrom line 64).any (fun a => (s.l1d.get? (l1Key c p v a)).isSome)

/-- The line has a dirty byte in core c's L1D under view v. -/
def l1Dirty (s : State) (c p v line : Nat) : Bool :=
  (upFrom line 64).any (fun a => ((s.l1d.get? (l1Key c p v a)).map (fun b => b.dirty)).getD false)

/-- The level of a chain at which core c finds a line in L1D, with no nearer version at its port. -/
def l1Level (s : State) (c p va loc : Nat) : List Nat → Option Nat
  | [] => none
  | v :: r =>
    if l1Line s c p v (lineOf va) then some v
    else if v = 0 ∨ lineHeld s p v (lineOf loc) then none
    else l1Level s c p va loc r

/-- n bytes are all present in core c's L1D at the level where the line is found: a hit, which needs no translation. A level
that holds nothing is passed without asking the port, as a hit at V's own level is (10 R223, R224). -/
def l1Hit (s : State) (c p v va n : Nat) : Bool :=
  (upFrom va n).all (fun a => (s.l1d.get? (l1Key c p v a)).isSome)

/-- Core c's L1D holds a byte of a sector at an address, and holds the sector poisoned (10 R229). -/
def l1Sector (s : State) (key : Nat) : Bool := (upFrom (key / 32 * 32) 32).any (fun a => (s.l1d.get? a).isSome)
def l1Bad (s : State) (key : Nat) : Bool := s.l1Poison.getD (key / 32) false && l1Sector s key

/-- A fill brings a sector's poison along where it brings a byte of it (10 R229). -/
def l1Carry (s : State) (key : Nat) (bad : Bool) : State :=
  if (upFrom (key / 32 * 32) 32).all (fun a => (s.l1d.get? a).isSome) then s
  else { s with l1Poison := s.l1Poison.putD (key / 32) false (bad || l1Bad s key) }

/-- Fills the missing bytes of a line at the level whose version it is (10 R223). -/
def l1Fill (s : State) (c p v va loc : Nat) (ctx : Nat) : State :=
  let line := lineOf va
  let pl := lineOf loc
  let chain := viewChain s p v
  let lev := match chain.find? (fun u => u == 0 || l1Line s c p u line || lineHeld s p u pl) with
    | some u => u
    | none => 0
  let s1 := (upFrom 0 2).foldl (fun a j => l1Carry a (l1Key c p lev (line + 32 * j)) (poisonedAt s p v (pl + 32 * j))) s
  (upFrom 0 64).foldl (fun a i =>
    match a.l1d.get? (l1Key c p lev (line + i)) with
    | some _ => a
    | none => { a with l1d := a.l1d.put (l1Key c p lev (line + i)) ⟨coreByte s c p v (line + i) (pl + i), false, ctx, false⟩ }) s1

/-- Makes view v's version of a line, all its 64 bytes as v sees them at its first write, tags and poison included
(16 R386); the root's version is memory. c is the core whose L1D the writer sees through, if any. -/
def makeVersion (s : State) (c : Option Nat) (p v va loc : Nat) : State :=
  let pl := lineOf loc
  if v = 0 ∨ lineHeld s p v pl then s
  else
    let line := lineOf va
    let byteAt (i : Nat) : Byte := match c with
      | some core => coreByte s core p v (line + i) (pl + i)
      | none => portByte s p v (pl + i)
    let s1 := (upFrom 0 64).foldl (fun a i => { a with vmem := a.vmem.put (verKey p v (pl + i)) (byteAt i) }) s
    let s2 := (upFrom 0 8).foldl (fun a i => { a with tags := a.tags.putD (tagKey p v (pl + 8 * i)) false (tagOf s p v (pl + 8 * i)) }) s1
    (upFrom 0 2).foldl (fun a i => { a with poison := a.poison.putD (sectorKey p v (pl + 32 * i)) false (poisonedAt s p v (pl + 32 * i)) }) s2

/-- Writes one byte into view v's version, which exists. A version in a shadow frame comes back from it. -/
def wrVersion (s : State) (p v loc : Nat) (b : Byte) : State :=
  if v = 0 then wrMem s loc b
  else
    match s.vmem.get? (verKey p v loc), shadowLine s p v (lineOf loc) with
    | none, some f => wrMem s (f + loc % 64) b
    | _, _ => { s with vmem := s.vmem.put (verKey p v loc) b }

def wrVersionBytes (s : State) (p v loc : Nat) : List Byte → State
  | [] => s
  | b :: r => wrVersionBytes (wrVersion s p v loc b) p v (loc + 1) r

/-- A write of all 32 bytes of a sector clears its poison (10 R229). -/
def clearPoison (s : State) (p v loc n : Nat) : State :=
  (upFrom (loc / 32) (n / 32 + 1)).foldl (fun a q =>
    if loc ≤ q * 32 ∧ q * 32 + 32 ≤ loc + n then
      { a with poison := a.poison.del (sectorKey p v (q * 32)), l2Poison := a.l2Poison.del (sectorKey p v (q * 32)) } else a) s

/-! Errors (18 R427 to R431). -/

def eccKey (array inst place_ : Nat) : Nat := (array * 4096 + inst) * 2 ^ 52 + place_

/-- Writes an error into the lowest entry of its log that is not valid, at most once for a corrected one (18 R429). The code's
syndrome is a free value (Log 88). -/
def writeError (s : State) (e : ErrFound) : State :=
  let es := s.errlog.getD e.log []
  let w0 := e.addr % 2 ^ 52 + 2 ^ 52 + (if e.ue then 2 ^ 53 else 0)
  if !e.ue && es.any (fun x => bits x.w0 0 54 == w0 % 2 ^ 54) then s
  else
    let lost := s.errLost.getD e.log false
    let ent : ErrEntry := ⟨wd (w0 + (if lost then 2 ^ 54 else 0)),
      wd (bits (Config.freeWord (s.free * 4 + 3)) 0 32 + e.ctx * 2 ^ 32), wd (nowStamp s)⟩
    match firstFrom (fun i => bits ((es.drop i).headD ⟨0, 0, 0⟩).w0 52 1 == 0) 0 16 with
    | none => { s with errLost := s.errLost.put e.log true }
    | some i =>
      let pad := es ++ List.replicate (i + 1 - es.length) ⟨0, 0, 0⟩
      { s with errlog := s.errlog.put e.log (pad.take i ++ ent :: pad.drop (i + 1)), errLost := s.errLost.del e.log, free := s.free + 1 }

/-- An error takes its place among those of its clk: by log, and then by ascending ADDR (18 R429). -/
def errPlace (e : ErrFound) : List ErrFound → List ErrFound
  | [] => [e]
  | x :: r => if x.log < e.log ∨ (x.log = e.log ∧ x.addr ≤ e.addr) then x :: errPlace e r else e :: x :: r

/-- Logs an error, to be written at the end of the clk (18 R429). -/
def logError (s : State) (array inst addr : Nat) (ue : Bool) (ctxWord : Nat) : State :=
  { s with errFound := errPlace ⟨array * 4096 + inst, addr, ctxWord, ue⟩ s.errFound }

/-- Writes the errors of this clk. -/
def writeErrors (s : State) : State := s.errFound.foldl writeError { s with errFound := [] }

/-- CONTEXT of an error-log entry (18 R428). -/
def errContext (k : Option Nat) : Nat :=
  match k with
  | none => 0xFFFF
  | some k => if isHostKey k then 0xFFFF else coreOf k + ctxOf k * 128

/-- ERRINJ is armed for this write of a line or register: the places it writes store wrong check bits and ARM clears
(18 R431). -/
def injectAt (s : State) (array inst line : Nat) (places : List Nat) : State :=
  let w := s.dspr.getD rERRINJ 0
  if bit w 12 && bits w 0 4 == array && bits w 4 8 == inst && bits w 16 46 == line then
    { s with dspr := s.dspr.put rERRINJ (setBits w 12 1 0),
             badEcc := places.foldl (fun b q => b.put (eccKey array inst q) (bit w 13)) s.badEcc }
  else s

/-- The error a read finds, if any: the state with the error gone, and whether it is uncorrectable. -/
def findEcc (s : State) (array inst place_ : Nat) : Option (State × Bool) :=
  (s.badEcc.get? (eccKey array inst place_)).map (fun u => ({ s with badEcc := s.badEcc.del (eccKey array inst place_) }, u))

/-- The 32-byte sectors that n bytes at an address touch, and those that they cover. -/
def sectorsOf (a n : Nat) : List Nat := upFrom (a / 32) ((a + n - 1) / 32 + 1 - a / 32)
def sectorsIn (a n : Nat) : List Nat := (sectorsOf a n).filter (fun q => a ≤ q * 32 && q * 32 + 32 ≤ a + n)


/-- DRAM channel and home slice of a physical address (10 R225, R227). -/
def channelOf (loc : Nat) : Nat := loc / 256 % 16
def sliceOf (loc : Nat) : Nat := loc / 4096 % 16

/-- The slab whose scratchpad holds a location. -/
def slabOfLoc (loc : Nat) : Nat := (loc - 0x8000000000000) / 262144 / 2

/-- The window address of a scratchpad location: that of the core whose binding holds its half-slab (15 R340, R343). -/
def scratchAddr (s : State) (loc : Nat) : Nat :=
  let h := (loc - 0x8000000000000) / 262144
  let at_ (c : Nat) : Option Nat := (firstFrom (fun j => halfOf s c (j / 2) (j % 2 == 1) == h) 0 (2 * gangOf s c)).map
    (fun j => 0x8000000000000 + c * 2 ^ 32 + j * 262144 + loc % 262144)
  ((upFrom 0 128).findSome? at_).getD loc

/-- The address by which an array's errors and injections name a location (18 R428, R431): that of the window for scratchpad. -/
def errAddr (s : State) (array loc : Nat) : Nat := if array = 5 then scratchAddr s loc else loc

/-- A write of n bytes of one line of an array that keeps check bits by sector (10 R227, R240): a sector written whole has right
check bits again, but for an injection. -/
def writeArray (s : State) (array inst a n : Nat) : State :=
  injectAt { s with badEcc := (sectorsIn a n).foldl (fun b q => b.del (eccKey array inst q)) s.badEcc } array inst
    (if bit (s.dspr.getD rERRINJ 0) 12 then errAddr s array a / 64 else a / 64) (sectorsOf a n)

/-- The set of a physical address, and the name of view u's version of its line. -/
def l2Set (loc : Nat) : Nat := sliceOf loc * 4096 + loc / 65536 % 64 * 64 + loc / 64 % 64
def l2Line (p u loc : Nat) : Nat := if u = 0 then lineOf loc else verKey p u (lineOf loc)

def l2Has (s : State) (p u loc : Nat) : Bool := (s.l2Sets.getD (l2Set loc) []).any (fun e => e.line == l2Line p u loc)

/-- L2 holds view u's line, and dirty. -/
def l2Dirty (s : State) (p u loc : Nat) : Bool := (s.l2Sets.getD (l2Set loc) []).any (fun e => e.line == l2Line p u loc && e.dirty)

/-- A location's sector is read from an array: a corrected error is logged; an uncorrectable one is logged and poisons the
sector (10 R228, R240), of an L2 line that is clean L2's copy alone. The answer is the state and whether it was uncorrectable. -/
def readSector (s : State) (who : Option Nat) (p u array inst q : Nat) : State × Bool :=
  match findEcc s array inst q with
  | none => (s, false)
  | some (s1, ue) =>
    let s2 := logError s1 array inst (errAddr s array (q * 32)) ue (errContext who)
    let key := sectorKey p u (q * 32)
    let mark := array == 4 && !l2Dirty s2 p u (q * 32) && !s2.poison.getD key false
    if ue then ({ s2 with poison := s2.poison.put key true, l2Poison := if mark then s2.l2Poison.put key true else s2.l2Poison }, true)
    else (s2, false)

/-- The sectors of a list that an array gives with uncorrectable errors, and the state after reading them all. -/
def readSectors (s : State) (who : Option Nat) (p u array inst : Nat) (qs : List Nat) : State × List Nat :=
  if s.badEcc.isEmpty then (s, [])
  else qs.foldl (fun acc q =>
    let r := readSector acc.1 who p u array inst q
    (r.1, if r.2 then acc.2 ++ [q] else acc.2)) (s, [])

/-! L2 (10 R222, R225, R228, R229). -/

/-- The line that leaves a full set: the least recently used of those no hint keeps, or of all (10 R222, 03 R70). -/
def l2Victim (ways : List L2Way) : Option L2Way := (ways.reverse.find? (fun e => !e.keep)).or ways.getLast?

/-- A transfer of a line between an L2 slice and another unit: on a CRC failure it is repeated once (10 R230; Log 85). -/
def crcCheck (s : State) (loc : Nat) : State × Nat × Bool :=
  match s.crcBad.getD (loc / 64) 0 with
  | 0 => (s, 0, false)
  | 1 => ({ s with crcBad := s.crcBad.del (loc / 64) }, 1, false)
  | n + 2 => ({ s with crcBad := s.crcBad.putD (loc / 64) 0 n }, 1, true)

/-- A line leaves L2: a view's goes to a shadow frame (16 R391); a dirty one is written to DRAM, with poison where it is found
uncorrectable (10 R229): no thread is known to have written it last (Log 76). Nor has its transfer a requester to take 0x2F (10
R230; Log 85). What an error of L2 alone had poisoned in a clean line is gone with it (10 R240). -/
def l2Evict (s : State) (e : L2Way) : State :=
  let loc := e.line % 2 ^ 52
  let u := e.line / 2 ^ 52 % 1024
  let p := if u = 0 then e.part else e.line / 2 ^ 62 % 16
  let keys := (sectorsOf loc 64).map (fun q => sectorKey p u (q * 32))
  let s0 := { s with badEcc := s.badEcc.del (eccKey 7 (sliceOf loc) (loc / 64)),
                     poison := if e.dirty then s.poison
                       else (keys.filter (fun q => s.l2Poison.getD q false)).foldl (fun a q => a.del q) s.poison,
                     l2Poison := keys.foldl (fun a q => a.del q) s.l2Poison }
  if e.dirty then
    let r := readSectors s0 none p u 4 (sliceOf loc) (sectorsOf loc 64)
    let s1 := { r.1 with l2Poison := keys.foldl (fun a q => a.del q) r.1.l2Poison }
    let s2 := if r.2.isEmpty then s1 else postRaw s1 p (svcMessage s1 0x75 2 (sliceOf loc) 0xFF (wd loc) 0 0 u)
    if u = 0 then writeArray (crcCheck s2 loc).1 8 (channelOf loc) loc 64 else sched s2 s2.clk (.shadowFrameWriteout p u loc)
  else
    let s1 := { s0 with badEcc := (sectorsOf loc 64).foldl (fun b q => b.del (eccKey 4 (sliceOf loc) q)) s0.badEcc }
    if u = 0 then s1 else sched s1 s1.clk (.shadowFrameWriteout p u loc)

/-- A line of L2 is used: it becomes the most recently used of its set, and is allocated where it was absent. The answer tells
whether it was there. -/
def l2Use (s : State) (p u loc : Nat) (dirty keep : Bool) : State × Bool :=
  let ways := s.l2Sets.getD (l2Set loc) []
  let name := l2Line p u loc
  match ways.find? (fun e => e.line == name) with
  | some e =>
    let used : L2Way := ⟨name, e.dirty || dirty, if dirty then p else e.part, e.keep || keep⟩
    ({ s with l2Sets := s.l2Sets.put (l2Set loc) (used :: ways.filter (fun x => x.line != name)) }, true)
  | none =>
    let w : L2Way := ⟨name, dirty, p, keep⟩
    match (if 16 ≤ ways.length then l2Victim ways else none) with
    | none => ({ s with l2Sets := s.l2Sets.put (l2Set loc) (w :: ways) }, false)
    | some e =>
      (l2Evict { s with l2Sets := s.l2Sets.put (l2Set loc) (w :: ways.filter (fun x => x.line != e.line)) } e, false)

/-- A miss is counted (19 R456), and the line comes from DRAM: errors of its sectors are found there. -/
def l2Fill (s : State) (who : Option Nat) (p u loc : Nat) (sectors : List Nat) : State × List Nat :=
  readSectors (if p < 16 then perfBump s p 4 else s) who p u 8 (channelOf loc) sectors

/-- A write that reaches memory behind a port: sectors written whole lose their poison (10 R229); L2 allocates the line, filling
what is not written. -/
def portWrote (s : State) (p v loc n : Nat) : State :=
  let s1 := clearPoison s p v loc n
  if loc < dramTop then
    let r := l2Use { s1 with copies := s1.copies.del (lineOf loc) } p v loc true false
    let s2 := if r.2 then r.1
      else (l2Fill r.1 none p v loc ((sectorsOf (lineOf loc) 64).filter (fun q => !(sectorsIn loc n).contains q))).1
    injectAt (writeArray s2 4 (sliceOf loc) loc n) 7 (sliceOf loc) (loc / 64) [loc / 64]
  else if loc < 0x9000000000000 then writeArray s1 5 (slabOfLoc loc) loc n
  else writeArray s1 6 0 loc n

/-! Translation at a port (10 R235 to R239). -/

/-- A read of a line of DRAM that is no demand access: its errors are found (10 R228). -/
def quietRead (s : State) (p loc : Nat) : State :=
  if l2Has s p 0 loc then (readSectors s none p 0 4 (sliceOf loc) (sectorsOf (lineOf loc) 64)).1
  else (readSectors s none p 0 8 (channelOf loc) (sectorsOf (lineOf loc) 64)).1

/-- The walkers' reads of the candidate buckets of both keys. -/
def walkReads (s : State) (p v : Nat) : State :=
  if s.badEcc.isEmpty then s
  else (bucketsOf s p v false ++ bucketsOf s p v true).foldl (fun a loc => quietRead a p loc) s

/-- A walk takes its place in the order of their ends. -/
def walkPlace (w : Walk) : List Walk → List Walk
  | [] => [w]
  | x :: r => if x.due ≤ w.due then x :: walkPlace w r else w :: x :: r

/-- The clk at which a walk that starts now ends: of more than 64, the next waits until one of them has ended. A host core's
walker has no bound (10 R236, R237). -/
def walkEnd (s : State) (port p v : Nat) : Nat :=
  let busy := walksAt s port
  let start := if busy.length < 64 then s.clk else ((busy.drop (busy.length - 64)).head?.map (fun w => w.due)).getD s.clk
  start + (if 16 ≤ port then 336 + Config.pathDelay s.clk v else walkCost port p v)

/-- A walk begins, to be in flight until its end whatever it finds (10 R228, R237): the entry it will find, the clk it takes, and the
state. -/
def newWalk (s : State) (port p v : Nat) : Option TlbEntry × Nat × State :=
  let s1 := walkReads (if p < 16 then perfBump s p 5 else s) p v
  let due := walkEnd s1 port p v
  (walk s1 p v, due - s.clk, { s1 with walks := s1.walks.put port (walkPlace ⟨p, v / 2 ^ 16, walk s1 p v, due, false⟩ (s1.walks.getD port [])) })

/-- A port's answer for the page of v: the entry if there is one, the clk until it is known, and the state. An access joins a walk in
flight for its page (10 R237). -/
def lookUp (s : State) (port p v : Nat) : Option TlbEntry × Nat × State :=
  let s0 := tlbNow s port
  match walkJoined s0 port p v with
  | some w => (w.entry, w.due - s.clk, s0)
  | none =>
    match tlbFind s0 port p v with
    | some e => (some e, 0, s0)
    | none => newWalk s0 port p v

/-- What a port's answer for the page of v grants an access of a kind: the physical address, the clk until it is known, and the
state; otherwise cause 0x24 or 0x25, with that clk. A page entry that names no byte of DRAM gives 0x25 (Log 87). -/
def granted (v kind : Nat) : Option TlbEntry × Nat × State → Except (Nat × Nat × State) (Nat × Nat × State)
  | (none, c, s) => .error (0x24, c, s)
  | (some e, c, s) => if kindAllowed kind e && decide (physAddr e v < dramTop) then .ok (physAddr e v, c, s) else .error (0x25, c, s)

/-- Translates v for an access of a kind at a port. -/
def translate (s : State) (port p v kind : Nat) : Except (Nat × Nat × State) (Nat × Nat × State) :=
  if hostFlat s p then (if v < dramTop then .ok (v, 0, s) else .error (0x25, 0, s)) else granted v kind (lookUp s port p v)

/-- A reply asks for a walk from the start, whatever the port's cache holds (10 R239): the state, and the clk the walk takes. -/
def walkAgain (s : State) (port p v : Nat) : State × Nat :=
  if hostFlat s p then (s, 0)
  else
    let r := newWalk (tlbNow s port) port p v
    (r.2.2, r.2.1)

/-- What a walk that ends now has found; one that a ptinv met starts again (12 R289). -/
def walkResult (s : State) (port p v kind : Nat) : Except (Nat × Nat × State) (Nat × Nat × State) :=
  match ((s.walks.getD port []).reverse.find? (fun w => decide (w.due ≤ s.clk) && walkFor p v w)) with
  | some w => granted v kind (w.entry, 0, tlbNow s port)
  | none => translate s port p v kind

/-! Latencies (10 R241, R242), and reads behind the ports. -/

/-- The L2 figure from a cluster to the home slice of a physical address. -/
def l2Figure (cluster loc : Nat) : Nat := if sliceOf loc = cluster then 56 else 104

/-- A DRAM access after an L2 miss: at least 310 clk, at most 420 in the reserved-slot mode of the scan partition, and otherwise
unbounded (10 R241, R242; Log 68). -/
def dramFigure (s : State) (p loc : Nat) : Nat :=
  310 + (if isScan s p then Config.pathDelay s.clk loc % 111 else Config.pathDelay s.clk loc)

/-- A host core's path to L2 and to DRAM: at least 48 ns and 160 ns (20 R458; Log 68). -/
def hostFigure (s : State) (hit : Bool) (loc : Nat) : Nat := (if hit then 101 else 336) + Config.pathDelay s.clk loc

/-- Levels searched beyond a chain's first for the version of a location. -/
def levelsTo (s : State) (p loc : Nat) : List Nat → Nat
  | [] => 0
  | v :: r => if v = 0 ∨ lineHeld s p v (lineOf loc) then 0 else levelsTo s p loc r + 1

/-- Levels other than the root whose shadow maps a chain searches after L2 misses (16 R391). -/
def mapLevels (s : State) (p loc : Nat) : List Nat → Nat
  | [] => 0
  | v :: r => if v = 0 then 0 else if lineHeld s p v (lineOf loc) then 1 else mapLevels s p loc r + 1

/-- What a read behind a port gives: the state, the sectors found uncorrectable, the clk of a path to L2 and DRAM, how often the
transfer was repeated, and whether its repeat failed too (10 R230). -/
structure LineRead where
  s      : State
  found  : List Nat
  lat    : Nat
  again  : Nat
  failed : Bool
  deriving DecidableEq, Repr

/-- A read of n bytes of one line of DRAM through its home slice, from cluster cl (16 + n: host core n), in view v: L2 holds the
version or fills it, with all of the line's sectors (10 R224, R228, R230, R241). -/
def l2Read (s : State) (who : Option Nat) (cl p v loc n : Nat) (keep : Bool) : LineRead :=
  let chain := viewChain s p v
  let u := versionOf s p loc chain
  let r := l2Use s p u loc false keep
  let f := if r.2 then (r.1, []) else l2Fill r.1 who p u loc (sectorsOf (lineOf loc) 64)
  let e := readSectors f.1 who p u 4 (sliceOf loc) (sectorsOf loc n)
  let lat := if 16 ≤ cl then hostFigure s r.2 loc
    else if r.2 then l2Figure cl loc + 8 * levelsTo s p loc chain
    else (1 + mapLevels s p loc chain) * dramFigure s p loc
  let c := if r.2 && sliceOf loc == cl then (e.1, 0, false) else crcCheck e.1 loc
  ⟨if 16 ≤ cl then { c.1 with copies := c.1.copies.put (lineOf loc) true } else c.1, f.2 ++ e.2, lat * (1 + c.2.1), c.2.1, c.2.2⟩

/-- A read of n bytes of one line of any memory: of scratchpad and PIM the path's clk is the caller's; far: through another
unit than the port's own core. -/
def memRead (s : State) (who : Option Nat) (cl p v loc n : Nat) (far : Bool) : LineRead :=
  if loc < dramTop then l2Read s who cl p v loc n false
  else
    let e := if loc < 0x9000000000000 then readSectors s who p 0 5 (slabOfLoc loc) (sectorsOf loc n)
      else readSectors s who p (versionOf s p loc (viewChain s p v)) 6 0 (sectorsOf loc n)
    let c := if far then crcCheck e.1 loc else (e.1, 0, false)
    ⟨c.1, e.2, 0, c.2.1, c.2.2⟩

/-- A DRAM channel that has failed traps every access to it (20 R474). -/
def channelDown (s : State) (loc : Nat) : Bool :=
  loc < dramTop && s.offline.getD (1 * 65536 + channelOf loc) false

/-- All 32 bytes of a sector were written by core c by one store, so its poison is not read (10 R229). -/
def sectorOwned (s : State) (c p v a : Nat) : Bool :=
  (upFrom (a / 32 * 32) 32).all (fun i => ((s.l1d.get? (l1Key c p v i)).map (fun b => b.dirty && b.whole)).getD false)

/-- A line whose view tag is unknown goes to its root home address with every sector poisoned, and 0x4F tells the service
thread (16 R393). -/
def poisonHome (s : State) (p loc src unit : Nat) (bytes : List Byte) : State :=
  let pl := lineOf loc
  let s1 := wrMemBytes s pl bytes
  postUnit { s1 with poison := (s1.poison.put (pl / 32) true).put (pl / 32 + 1) true } p 0x4F src unit (wd pl)

/-- A parity error on a view tag of L2, found by a read (10 R240; 16 R393): a clean line is invalidated, to be read again from DRAM
or from its shadow frame. -/
def tagErrorL2 (s : State) (who : Option Nat) (p v loc : Nat) : State :=
  if s.badEcc.isEmpty then s
  else
    match findEcc s 7 (sliceOf loc) (loc / 64) with
    | none => s
    | some (s1, _) =>
      let u := versionOf s1 p loc (viewChain s1 p v)
      let bytes := (upFrom (lineOf loc) 64).map (ownByte s1 p u)
      let ways := s1.l2Sets.getD (l2Set loc) []
      let dirty := l2Dirty s1 p u loc
      let s2 := logError { s1 with l2Sets := s1.l2Sets.put (l2Set loc) (ways.filter (fun e => e.line != l2Line p u loc)) }
        7 (sliceOf loc) (lineOf loc) true (errContext who)
      let s3 := if u = 0 ∨ dirty = false then s2
        else { s2 with vmem := (upFrom (lineOf loc) 64).foldl (fun m a => m.del (verKey p u a)) s2.vmem }
      if dirty then poisonHome s3 p loc 2 (sliceOf loc) bytes else s3

/-- The same of an L1D: the lines of the address go, a clean one to be fetched again (16 R393). -/
def tagErrorL1 (s : State) (k c p va : Nat) : State :=
  if s.badEcc.isEmpty then s
  else
    match findEcc s 7 (16 + c) (va / 64) with
    | none => s
    | some (s1, _) =>
      let mine (key : Nat) : Bool := l1Core key == c && l1Part key == p && lineOf (l1Addr key) == lineOf va
      let dirty := s1.l1d.filter (fun q => mine q.1 && q.2.dirty)
      let s2 := logError { s1 with l1d := s1.l1d.filter (fun q => !mine q.1) } 7 (16 + c) (lineOf va) true (errContext (some k))
      match dirty.head?, translateAny s2 (clusterOf c) p va with
      | some _, some loc =>
        poisonHome s2 p loc 0 c ((upFrom 0 64).map (fun i =>
          ((dirty.find? (fun q => l1Addr q.1 == lineOf va + i)).map (fun q => q.2.val)).getD (rdMem s2 (lineOf loc + i))))
      | _, _ => s2

/-- A range cut at 64-byte boundaries: first address and bytes of each part. -/
def pieces : Nat → Nat → Nat → List (Nat × Nat)
  | 0, _, _ => []
  | fuel + 1, a, n =>
    if n = 0 then []
    else
      let k := min n (64 - a % 64)
      (a, k) :: pieces fuel (a + k) (n - k)

def cut (a n : Nat) : List (Nat × Nat) := pieces (n / 64 + 2) a n

/-- A thread's demand read of n bytes of one line at location loc, accessed at address va over a path of fig clk (for DRAM, the
path is l2Read's): 0x2F where the transfer failed twice, 0x27 (0x74 in scratchpad) for an error found now, 0x26 for poison, the
lowest sector first (10 R228 to R230, R240); the information is the sector's address as accessed (12 R272; Log 22). Sectors that
core c wrote whole itself are not read. The answer is the state and the clk. -/
def demandLine (s : State) (who core : Option Nat) (cl fig p v va loc n : Nat) : Except Bad (State × Nat) :=
  if channelDown s loc then .error (.trap s 0x27 (wd (va / 32 * 32)))
  else
    let own (q : Nat) : Bool := (core.map (fun c => sectorOwned s c p v (q * 32 + va - loc))).getD false
    let r := memRead (if loc < dramTop then tagErrorL2 s who p v loc else s) who cl p v loc n (fig != 10)
    let isScratch := dramTop ≤ loc ∧ loc < 0x9000000000000
    if r.failed then .error (.trap r.s 0x2F (wd (va / 32 * 32)))
    else
      match (sectorsOf loc n).find? (fun q => !own q && (r.found.contains q || poisonedAt r.s p v (q * 32))) with
      | some q => .error (.trap r.s (if !r.found.contains q then 0x26 else if isScratch then 0x74 else 0x27) (wd (q * 32 + va - loc)))
      | none => .ok (r.s, if loc < dramTop then r.lat else fig * (1 + r.again))

/-- A demand read of n bytes at address va and location loc, line by line: the state and the slowest line's clk (10 R242). -/
def demandRange (s : State) (who core : Option Nat) (cl fig p v va loc n : Nat) : Except Bad (State × Nat) :=
  (cut va n).foldl
    (fun acc q => match acc with
      | .error e => .error e
      | .ok a => (demandLine a.1 who core cl fig p v q.1 (loc + q.1 - va) q.2).map (fun b => (b.1, max a.2 b.2))) (.ok (s, 0))

def sameCluster (a b : Nat) : Bool := clusterOf a == clusterOf b

/-- The path from core c to a scratchpad port, the PIM, pinned DRAM or control space. -/
def portFigure (s : State) (k : Nat) (pl : Place) : Nat :=
  match pl with
  | .dram _ => 104
  | .scratch c _ => if isHostKey k then 86 else if coreOf k = c then 10 else if sameCluster (coreOf k) c then 38 else 86
  | .pim _ => if !isHostKey k && isScan s 0 && coreIn s 0 (coreOf k) then 14 else 60
  | .pinned loc => l2Figure (clusterOf (coreOf k)) loc
  | .ctl _ => 120

/-- The core-to-core figure of channels and mailboxes (13 R310). -/
def coreFigure (a b : Nat) : Nat := if a = b then 10 else if sameCluster a b then 38 else 86

/-! Write-backs, the trace ring, releases and acquires (11 R250, R254 to R258, R493). -/

def traceBase (s : State) (slice : Nat) : Nat := bits (s.dspr.getD rTRACECTL 0) 21 31 * 2 ^ 21 + slice * 2 ^ 17

def traceMode (s : State) : Nat := bits (s.dspr.getD rTRACECTL 0) 0 2

/-- Writes one trace entry (11 R256). -/
def traceWrite (s : State) (slice : Nat) (w : WriteBack) : State :=
  let seq := s.traceSeq.getD slice 0
  let a := traceBase s slice + seq % 4096 * 32
  let s1 := wrMemBytes s a (toBytes 8 w.clk ++ toBytes 8 w.addr ++ toBytes 2 w.core ++ toBytes 1 w.ctx ++
    toBytes 1 (w.size % 64) ++ toBytes 4 seq ++ toBytes 6 w.stamp ++ toBytes 2 0)
  { s1 with traceSeq := s1.traceSeq.put slice (seq + 1) }

/-- A slice's ring has room for n more unconsumed entries, of its 4,096. -/
def traceRoom (s : State) (slice n : Nat) : Bool := s.traceSeq.getD slice 0 + n ≤ s.traceUse.getD slice 0 + 4096

/-- Logs one write-back in record mode: a full ring overwrites its oldest entry and sets LOST (11 R257). -/
def traceLog (s : State) (slice : Nat) (w : WriteBack) : State :=
  if traceRoom s slice 1 then traceWrite s slice w
  else
    let s1 := { s with traceUse := s.traceUse.put slice (s.traceUse.getD slice 0 + 1),
                       dspr := s.dspr.put rTRACECTL (setBits (s.dspr.getD rTRACECTL 0) 3 1 1) }
    traceWrite s1 slice w

/-- Two write-backs of a line conflict: the later to arrive comes within 1,024 clk of the other, and its core has made no acquire
since that arrived (11 R254). -/
def traceConflict (s : State) (w old : WriteBack) : Bool :=
  let first := if w.clk < old.clk then w else old
  let later := if w.clk < old.clk then old else w
  old.core != w.core && decide (later.clk ≤ first.clk + 1024) && decide (s.acqAt.getD later.core 0 ≤ first.clk)

/-- A write-back takes its place in the order of arrival. -/
def wbPlace (w : WriteBack) : List WriteBack → List WriteBack
  | [] => [w]
  | x :: r => if x.clk ≤ w.clk then x :: wbPlace w r else w :: x :: r

/-- The cycle stamp at a clk to come: a tick that is due by then counts (11 R256). -/
def stampAt (s : State) (clk : Nat) : Nat :=
  (nowStamp s + (s.agenda.filter (fun q => decide (q.1 ≤ clk) && (match q.2 with | .boundaryTick => true | _ => false))).length) % 2 ^ 48

/-- A field of a ring entry in memory. -/
def traceField (s : State) (slice at_ off n : Nat) : Nat := rdMemN s (traceBase s slice + at_ % 4096 * 32 + off) n

/-- A ring entry matches a write-back in CORE, CTX, ADDR and SIZE. -/
def traceMatches (s : State) (slice at_ : Nat) (w : WriteBack) : Bool :=
  traceField s slice at_ 8 8 == w.addr && traceField s slice at_ 0x10 2 == w.core && traceField s slice at_ 0x12 1 == w.ctx &&
    traceField s slice at_ 0x13 1 == w.size % 64

/-- Where a replay of a slice's ring stands: from the entry of the lowest SEQ on, which wraps (11 R256, R258). -/
def replayNext (s : State) (slice : Nat) : Nat :=
  let seq (i : Nat) : Nat := traceField s slice i 0x14 4
  match s.replayAt.get? slice with
  | some n => n
  | none => (upFrom 1 4095).foldl (fun b i => if seq i ≠ seq b ∧ (seq b + 2 ^ 32 - seq i) % 2 ^ 32 < 2 ^ 31 then i else b) 0

/-- What becomes of a write-back on its way to its slice: performed; held at the trace ring, which expects an entry of that SEQ in
replay; divergent from that entry (11 R257, R258); or failed twice on the way (10 R230). -/
inductive TraceAct where
  | go (s : State)
  | held (s : State) (seq : Nat)
  | diverge (s : State) (seq : Nat)
  | failed (s : State) (addr : Nat)
  deriving DecidableEq, Repr

/-- A slice remembers a write-back of a line, and which have been logged. -/
def noteWb (s : State) (line : Nat) (w : WriteBack) (logged : List WriteBack) : State :=
  let old := (s.wbs.getD line []).filter (fun o => decide (w.clk ≤ o.clk + 1024))
  { s with wbs := s.wbs.put line (old.map (fun o => { o with logged := o.logged || logged.contains o }) ++ [{ w with logged := logged.contains w }]) }

/-- Earlier conflicts that the ring does not have yet, in order of arrival (11 R257). -/
def freshHits (s : State) (line : Nat) (hits : List WriteBack) : List WriteBack :=
  (hits.filter (fun o => !(o.logged || (s.wbs.getD line []).contains { o with logged := true }))).foldr wbPlace []

/-- A write-back that conflicts with others of its line: logged after those before it in record mode, compared with the ring in
replay, where an entry of an earlier one is passed with it (11 R257, R258; Log 89). -/
def traceJudge (s : State) (line : Nat) (w : WriteBack) (hits : List WriteBack) : TraceAct :=
  let slice := sliceOf line
  let fresh := freshHits s line hits
  if hits.isEmpty then .go (noteWb s line w [])
  else if traceMode s = 1 then
    if !traceRoom s slice (fresh.length + 1) && bit (s.dspr.getD rTRACECTL 0) 2 then .held s 0
    else .go (noteWb ((wbPlace w fresh).foldl (fun a o => traceLog a slice o) s) line w (w :: fresh))
  else if traceMode s = 2 then
    let next := fresh.foldl (fun n o => if traceMatches s slice n o then n + 1 else n) (replayNext s slice)
    let s1 := { s with replayAt := s.replayAt.put slice next }
    if traceMatches s slice next w then .go (noteWb { s with replayAt := s.replayAt.put slice (next + 1) } line w (w :: fresh))
    else if (upFrom (next + 1) 64).any (fun q => traceMatches s slice q w) then .held s1 (traceField s slice next 0x14 4)
    else .diverge s1 (traceField s slice next 0x14 4)
  else .go (noteWb s line w [])

/-- The same of a line's write-back by its L1D key: one that was held is judged as it arrived (11 R257, R258). -/
def traceCheck (s : State) (key line : Nat) (w : WriteBack) : TraceAct :=
  match s.heldRecs.get? key with
  | some h =>
    match traceJudge s line h.1 h.2 with
    | .go s1 => .go { s1 with heldRecs := s1.heldRecs.del key }
    | r => r
  | none =>
    let hits := (s.wbs.getD line []).filter (traceConflict s w)
    let s1 := match (if hits.isEmpty || traceMode s != 1 then none else partOfCore s w.core) with
      | some p => perfBump s p 0x0B
      | none => s
    match traceJudge s1 line w hits with
    | .held s2 n => .held { s2 with heldRecs := s2.heldRecs.put key (w, hits) } n
    | r => r

/-- A key takes its place in a list in ascending address, and then partition and view. -/
def keyPlace (key : Nat) : List Nat → List Nat
  | [] => [key]
  | x :: r => if l1Addr x < l1Addr key ∨ (l1Addr x = l1Addr key ∧ x ≤ key) then x :: keyPlace key r else key :: x :: r

/-- The distinct line keys of core c's L1D whose bytes satisfy a predicate, in ascending address (11 R493). -/
def l1LineKeys (s : State) (c : Nat) (pick : Nat → L1Byte → Bool) : List Nat :=
  (((s.l1d.filter (fun q => l1Core q.1 == c && pick q.1 q.2)).map (fun q => q.1 / 64 * 64)).eraseDups).foldr keyPlace []

/-- Result of writing lines back: done, with the clk by which the last is accepted; or stopped at the trace ring or on the way. -/
inductive WbRes where
  | done (s : State) (at_ : Nat)
  | held (s : State) (seq : Nat)
  | diverge (s : State) (seq : Nat)
  | failed (s : State) (addr : Nat)
  deriving DecidableEq, Repr

/-- The last writer of a dirty line found uncorrectable takes 0x27 at its next issue if it is live; otherwise the error is logged
with no context and 0x75 tells the service thread (10 R229). -/
def ownerError (s : State) (c p v ctx va sector : Nat) : State :=
  let k := c * 64 + ctx
  let live := ((thr s k).map (fun t => decide (t.run ≠ .ending))).getD false
  let s1 := logError s 2 c va true (if live then errContext (some k) else 0xFFFF)
  if live then modThr s1 k (fun t => { t with deferred := t.deferred ++ [(0x27, wd sector)] })
  else postRaw s1 p (svcMessage s1 0x75 0 c 0xFF (wd va) 0 0 v)

/-- Sectors of core c's dirty line that a write-back finds wrong (10 R229, R240): a corrected error is logged. -/
def dirtyErrors (s : State) (c : Nat) (sectors : List Nat) : State × List Nat :=
  if s.badEcc.isEmpty then (s, [])
  else sectors.foldl (fun acc q =>
    match findEcc acc.1 2 c q with
    | none => acc
    | some (s1, ue) => if ue then (s1, acc.2 ++ [q]) else (logError s1 2 c (q * 32) false 0xFFFF, acc.2)) (s, [])

/-- Dirty bytes of an L1D line, by offset. -/
def dirtyBytes (s : State) (key : Nat) : List Nat :=
  (upFrom 0 64).filter (fun i => ((s.l1d.get? (key + i)).map (fun b => b.dirty)).getD false)

/-- Core c's line has gone to its place in DRAM behind its home slice: the dirty bytes are written there and left clean, the sectors
it holds poisoned and those found uncorrectable stay so there, and bad lists others (10 R223, R229; 11 R263). -/
def wbPerform (s : State) (key loc : Nat) (dirty bad : List Nat) : State :=
  let c := l1Core key
  let p := l1Part key
  let v := l1View key
  let a := l1Addr key
  let halves := (upFrom 0 2).filter (fun j => dirty.any (fun x => x / 32 == j))
  let e := dirtyErrors s c (halves.map (fun j => a / 32 + j))
  let lost := e.2 ++ bad
  let carried := (halves.filter (fun j => l1Bad e.1 (key + 32 * j))).map (fun j => a / 32 + j)
  let owned (j : Nat) : Bool := sectorOwned e.1 c p v (a + 32 * j) && !(lost ++ carried).contains (a / 32 + j)
  let s2 := makeVersion e.1 none p v a loc
  let s3 := dirty.foldl (fun m x =>
    match m.l1d.get? (key + x) with
    | some b => { wrVersion m p v (loc + x) b.val with l1d := m.l1d.put (key + x) { b with dirty := false } }
    | none => m) s2
  let s4 := halves.foldl (fun m j => portWrote m p v (loc + 32 * j) (if owned j then 32 else 1)) s3
  let s5 := (lost ++ carried).foldl (fun m q => { m with poison := m.poison.put (sectorKey p v (loc + (q * 32 - a))) true }) s4
  match lost.head? with
  | some q => ownerError s5 c p v (((s.l1d.get? (key + dirty.headD 0)).map (fun b => b.writer)).getD 0) a (q * 32)
  | none => s5

/-- Writes back the dirty bytes of one line to its home slice under its view tag; it is the i-th of its instruction, so that it
arrives i clk and the slice's figure later (11 R493), and the figure more where its transfer to another slice was repeated (10
R230). A line whose page no longer translates stays dirty (Log 12). -/
def wbBad (s : State) (key i : Nat) (bad : List Nat) : TraceAct × Nat :=
  let c := l1Core key
  let p := l1Part key
  let v := l1View key
  let a := l1Addr key
  let s0 := if (tlbLook s (clusterOf c) p a).isNone then walkReads s p a else s
  match translateAny s0 (clusterOf c) p a with
  | none => (.go s0, 0)
  | some loc =>
    let dirty := dirtyBytes s key
    match dirty.head? with
    | none => (.go s0, 0)
    | some i0 =>
      let x := if sliceOf loc = clusterOf c then (s0, 0, false) else crcCheck s0 loc
      let fig := l2Figure (clusterOf c) loc * (1 + x.2.1)
      let at_ := s.clk + i + fig
      let ctx := ((s.l1d.get? (key + i0)).map (fun b => b.writer)).getD 0
      if x.2.2 then (.failed x.1 a, 0)
      else
        match traceCheck x.1 key (l2Line p v loc) ⟨c, ctx, loc + i0, dirty.length, at_, stampAt s at_, false⟩ with
        | .go s1 => (.go (wbPerform s1 key loc dirty bad), fig)
        | r => (r, 0)

def wbLine (s : State) (key i : Nat) : TraceAct × Nat := wbBad s key i []

/-- The slice that an L1D line is written back to. -/
def wbSlice (s : State) (key : Nat) : Nat :=
  ((translateAny s (clusterOf (l1Core key)) (l1Part key) (l1Addr key)).map sliceOf).getD 0

/-- A slice holds a line's write-back (11 R257, R258). -/
def holdWb (s : State) (key : Nat) : State :=
  if s.heldWbs.contains key then s else { s with heldWbs := s.heldWbs ++ [key] }

/-- The slices with held write-backs look at them again. -/
def pokeHeld (s : State) : State :=
  ((s.heldWbs.map (wbSlice s)).eraseDups).foldl (fun a sl => sched a a.clk (.traceConflictLog sl)) s

/-- The clk that the directory takes to invalidate host-cache copies of a line written back (11 R493). -/
def copyCost (s : State) (key : Nat) : Nat :=
  match translateAny s (clusterOf (l1Core key)) (l1Part key) (l1Addr key) with
  | some loc => if s.copies.getD (lineOf loc) false then 24 else 0
  | none => 0

/-- Writes back lines in order, one per clk from the issue; at system scope host-cache copies are waited for (11 R493). -/
def wbLines (s : State) (sys : Bool) (at_ i : Nat) : List Nat → WbRes
  | [] => .done s at_
  | key :: r =>
    match wbLine s key i with
    | (.go s1, fig) => wbLines (if s.replayAt = s1.replayAt then s1 else pokeHeld s1) sys
        (max at_ (s.clk + i + fig + (if sys then copyCost s key else 0))) (i + 1) r
    | (.held s1 q, _) => .held (holdWb s1 key) q
    | (.diverge s1 q, _) => .diverge s1 q
    | (.failed s1 a, _) => .failed s1 a

/-- Release actions at a scope (11 R250, R493): the clk at which they complete. A host core has no L1D to write back (20 R458). -/
def releaseAt (s : State) (k : Nat) (t : Thread) (scope : Nat) : WbRes :=
  if scope = 0 then .done s s.clk
  else if scope = 1 then .done s (max s.clk t.stAccept)
  else if t.host then .done s (max s.clk (max t.stAccept t.stPerform))
  else wbLines s (scope == 4) (max s.clk (max t.stAccept t.stPerform)) 0 (l1LineKeys s (coreOf k) (fun _ b => b.dirty))

/-- Acquire actions at a scope (11 R250): the state and the clk they take. -/
def acquireAt (s : State) (k : Nat) (t : Thread) (scope : Nat) : State × Nat :=
  if t.host ∨ scope < 2 then (s, 0)
  else ({ s with l1d := s.l1d.filter (fun q => l1Core q.1 != coreOf k || q.2.dirty),
                 acqAt := s.acqAt.put (coreOf k) s.clk }, 8)

/-- Writes back and drops a line of core c's L1D in every view, as before an atomic (12 R277). -/
def flushLine (s : State) (c p va : Nat) : WbRes :=
  match wbLines s false s.clk 0 (l1LineKeys s c (fun q b => b.dirty && l1Part q == p && lineOf (l1Addr q) == lineOf va)) with
  | .done s1 at_ =>
    .done { s1 with l1d := s1.l1d.filter (fun q => !(l1Core q.1 == c && l1Part q.1 == p && lineOf (l1Addr q.1) == lineOf va)) } at_
  | r => r

/-! The sets of an L1D (10 R222; 03 R70). -/

/-- The set of a line of core c, and the lines still held in it, the most recently used first. -/
def l1Set (c a : Nat) : Nat := c * 1024 + a / 64 % 1024
def l1Ways (s : State) (c a : Nat) : List L1Way :=
  (s.l1dSets.getD (l1Set c a) []).filter (fun e => (upFrom e.line 64).any (fun x => (s.l1d.get? x).isSome))

/-- Drops the bytes of a line. -/
def l1Drop (s : State) (key : Nat) : State := { s with l1d := s.l1d.filter (fun q => q.1 / 64 != key / 64) }

/-- The thread that last wrote a line of L1D. -/
def lastWriter (s : State) (key : Nat) : Nat :=
  l1Core key * 64 + ((s.l1d.get? (key + (dirtyBytes s key).headD 0)).map (fun b => b.writer)).getD 0

/-- A line leaves core c's L1D: its dirty bytes are written back first. One whose write-back is held stays until it is performed;
one that diverges or fails stays too, and its last writer traps (10 R230; 11 R257, R258; Log 70). -/
def l1Evict (s : State) (key : Nat) : State :=
  match wbLine s key 0 with
  | (.go s1, _) => if (dirtyBytes s1 key).isEmpty then l1Drop s1 key else s1
  | (.held s1 _, _) => holdWb s1 key
  | (.diverge s1 q, _) => dueTrap s1 (lastWriter s key) 0x2D (wd (q * 256))
  | (.failed s1 a, _) => dueTrap s1 (lastWriter s key) 0x2F (wd a)

/-- A line of an L1D has been used: it becomes the most recently used of its set. An eleventh line makes the least recently used
of those that no hint keeps leave, or of all (10 R222, 03 R70). -/
def l1Use (s : State) (key : Nat) (keep : Bool) : State :=
  let c := l1Core key
  let a := l1Addr key
  let ways := l1Ways s c a
  let held := (ways.find? (fun e => e.line == key)).any (fun e => e.keep)
  let rest := ways.filter (fun e => e.line != key)
  let s1 := { s with l1dSets := s.l1dSets.put (l1Set c a) (⟨key, keep || held⟩ :: rest) }
  if rest.length < 10 then s1
  else
    match (rest.reverse.find? (fun e => !e.keep)).or rest.getLast? with
    | some e => l1Evict s1 e.line
    | none => s1

end Sys2Proof.Machine
end

