-- ==== Sys2Proof/Machine/Control.lean ====
section
/-! DEFINITION. Device control space (10 R234): which addresses exist, which agents reach them, what a read of them returns
and what a store does. A store whose work is a step of its own makes that step due in the same clk. -/

namespace Sys2Proof.Machine

/-! Which addresses the chapters lay out (10 R213). -/

def inSpan (a lo n : Nat) : Bool := lo ≤ a && a < lo + n

def ctlDefined (a : Nat) : Bool :=
  inSpan a fuseBase 0x28 || inSpan a rankBase 0x80 || inSpan a tempBase 0x80 || inSpan a machineBase 0x20 ||
  inSpan a cycleBase 0x40 || inSpan a ptpBlock 0x18 || inSpan a testaBase 0x28 || inSpan a bootBlock 0x60 ||
  inSpan a hostTable 8 || inSpan a (chainBase 0) 0x2000 ||
  (inSpan a (partBase 0) 0x100000 &&
    (let o := (a - partBase 0) % 0x10000
     o < 0x1408 || inSpan o 0x2000 0x6100 || inSpan o 0x9000 8 || inSpan o 0xA000 0x2000)) ||
  (inSpan a (tableBase 0) 0x1000000 &&
    (let o := (a - tableBase 0) % 0x100000
     o < 0x9000 || inSpan o 0x10000 0x2000 || inSpan o 0x20000 0x20000)) ||
  (inSpan a (timelineBase 0 0) 0x400000 && (a - timelineBase 0 0) % 0x40000 < 0x20000) ||
  (inSpan a streamBase 0x80000 &&
    (let o := a - streamBase
     o < 0x16000 || inSpan o 0x20000 0x8000 ||
     (0x40000 ≤ o && ((o - 0x40000) % 0x4000 < 0x40 || inSpan ((o - 0x40000) % 0x4000) 0x2000 0x2000) &&
      o < 0x60000))) ||
  (inSpan a (portBase 0) 0x8000 && (a - portBase 0) % 0x1000 < 0x40) ||
  (inSpan a (egressBase 0) 0x8000 && (a - egressBase 0) % 0x1000 < 0x800)

/-- External device space (10 R234). -/
def ctlExternal (a : Nat) : Bool :=
  inSpan a ptpBlock 0x1000 || inSpan a testaBase 0x1000 || inSpan a streamBase 0x80000 ||
  inSpan a (portBase 0) 0x8000 || inSpan a (egressBase 0) 0x8000

/-- Who may reach an address: hosts (in supervisor mode, for the boot block's stores) and supervisor threads of any or of one
partition, by the text of each block. -/
def ctlAllowed (t : Thread) (a : Nat) (store : Bool) : Bool :=
  let sup := t.host || supOf t
  let supOfPart (p : Nat) : Bool := t.host || (supOf t && partOf t == p)
  if inSpan a machineBase 0x1000 then sup
  else if inSpan a cycleBase 0x1000 || inSpan a testaBase 0x1000 then supOfPart 0
  else if inSpan a bootBlock 0x1000 then !store || (t.host && supOf t)
  else if inSpan a (chainBase 0) 0x2000 || inSpan a (partBase 0) 0x100000 then sup
  else if inSpan a (tableBase 0) 0x1000000 then supOfPart ((a - tableBase 0) / 0x100000)
  else if inSpan a (timelineBase 0 0) 0x400000 then supOfPart ((a - timelineBase 0 0) / 0x40000)
  else if inSpan a streamBase 0x80000 || inSpan a (portBase 0) 0x8000 then sup
  else true

/-! Reads. -/

/-- The ranking after reset is ascending physical core (15 R366, Log 7): it is held as its difference from that. -/
def rankIdentity (w : Nat) : Word := wd (ofBytes ((upFrom (8 * w) 8).map (fun n => BitVec.ofNat 8 n)))

/-- Number of threads waiting on a timeline (19 R444). -/
def timelineWaiters (s : State) (key : Nat) : Nat :=
  (s.threads.filter (fun q => match q.2.run with
    | .waiting w => decide (w.kind = .timeline) && w.key == key
    | _ => false)).length

/-- Words held at a channel for a reader not yet placed: they have no arrival due (13 R310). -/
def chanHeld (s : State) (p c : Nat) : Nat :=
  (s.chanWay.getD (p * 1024 + c) []).length - (s.agenda.filter (fun q => q.2 == .channelWordArrive p c)).length

/-- A read of the dword at a. -/
def ctlRead (s : State) (a : Nat) : Word :=
  let v := rdCtl s a
  if inSpan a fuseBase 0x28 then (if a = fuseBase + 0x20 then ~~~v &&& 0xFFFFFFFF else ~~~v)
  else if inSpan a rankBase 0x80 then v ^^^ rankIdentity ((a - rankBase) / 8)
  else if inSpan a (chainBase 0) 0x2000 then (if a % 0x40 = 0x28 then 0 else v)
  else if a = ptpBlock + 8 then 0
  else if inSpan a (partBase 0) 0x100000 then
    let p := (a - partBase 0) / 0x10000
    let o := (a - partBase 0) % 0x10000
    if inSpan o 0x2000 0x4000 ∧ o % 16 = 0 then
      setBits v 40 6 (s.outbox.getD (p * 1024 + (o - 0x2000) / 16) []).length
    else v
  else if inSpan a (tableBase 0) 0x1000000 then
    let p := (a - tableBase 0) / 0x100000
    let o := (a - tableBase 0) % 0x100000
    if o < 0x8000 ∧ o % 32 = 0x18 then
      let c := p * 1024 + o / 32
      setBits (setBits v 8 8 ((s.chanBuf.getD c []).length + chanHeld s p (o / 32))) 16 8 (16 - s.chanUsed.getD c 0)
    else if inSpan o 0x10000 0x40 then
      let e := (o - 0x10000) / 32
      let b := twinBases s p e
      if o % 32 = 0 then wd b.1
      else if o % 32 = 8 then wd b.2.1
      else if o % 32 = 0x10 then setBits (setBits (rdCtl s (twinEnt 0 e + 0x10)) 0 32 b.2.2) 40 8 1
      else rdCtl s (twinEnt 0 e + o % 32)
    else v
  else if inSpan a (timelineBase 0 0) 0x400000 then
    let o := a - timelineBase 0 0
    if o % 32 = 0x18 then wd (timelineWaiters s (o / 0x40000 * 4096 + o % 0x40000 / 32)) else v
  else v

/-! Stores. -/

/-- Bits of v in [lo + n - 1 : lo] are zero. A store that sets a zero bit is discarded where its block says so; elsewhere the
bits stay as they are (01 R7). -/
def zeroAt (v : Word) (lo n : Nat) : Bool := bits v lo n == 0

/-- Some node of a partition is blocked, queued or running (15 R346). -/
def partBusy (s : State) (p : Nat) : Bool := s.nodes.any (fun q => q.2.part == p && 1 ≤ q.2.state && q.2.state ≤ 3)

/-- The distinct cores a partition's table names. -/
def distinctCores (s : State) (p : Nat) : Nat := (coreList s p).eraseDups.length

/-- The remap rules (15 R346, R348) on the state a store would leave: also, a core in no partition, or in another one, holds no
live context of this partition (02 R47). -/
def remapOk (s s1 : State) (p : Nat) : Bool :=
  !partBusy s p &&
  (coreList s1 p).all (fun c => (upFrom 0 16).all (fun q => q == p || !coreIn s q c)) &&
  s.threads.all (fun q => q.2.host || partOf q.2 != p || coreIn s1 p (coreOf q.1)) &&
  (!(ctlF s (partBase p) 0 1 == 1) || distinctCores s1 p ≤ 16)

/-- Some view of a partition uses a pool (16 R390). -/
def poolUsed (s : State) (p i : Nat) : Bool :=
  (upFrom 1 1023).any (fun v => viewState s p v != 0 && poolOf s p v == i)

/-- Data frames of a pool, and FREE (16 R390). -/
def poolRefresh (s : State) (p i : Nat) : State :=
  setCtlF s (poolEnt p i + 8) 32 32 (poolFrames s p i - poolMap s p i)

/-- A store to partition p's configuration block (15 R346, R348; 16 R373, R390; 18 R421). -/
def partStore (s : State) (p o : Nat) (v : Word) : State :=
  let a := partBase p + o
  if o = 0 then
    if !zeroAt v 3 1 || !zeroAt v 8 56 then s
    else
      let scan := bit v 0
      let old := ctlF s a 0 1 == 1
      let refuse := (scan && p != 0) ||
        (scan != old && (cycleEn s || partBusy s p || (scan && 16 < distinctCores s p)))
      if refuse then s
      else
        let s1 := setCtlF s a 0 1 (if scan then 1 else 0)
        if bit v 1 then sched s1 s.clk (.serviceThreadStart p) else s1
  else if o = 8 then if zeroAt v 52 12 then wrCtl s a v else s
  else if o = 0x10 then wrCtl s a v
  else if o = 0x18 then
    if zeroAt v 7 1 && zeroAt v 14 2 && zeroAt v 22 2 && zeroAt v 29 3 && zeroAt v 38 26 then wrCtl s a v else s
  else if inSpan o 0x100 0x80 then
    if zeroAt v 6 6 && zeroAt v 52 12 then wrCtl s a v else s
  else if inSpan o 0x200 0x80 then
    if (if o % 16 = 0 then zeroAt v 53 11 else zeroAt v 60 4) then wrCtl s a v else s
  else if o = 0x1000 then
    let s1 := wrCtl s a (wd (bits v 0 15))
    if 128 < bits v 0 8 || (bits v 0 8 != logicals s p && !remapOk s s1 p) then s else s1
  else if inSpan o 0x1008 0x400 then
    let s1 := wrCtl s a (wd (bits v 0 7))
    if wd (bits v 0 7) != rdCtl s a && !remapOk s s1 p then s else s1
  else if inSpan o 0x8000 0x100 then
    let i := (o - 0x8000) / 16
    if poolUsed s p i then s
    else if o % 16 = 0 then wrCtl s a (wd (bits v 0 1 + bits v 12 40 * 4096))
    else poolRefresh (setCtlF s a 0 32 (bits v 0 32)) p i
  else if o = 0x9000 then sched s s.clk (.eventRingReadAdvance p v)
  else s

/-- Some live thread of partition p has this node and TID (17 R406), husks included. -/
def endpointLive (s : State) (p : Nat) (node : Word) (tid : Nat) : Bool :=
  let is (t : Thread) : Bool := !t.host && partOf t == p && nodeAddr t == node && bits (getSpr t rTID) 0 32 == tid
  s.threads.any (fun q => is q.2) || s.husks.any (fun q => is q.2.image)

def chanEn (s : State) (p c : Nat) : Bool := ctlF s (chanEnt p c + 0x18) 0 1 == 1

/-- A store to the channel table (17 R406). -/
def chanStore (s : State) (p c o : Nat) (v : Word) : State :=
  let e := chanEnt p c
  let live := endpointLive s p (rdCtl s e) (ctlF s (e + 0x10) 0 32) ||
    endpointLive s p (rdCtl s (e + 8)) (ctlF s (e + 0x10) 32 32)
  if chanEn s p c && live then s
  else
    let s1 := if o = 0x18 then wrCtl s (e + o) (wd (bits v 0 1)) else wrCtl s (e + o) v
    let k := p * 1024 + c
    let s2 := unsched s1 (fun i => i == .channelWordArrive p c || i == .channelCreditReturn p c)
    { s2 with chanBuf := s2.chanBuf.del k, chanWay := s2.chanWay.del k, chanUsed := s2.chanUsed.del k,
              chanBack := s2.chanBack.del k }

/-- PENDING of a twin entry (17 R409). -/
def twinPending (s : State) (p e : Nat) : Nat := ctlF s (twinEnt p e + 0x10) 48 16

/-- A store to a twin-buffer entry (17 R409). -/
def twinStore (s : State) (p e o : Nat) (v : Word) : State :=
  let a := twinEnt p e + o
  if e < 2 || twinPending s p e != 0 then s
  else if o = 0 ∨ o = 8 then if bits v 0 6 = 0 then wrCtl s a v else s
  else if o = 0x10 then
    if bits v 0 6 ≠ 0 then s else setCtlF (setCtlF s a 0 32 (bits v 0 32)) a 40 8 (bits v 40 1)
  else s

/-- First byte, one past the last and V of a region-binding entry's two dwords (17 R407). -/
def regionSpan (lo hi : Word) : Nat × Nat := (bits lo 16 35 * 65536, bits lo 16 35 * 65536 + bits hi 0 32 * 65536)

def regionValid (s : State) (p i : Nat) : Bool := ctlF s (regionEnt p i) 0 1 == 1

/-- The location of a sync object named by a virtual address of partition p, if it translates. -/
def objectLoc (s : State) (p va : Nat) : Option Nat := translateAny s 0 p va

/-- The object at a virtual address is held or has ordered updates buffered (17 R407). -/
def objectBusy (s : State) (p va : Nat) : Bool :=
  match objectLoc s p va with
  | none => false
  | some loc =>
    ((s.objs.get? loc).map (fun o => !o.holders.isEmpty)).getD false ||
    s.updates.any (fun u => u.part == p && u.object == loc) ||
    s.runs.any (fun r => r.part == p && r.objects.contains loc)

/-- A store to a region-binding entry (17 R407). -/
def regionStore (s : State) (p i o : Nat) (v : Word) : State :=
  let e := regionEnt p i
  let lo := if o = 0 then v else rdCtl s e
  let hi := if o = 8 then v else rdCtl s (e + 8)
  let obj := if o = 0x10 then v else rdCtl s (e + 0x10)
  let sp := regionSpan lo hi
  let overlaps := bits hi 0 32 != 0 && (upFrom 0 4096).any (fun j => j != i && regionValid s p j &&
    (let q := regionSpan (rdCtl s (regionEnt p j)) (rdCtl s (regionEnt p j + 8))
     sp.1 < q.2 && q.1 < sp.2))
  let bad := (o = 0 && (!zeroAt v 1 15 || !zeroAt v 51 13)) || (o = 8 && !zeroAt v 32 32) || (o = 0x18) ||
    bits obj 0 3 != 0 || (bit lo 0 && bits hi 0 32 == 0) || 2 ^ 51 < sp.2 || overlaps ||
    objectBusy s p (rdCtl s (e + 0x10)).toNat || objectBusy s p obj.toNat
  if bad then s else wrCtl s (e + o) v

/-- A stored gate or meter number (17 R413). -/
def streamNum (n : Nat) : Bool := n < 512 || n == 0xFFFF

/-- The operating list of a port: START and LEN (17 R417). -/
def gateOper (s : State) (port : Nat) : Word := rdCtl s (streamBase + 0x40000 + 0x4000 * port + 8)

/-- A store to the stream tables and gate lists (17 R413 to R417). -/
def streamStore (s : State) (o : Nat) (v : Word) : State :=
  let a := streamBase + o
  if o < 0x10000 then
    match o % 64 / 8 with
    | 0 => wrCtl s a v
    | 1 => if zeroAt v 49 7 then wrCtl s a v else s
    | 2 => if streamNum (bits v 0 16) && streamNum (bits v 16 16) && zeroAt v 52 12 then wrCtl s a v else s
    | 3 => if zeroAt v 32 32 then wrCtl s a v else s
    | _ => s
  else if o < 0x12000 then
    if o % 16 = 0 then wrCtl s a v else if zeroAt v 2 62 then wrCtl s a v else s
  else if o < 0x16000 then
    match o % 32 / 8 with
    | 0 => wrCtl s a v
    | 1 => wrCtl s a v
    | 2 => if zeroAt v 5 59 then wrCtl s a (if bits v 0 4 = 0 then 0 else setBits v 4 1 (ctlF s a 4 1)) else s
    | _ => s
  else if inSpan o 0x20000 0x8000 then
    if zeroAt v 44 20 && bits v 22 22 + bits v 11 11 ≤ 4 * 2 ^ 20 then wrCtl s a v else s
  else
    let port := (o - 0x40000) / 0x4000
    let q := (o - 0x40000) % 0x4000
    if q = 0 then
      if !zeroAt v 23 9 || 1024 < bits v 10 11 || 1024 < bits v 0 10 + bits v 10 11 then s
      else sched s s.clk (.gateListControlStore port v)
    else if 0x2000 ≤ q then
      let i := (q - 0x2000) / 8
      let w := gateOper s port
      if !zeroAt v 10 22 || bits v 8 2 = 3 || (bits w 0 10 ≤ i && i < bits w 0 10 + bits w 10 11) then s else wrCtl s a v
    else s

/-- A ring control's new value: COUNT only while the port is off, HEAD the port's own (20 R463). -/
def ringValue (old v : Word) (en : Bool) : Word :=
  setBits (setBits (wd (bits v 0 61)) 0 16 (if en then bits old 0 16 else bits v 0 16)) 16 16 (bits old 16 16)

/-- A store to a port's control block (20 R462, R463). -/
def portStore (s : State) (port o : Nat) (v : Word) : State :=
  let a := portBase port + o
  let en := ctlF s (portBase port) 2 1 == 1
  match o / 8 with
  | 0 =>
    if bits v 0 2 = 3 then s
    else
      let old := rdCtl s a
      let kept := if en then setBits old 2 1 (bits v 2 1) else wd (bits v 0 4 + bits old 4 1 * 16 + bits v 8 4 * 256)
      sched (wrCtl s a kept) s.clk (.txFrameSend port)
  | 1 => if en then s else wrCtl s a (wd (bits v 0 48))
  | 2 => wrCtl s a v
  | 3 => wrCtl s a (ringValue (rdCtl s a) v en)
  | 4 => wrCtl s a v
  | 5 => sched (wrCtl s a (ringValue (rdCtl s a) v en)) s.clk (.txFrameSend port)
  | _ => s

/-- A store to an egress entry (20 R466). -/
def egressStore (s : State) (a : Nat) (v : Word) : State :=
  match a % 32 / 8 with
  | 0 => wrCtl s a v
  | 1 => if zeroAt v 16 48 then wrCtl s a v else s
  | 2 => if zeroAt v 40 24 then wrCtl s a v else s
  | _ => if zeroAt v 48 16 then wrCtl s a v else s

/-- Fields of a chain's control block (14 R318). -/
def chainState (s : State) (n : Nat) : Nat := ctlF s (chainBase n + 0x10) 32 8
def chainPart (s : State) (n : Nat) : Nat := ctlF s (chainBase n + 0x10) 48 4
def setChainState (s : State) (n st cause : Nat) : State :=
  setCtlF (setCtlF s (chainBase n + 0x10) 32 8 st) (chainBase n + 0x10) 40 8 cause
def setFaultOff (s : State) (n off : Nat) : State := setCtlF s (chainBase n + 0x18) 0 32 off

/-- A store to a chain's control block as its engine applies it (14 R318, R319). -/
def chainApply (s : State) (a : Nat) (v : Word) : State :=
  let n := (a - chainBase 0) / 0x40
  let o := (a - chainBase 0) % 0x40
  let off := chainState s n == 0 || chainState s n == 4
  match o / 8 with
  | 0 => if off then wrCtl s a v else s
  | 1 => if off then setCtlF s a 0 32 (bits v 0 32) else s
  | 2 => if off then setCtlF s a 48 8 (bits v 48 4) else s
  | 4 => if off then wrCtl s a v else s
  | 5 =>
    if v = 1 then sched s s.clk (.chainStart n)
    else if v = 2 then sched s s.clk (.chainStop n)
    else if v = 3 then sched s s.clk (.chainResync n)
    else s
  | _ => s

/-- A store reaches its engine: those of one clk are applied in address order, after the kicks (14 R319). -/
def chainStore (s : State) (a : Nat) (v : Word) : State := { s with chainOps := s.chainOps ++ [(a, v)] }

def chainOpPlace (x : Nat × Word) : List (Nat × Word) → List (Nat × Word)
  | [] => [x]
  | y :: r => if y.1 ≤ x.1 then y :: chainOpPlace x r else x :: y :: r

/-- The end of a clk in which control blocks were stored to. -/
def settleChains (s : State) : State :=
  (s.chainOps.foldl (fun l x => chainOpPlace x l) []).foldl (fun a x => chainApply a x.1 x.2) { s with chainOps := [] }

/-- A store to the cycle-domain block (19 R432, R433). -/
def cycleStore (s : State) (o : Nat) (v : Word) : State :=
  let a := cycleBase + o
  let en := cycleEn s
  if o = 0 then
    if en then
      if bit v 32 then s else sched (setCtlF s a 32 1 0) s.clk .cycleDomainStop
    else if bit v 32 then
      if 31250 ≤ bits v 0 32 ∧ bits v 0 32 ≤ 1000000000 then
        sched (setCtlF (setCtlF s a 0 32 (bits v 0 32)) a 32 1 1) s.clk .cycleDomainStart
      else s
    else setCtlF s a 0 32 (bits v 0 32)
  else if o = 8 then if en then s else wrCtl s a v
  else if o = 0x10 then if en then s else wrCtl s a (wd (bits v 0 32))
  else s

/-- A store to the PTP block (20 R468). -/
def ptpStore (s : State) (o : Nat) (v : Word) : State :=
  if o = 0 then sched s s.clk (.ptpAdjust (wd (bits v 0 48)))
  else if o = 8 then sched s s.clk (.ptpStep v)
  else
    let s1 := wrCtl s (ptpBlock + 0x10) (wd (bits v 0 1 + bits v 8 8 * 256))
    if bit v 0 then sched s1 s.clk .ptpDisciplineRestored else sched s1 s.clk .ptpDisciplineLost

/-- A store to the testa-link block (20 R470): ROLE takes WANT when EN is set; bits 0 and 1 of a stored REPL are cleared
(Log 78). -/
def testaStore (s : State) (o : Nat) (v : Word) : State :=
  let a := testaBase + o
  let old := rdCtl s a
  let en := bit old 2
  if o = 0 then
    if bits v 0 2 = 3 then s
    else
      let want := if en then bits old 0 2 else bits v 0 2
      let s1 := wrCtl s a (wd (want + bits v 2 2 * 4 + bits old 4 4 * 16))
      if bit v 2 && !en then { s1 with dspr := s1.dspr.putD rROLE 0 (wd want) } else s1
  else if o = 0x20 then wrCtl s a (setBits v 0 2 0)
  else s

/-- A store to the boot block (20 R477). -/
def bootStore (s : State) (o : Nat) (v : Word) : State :=
  if o < 0x20 then wrCtl s (bootBlock + o) v
  else if o = 0x20 then
    if ctlF s (bootBlock + 0x28) 1 1 = 1 then s else sched s s.clk (.attestationRequest v)
  else s

/-- A store of v at the control-space address a (10 R234), by the rules of the block it lies in. -/
def ctlStore (s : State) (a : Nat) (v : Word) : State :=
  if inSpan a cycleBase 0x40 then cycleStore s (a - cycleBase) v
  else if inSpan a ptpBlock 0x18 then ptpStore s (a - ptpBlock) v
  else if inSpan a testaBase 0x28 then testaStore s (a - testaBase) v
  else if inSpan a bootBlock 0x60 then bootStore s (a - bootBlock) v
  else if a = hostTable then
    if 10 ≤ bits v 0 6 && bits v 0 6 ≤ 24 && zeroAt v 6 6 && zeroAt v 52 12 then wrCtl s a v else s
  else if inSpan a (chainBase 0) 0x2000 then chainStore s a v
  else if inSpan a (partBase 0) 0x100000 then partStore s ((a - partBase 0) / 0x10000) ((a - partBase 0) % 0x10000) v
  else if inSpan a (tableBase 0) 0x1000000 then
    let p := (a - tableBase 0) / 0x100000
    let o := (a - tableBase 0) % 0x100000
    if o < 0x8000 then chanStore s p (o / 32) (o % 32) v
    else if inSpan o 0x10000 0x2000 then twinStore s p ((o - 0x10000) / 32) (o % 32) v
    else if inSpan o 0x20000 0x20000 then regionStore s p ((o - 0x20000) / 32) (o % 32) v
    else s
  else if inSpan a streamBase 0x80000 then streamStore s (a - streamBase) v
  else if inSpan a (portBase 0) 0x8000 then portStore s ((a - portBase 0) / 0x1000) (a % 0x1000) v
  else if inSpan a (egressBase 0) 0x8000 then egressStore s a v
  else s

end Sys2Proof.Machine
end

