-- ==== Sys2Proof/Machine/Views.lean ====
section
/-! DEFINITION. Nodes' reports (13 R299), the ends of views: discard, the fold of a committed view's lines, and the rollback
of a node (16 R386, R388, R393, R395, R398). -/

namespace Sys2Proof.Machine

/-! Nodes, keyed by the physical address of their record (13 R301). -/

def nodeOf (s : State) (key : Nat) : Option Node := s.nodes.get? key

/-- Writes bytes 0x50 to 0x7F of a node's record as a report (13 R299); the dispatch link is the device's own (Log 13). -/
def nodeReport (s : State) (key : Nat) : State :=
  match nodeOf s key with
  | none => s
  | some n =>
    let bs := toBytes 1 n.state ++ toBytes 1 n.lastst ++ toBytes 2 0 ++ toBytes 4 n.started ++ toBytes 4 n.ended ++
      toBytes 4 n.sprouts ++ toBytes 8 n.first ++ toBytes 8 n.qclk ++
      toBytes 8 (Config.freeWord (4 * s.free)).toNat ++ toBytes 8 (Config.freeWord (4 * s.free + 1)).toNat
    { wrMemBytes s (key + 0x50) bs with free := s.free + 1 }

/-- Changes a node and reports it. -/
def modNode (s : State) (key : Nat) (f : Node → Node) : State :=
  nodeReport { s with nodes := s.nodes.modify key f } key

/-- A node runs in a view of its own, as a staged or redundant node does (16 R397, R400). -/
def nodeStaged (n : Node) : Bool := n.flags % 4 != 0

/-- The node a thread runs in, when it is staged or redundant. -/
def stagedNode (s : State) (t : Thread) : Option Nat :=
  match t.node with
  | none => none
  | some key => if ((nodeOf s key).map nodeStaged).getD false then some key else none

/-! Discard (16 R388). -/

def setViewState (s : State) (p v st : Nat) : State := setCtlF s (viewEnt p v) 10 3 st

/-- The views whose parent is v. -/
def childViews (s : State) (p v : Nat) : List Nat :=
  (upFrom 1 1023).filter (fun u => viewState s p u != 0 && viewState s p u != 4 && viewParent s p u == v)

/-- Posts 0x4D for a thread that a discard kills (18 R419), and logs it with the outer handle when its view is nested (16 R395). -/
def reportDiscard (s : State) (k : Nat) (t : Thread) (info outer : Word) (nested : Bool) : State :=
  let s1 := postThread s k t 0x4D info t.pc
  if nested then logThread s1 k t 0x4D outer else s1

/-- The same of a thread that is no longer, or not yet, in a context: its core and context are given. -/
def reportAway (s : State) (p core ctx : Nat) (t : Thread) (info outer : Word) (nested : Bool) : State :=
  let s1 := postRaw s p (svcMessage s 0x4D 0 core ctx info t.pc (nodeAddr t) (viewOf t))
  if nested then logEvent s1 p 0x4D 0 core ctx outer else s1

/-- The name of a chain entry in a matrix operation. -/
def entryName (n seq : Nat) : Nat := n * 2 ^ 32 + seq

/-- The engine's locks on the tiles it has loaded for entries that are gone (14 R333). -/
def dropFollowLocks (s : State) (n : Nat) (out : List ChainEntry) : State :=
  { s with matops := s.matops.filter (fun q => !out.any (fun e => e.phase == 5 && q.2.chain == some (entryName n e.seq))) }

/-- The entries of a discarded view that chain n has pending perform no more writes and complete with cause 0x76; a chain that
one of them stalled runs on (16 R388; 14 R331). -/
def stopEntries (s : State) (n : Nat) (c : Chain) (v : Nat) : State :=
  let stop (e : ChainEntry) : ChainEntry :=
    if e.view = v ∧ e.phase ≠ 4 then { e with cause := 0x76, phase := 4, token := none } else e
  let c1 := { c with entries := c.entries.map stop, gone := c.gone || ctlF s (chainBase n + 0x18) 32 16 == v }
  let s1 := dropFollowLocks { s with chains := s.chains.put n c1 } n (c.entries.filter (fun e => e.view == v))
  let s2 := if chainState s1 n = 3 ∧ c.token.isNone = true ∧ c1.entries.all (fun e => e.token.isNone) = true
    then setFaultOff (setChainState s1 n 2 0) n 0 else s1
  if c1 = c then s else sched s2 s2.clk (.entryCompletion n)

/-- A husk whose thread is killed: the slot is free, and the thread ends as any does, under the husk's name (02 R29; 15 R365;
16 R388). -/
def killHusk (s : State) (slot : Nat) (t : Thread) : State :=
  let s1 := markRivalEnd { wrMem s slot 0 with husks := s.husks.del slot } t true
  sched (setThr s1 (huskKey slot) { t with run := .ending }) (s.clk + 1) (.threadEnd (huskKey slot))

/-! Ordered updates of a discarded view (16 R387). -/

/-- An entry of a run's object list that has been merged. -/
def mergedMark : Nat := 2 ^ 52

/-- An entry whose record was made in a view since discarded: it is discarded when its object is released. -/
def goneMark : Nat := 2 ^ 53

/-- An MSU's share of ORDLOG: present, base and size (11 R265, R266). -/
def ordShare (s : State) (p slice : Nat) : Bool × Nat × Nat :=
  let w := sprPart s p rORDLOG
  let size := 2 ^ (bits w 0 4 + 20) / 16
  (bit w 52, bits w 16 36 * 65536 + slice * size, size)

/-- The updates made in a view, in an MSU's buffer and in runs, are to be discarded. -/
def dropUpdates (s : State) (p v : Nat) : State :=
  { s with updates := s.updates.map (fun u => if u.part == p && u.view == v then { u with view := v + 1024 } else u),
           runs := s.runs.map (fun r =>
             if r.part = p then
               { r with objects := (r.objects.zip (upFrom 0 r.objects.length)).map (fun q =>
                   if q.1 < mergedMark ∧ rdMemN s ((ordShare s p r.slice).2.1 + r.offset + 32 * q.2 + 0x1A) 2 % 1024 = v
                     then q.1 + goneMark else q.1) }
             else r) }

/-- Kills every thread still in a view and its husks, removes its rivals not yet placed, which their node no longer counts, and
its sprouts, stops its chain entries (16 R388 steps 1 and 2; 13 R308; 02 R40). A husk is reported from where it was spilled; a rival
not yet placed with its owner's core and no context (Log 90). quiet: the kills of a rollback are reported by its one message (18
R419). -/
def emptyView (s : State) (p v : Nat) (info outer : Word) (nested quiet : Bool) : State :=
  let mine (t : Thread) : Bool := !t.host && partOf t == p && viewOf t == v
  let s1 := s.threads.foldl (fun a q =>
    if mine q.2 && decide (q.2.run ≠ .ending) then
      killQuiet (if quiet then a else reportDiscard a q.1 q.2 info outer nested) q.1
    else a) s
  let s2 := s1.husks.foldl (fun a q =>
    if mine q.2.image then
      let b := if quiet then a else reportAway a p (rdMemN a (q.1 + 4) 2) (rdMemN a (q.1 + 6) 1) q.2.image info outer nested
      killHusk b q.1 q.2.image
    else a) s1
  let gone (x : Sprout) : Bool := x.view == v && ((nodeOf s2 x.node).map (fun n => n.part == p)).getD false
  let late (r : RivalReq) : Bool := r.part == p && viewOf r.image == v
  let s2 := if quiet then s2 else (s2.rivals.filter late).foldl (fun a r => reportAway a p r.core 0xFF r.image info outer nested) s2
  let s3 := { s2 with rivals := s2.rivals.filter (fun r => !late r),
                      nodes := (s2.rivals.filter late).foldl (fun (t : Tab Node) (r : RivalReq) => t.modify r.node (fun n => { n with live := n.live - 1 })) s2.nodes }
  let s4 := s3.deques.foldl (fun a q =>
    let out := q.2.filter gone
    if out.isEmpty then a
    else
      out.foldl (fun b x => modNode b x.node (fun n => { n with sprouts := n.sprouts - 1 }))
        { a with deques := a.deques.put q.1 (q.2.filter (fun x => !gone x)) }) s3
  s4.chains.foldl (fun a q => if chainPart s4 q.1 == p then stopEntries a q.1 q.2 v else a) (dropUpdates s4 p v)

/-- The most the sweep may take is 8,192 clk and one for each shadow frame; the model's sweeps and folds take 64 (Log 11). -/
def sweepTime : Nat := 64

/-- Pods whose owner's view is v: their entries are free once their rivals are gone (16 R395). -/
def podState (s : State) (p i : Nat) : Nat := ctlF s (podEnt p i) 16 8
def podHandle (s : State) (p i : Nat) : Nat := ctlF s (podEnt p i) 0 16
def podPview (s : State) (p i : Nat) : Nat := ctlF s (podEnt p i + 8) 32 16
def freePod (s : State) (p i : Nat) : State := setCtlF s (podEnt p i) 16 8 0

/-- The handle of the pod a rival's view belongs to (16 R376). -/
def viewHandle (s : State) (p v : Nat) : Word := wd (podHandle s p (ctlF s (viewEnt p v) 16 8))

/-- Discards a view and, first, its descendants (16 R388). A kill tells the pod whose view was discarded, and in a nested view the
outer handle is logged (16 R395; 18 R419, R424). -/
def discardGo : Nat → State → Nat → Nat → Word → Word → Bool → Bool → State
  | 0, s, _, _, _, _, _, _ => s
  | fuel + 1, s, p, v, info, outer, nested, quiet =>
    if v = 0 ∨ viewState s p v = 0 ∨ viewState s p v = 4 then s
    else
      let s1 := (childViews s p v).foldl (fun a u => discardGo fuel a p u (viewHandle a p u) outer true quiet) s
      let s2 := (upFrom 1 255).foldl (fun a i => if podState a p i != 0 && podPview a p i == v then freePod a p i else a) s1
      let s3 := emptyView s2 p v info outer nested quiet
      let s4 := setViewState { s3 with outbox := s3.outbox.del (p * 1024 + v) } p v 4
      sched s4 (s4.clk + sweepTime) (.viewSweep p v)

def discardView (s : State) (p v : Nat) (info : Word) (quiet : Bool) : State := discardGo 6 s p v info info false quiet

/-- Discards a pod whole (16 R395). -/
def discardPod (s : State) (p i : Nat) : State :=
  let h := wd (podHandle s p i)
  let s1 := (upFrom 1 1023).foldl (fun a v =>
    if (viewState a p v == 1 || viewState a p v == 2) && viewKind a p v == 0 && ctlF a (viewEnt p v) 16 8 == i then
      discardView a p v h false
    else a) s
  freePod s1 p i

/-- The pods a thread owns, by the core and context at the fork held against the thread's own record of them: the owner is
the thread that executed the fork wherever it is now (16 R376), so it is named by its node, its view and its key. -/
def ownedPods (s : State) (p : Nat) (owner : Nat) : List Nat :=
  (upFrom 1 255).filter (fun i => podState s p i != 0 && s.podOwner.getD (p * 256 + i) 0xFFFF == owner)

/-! The lines of a view that ends. -/

/-- Drops every version that a view holds: its lines at the ports, in L2, in L1D, in shadow frames, with tags and poison. -/
def dropLines (s : State) (p v : Nat) : State :=
  let lo := verKey p v 0
  let hi := verKey p (v + 1) 0
  let keep (d k : Nat) : Bool := !(lo / d ≤ k && k < hi / d)
  { s with vmem := s.vmem.filter (fun q => keep 1 q.1),
           tags := s.tags.filter (fun q => keep 8 q.1),
           poison := s.poison.filter (fun q => keep 32 q.1),
           l2Poison := s.l2Poison.filter (fun q => keep 32 q.1),
           l2Sets := s.l2Sets.map (fun q => (q.1, q.2.filter (fun e => keep 1 e.line))),
           l1d := s.l1d.filter (fun q => !(l1Part q.1 == p && l1View q.1 == v)),
           l1Poison := s.l1Poison.filter (fun q => !(l1Part (q.1 * 32) == p && l1View (q.1 * 32) == v)) }

/-- The map entries of a view's shadow frames, by physical address (16 R391). -/
def shadowEntries (s : State) (p v : Nat) : List Nat :=
  let i := poolOf s p v
  if v = 0 ∨ poolEn s p i = false then []
  else (upFrom 0 (poolMap s p i * 128)).filterMap (fun j =>
    let e := poolBase s p i + 32 * j
    let key := rdMemN s e 8
    if key / 2 ^ 63 = 1 ∧ key / 2 ^ 40 % 1024 = v then some e else none)

/-- A frame and its map entry go back to the frame's pool. -/
def returnFrame (s : State) (p e : Nat) : State :=
  let i := rdMemN s (e + 0x14) 1 % 16
  let b := wrMemN s e 8 0
  setCtlF b (poolEnt p i + 8) 32 32 (ctlF b (poolEnt p i + 8) 32 32 + 1)

/-- Frees a view's shadow frames and map entries. -/
def freeFrames (s : State) (p v : Nat) : State := (shadowEntries s p v).foldl (fun a e => returnFrame a p e) s

/-- A line's tags and poison in view v become view u's (16 R386, R393). -/
def foldMarks (s : State) (p v u pl : Nat) : State :=
  let s3 := (upFrom 0 8).foldl (fun a i =>
    let dest := if u = 0 then (pl + 8 * i) / 8 else tagKey p u (pl + 8 * i)
    { a with tags := a.tags.putD dest false (a.tags.getD (tagKey p v (pl + 8 * i)) false) }) s
  (upFrom 0 2).foldl (fun a i =>
    { a with poison := a.poison.putD (sectorKey p u (pl + 32 * i)) false (a.poison.getD (sectorKey p v (pl + 32 * i)) false) }) s3

/-- Moves one line version of view v into view u: all 64 bytes, tags and poison. -/
def foldLine (s : State) (p v u pl : Nat) : State :=
  let bytes := (upFrom pl 64).map (ownByte s p v)
  let s1 := if u = 0 then s else makeVersion s none p u pl pl
  foldMarks (wrVersionBytes s1 p u pl bytes) p v u pl

/-- The physical lines of which the caches hold a version of a view. -/
def cacheLines (s : State) (p v : Nat) : List Nat :=
  ((s.vmem.filter (fun q => verKey p v 0 ≤ q.1 && q.1 < verKey p (v + 1) 0)).map (fun q => q.1 % 2 ^ 52 / 64 * 64)).eraseDups

/-- The lines of a map entry, by physical address, that the caches do not hold newer. -/
def entryLines (s : State) (p v e : Nat) : List Nat :=
  (upFrom 0 64).filterMap (fun j =>
    let l := rdMemN s e 8 % 2 ^ 40 * 4096 + 64 * j
    if rdMemN s (e + 8) 8 / 2 ^ j % 2 = 1 ∧ s.vmem.get? (verKey p v l) = none then some l else none)

/-- The physical lines of which a view holds a version. -/
def linesOf (s : State) (p v : Nat) : List Nat := cacheLines s p v ++ (shadowEntries s p v).flatMap (entryLines s p v)

/-- A map entry of view v is relinked under u's key, in u's pool's map (16 R393): merged into an entry that u has for the granule,
whose frame receives the lines; else at the lowest invalid position of its bucket. Where the bucket has none the lines are held in L2
(Log 91). Of u's own versions of these lines nothing is left. -/
def relinkEntry (s : State) (p v u e : Nat) : State :=
  let ls := entryLines s p v e
  let mask := ls.foldl (fun m l => m + 2 ^ (l / 64 % 64)) 0
  let s1 := ls.foldl (fun a l => foldMarks { a with vmem := (upFrom l 64).foldl (fun m x => m.del (verKey p u x)) a.vmem } p v u l) s
  let granule := rdMemN s e 8 % 2 ^ 40
  match shadowFind s p u granule with
  | some d =>
    let frame := poolBase s p (rdMemN s (d + 0x14) 1 % 16) + rdMemN s (d + 0x10) 4 * 4096
    let s2 := ls.foldl (fun a l => wrMemBytes a (frame + l % 4096) ((upFrom l 64).map (ownByte s p v))) s1
    returnFrame (wrMemN s2 (d + 8) 8 ((wd (rdMemN s (d + 8) 8) ||| wd mask).toNat)) p e
  | none =>
    let i := poolOf s p u
    match (if poolEn s p i && poolMap s p i != 0
        then firstFrom (fun j => rdMemN s (shadowBucket s p i u granule + 32 * j) 8 / 2 ^ 63 == 0) 0 8 else none) with
    | some j =>
      let d := shadowBucket s p i u granule + 32 * j
      wrMemN (wrMemN (wrMemN (wrMemN (wrMemN s1 d 8 (granule + u * 2 ^ 40 + 2 ^ 63)) (d + 8) 8 mask) (d + 0x10) 8 (rdMemN s (e + 0x10) 8))
        (d + 0x18) 8 0) e 8 0
    | none => returnFrame (ls.foldl (fun a l => foldLine a p v u l) s) p e

/-- The view's L2 lines are retagged, replacing those of the same address under the new tag (16 R393). -/
def retagL2 (s : State) (p v u : Nat) : State :=
  { s with l2Sets := s.l2Sets.map (fun q =>
      let moved (e : L2Way) : Bool := verKey p v 0 ≤ e.line && e.line < verKey p (v + 1) 0
      let name (e : L2Way) : Nat := l2Line p u (e.line % 2 ^ 52)
      let gone := (q.2.filter moved).map name
      (q.1, (q.2.filter (fun e => moved e || !gone.contains e.line)).map (fun e =>
        if moved e then { e with line := name e, dirty := true, part := p } else e))) }

/-- Every line of view v becomes u's version, superseding what u held, in caches too: a line in an L1D under u's tag is
dropped, and bytes still dirty in an L1D under v's tag are taken first (16 R386, R389, R393). Into the root the frames' lines go home;
into another view the map entries are relinked. -/
def foldLines (s : State) (p v u : Nat) : State :=
  let dirty := (s.l1d.filter (fun q => l1Part q.1 == p && l1View q.1 == v && q.2.dirty)).map (fun q => q.1)
  let s1 := dirty.foldl (fun a key =>
    match a.l1d.get? key, translateAny a (clusterOf (l1Core key)) p (l1Addr key) with
    | some b, some loc => wrVersion (makeVersion a none p v (lineOf (l1Addr key)) loc) p v loc b.val
    | _, _ => a) s
  let lines := linesOf s1 p v
  let held := cacheLines s1 p v
  let s2 := held.foldl (fun a pl => foldLine a p v u pl) s1
  let s3 := (shadowEntries s1 p v).foldl (fun a e =>
    if u = 0 then returnFrame ((entryLines a p v e).foldl (fun b pl => foldLine b p v u pl) a) p e else relinkEntry a p v u e) s2
  let stale (key : Nat) : Bool := l1Part key == p && l1View key == u &&
    (match translateAny s3 (clusterOf (l1Core key)) p (l1Addr key) with
     | some loc => lines.contains (lineOf loc)
     | none => false)
  dropLines (retagL2 { s3 with l1d := s3.l1d.filter (fun q => !stale q.1) } p v u) p v

/-! Rollback (16 R398). -/

/-- Ends every thread of a node without reports of their own; their ends no longer count for the node. -/
def killNode (s : State) (key : Nat) : State :=
  let s1 := s.threads.foldl (fun a q =>
    if q.2.node == some key then killQuiet (modThr a q.1 (fun t => { t with node := none })) q.1 else a) s
  let s2 := s1.husks.foldl (fun a q =>
    if q.2.image.node == some key then killHusk a q.1 { q.2.image with node := none } else a) s1
  let s3 := { s2 with rivals := s2.rivals.filter (fun r => r.node != key) }
  let mine (x : RedEntry) : Bool := ((nodeOf s key).map (fun n => x.pair / 2 ^ 32 == n.vaddr.toNat)).getD false
  { s3 with deques := s3.deques.map (fun q => (q.1, q.2.filter (fun x => x.node != key))),
            lvq := s3.lvq.map (fun q => (q.1, q.2.filter (fun x => !mine x))),
            scb := s3.scb.map (fun q => (q.1, q.2.filter (fun x => !mine x))) }

/-- Rolls a staged or redundant node back; cause is what failed, and is logged with its information (16 R398; 18 R423, R424). -/
def rollback (s : State) (key cause : Nat) (info : Word) : State :=
  match nodeOf s key with
  | none => s
  | some n =>
    let s1 := logEvent s n.part cause 9 n.part 0xFF info
    let s2 := discardView (killNode s1 key) n.part n.view n.vaddr true
    if 3 ≤ n.rollbacks then
      modNode (postRaw s2 n.part (svcMessage s2 cause 9 n.part 0xFF n.vaddr 0 n.vaddr n.view)) key
        (fun m => { m with state := 0, view := 0, live := 0, sprouts := 0 })
    else
      let s3 := modNode s2 key (fun m =>
        { m with state := 2, view := 0, live := 0, sprouts := 0, started := 0, ended := 0, nextTid := 0, firstSet := false,
                 first := 0, qclk := s2.clk, rollbacks := m.rollbacks + 1 })
      sched (postRaw s3 n.part (svcMessage s3 0x76 9 n.part 0xFF n.vaddr 0 n.vaddr n.view)) (if s3.bpos = 0 then s3.clk else s3.clk + 1) (.dispatchPlace n.part)

/-- The cluster whose merge engine works for a view: that of its pod's owner, or of a thread in the view (16 R393; Log 92). -/
def mergeUnit (s : State) (p v : Nat) : Nat :=
  let owner := s.podOwner.getD (p * 256 + ctlF s (viewEnt p v) 16 8) (2 ^ 20)
  if viewKind s p v = 0 ∧ isHuskKey owner = false then clusterOf (coreOf owner)
  else (((s.threads.find? (fun q => !q.2.host && partOf q.2 == p && viewOf q.2 == v)).map (fun q => clusterOf (coreOf q.1))).getD 0)

/-- A view has failed: its work can only be discarded (16 R392). A rival's threads are killed at their next issue and it ends
as failed; a staged or redundant view is rolled back. -/
def failView (s : State) (p v granule : Nat) : State :=
  let info := wd (v % 1024 + granule % 2 ^ 52 * 4096)
  let s1 := setCtlF (postView s p 0x41 3 (mergeUnit s p v) info v) (viewEnt p v) 31 1 1
  let s2 := { s1 with viewFail := s1.viewFail.put (p * 1024 + v) info }
  match (if viewKind s2 p v = 0 then none else (s2.nodes.filter (fun q => q.2.part == p && q.2.view == v && nodeStaged q.2)).head?) with
  | some q => rollback s2 q.1 0x41 info
  | none => s2

end Sys2Proof.Machine
end

