-- ==== Sys2Proof/Machine/Access.lean ====
section
/-! DEFINITION. Loads, stores and indivisible updates over every place of the address map, by lines (10 R212 to R242; 11 R245,
R262; 12 R270 to R272, R276, R277; 16 R394). -/

namespace Sys2Proof.Machine

/-- What a read gives: the state it leaves, the bytes, and its path's clk. -/
structure Got where
  s     : State
  bytes : List Byte
  lat   : Nat
  deriving DecidableEq, Repr

/-- What a write gives: the state it leaves, the clk until it is accepted, and whether a port other than L1D took it. -/
structure Put where
  s    : State
  lat  : Nat
  port : Bool
  deriving DecidableEq, Repr

/-- The level of a chain whose lines in core c's L1D hold n bytes at va, and how many levels lie before it (10 R223, R224):
a nearer version at the port ends the search. -/
def l1Find (s : State) (c p va n : Nat) : List Nat → Nat → Option (Nat × Nat)
  | [], _ => none
  | v :: r, i =>
    if l1Hit s c p v va n then some (v, i)
    else if l1Line s c p v (lineOf va) then none
    else
      let held := match translateAny s (clusterOf c) p va with
        | some loc => lineHeld s p v (lineOf loc)
        | none => false
      if v == 0 || held then none else l1Find s c p va n r (i + 1)

/-- The first poisoned sector of n bytes at va that an L1D hit finds (10 R229). -/
def hitPoison (s : State) (c p v va n : Nat) : Option Nat := (sectorsOf va n).find? (fun q => l1Bad s (l1Key c p v (q * 32)))

/-- What an error of L1D itself does to a hit (10 R240): nothing (a corrected one is logged), a trap with 0x27 at its sector (an
uncorrectable one of a dirty line, whose sector is poisoned there), or a new fetch (of a clean line, which goes). -/
inductive L1Error where
  | none
  | trap (sector : Nat)
  | refetch
  deriving DecidableEq, Repr

def l1Ecc (s : State) (k c p v va n : Nat) : State × L1Error :=
  match (sectorsOf va n).findSome? (fun q => (findEcc s 2 c q).map (fun r => (q, r))) with
  | none => (s, .none)
  | some (q, s1, ue) =>
    let s2 := logError s1 2 c (q * 32) ue (errContext (some k))
    if ue = false then (s2, .none)
    else if l1Dirty s2 c p v (lineOf va) then
      ({ s2 with l1Poison := s2.l1Poison.put (l1Key c p v (q * 32) / 32) true }, .trap (q * 32))
    else (l1Drop s2 (l1Key c p v (lineOf va)), .refetch)

/-! Locality hints (03 R70): 1 keeps the line in L1D; 2 and 3 allocate nothing there; 4 prefetches the next line into L1D, 5 the
next 4 KiB into L2; 6 evicts the line after the access; 7 keeps the line in L2. They change paths alone. -/

/-- The level of a chain at which a line of core c is filled: that of its version (10 R223, R224). -/
def fillLevel (s : State) (c p v va loc : Nat) : Nat :=
  ((viewChain s p v).find? (fun u => u == 0 || l1Line s c p u (lineOf va) || lineHeld s p u (lineOf loc))).getD 0

/-- Fills a line of core c's L1D, which is a write of that array where the line was absent. -/
def l1Take (s : State) (k c p v va loc : Nat) (keep : Bool) : State :=
  let lev := fillLevel s c p v va loc
  let s1 := if l1Line s c p lev (lineOf va) then s else writeArray s 2 c (lineOf va) 64
  l1Use (injectAt (l1Fill s1 c p v va loc (ctxOf k)) 7 (16 + c) (va / 64) [va / 64]) (l1Key c p lev (lineOf va)) keep

/-- A prefetch of the line at va into core c's L1D; one that would fault or that finds the line there does nothing. -/
def prefetchLine (s : State) (k c p v va : Nat) : State :=
  if 0x8000000000000 ≤ va ∨ (l1Find s c p va 64 (viewChain s p v) 0).isSome then s
  else
    match translate s (clusterOf c) p va 0 with
    | .error _ => s
    | .ok (loc, _, s1) => if channelDown s1 loc then s else l1Take (l2Read s1 none (clusterOf c) p v loc 64 false).s k c p v va loc false

/-- A prefetch of the 4 KiB granule at va into L2, through a port. -/
def prefetchGranule (s : State) (port p v va : Nat) : State :=
  if 0x8000000000000 ≤ va then s
  else
    match translate s port p va 0 with
    | .error _ => s
    | .ok (loc, _, s1) =>
      if channelDown s1 loc then s
      else (upFrom 0 64).foldl (fun a i => (l2Read a none port p v (loc + 64 * i) 64 false).s) s1

/-- What the hint of the instruction that issues does after an access to a line of DRAM, at L1D or at the owning port; a host core,
which has caches of its own, prefetches and keeps in L2 alone. -/
def afterHint (s : State) (k p v va : Nat) (loc : Option Nat) : State :=
  let c := coreOf k
  match s.hint with
  | 4 => if isHostKey k then s else prefetchLine s k c p v (lineOf va + 64)
  | 5 => prefetchGranule s (portOf k) p v (va / 4096 * 4096 + 4096)
  | 6 => match (if isHostKey k then none else (viewChain s p v).find? (fun u => l1Line s c p u (lineOf va))) with
    | some u => l1Evict s (l1Key c p u (lineOf va))
    | none => s
  | 7 => match loc with
    | some l => if l2Has s p (versionOf s p l (viewChain s p v)) l then (l2Use s p (versionOf s p l (viewChain s p v)) l false true).1 else s
    | none => s
  | _ => s

/-- A load that misses in core c's L1D: the line comes through its home slice, and is filled unless the hint says otherwise. -/
def l1Miss (s : State) (k c p v va n kind size : Nat) : Except Bad Got :=
  match translate s (clusterOf c) p va kind with
  | .error e => .error (.msg e.2.2 e.1 kind size va e.2.1)
  | .ok (loc, w, s1) =>
    match demandRange s1 (some k) (some c) (clusterOf c) 0 p v va loc n with
    | .error e => .error e
    | .ok (s2, lat) =>
      let s3 := perfBump s2 p 3
      let s4 := if s3.hint = 2 ∨ s3.hint = 3 then s3 else l1Take s3 k c p v va loc (s3.hint == 1)
      .ok ⟨afterHint s4 k p v va (some loc), (upFrom 0 n).map (fun i => coreByte s2 c p v (va + i) (loc + i)), lat + w⟩

/-- A load of n bytes of one line of translated DRAM in view v (10 R222 to R237; 11 R262). -/
def dramLoad (s : State) (k : Nat) (t : Thread) (v va n kind size : Nat) : Except Bad Got :=
  let p := partOf t
  if isHostKey k then
    match translate s (portOf k) p va kind with
    | .error e => .error (.msg e.2.2 e.1 kind size va e.2.1)
    | .ok (loc, w, s1) =>
      match demandRange s1 (some k) none (portOf k) 0 p 0 va loc n with
      | .error e => .error e
      | .ok (s2, lat) => .ok ⟨afterHint s2 k p 0 va (some loc), (upFrom loc n).map (rdMem s2), lat + w⟩
  else
    let c := coreOf k
    let s := tagErrorL1 s k c p va
    match l1Find s c p va n (viewChain s p v) 0 with
    | none => l1Miss s k c p v va n kind size
    | some (u, lv) =>
      let loc := translateAny s (clusterOf c) p va
      let e := l1Ecc s k c p u va n
      match e.2 with
      | .trap q => .error (.trap e.1 0x27 (wd q))
      | .refetch => l1Miss e.1 k c p v va n kind size
      | .none =>
        match hitPoison e.1 c p u va n with
        | some q => .error (.trap e.1 0x26 (wd (q * 32)))
        | none =>
          .ok ⟨afterHint (l1Use e.1 (l1Key c p u (lineOf va)) (e.1.hint == 1)) k p v va loc,
            (upFrom va n).map (fun a => ((e.1.l1d.get? (l1Key c p u a)).map (fun b => b.val)).getD 0), 12 + 8 * lv⟩

/-- The output image (12 R270): the two buffers of twin entry 1. -/
def isOutput (loc : Nat) : Bool := 0x9000000800000 ≤ loc && loc < 0x9000001000000

/-- The checks of an access to device control space (10 R234, R213; 12 R270), in order; kind, size and pointer as given. The access as a
whole has 8 bytes, or no part of it is one (10 R234). -/
def ctlCheck (s : State) (t : Thread) (ptr : Word) (a kind size : Nat) (store : Bool) : Option Bad :=
  if size ≠ 8 then some (.trap s 0x23 ptr)
  else if ctlAllowed t a store = false then some (.trap s 0x21 ptr)
  else if ctlDefined a = false then some (.msg s 0x25 kind size a 0)
  else if !store && viewOf t != 0 && ctlExternal a then some (.trap s 0x43 (wd a))
  else none

/-- The message of a refused part names the size of the whole access. -/
def withSize (size : Nat) : Bad → Bad
  | .trap s c i => .trap s c i
  | .msg s c k _ a w => .msg s c k size a w

/-- An access to a gated core's local window wakes it and waits (15 R370); one to the window of a core whose binding an sbind
changes waits for that (15 R345): the state and the clk it waits. -/
def windowWake (s : State) (c : Nat) : State × Nat :=
  let bind := s.bindBusy.getD c 0 - s.clk
  if s.gated.getD c false then
    match s.waking.get? c with
    | some d => (s, max bind (d - s.clk))
    | none => (sched { s with waking := s.waking.put c (s.clk + 4200) } (s.clk + 4200) (.coreWake c), max bind 4200)
  else (s, bind)

/-- The location of a place behind a port. -/
def portLoc : Place → Nat
  | .dram va => va
  | .scratch _ l => l
  | .pim l => l
  | .pinned l => l
  | .ctl a => a

/-- The view in which a place is accessed: scratchpad and pinned buffers hold no versions (10 R216; 17 R409 with 10 R233). -/
def placeView (pl : Place) (v : Nat) : Nat :=
  match pl with
  | .scratch _ _ => 0
  | .pinned _ => 0
  | _ => v

/-- A load of one part of an access made through pointer ptr in view v (Log 73). -/
def loadPiece (s : State) (k : Nat) (t : Thread) (v : Nat) (ptr : Word) (kind size a n : Nat) : Except Bad Got :=
  match place s t ptr kind a n with
  | .error e => .error (withSize size e)
  | .ok (.dram va) => dramLoad s k t v va n kind size
  | .ok (.ctl addr) =>
    match ctlCheck s t ptr addr kind size false with
    | some e => .error e
    | none => .ok ⟨s, toBytes 8 (ctlRead s addr).toNat, 120⟩
  | .ok (.scratch c loc) =>
    match demandRange (windowWake s c).1 (some k) none (portOf k) (portFigure s k (.scratch c loc)) (partOf t) 0 a loc n with
    | .error e => .error e
    | .ok (s1, lat) => .ok ⟨s1, (upFrom loc n).map (rdMem s1), lat + (windowWake s c).2⟩
  | .ok pl =>
    match demandRange s (some k) none (portOf k) (portFigure s k pl) (partOf t) (placeView pl v) a (portLoc pl) n with
    | .error e => .error e
    | .ok (s1, lat) => .ok ⟨s1, (upFrom (portLoc pl) n).map (portByte s1 (partOf t) (placeView pl v)), lat⟩

/-- An access that starts in translated DRAM must not run on into core 0's window (10 R214). -/
def crossing (s : State) (a n : Nat) : Option Bad :=
  if a < 0x8000000000000 ∧ 0x8000000000000 < a + n then some (.trap s 0x28 (wd 0x8000000000000)) else none

/-- A load of n bytes at a, by lines: the bytes in order and the slowest line's clk (10 R242). -/
def loadParts (s : State) (k : Nat) (t : Thread) (v : Nat) (ptr : Word) (kind size : Nat) : List (Nat × Nat) → Except Bad Got
  | [] => .ok ⟨s, [], 0⟩
  | (a, n) :: r =>
    match loadPiece s k t v ptr kind size a n with
    | .error e => .error e
    | .ok g =>
      match loadParts g.s k t v ptr kind size r with
      | .error e => .error e
      | .ok h => .ok ⟨h.s, g.bytes ++ h.bytes, max g.lat h.lat⟩

/-- The same; size is that of the accesses it is made of, as a fault message names it (08 R194; 10 R238). -/
def loadElemsRange (s : State) (k : Nat) (t : Thread) (ptr : Word) (a n size : Nat) : Except Bad Got :=
  match crossing s a n with
  | some e => .error e
  | none => loadParts s k t (viewFor t ptr) ptr 0 size (cut a n)

def loadRange (s : State) (k : Nat) (t : Thread) (ptr : Word) (a n : Nat) : Except Bad Got := loadElemsRange s k t ptr a n n

/-- ea then load: n bytes through a pointer, with the trap's pointer as information (05 R116). -/
def loadPtr (s : State) (k : Nat) (t : Thread) (ptr : Word) (n : Nat) (need : Rights) : Except Bad Got :=
  match ea t ptr n need with
  | .error c => .error (.trap s c ptr)
  | .ok a => loadRange s k t ptr a n

/-! Stores. -/

/-- Puts bytes into core c's L1D line of view v, dirty, last written by ctx; those of sectors the store covers count as whole
(10 R223, R229). -/
def l1Bytes (s : State) (c p v ctx : Nat) (covers : List Nat) (va : Nat) : List Byte → State
  | [] => s
  | b :: r =>
    let key := l1Key c p v va
    let old := ((s.l1d.get? key).map (fun x => x.dirty && x.whole)).getD false
    let keep := l1Bad s key && !covers.contains (va / 32)
    l1Bytes { s with l1d := s.l1d.put key ⟨b, true, ctx, old || covers.contains (va / 32)⟩, l1Poison := s.l1Poison.putD (key / 32) false keep }
      c p v ctx covers (va + 1) r

/-- A store of bytes of one line in L1D: the whole line has a new last writer. -/
def l1Write (s : State) (c p v va ctx : Nat) (bs : List Byte) : State :=
  let s1 := l1Bytes s c p v ctx (sectorsIn va bs.length) va bs
  { s1 with l1d := (upFrom (l1Key c p v (lineOf va)) 64).foldl (fun m a => m.modify a (fun b => { b with writer := ctx })) s1.l1d }

/-- A store's bytes in core c's L1D, and what the hint does with the line. -/
def l1Store (s : State) (k c p v va : Nat) (bs : List Byte) : State :=
  let s1 := injectAt (writeArray (l1Write s c p v va (ctxOf k) bs) 2 c va bs.length) 7 (16 + c) (va / 64) [va / 64]
  let s2 := l1Use s1 (l1Key c p v (lineOf va)) (s1.hint == 1)
  if s2.hint = 2 ∨ s2.hint = 3 then l1Evict s2 (l1Key c p v (lineOf va)) else afterHint s2 k p v va (translateAny s2 (clusterOf c) p va)

/-- A store to one line of translated DRAM (10 R223; 12 R271): a line of this view in the core's L1D needs no translation; the
first write in a view makes the view's version of the line (11 R262). -/
def dramStore (s : State) (k : Nat) (t : Thread) (v va size : Nat) (bs : List Byte) : Except Bad Put :=
  let p := partOf t
  if isHostKey k then
    match translate s (portOf k) p va 1 with
    | .error e => .error (.msg e.2.2 e.1 1 size va e.2.1)
    | .ok (loc, w, s1) =>
      if channelDown s1 loc then .error (.trap s1 0x27 (wd (va / 32 * 32)))
      else .ok ⟨afterHint (portWrote (wrMemBytes s1 loc bs) p 0 loc bs.length) k p 0 va (some loc), hostFigure s1 true loc + w, true⟩
  else
    let c := coreOf k
    if l1Line s c p v (lineOf va) then .ok ⟨l1Store s k c p v va bs, 12, false⟩
    else
      match translate s (clusterOf c) p va 1 with
      | .error e => .error (.msg e.2.2 e.1 1 size va e.2.1)
      | .ok (loc, w, s1) =>
        if channelDown s1 loc then .error (.trap s1 0x27 (wd (va / 32 * 32)))
        else .ok ⟨l1Store (makeVersion s1 (some c) p v va loc) k c p v va bs, 12 + w, false⟩

/-- Holds an operation in a view's outbox, which has 32 entries (16 R394). -/
def holdOp (s : State) (p v : Nat) (op : OutOp) : Option State :=
  let key := p * 1024 + v
  let es := s.outbox.getD key []
  if 32 ≤ es.length then none else some { s with outbox := s.outbox.put key (es ++ [op]) }

/-- A store of one part of an access made through pointer ptr in view v (Log 73). -/
def storePiece (s : State) (k : Nat) (t : Thread) (v : Nat) (ptr : Word) (size a : Nat) (bs : List Byte) : Except Bad Put :=
  let n := bs.length
  let p := partOf t
  let hold (_ : Unit) : Except Bad Put :=
    match holdOp s p (viewOf t) ⟨0, a, n, 0, 0, bs, t.pc, k⟩ with
    | none => .error (.trap s 0x42 0)
    | some s1 => .ok ⟨s1, 0, false⟩
  match place s t ptr 1 a n with
  | .error e => .error (withSize size e)
  | .ok (.dram va) => dramStore s k t v va size bs
  | .ok (.ctl addr) =>
    match ctlCheck s t ptr addr 1 size true with
    | some e => .error e
    | none =>
      if viewOf t ≠ 0 ∧ ctlExternal addr = true then hold ()
      else .ok ⟨ctlStore s addr (wd (ofBytes bs)), 120, true⟩
  | .ok pl =>
    let loc := portLoc pl
    if viewOf t ≠ 0 ∧ isOutput loc = true then hold ()
    else
      let w := match pl with
        | .scratch c _ => windowWake s c
        | _ => (s, 0)
      let fig := portFigure s k pl
      let x := if fig = 10 ∨ (loc < dramTop ∧ sliceOf loc = clusterOf (coreOf k)) then (w.1, 0, false) else crcCheck w.1 loc
      if x.2.2 then .error (.trap x.1 0x2F (wd (a / 32 * 32)))
      else
        let u := placeView pl v
        let s1 := wrVersionBytes (makeVersion x.1 none p u loc loc) p u loc bs
        .ok ⟨portWrote s1 p u loc n, fig * (1 + x.2.1) + w.2, true⟩

/-- A store by lines: all or, where one part is refused, none (12 R272). -/
def storeParts (s : State) (k : Nat) (t : Thread) (v : Nat) (ptr : Word) (size : Nat) : List (Nat × Nat) → List Byte → Except Bad Put
  | [], _ => .ok ⟨s, 0, false⟩
  | (a, n) :: r, bs =>
    match storePiece s k t v ptr size a (bs.take n) with
    | .error e => .error e
    | .ok g =>
      match storeParts g.s k t v ptr size r (bs.drop n) with
      | .error e => .error e
      | .ok h => .ok ⟨h.s, max g.lat h.lat, g.port || h.port⟩

/-- What an access that is refused leaves: the state as it was, but for the walks it made and the errors found (10 R228, R230, R237). -/
def foundIn (s e : State) : State :=
  { s with crcBad := e.crcBad, tlb := e.tlb, walks := e.walks, perf := e.perf, errFound := e.errFound,
           poison := if e.errFound = s.errFound then s.poison else e.poison.foldl (fun a q => a.put q.1 q.2) s.poison }

def keepState (s : State) : Bad → Bad
  | .trap e c i => .trap (foundIn s e) c i
  | .msg e c k n a w => .msg (foundIn s e) c k n a w

/-- A store of bytes at a, of accesses of one size (08 R194; 10 R238). -/
def storeElemsRange (s : State) (k : Nat) (t : Thread) (ptr : Word) (a : Nat) (bs : List Byte) (size : Nat) : Except Bad Put :=
  match crossing s a bs.length with
  | some e => .error e
  | none =>
    match storeParts s k t (viewFor t ptr) ptr size (cut a bs.length) bs with
    | .error e => .error (keepState s e)
    | .ok g => .ok g

def storeRange (s : State) (k : Nat) (t : Thread) (ptr : Word) (a : Nat) (bs : List Byte) : Except Bad Put :=
  storeElemsRange s k t ptr a bs bs.length

/-- ea then store. -/
def storePtr (s : State) (k : Nat) (t : Thread) (ptr : Word) (bs : List Byte) (need : Rights) : Except Bad Put :=
  match ea t ptr bs.length need with
  | .error c => .error (.trap s c ptr)
  | .ok a => storeRange s k t ptr a bs

/-- Records when a thread's store is accepted and, at a port, performed (11 R493). -/
def noteStore (s : State) (k : Nat) (g : Put) : State :=
  modThr s k fun t =>
    { t with stAccept := max t.stAccept (s.clk + g.lat),
             stPerform := if g.port then max t.stPerform (s.clk + g.lat) else t.stPerform }

/-! Indivisible operations at an owning port (12 R276, R277). -/

/-- The port word that an atomic or full/empty operation acts on: its location, view and clk. -/
structure PortWord where
  s    : State
  loc  : Nat
  view : Nat
  va   : Nat
  lat  : Nat
  deriving DecidableEq, Repr

/-- Finds the word of n bytes at address a in translated DRAM for an operation at its MSU: the issuer's L1D line is written
back and dropped first; cause 0x2B or 0x2C where the range has no MSU. -/
inductive PortRes where
  | ok (w : PortWord)
  | bad (b : Bad)
  | wb (r : WbRes)
  | down (s : State) (loc : Nat)
  deriving DecidableEq, Repr

/-- The MSU of a location's home slice has been taken offline (18 R430; Log 53). -/
def msuDown (s : State) (loc : Nat) : Bool := loc < dramTop && s.offline.getD (sliceOf loc) false

def msuWord (s : State) (k : Nat) (t : Thread) (ptr : Word) (a n : Nat) : PortRes :=
  let p := partOf t
  let v := viewFor t ptr
  let go (s0 : State) : PortRes :=
    match translate s0 (portOf k) p a 2 with
    | .error e => .bad (.msg e.2.2 e.1 2 n a e.2.1)
    | .ok (loc, w, s1) =>
      match demandRange s1 (some k) none (portOf k) 0 p v a loc n with
      | .error e => .bad e
      | .ok (s2, lat) => if msuDown s2 loc then .down s2 loc else .ok ⟨afterHint s2 k p v a (some loc), loc, v, a, lat + 8 + w⟩
  if isHostKey k then go s
  else
    match flushLine s (coreOf k) p a with
    | .done s1 _ => go s1
    | r => .wb r

/-- The PIM, twin-buffer space and device control space, which take no atomic (12 R277; 08 R185; 10 R212). -/
def noAtomicRange (a : Nat) : Bool :=
  (0x9000000000000 ≤ a && a < 0x9000001000000) || (0xA000000000000 ≤ a && a < 0xA020000000000) || 0xF000000000000 ≤ a

/-- The word an atomic acts on (12 R277): the MSU for translated DRAM, or the owner's scratchpad port; elsewhere 0x2B, and a reserved
address is refused (10 R213). -/
def atomicWord (s : State) (k : Nat) (t : Thread) (ptr : Word) (a n : Nat) : PortRes :=
  if noAtomicRange a then
    let out := match place s t ptr 2 a n with
      | .ok (.pim l) => isOutput l
      | _ => false
    .bad (if out && viewOf t != 0 then .trap s 0x43 (wd a) else .trap s 0x2B ptr)
  else
    match place s t ptr 2 a n with
    | .error e => .bad e
    | .ok (.scratch c loc) =>
      match demandRange (windowWake s c).1 (some k) none (portOf k) (portFigure s k (.scratch c loc)) (partOf t) 0 a loc n with
      | .error e => .bad e
      | .ok (s1, lat) => .ok ⟨s1, loc, 0, a, lat + (windowWake s c).2⟩
    | .ok _ => msuWord s k t ptr a n

/-- The word's value at its port. -/
def wordAt (w : PortWord) (p n : Nat) : Nat := ofBytes ((upFrom w.loc n).map (portByte w.s p w.view))

/-- Writes the word at its port: scratchpad holds no versions. -/
def setWord (w : PortWord) (p n v : Nat) : State :=
  let u := if w.loc < dramTop then w.view else 0
  portWrote (wrVersionBytes (makeVersion w.s none p u w.va w.loc) p u w.loc (toBytes n v)) p u w.loc n

/-- The full/empty tag of a word in a view, and its change (10 R225; 11 R259, R263). -/
def setTag (s : State) (p v va loc : Nat) (full : Bool) : State :=
  let s1 := makeVersion s none p v va loc
  { s1 with tags := s1.tags.putD (if v = 0 then loc / 8 else tagKey p v loc) false full }

end Sys2Proof.Machine
end

