-- ==== Sys2Proof/Machine/Operands.lean ====
section
/-! DEFINITION. Operands: the values a form's fields stand for (03 R63, R66; 06 R130, R131; 12 R269). -/

namespace Sys2Proof.Machine

/-- IMM16 sign-extended. -/
def immOf (t : Tail) : Word := sext (tailImm t).toNat 16

/-- opb() of the integer ALU opcodes (03 R63): register, imm7 (sign- or zero-extended), IMM16 or literal. -/
def opbAlu (s : State) (t : Thread) (f : RForm) (signed : Bool) : Word :=
  if f.q then
    if tailHasExt f.t then immOf f.t
    else if signed then sext f.b.toNat 7 else wd f.b.toNat
  else (tailLit f.t).getD (readG s t f.b.toNat)

/-- opb() of the opcodes whose source B is a register or a literal. -/
def opbReg (s : State) (t : Thread) (f : RForm) : Word := (tailLit f.t).getD (readG s t f.b.toNat)

/-- opb() where IMM16 is source B when the B field is 0 (06 R131: bext, bins; 08: tcfg, tmovr and others). -/
def opbImm (s : State) (t : Thread) (f : RForm) : Word :=
  match tailLit f.t with
  | some v => v
  | none => if f.b = 0 ∧ tailHasExt f.t = true then immOf f.t else readG s t f.b.toNat

/-- The displacement of an M-format access, in bytes: a literal unscaled, IMM16 or disp7 scaled by n (03 R66, 12 R269). -/
def dispM (f : MForm) (n : Nat) : Word :=
  match tailLit f.t with
  | some v => v
  | none => if tailHasExt f.t then wdi (sextInt (tailImm f.t).toNat 16 * n) else wdi (sextInt f.disp.toNat 7 * n)

/-- The displacement of an R-format memory opcode: IMM16 in bytes, 0 with a literal (12 R269). -/
def dispR (f : RForm) : Word := if tailHasLit f.t then 0 else immOf f.t

/-- The pointer an M-format and an R-format access forms. -/
def ptrM (s : State) (t : Thread) (f : MForm) (n : Nat) : Word := readG s t f.a.toNat + dispM f n
def ptrR (s : State) (t : Thread) (f : RForm) : Word := readG s t f.a.toNat + dispR f

/-- The offset in words of a branch and of a jump (03 R61, R66). -/
def offB (f : BForm) : Int :=
  match tailLit f.t with
  | some v => sgn v
  | none => if tailHasExt f.t then sextInt (tailImm f.t).toNat 16 else sextInt f.off.toNat 8

def offJ (f : JForm) : Int :=
  match tailLit f.t with
  | some v => sgn v
  | none => if tailHasExt f.t then sextInt (tailImm f.t).toNat 16 else sextInt f.off.toNat 22

/-- The constant of li (06 R144). -/
def liValue (f : LForm) : Word :=
  match tailLit f.t with
  | some v => v
  | none => if tailHasExt f.t then immOf f.t else sext f.imm.toNat 15

/-- The information value of trap and brk (07 R164): disp7 unscaled, IMM16 or the literal, sign-extended. -/
def trapInfo (f : MForm) : Word :=
  match tailLit f.t with
  | some v => v
  | none => if tailHasExt f.t then immOf f.t else sext f.disp.toNat 7

/-- The exit displacement of loop, in bytes (07 R157): disp7 or IMM16 in words, a literal in bytes. -/
def loopExit (f : MForm) : Int :=
  match tailLit f.t with
  | some v => sgn v
  | none => if tailHasExt f.t then 4 * sextInt (tailImm f.t).toNat 16 else 4 * sextInt f.disp.toNat 7

end Sys2Proof.Machine
end

