-- ==== Sys2Proof/Machine/Run.lean ====
section
/-! DEFINITION. What every instruction does around its own effect: the checks after decode, waits, the program counter, the
end of an instruction, traps and messages (02 R28, R35, R56; 03 R73; 07 R158, R162, R165, R173; 08 R179; 10 R238; 16 R398). -/

namespace Sys2Proof.Machine

/-! What an instruction reads and writes. -/

/-- Word 0's first operand is a source (B format, store data) as well as or instead of a destination. -/
def readsD (op : BitVec 8) : Bool :=
  let n := op.toNat
  (0x30 ≤ n && n ≤ 0x33) || (0x44 ≤ n && n ≤ 0x47) || n == 0x49 || n == 0x4B || n == 0x13 || n == 0x18 || n == 0x23 ||
  n == 0x55 || n == 0x5A || n == 0x5B || n == 0xD1

/-- The tile that word 0's first operand names is only read: the data of tst, tscatter and tscadd. -/
def keepsD (op : BitVec 8) : Bool :=
  let n := op.toNat
  n == 0x62 || n == 0x64 || n == 0x65

/-- The register fields of an instruction: word, lowest bit, number, in order of place. -/
def regFields (e : Enc) : List (Nat × Nat × Nat) :=
  (if e.f10 = .g then [(0, 10, bodyBits e 10 7)] else []) ++ (if e.f17 = .g then [(0, 17, bodyBits e 17 7)] else []) ++
  (if e.f24 = .g then [(0, 24, bodyBits e 24 7)] else []) ++ (if e.fc = .g then [(1, 8, (tailC e.tail).toNat)] else [])

/-- The registers read at issue. -/
def regsIn (e : Enc) : List Nat :=
  (if e.f10 = .g && readsD e.op then [bodyBits e 10 7] else []) ++ (if e.f17 = .g then [bodyBits e 17 7] else []) ++
  (if e.f24 = .g then [bodyBits e 24 7] else [])

/-- The tile fields, the mask tile last: word, lowest bit, number, and whether the instruction writes the tile. -/
def tileFields (e : Enc) : List (Nat × Nat × Nat × Bool) :=
  (if e.f10 = .t then [(0, 10, bodyBits e 10 7, !keepsD e.op)] else []) ++
  (if e.f17 = .t then [(0, 17, bodyBits e 17 7, false)] else []) ++
  (if e.f24 = .t then [(0, 24, bodyBits e 24 7, false)] else []) ++
  (if e.fc = .t then [(1, 8, (tailC e.tail).toNat, false)] else []) ++
  (if tailPe e.tail then [(2, 16, (tailPt e.tail).toNat, false)] else [])

/-! Outcomes of an instruction's own effect. -/

/-- What a wait is on, and the cause and TINFO of its limit. -/
structure WaitReq where
  kind  : WaitKind
  key   : Nat := 0
  arg   : Word := 0
  dst   : Nat := 0
  cause : Nat := 0
  info  : Word := 0
  deriving DecidableEq, Repr

inductive Act where
  /-- The instruction completes; the next PC follows it. -/
  | next (s : State)
  /-- It completes and the next PC is the target; ends a loop body only where the flag says so (07 R158). -/
  | jump (s : State) (target : Word) (ends : Bool)
  /-- It traps with TPC at it, or past it. -/
  | trap (s : State) (cause : Nat) (info : Word)
  | trapPast (s : State) (cause : Nat) (info : Word)
  /-- It waits and has no effect yet. -/
  | wait (s : State) (w : WaitReq)
  /-- A translation fault goes by message (10 R238): cause, KIND, SIZE and address, and the clk until its walk has ended. -/
  | blocked (s : State) (cause kind size addr late : Nat)
  /-- The thread ends, or waits for an end, or was moved: nothing more is done here. -/
  | gone (s : State)
  deriving DecidableEq, Repr

/-- A refused access as an outcome. -/
def badAct : Bad → Act
  | .trap s1 c i => .trap s1 c i
  | .msg s1 c k n a w => .blocked s1 c k n a w

/-- A held or divergent write-back as an outcome: cause 0x2D at once, or at the wait limit (11 R257, R258), with the ring's mode and
the SEQ expected as 18 R423 tells (Log 89); one that failed twice: 0x2F with its address (10 R230). -/
def wbAct : WbRes → (State → Nat → Act) → Act
  | .done s at_, f => f s at_
  | .held s q, _ => .wait s { kind := .trace, cause := 0x2D, info := wd (if traceMode s = 1 then 1 else q * 256) }
  | .diverge s q, _ => .trap s 0x2D (wd (q * 256))
  | .failed s a, _ => .trap s 0x2F (wd a)

/-! The end of an instruction. -/

/-- An instruction issued at a clk has completed: the next PC, and a loop end, which resolves 4 clk after that issue (07 R152,
R158). -/
def retireAt (s : State) (k words issued : Nat) (dest : Option (Word × Bool)) : State :=
  match thr s k with
  | none => s
  | some t =>
    let goal := match dest with
      | none => (pcAdd t.pc (4 * words), true)
      | some d => d
    let r := if goal.2 then loopEnd 4 t goal.1 else (t, goal.1, false)
    let moved := dest.isSome || r.2.2
    setThr s k { r.1 with pc := r.2.1, run := .ready, again := none, earliest := if moved then max t.earliest (issued + 4) else t.earliest }

/-- The instruction issued in this clk has completed; a single step traps (07 R165: where MODE as it stood at the instruction's
issue asks for one, so that eret is not itself stepped). -/
def retire (s : State) (k words : Nat) (stepped : Bool) (dest : Option (Word × Bool)) : State :=
  let s1 := retireAt s k words s.clk dest
  match thr s k with
  | none => s
  | some t => if stepped then takeTrap s1 k 0x0A t.pc (((thr s1 k).map (fun u => u.pc)).getD 0) else s1

/-- A single step is due after an instruction that thread t issues: MODE.SSTEP outside a handler (07 R165; Log 35). -/
def stepDue (t : Thread) : Bool := sstepOf t && !(thOf t || uihOf t)

/-- A trap, which in a staged node that consumes poison is a rollback instead (16 R398, 18 R426). -/
def raise (s : State) (k cause : Nat) (info tpc : Word) : State :=
  match thr s k with
  | none => s
  | some t =>
    match (if cause = 0x26 then stagedNode s t else none) with
    | some key => rollback s key cause info
    | none => takeTrap s k cause info tpc

/-- Leaves thread k waiting. An instruction that issued again and waits as before keeps the start and the limit it began with
(02 R56, 05 R128). -/
def enterWait (s : State) (k words : Nat) (w : WaitReq) : State :=
  match thr s k with
  | none => s
  | some t =>
    let lim := bits (getSpr t rWAITLIM) 0 32
    let start := match (waitMark t).filter (fun v => v.kind == w.kind) with
      | some v => (v.since, v.deadline)
      | none => (s.clk, if lim = 0 || w.kind == WaitKind.release || w.kind == WaitKind.port then none else some (s.clk + lim))
    let s1 := setThr { s with nextId := s.nextId + 1 } k
      { t with run := .waiting ⟨w.kind, w.key, w.arg, w.dst, w.cause, w.info, start.1, start.2, s.nextId, words⟩, again := none }
    match start.2 with
    | some d => sched s1 (max d s.clk) (.waitLimitExpiry k)
    | none => s1

/-- A translation fault (10 R238): the message is posted once the walk has ended, and the thread waits for the reply; a host takes the
cause as a trap (20 R459). -/
def enterFault (s : State) (k words cause kind size addr late : Nat) : State :=
  match thr s k with
  | none => s
  | some t =>
    if t.host then takeTrap (setThr s k { t with earliest := max t.earliest (s.clk + late) }) k cause (wd addr) t.pc
    else
      let token := s.nextId
      let msg := faultMessage cause kind size (coreOf k) (ctxOf k) addr token t.pc (viewOf t)
      let s1 := postLate { s with nextId := token + 1, tokens := s.tokens.put token (k, cause, wd addr) } (partOf t) msg late
      enterWait s1 k words { kind := .translation, key := token, arg := wd (kind + 8 * size), cause := 0x24, info := wd addr }

/-- Carries an outcome out. -/
def conclude (s0 : State) (k words : Nat) (t : Thread) : Act → State
  | .next s => retire s k words (stepDue t) none
  | .jump s target ends => retire s k words (stepDue t) (some (target, ends))
  | .trap s c i => raise s k c i t.pc
  | .trapPast s c i => raise s k c i (pcAdd t.pc (4 * words))
  | .wait s w => enterWait s k words w
  | .blocked s c kd n a w => enterFault s k words c kd n a w
  | .gone s => modThr { s with free := max s.free s0.free } k (fun u => { u with again := none })

/-! Checks after decode (03 R73 steps 8 to 10), audit, pending results and locks. -/

/-- TINFO of a decode trap (03 R73). -/
def decodeInfo (w0 : Nat) (word bit_ : Nat) : Word := wd (w0 + word * 2 ^ 32 + bit_ * 2 ^ 40)

/-- The same of a field of instruction i. -/
def fieldInfo (i : Instr) (word bit_ : Nat) : Word := decodeInfo (((enc i).map (fun e => (word0 e).toNat)).getD 0) word bit_

/-- TINFO of a cause 0x06 or 0x07 for which an instruction's entry gives no value: that of R73 for the opcode (Log 14). -/
def formInfo (i : Instr) : Word := fieldInfo i 0 2

/-- Latency audit selects this thread (07 R172). -/
def audited (s : State) (k : Nat) (t : Thread) : Bool :=
  let w := sprPart s (partOf t) rAUDIT
  !t.host && bit w 0 && (bit w 2 || bits w 8 7 == coreOf k) && (bit w 1 || bits w 16 6 == ctxOf k)

/-- The first register read before its fixed latency has elapsed, with the clk still missing. -/
def earlyRead (s : State) (t : Thread) (rs : List Nat) : Option (Nat × Nat) :=
  rs.findSome? (fun n =>
    (t.flight.find? (fun x => n != 0 && x.reg == regId t n && s.clk < x.ready)).map (fun x => (n, x.ready - s.clk)))

/-- The clk at which every scoreboarded result an instruction reads or writes has arrived (02 R35); 0 where none is due. -/
def pendingUntil (t : Thread) (rs : List Nat) : Nat :=
  t.sb.foldl (fun m p => if p.regs.any (fun r => rs.any (fun n => n != 0 && regId t n == r.1)) then max m p.due else m) 0

/-- The registers an instruction reads or writes beside its fields: jal's link (07 R155). -/
def impliedRegs (e : Enc) : List Nat := if e.op = 0x35 then [1] else []

/-- The checks in order; none where the instruction may take effect. The audit's is made before any wait for a result (Log 82). -/
def gate (i : Instr) (s : State) (k : Nat) (t : Thread) : Option Act :=
  match enc i with
  | none => none
  | some e =>
    let w0 := (word0 e).toNat
    if t.host && hostLacks e.op then some (.trap s 0x01 (decodeInfo w0 0 2))
    else if privilegedOp e.op && !supOf t then some (.trap s 0x06 (decodeInfo w0 0 2))
    else match (regFields e).find? (fun x => t.gsize ≤ x.2.2 && !isShadow t x.2.2) with
      | some x => some (.trap s 0x10 (decodeInfo w0 x.1 x.2.1))
      | none =>
        match (tileFields e).find? (fun x => t.tcount ≤ x.2.2.1) with
        | some x => some (.trap s 0x11 (decodeInfo w0 x.1 x.2.1))
        | none =>
          let rs := (regFields e).map (fun x => x.2.2) ++ impliedRegs e
          match (if audited s k t then earlyRead s t (regsIn e) else none) with
          | some (n, left) => some (.trap s 0x0E (wd (n + left * 2 ^ 16)))
          | none =>
            if s.clk < pendingUntil t rs then some (.wait s { kind := .result, key := pendingUntil t rs })
            else
              let locks := locksOf s k t
              match (tileFields e).find? (fun x => mustWait locks x.2.2.1 x.2.2.2) with
              | some x => some (.wait s { kind := .tileLock, key := x.2.2.1, arg := if x.2.2.2 then 1 else 0,
                                          cause := 0x19, info := wd x.2.2.1 })
              | none => none

/-- Words of an instruction (03 R59). -/
def wordsOf (i : Instr) : Nat := ((enc i).map (fun e => tailWords e.tail)).getD 1

/-- After an instruction the choices of free values move on and no thread is issuing. -/
def tick (s : State) : State := { s with free := s.free + 1, cur := none }

end Sys2Proof.Machine
end

