-- ==== Sys2Proof/Machine/Redund.lean ====
section
/-! DEFINITION. Redundant pairs (16 R400, R401), and `run`, through which every instruction of a thread goes: the checks, the
instruction's own effect, its end. -/

namespace Sys2Proof.Machine

/-- 0 none, 1 leading, 2 trailing (05 R123). -/
def redundOf (t : Thread) : Nat := bits (getSpr t rREDUND) 0 2

/-- A pair's name: its node and its TID. -/
def pairOf (t : Thread) : Nat := (nodeAddr t).toNat * 2 ^ 32 + bits (getSpr t rTID) 0 32

/-- Instructions that give a value from outside the registers and change nothing outside: the load-value queue alone. -/
def receives (i : Instr) : Bool :=
  match i with
  | .ld8 _ | .ld16 _ | .ld32 _ | .ld64 _ | .ldacq _ | .fechk _ | .btest _ | .rdptp _ | .rdcyc _ | .sread _
  | .sreadStatus _ | .tld _ | .tgather _ | .probe _ => true
  | .mfs f => f.index.toNat != rREDUND
  | _ => false

/-- Stores and held external operations: they leave the core when the trailing thread has made its own. -/
def emits (i : Instr) : Bool :=
  match i with
  | .st8 _ | .st16 _ | .st32 _ | .st64 _ | .strel _ | .swrite _ | .tst _ | .tscatter _ | .bmove _ | .bfill _ | .mbsend _
  | .publish _ => true
  | _ => false

/-- Requests that are compared first and then made once, by the leading thread. -/
def requests (i : Instr) : Bool :=
  match i with
  | .amoadd _ | .amobit _ | .amomin _ | .amomax _ | .amoswap _ | .cas _ | .faddaU _ | .faddaO _ | .fmaxa _ | .ldfe _
  | .stfe _ | .acq _ | .acqSh _ | .rel _ | .kick _ | .tscaddU _ | .tscaddO _ | .spawn _ | .take _ | .gjoin _ | .gleave _
  | .gbar _ | .mbrecvArm _ | .mbrecvDisarm _ | .binit _ | .bwait _ | .bwaitArm _ | .bwaitDisarm _ | .seqwait _ => true
  | _ => false

/-- The resolved address of a pointer; a pointer that has none stands for itself. -/
def linear (t : Thread) (p : Word) : Nat :=
  match eaGen false t p 1 needNone with
  | .ok a => a
  | .error _ => 2 ^ 64 + p.toNat

/-- A tile's contents as numbers. -/
def tileNums (t : Thread) (n : Nat) : List Nat :=
  let x := t.tiles.getD n ⟨0, []⟩
  x.cfg.toNat :: x.elems.flatMap (fun q => [q.1, q.2])

/-- The bytes of an atomic's operand, by SZ (12 R278). -/
def amoWide (f : RForm) : Nat :=
  match tailMod f.t / 16 % 4 with
  | 0 => 8
  | 1 => 4
  | _ => 2

/-- What an instruction names by its operands: the address it resolves to, and its data in the access's size (16 R401). -/
def redOperands (i : Instr) (e : Enc) (s : State) (t : Thread) : List Nat :=
  let m (f : MForm) (n : Nat) : List Nat := [linear t (ptrM s t f n)]
  let d (f : MForm) (n : Nat) : Nat := (readG s t f.d.toNat).toNat % 2 ^ (8 * n)
  let r (f : RForm) : List Nat := [linear t (ptrR s t f)]
  let b (f : RForm) : Nat := (opbReg s t f).toNat % 2 ^ (8 * amoWide f)
  let g (n : BitVec 7) : Nat := (readG s t n.toNat).toNat
  let p (n : BitVec 7) : Nat := linear t (readG s t n.toNat)
  match i with
  | .ld8 f => m f 1
  | .ld16 f => m f 2
  | .ld32 f => m f 4
  | .ld64 f | .ldacq f | .ldfe f | .fechk f | .sread f | .sreadStatus f => m f 8
  | .st8 f => m f 1 ++ [d f 1]
  | .st16 f => m f 2 ++ [d f 2]
  | .st32 f => m f 4 ++ [d f 4]
  | .st64 f | .strel f | .stfe f | .swrite f => m f 8 ++ [d f 8]
  | .amoadd f | .amobit f | .amomin f | .amomax f | .amoswap f | .faddaU f | .faddaO f | .fmaxa f => r f ++ [b f]
  | .cas f => r f ++ [b f, g f.d % 2 ^ (8 * amoWide f)]
  | .acq f | .acqSh f | .rel f => r f
  | .binit f | .bwait f | .bwaitArm f | .bwaitDisarm f | .btest f => p f.a :: [(opbReg s t f).toNat]
  | .mbsend f => [g f.a, p f.b]
  | .spawn f | .take f => [p f.a]
  | .bmove f => [p f.d, p f.a, g f.b]
  | .bfill f => [p f.d, g f.a, g f.b]
  | .tld f | .tst f | .tgather f | .tscatter f | .tscaddU f | .tscaddO f =>
    r f ++ [(tailLit f.t).map (fun v => v.toNat) |>.getD (g f.b)] ++
    ((tileFields e).filter (fun x => !x.2.2.2)).flatMap (fun x => tileNums t x.2.2.1)
  | .mfs f => [f.index.toNat]
  | _ => (regsIn e).map (fun n => (readG s t n).toNat) ++ ((tailLit e.tail).map (fun v => v.toNat)).toList

/-- The opcode, MOD and operands by which the threads of a pair compare an operation. -/
def redName (i : Instr) (s : State) (t : Thread) : List Nat :=
  match enc i with
  | none => []
  | some e => e.op.toNat :: tailMod e.tail :: redOperands i e s t

/-- Entries of one instruction: one for each 64-byte row-chunk of a tile access or chunk of a block operation, and never more than
the structure has, `cap`, so that an access of more units goes on when it is empty (Log 39). -/
def redUnits (i : Instr) (s : State) (t : Thread) (cap : Nat) : Nat :=
  match i with
  | .tld f | .tgather f | .tst f | .tscatter f | .tscaddU f | .tscaddO f =>
    let c := (t.tiles.getD f.d.toNat ⟨0, []⟩).cfg
    let rows := bits c 0 5 + 1
    min cap (rows * max 1 ((bits (getSpr t rGANG) 0 3 * 16 * (bits c 8 3 + 1) + 63) / 64))
  | .bmove f | .bfill f => min cap (max 1 (((readG s t f.b.toNat).toNat + 63) / 64))
  | _ => 1

def redQueue (tab : Tab (List RedEntry)) (core : Nat) : List RedEntry := tab.getD core []
def redTotal (q : List RedEntry) : Nat := q.foldl (fun n e => n + e.units) 0

/-- The oldest entry of a pair, and the queue without it. -/
def redHead (q : List RedEntry) (pair : Nat) : Option RedEntry := q.find? (fun e => e.pair == pair)
def redDrop : List RedEntry → Nat → List RedEntry
  | [], _ => []
  | e :: r, pair => if e.pair = pair then r else e :: redDrop r pair

/-- What a thread of a pair waits for (16 R401): 0 that the pair's comparison entry is gone and the load-value queue has room for
n entries; 1 that the comparison queue has room for n; 2 that its request has been compared; 3 a load-value entry; 4 a
comparison entry; for 3 and 4 also that the leading thread is gone; 5, of a leading thread's tend, that the trailing one is. -/
def redWait (s : State) (what n : Nat) : Act := .wait s { kind := .redundant, key := what, arg := wd n, cause := 0x71 }

/-- A mismatch rolls the node back (16 R401); INFO is the node record's address (18 R423). -/
def redMismatch (s : State) (t : Thread) : Act :=
  match t.node with
  | some key => .gone (rollback s key 0x70 (nodeAddr t))
  | none => .gone s

/-- The registers and the tiles that an instruction's fields write, in the order of the fields. -/
def outRegs (e : Enc) : List Nat :=
  (if e.f10 = .g then [bodyBits e 10 7] else []) ++ (if e.fc = .g then [(tailC e.tail).toNat] else [])
def outTiles (e : Enc) : List Nat := ((tileFields e).filter (fun x => x.2.2.2)).map (fun x => x.2.2.1)

/-- What an instruction gave its thread: the registers and tiles of its fields as they will stand, and the clk they take. -/
def redResult (i : Instr) (s1 : State) (k : Nat) : List Word × List Tile × Nat :=
  match thr s1 k, enc i with
  | some t, some e =>
    let val (n : Nat) : Word :=
      ((t.sb.reverse.findSome? (fun p => p.regs.find? (fun r => r.1 == regId t n))).map (fun r => r.2)).getD (gprOf t n)
    ((outRegs e).map val, (outTiles e).map (fun n => t.tiles.getD n ⟨0, []⟩), t.sb.foldl (fun m p => max m p.due) s1.clk - s1.clk)
  | _, _ => ([], [], 0)

/-- The entry of an operation that thread t names in state s, with what it gave. -/
def redEntry (i : Instr) (s : State) (t : Thread) (cap : Nat) (r : List Word × List Tile × Nat) (fault : Option (Nat × Word)) (past : Bool) :
    RedEntry :=
  ⟨pairOf t, redName i s t, r.1, r.2.1, r.2.2, fault, past, redUnits i s t cap, false⟩

/-- An instruction names what an entry names: the same opcode, address, size, operation and data. An entry without a name is the
trap that ended a leading thread's wait. -/
def redSame (i : Instr) (s : State) (t : Thread) (e : RedEntry) : Bool := e.name == redName i s t || e.name.isEmpty

def pushLvq (s : State) (core : Nat) (e : RedEntry) : State := { s with lvq := s.lvq.put core (redQueue s.lvq core ++ [e]) }
def pushScb (s : State) (core : Nat) (e : RedEntry) : State := { s with scb := s.scb.put core (redQueue s.scb core ++ [e]) }

/-- The locks that a tile instruction's work holds (08 R179). -/
def tileLocks (e : Enc) : List Nat := (tileFields e).map (fun x => if x.2.2.2 then x.2.2.1 else readLock x.2.2.1)

/-- A store of the leading thread leaves the core with the trailing one's, but what it gave its own thread stands: the registers
it wrote, the results and locks under way (08 R179; 12 R284). -/
def keepThread (s s1 : State) (k : Nat) : State :=
  match thr s k, thr s1 k with
  | some t, some u =>
    (u.sb.filter (fun p => !t.sb.any (fun x => x.id == p.id))).foldl (fun a p => sched a p.due (.scoreboardResultArrival k p.id))
      { setThr s k u with nextId := s1.nextId }
  | _, _ => s

/-- The trap of an entry. -/
def redTrap (s : State) (e : RedEntry) (f : Nat × Word) : Act := if e.past then .trapPast s f.1 f.2 else .trap s f.1 f.2

/-- Gives the trailing thread what the leading one received: its own instruction's registers and tiles take the values. -/
def redApply (i : Instr) (s : State) (k core pair : Nat) (e : RedEntry) : Act :=
  let s1 := { s with lvq := s.lvq.put core (redDrop (redQueue s.lvq core) pair) }
  match e.fault with
  | some f => redTrap s1 e f
  | none =>
    match enc i with
    | none => .next s1
    | some x =>
      let s2 := modThr s1 k fun t => { t with tiles := ((outTiles x).zip e.tileOut).foldl (fun a q => a.put q.1 q.2) t.tiles }
      .next (putScored s2 k (s.clk + e.lat) ((outRegs x).zip e.regsOut) (tileLocks x))

/-- The leading thread's act on an operation whose answer goes into the load-value queue. -/
def leadAnswer (i : Instr) (s : State) (k : Nat) (t : Thread) (a : Act) : Act :=
  let push (s1 : State) (r : List Word × List Tile × Nat) (f : Option (Nat × Word)) (past : Bool) : State :=
    pushLvq s1 (coreOf k) (redEntry i s t 256 r f past)
  match a with
  | .next s1 => .next (push s1 (redResult i s1 k) none false)
  | .trap s1 c info => .trap (push s1 ([], [], 0) (some (c, info)) false) c info
  | .trapPast s1 c info => .trapPast (push s1 ([], [], 0) (some (c, info)) true) c info
  | a => a

/-- The leading thread. An operation that waits, or that a fault message holds, keeps its place in the comparison buffer. -/
def runLeading (i : Instr) (s : State) (k : Nat) (t : Thread) (f : State → Nat → Thread → Act) : Act :=
  let core := coreOf k
  let pair := pairOf t
  let scb := redQueue s.scb core
  let lvq := redQueue s.lvq core
  if receives i then
    if (redHead scb pair).isSome || 256 < redTotal lvq + redUnits i s t 256 then redWait s 0 (redUnits i s t 256)
    else leadAnswer i s k t (f s k t)
  else if emits i then
    if 32 < redTotal scb + redUnits i s t 32 then redWait s 1 (redUnits i s t 32)
    else
      match f s k t with
      | .next s1 => .next (pushScb (keepThread s s1 k) core (redEntry i s t 32 ([], [], 0) none false))
      | .trap s1 c info => .trap (pushScb (keepThread s s1 k) core (redEntry i s t 32 ([], [], 0) (some (c, info)) false)) c info
      | a => a
  else if requests i then
    match redHead scb pair with
    | some e =>
      if e.seen && redSame i s t e then
        match f { s with scb := s.scb.put core (redDrop scb pair) } k t with
        | .wait s1 w => .wait { s1 with scb := s.scb } w
        | .blocked s1 c kd n a w => .blocked { s1 with scb := s.scb } c kd n a w
        | a => leadAnswer i s k t a
      else redWait s 2 0
    | none =>
      if 32 < redTotal scb + redUnits i s t 32 then redWait s 1 (redUnits i s t 32)
      else redWait (pushScb s core (redEntry i s t 32 ([], [], 0) none false)) 2 0
  else f s k t

/-- The leading thread of a pair is gone. -/
def leaderGone (s : State) (pair : Nat) : Bool :=
  !(s.threads.any (fun q => redundOf q.2 == 1 && pairOf q.2 == pair && decide (q.2.run ≠ .ending)))

/-- The other thread of a redundant pair is still there (16 R400). -/
def pairAlive (s : State) (k : Nat) (t : Thread) : Bool :=
  s.threads.any (fun q => q.1 != k && q.2.node == t.node && redundOf q.2 == 2 && pairOf q.2 == pairOf t)

/-- What a waiting thread of a pair waits for has come about. -/
def redReady (s : State) (k : Nat) (t : Thread) (w : Wait) : Bool :=
  let pair := pairOf t
  let lvq := redQueue s.lvq (coreOf k)
  let scb := redQueue s.scb (coreOf k)
  match w.key with
  | 0 => (redHead scb pair).isNone && decide (redTotal lvq + w.arg.toNat ≤ 256)
  | 1 => decide (redTotal scb + w.arg.toNat ≤ 32)
  | 2 => ((redHead scb pair).map (fun e => e.seen)).getD true
  | 3 => (redHead lvq pair).isSome || leaderGone s pair
  | 4 => (redHead scb pair).isSome || leaderGone s pair
  | _ => !pairAlive s k t

/-- The trailing thread's store or held operation: it leaves the core where it is the leading thread's, and traps where the leading
thread's did (16 R401; 18 R425). -/
def trailEmit (i : Instr) (s : State) (core pair : Nat) (t : Thread) (e : RedEntry) (a : Act) : Act :=
  let drop (s1 : State) : State := { s1 with scb := s1.scb.put core (redDrop (redQueue s1.scb core) pair) }
  if redSame i s t e = false then redMismatch s t
  else if e.name.isEmpty then (e.fault.map (redTrap (drop s) e)).getD (.next (drop s))
  else
    match a, e.fault with
    | .next s1, none => .next (drop s1)
    | .trap s1 c info, some f => if f = (c, info) then .trap (drop s1) c info else redMismatch s t
    | .next _, some _ => redMismatch s t
    | .trap _ _ _, none => redMismatch s t
    | a, _ => a

/-- The trailing thread. -/
def runTrailing (i : Instr) (s : State) (k : Nat) (t : Thread) (f : State → Nat → Thread → Act) : Act :=
  let core := coreOf k
  let pair := pairOf t
  if receives i then
    match redHead (redQueue s.lvq core) pair with
    | none => if leaderGone s pair then redMismatch s t else redWait s 3 0
    | some e => if redSame i s t e then redApply i s k core pair e else redMismatch s t
  else if emits i then
    match redHead (redQueue s.scb core) pair with
    | none => if leaderGone s pair then redMismatch s t else redWait s 4 0
    | some e => trailEmit i s core pair t e (f s k t)
  else if requests i then
    match redHead (redQueue s.lvq core) pair with
    | some e => if redSame i s t e then redApply i s k core pair e else redMismatch s t
    | none =>
      match redHead (redQueue s.scb core) pair with
      | none => if leaderGone s pair then redMismatch s t else redWait s 4 0
      | some e =>
        if e.seen then redWait s 3 0
        else if redSame i s t e then
          redWait { s with scb := s.scb.put core ((redQueue s.scb core).map (fun x => if x.pair == pair then { x with seen := true } else x)) } 3 0
        else redMismatch s t
  else f s k t

/-- The effect of an instruction as its thread makes it. -/
def effect (i : Instr) (s : State) (k : Nat) (t : Thread) (f : State → Nat → Thread → Act) : Act :=
  match redundOf t with
  | 0 => f s k t
  | 1 => runLeading i s k t f
  | _ => runTrailing i s k t f

/-- The whole of an instruction issued by the thread State.cur names. -/
def run (i : Instr) (s : State) (f : State → Nat → Thread → Act) : Host.Outcome State Fault Refusal :=
  match s.cur with
  | none => .fault .noThread
  | some k =>
    match thr s k with
    | none => .fault .noThread
    | some t =>
      match gate i s k t with
      | some a => .next (tick (conclude s k (wordsOf i) t a))
      | none => .next (tick (conclude s k (wordsOf i) t (effect i s k t f)))

end Sys2Proof.Machine
end

