-- ==== Sys2Proof/Machine/Scalar.lean ====
section
/-! DEFINITION. The integer, address and constant opcodes (06 R136 to R145). -/

namespace Sys2Proof.Machine

/-- The latency of the integer opcodes but for multiply and divide (06 R133). -/
def latAlu : Nat := 4
def latMul : Nat := 8

/-- A fixed-latency result in D. -/
def fixed (s : State) (k lat : Nat) (d : BitVec 7) (v : Word) : Act := .next (putFixed s k lat d.toNat v)

/-- Clamps an exact result to n bits, signed or unsigned (06 R138). -/
def clampInt (lo hi z : Int) : Int := if z < lo then lo else if hi < z then hi else z
def satWord (u : Bool) (z : Int) : Word :=
  if u then wdi (clampInt 0 (2 ^ 64 - 1) z) else wdi (clampInt (-(2 ^ 63)) (2 ^ 63 - 1) z)

/-- A word as the integer that signed or unsigned reading gives. -/
def intOf (u : Bool) (w : Word) : Int := if u then (w.toNat : Int) else w.toInt

def modU (t : Tail) : Bool := tailMod t % 2 == 1

/-- The shifts (06 R136, R137) for an amount below 64. -/
def shlVal (a n : Word) : Word := wd (a.toNat * 2 ^ n.toNat)
def shrVal (a n : Word) : Word := wd (a.toNat / 2 ^ n.toNat)
def sarVal (a n : Word) : Word := wdi (a.toInt / (2 ^ n.toNat : Int))

/-- A shift: an amount of 64 or more traps (06 R137). -/
def shiftAct (s : State) (k : Nat) (t : Thread) (f : RForm) (op : Word → Word → Word) : Act :=
  let n := opbAlu s t f false
  if 64 ≤ n.toNat then .trap s 0x07 n else fixed s k latAlu f.d (op (readG s t f.a.toNat) n)

/-- ADD: d := a + b modulo 2^64 (06 R136). -/
def execAdd (f : RForm) (s : State) : Host.Outcome State Fault Refusal :=
  run (.add f) s fun s k t => fixed s k latAlu f.d (readG s t f.a.toNat + opbAlu s t f true)

/-- SUB (06 R136). -/
def execSub (f : RForm) (s : State) : Host.Outcome State Fault Refusal :=
  run (.sub f) s fun s k t => fixed s k latAlu f.d (readG s t f.a.toNat - opbAlu s t f true)

/-- AND (06 R136). -/
def execAnd (f : RForm) (s : State) : Host.Outcome State Fault Refusal :=
  run (.and f) s fun s k t => fixed s k latAlu f.d (readG s t f.a.toNat &&& opbAlu s t f false)

/-- OR (06 R136). -/
def execOr (f : RForm) (s : State) : Host.Outcome State Fault Refusal :=
  run (.or f) s fun s k t => fixed s k latAlu f.d (readG s t f.a.toNat ||| opbAlu s t f false)

/-- XOR (06 R136). -/
def execXor (f : RForm) (s : State) : Host.Outcome State Fault Refusal :=
  run (.xor f) s fun s k t => fixed s k latAlu f.d (readG s t f.a.toNat ^^^ opbAlu s t f false)

/-- SHL (06 R136, R137). -/
def execShl (f : RForm) (s : State) : Host.Outcome State Fault Refusal :=
  run (.shl f) s fun s k t => shiftAct s k t f shlVal

/-- SHR (06 R136, R137). -/
def execShr (f : RForm) (s : State) : Host.Outcome State Fault Refusal :=
  run (.shr f) s fun s k t => shiftAct s k t f shrVal

/-- SAR (06 R136, R137). -/
def execSar (f : RForm) (s : State) : Host.Outcome State Fault Refusal :=
  run (.sar f) s fun s k t => shiftAct s k t f sarVal

/-- The lesser and the greater of two words. -/
def minVal (u : Bool) (a b : Word) : Word := if intOf u a ≤ intOf u b then a else b
def maxVal (u : Bool) (a b : Word) : Word := if intOf u a ≤ intOf u b then b else a

/-- MIN (06 R136). -/
def execMin (f : RForm) (s : State) : Host.Outcome State Fault Refusal :=
  run (.min f) s fun s k t => fixed s k latAlu f.d (minVal (modU f.t) (readG s t f.a.toNat) (opbAlu s t f true))

/-- MAX (06 R136). -/
def execMax (f : RForm) (s : State) : Host.Outcome State Fault Refusal :=
  run (.max f) s fun s k t => fixed s k latAlu f.d (maxVal (modU f.t) (readG s t f.a.toNat) (opbAlu s t f true))

def sltVal (u : Bool) (a b : Word) : Word := if intOf u a < intOf u b then 1 else 0

/-- SLT (06 R136). -/
def execSlt (f : RForm) (s : State) : Host.Outcome State Fault Refusal :=
  run (.slt f) s fun s k t => fixed s k latAlu f.d (sltVal (modU f.t) (readG s t f.a.toNat) (opbAlu s t f true))

/-- SEL: d := a if the old D is nonzero, else b (06 R145). -/
def execSel (f : RForm) (s : State) : Host.Outcome State Fault Refusal :=
  run (.sel f) s fun s k t =>
    fixed s k latAlu f.d (if readG s t f.d.toNat ≠ 0 then readG s t f.a.toNat else opbReg s t f)

/-- ADDSAT (06 R138). -/
def execAddsat (f : RForm) (s : State) : Host.Outcome State Fault Refusal :=
  run (.addsat f) s fun s k t =>
    let u := modU f.t
    fixed s k latAlu f.d (satWord u (intOf u (readG s t f.a.toNat) + intOf u (opbAlu s t f true)))

/-- SUBSAT (06 R138). -/
def execSubsat (f : RForm) (s : State) : Host.Outcome State Fault Refusal :=
  run (.subsat f) s fun s k t =>
    let u := modU f.t
    fixed s k latAlu f.d (satWord u (intOf u (readG s t f.a.toNat) - intOf u (opbAlu s t f true)))

/-- MUL (06 R139). -/
def execMul (f : RForm) (s : State) : Host.Outcome State Fault Refusal :=
  run (.mul f) s fun s k t => fixed s k latMul f.d (readG s t f.a.toNat * opbReg s t f)

/-- The upper half of the exact product; mode 0 signed, 1 unsigned, 2 signed by unsigned (06 R139). -/
def mulhVal (mode : Nat) (a b : Word) : Word := wdi (intOf (mode == 1) a * intOf (mode != 0) b / 2 ^ 64)

/-- MULH (06 R139). -/
def execMulh (f : RForm) (s : State) : Host.Outcome State Fault Refusal :=
  run (.mulh f) s fun s k t => fixed s k latMul f.d (mulhVal (tailMod f.t) (readG s t f.a.toNat) (opbReg s t f))

/-- Quotient and remainder by 06 R140; the divisor is not 0. -/
def divVal (u : Bool) (a b : Word) : Word := wdi (Int.tdiv (intOf u a) (intOf u b))
def remVal (u : Bool) (a b : Word) : Word := wdi (Int.tmod (intOf u a) (intOf u b))

/-- Significant bytes of a magnitude (06 R133). -/
def sigBytes (n : Nat) : Nat := if n = 0 then 0 else n.log2 / 8 + 1

def divLat (u : Bool) (a : Word) : Nat := 20 + 6 * sigBytes (intOf u a).natAbs

/-- Division traps with 0x0D on a zero divisor; its result is scoreboarded (06 R133, R140). -/
def divAct (s : State) (k : Nat) (t : Thread) (f : RForm) (op : Bool → Word → Word → Word) : Act :=
  let u := modU f.t
  let a := readG s t f.a.toNat
  let b := opbReg s t f
  if b = 0 then .trap s 0x0D 0
  else .next (putScored s k (s.clk + divLat u a) [(f.d.toNat, op u a b)] [])

/-- DIV (06 R140). -/
def execDiv (f : RForm) (s : State) : Host.Outcome State Fault Refusal :=
  run (.div f) s fun s k t => divAct s k t f divVal

/-- REM (06 R140). -/
def execRem (f : RForm) (s : State) : Host.Outcome State Fault Refusal :=
  run (.rem f) s fun s k t => divAct s k t f remVal

def clzVal (a : Word) : Word := wd (if a = 0 then 64 else 63 - a.toNat.log2)

/-- CLZ (06 R141). -/
def execClz (f : RForm) (s : State) : Host.Outcome State Fault Refusal :=
  run (.clz f) s fun s k t => fixed s k latAlu f.d (clzVal (readG s t f.a.toNat))

/-- A control word that 06 R142 refuses. -/
def fieldBad (c : Word) : Bool :=
  let p := bits c 0 6
  let w := bits c 8 7
  bits c 6 2 != 0 || bits c 15 49 != 0 || w == 0 || 64 < w || 64 < p + w

def bextVal (sx : Bool) (a c : Word) : Word :=
  if sx then sext (bits a (bits c 0 6) (bits c 8 7)) (bits c 8 7) else wd (bits a (bits c 0 6) (bits c 8 7))
def binsVal (d a c : Word) : Word := setBits d (bits c 0 6) (bits c 8 7) (bits a 0 (bits c 8 7))

/-- BEXT (06 R142). -/
def execBext (f : RForm) (s : State) : Host.Outcome State Fault Refusal :=
  run (.bext f) s fun s k t =>
    let c := opbImm s t f
    if fieldBad c then .trap s 0x1E c else fixed s k latAlu f.d (bextVal f.q (readG s t f.a.toNat) c)

/-- BINS (06 R142). -/
def execBins (f : RForm) (s : State) : Host.Outcome State Fault Refusal :=
  run (.bins f) s fun s k t =>
    let c := opbImm s t f
    if fieldBad c then .trap s 0x1E c
    else fixed s k latAlu f.d (binsVal (readG s t f.d.toNat) (readG s t f.a.toNat) c)

/-- LEA: d := a + b × 2^s + disp (06 R143). -/
def execLea (f : RForm) (s : State) : Host.Outcome State Fault Refusal :=
  run (.lea f) s fun s k t =>
    fixed s k latAlu f.d (readG s t f.a.toNat + opbReg s t f * wd (2 ^ (tailMod f.t % 4)) + dispR f)

/-- LI (06 R144). -/
def execLi (f : LForm) (s : State) : Host.Outcome State Fault Refusal :=
  run (.li f) s fun s k _ => fixed s k latAlu f.d (liValue f)

end Sys2Proof.Machine
end

