-- ==== Sys2Proof/Machine/Float.lean ====
section
/-! DEFINITION. The scalar floating opcodes (06 R146 to R151). -/

namespace Sys2Proof.Machine

/-- Q selects the format (06 R146). -/
def fmtOf (q : Bool) : FpFmt := if q then fp32 else fp64
/-- An operand's bits: all 64, or the low 32 (06 R132). -/
def fbits (q : Bool) (w : Word) : Nat := if q then w.toNat % 2 ^ 32 else w.toNat

/-- The end of a scalar floating operation: flags accumulate in program order; an enabled exception traps at completion with
no result and TPC at the instruction (04 R96; 06 R134; 07 R152); while any trap is enabled the thread issues nothing before
completion. -/
def fpAct (s : State) (k lat : Nat) (t : Thread) (d : BitVec 7) (v : Word) (fl : FpFlags) : Act :=
  let s1 := modThr s k fun t => { setSpr t rFPFLAGS (accrue (getSpr t rFPFLAGS) fl) with fpUntil := max t.fpUntil (s.clk + lat) }
  match fpCause (fpctlOf t) fl with
  | some c => .gone (sched (modThr s1 k fun t => { t with earliest := max t.earliest (s.clk + lat) }) (s.clk + lat) (.trapEntry k c 0 t.pc))
  | none =>
    let s2 := if fpTrapsOn (fpctlOf t) then modThr s1 k fun t => { t with earliest := max t.earliest (s.clk + lat) } else s1
    fixed s2 k lat d v

/-- An operation of two sources. -/
def fpBin (s : State) (k lat : Nat) (t : Thread) (f : RForm) (op : FpFmt → Nat → Nat → Nat → FpRes) : Act :=
  let r := op (fmtOf f.q) (ctlRm (fpctlOf t)) (fbits f.q (readG s t f.a.toNat)) (fbits f.q (opbReg s t f))
  fpAct s k lat t f.d (wd r.code) r.flags

/-- FADD (06 R147). -/
def execFadd (f : RForm) (s : State) : Host.Outcome State Fault Refusal :=
  run (.fadd f) s fun s k t => fpBin s k 8 t f fpAdd

/-- FSUB (06 R147). -/
def execFsub (f : RForm) (s : State) : Host.Outcome State Fault Refusal :=
  run (.fsub f) s fun s k t => fpBin s k 8 t f fpSub

/-- FMUL (06 R147). -/
def execFmul (f : RForm) (s : State) : Host.Outcome State Fault Refusal :=
  run (.fmul f) s fun s k t => fpBin s k 8 t f fpMul

/-- FFMA: a × b + old D, one rounding (06 R147). -/
def execFfma (f : RForm) (s : State) : Host.Outcome State Fault Refusal :=
  run (.ffma f) s fun s k t =>
    let c := fbits f.q (readG s t f.d.toNat)
    fpBin s k 8 t f (fun m rm a b => fpFma m rm a b c)

/-- FDIV (06 R147). -/
def execFdiv (f : RForm) (s : State) : Host.Outcome State Fault Refusal :=
  run (.fdiv f) s fun s k t => fpBin s k (if f.q then 24 else 32) t f fpDiv

/-- FSQRT (06 R147). -/
def execFsqrt (f : RForm) (s : State) : Host.Outcome State Fault Refusal :=
  run (.fsqrt f) s fun s k t =>
    let r := fpSqrt (fmtOf f.q) (ctlRm (fpctlOf t)) (fbits f.q (readG s t f.a.toNat))
    fpAct s k (if f.q then 28 else 40) t f.d (wd r.code) r.flags

/-- FMIN (06 R148). -/
def execFmin (f : RForm) (s : State) : Host.Outcome State Fault Refusal :=
  run (.fmin f) s fun s k t => fpBin s k 8 t f (fun m _ a b => fpMinMax m false a b)

/-- FMAX (06 R148). -/
def execFmax (f : RForm) (s : State) : Host.Outcome State Fault Refusal :=
  run (.fmax f) s fun s k t => fpBin s k 8 t f (fun m _ a b => fpMinMax m true a b)

/-- FLT (06 R149). -/
def execFlt (f : RForm) (s : State) : Host.Outcome State Fault Refusal :=
  run (.flt f) s fun s k t =>
    fpBin s k 8 t f (fun m _ a b =>
      let r := fpCompare m (tailMod f.t) a b
      ⟨if r.1 then 1 else 0, r.2⟩)

/-- FP32 to BF16: the largest finite FP32, cut down to the largest finite BF16, raises OF too, which is 06 R151's example; any other
source has the flags of IEEE 754-2019 (Log 23). -/
def toBf16 (rm : Nat) (v : FpVal) : FpRes :=
  let r := fpConvert bf16 rm v
  match v with
  | .fin _ n d => if r.code % 2 ^ 15 = bf16.maxFin ∧ n = (2 ^ 24 - 1) * 2 ^ 104 * d then ⟨r.code, r.flags ||| flagOF⟩ else r
  | _ => r

/-- An integer conversion as a 64-bit result and flags. -/
def intRes (r : Int × FpFlags) : Word × FpFlags := (wdi r.1, r.2)
def fpRes (r : FpRes) : Word × FpFlags := (wd r.code, r.flags)

/-- The conversions by code (06 R151). -/
def fcvtVal (code rm : Nat) (sat8 : Bool) (a : Word) : Word × FpFlags :=
  let n := a.toNat
  match code with
  | 0x00 => fpRes (fpConvert fp32 rm (fpDecode fp64 n))
  | 0x01 => fpRes (fpConvert fp64 rm (fpDecode fp32 (n % 2 ^ 32)))
  | 0x02 => intRes (fpToInt rm (-(2 ^ 63)) (2 ^ 63 - 1) (fpDecode fp64 n))
  | 0x03 => intRes (fpToInt rm (-(2 ^ 63)) (2 ^ 63 - 1) (fpDecode fp32 (n % 2 ^ 32)))
  | 0x04 => fpRes (fpOfInt fp64 rm a.toInt)
  | 0x05 => fpRes (fpOfInt fp32 rm a.toInt)
  | 0x06 => intRes (fpToInt rm (-(2 ^ 31)) (2 ^ 31 - 1) (fpDecode fp64 n))
  | 0x07 => intRes (fpToInt rm (-(2 ^ 31)) (2 ^ 31 - 1) (fpDecode fp32 (n % 2 ^ 32)))
  | 0x08 => intRes (fpToInt rm 0 (2 ^ 64 - 1) (fpDecode fp64 n))
  | 0x09 => fpRes (fpOfInt fp64 rm (n : Int))
  | 0x0A => fpRes (fpConvert fp16 rm (fpDecode fp32 (n % 2 ^ 32)))
  | 0x0B => fpRes (fpConvert fp32 rm (fpDecode fp16 (n % 2 ^ 16)))
  | 0x0C => fpRes (toBf16 rm (fpDecode fp32 (n % 2 ^ 32)))
  | 0x0D => fpRes (fpConvert fp32 rm (fpDecode bf16 (n % 2 ^ 16)))
  | 0x0E => fpRes (fpTo8 e4m3 rm sat8 (fpDecode fp32 (n % 2 ^ 32)))
  | 0x0F => fpRes (fpConvert fp32 rm (fpDecode e4m3 (n % 2 ^ 8)))
  | 0x10 => fpRes (fpTo8 e5m2 rm sat8 (fpDecode fp32 (n % 2 ^ 32)))
  | _ => fpRes (fpConvert fp32 rm (fpDecode e5m2 (n % 2 ^ 8)))

/-- The rounding mode of fcvt and vcvt: FPCTL.RM, or MOD[1:0] where MOD is 4 to 7 (06 R150). -/
def cvtRm (t : Thread) (m : Nat) : Nat := if m = 0 then ctlRm (fpctlOf t) else m % 4

/-- FCVT (06 R150, R151). -/
def execFcvt (f : RForm) (s : State) : Host.Outcome State Fault Refusal :=
  run (.fcvt f) s fun s k t =>
    let r := fcvtVal f.b.toNat (cvtRm t (tailMod f.t)) (ctlSat8 (fpctlOf t)) (readG s t f.a.toNat)
    fpAct s k 8 t f.d r.1 r.2

end Sys2Proof.Machine
end

