-- ==== Sys2Proof/Machine/Special.lean ====
section
/-! DEFINITION. Special registers (05 R123 to R125; 07 R170 to R172), what a write of each does, performance counters
(19 R455, R456), and the steps that are a write of one register. -/

namespace Sys2Proof.Machine

/-! Performance counters: each partition keeps a running total of every event; a counter holds what it had gathered, and the
total at which it began. -/

/-- Running total of an event in a partition (19 R456): clk, instructions issued, slot clks wasted, and the events counted
where they happen. -/
def perfTotal (s : State) (p e : Nat) : Nat :=
  let n (x : Nat) : Nat := (s.perf.getD (perfKey p (32 + x)) 0).toNat
  if e = 0 then s.clk else if e = 2 then distinctCores s p * s.clk - n 1 else n e

/-- Selector of counter i: EVENT and EN as PERFSEL holds them. -/
def perfSel (s : State) (p i : Nat) : Word := s.perf.getD (perfKey p i) 0

/-- COUNT of counter i now. -/
def perfCount (s : State) (p i : Nat) : Word :=
  let sel := perfSel s p i
  let held := s.perf.getD (perfKey p (8 + i)) 0
  if bit sel 16 then held + (wd (perfTotal s p (bits sel 8 8)) - s.perf.getD (perfKey p (16 + i)) 0) else held

/-- Gives counter i a count and a selector, from this clk on. -/
def perfSet (s : State) (p i : Nat) (count sel : Word) : State :=
  let t0 := wd (perfTotal s p (bits sel 8 8))
  { s with perf := ((s.perf.putD (perfKey p i) 0 sel).putD (perfKey p (8 + i)) 0 count).putD (perfKey p (16 + i)) 0 t0 }

/-! The steps that write one register. -/

/-- PERFSEL: IDX is kept, EVENT and EN go to counter IDX (19 R455). -/
def writePerfsel (s : State) (p : Nat) (v : Word) : State :=
  let i := bits v 0 3
  setSprPart (perfSet s p i (perfCount s p i) (setBits v 0 3 0)) p rPERFSEL (wd i)

/-- WDOGLIM restarts the watchdog's count (19 R457). -/
def writeWdoglim (s : State) (p : Nat) (v : Word) : State :=
  let s1 := { setSprPart s p rWDOGLIM v with wdog := s.wdog.put p s.clk }
  if v = 0 then s1 else sched s1 (s.clk + v.toNat) (.watchdogExpiry p)

/-- THERMMODE's value at reset (15 R367). -/
def thermReset : Word := wd (100 * 2 ^ 8 + 90 * 2 ^ 16 + 16 * 2 ^ 32)
def thermmode (s : State) : Word := s.dspr.getD rTHERMMODE thermReset

/-- The next clk of rotation index 0. -/
def nextRot (n : Nat) : Nat := (n / 16 + 1) * 16

/-- A change of MODE takes effect at the next clk of rotation index 0 and clears every SHED bit (15 R367). Under pack and gate each core
is looked at when it can have been idle long enough (15 R370). -/
def applyThermmode (s : State) (v : Word) : State :=
  let s1 := { s with dspr := s.dspr.put rTHERMMODE v }
  let s2 := if bit v 0 = bit (thermmode s) 0 then s1 else { s1 with slots := s1.slots.map (fun q => (q.1, setBits q.2 15 1 0)) }
  if bit v 0 && bit v 1 && !(bit (thermmode s) 0 && bit (thermmode s) 1) then
    ((upFrom 0 128).filter (fun c => gangOf s2 c != 0)).foldl
      (fun a c => sched a (max (a.clk + 1) (a.idleAt.getD c 0 + bits v 32 16 * 256)) (.coreGate c)) s2
  else s2

/-- TRACECTL: LOST clears where written 1, DRAIN marks every entry consumed and reads 0 (11 R255). -/
def writeTracectl (s : State) (v : Word) : State :=
  let old := s.dspr.getD rTRACECTL 0
  let lost := if bit v 3 then 0 else bits old 3 1
  let s1 := { s with dspr := s.dspr.put rTRACECTL (setBits (setBits v 3 1 lost) 4 1 0) }
  let s2 := if bits v 0 2 = bits old 0 2 then s1 else { s1 with replayAt := [] }
  if bit v 4 then pokeHeld { s2 with traceUse := s2.traceSeq } else s2

/-- ERRINJ (18 R431). -/
def writeErrinj (s : State) (v : Word) : State := { s with dspr := s.dspr.put rERRINJ v }

/-- AUDIT (07 R172). -/
def writeAudit (s : State) (p : Nat) (v : Word) : State := setSprPart s p rAUDIT v

/-- The selected error log: its key and entry (18 R427). -/
def errSel (s : State) : Nat × Nat :=
  let w := s.dspr.getD rERRLOGSEL 0
  (bits w 0 4 * 4096 + bits w 4 8, bits w 12 4)

/-- mts ERRLOG of any value clears the whole selected entry (18 R428). -/
def clearErrlog (s : State) : State :=
  let (key, e) := errSel s
  let es := s.errlog.getD key []
  if e < es.length then { s with errlog := s.errlog.put key (es.take e ++ ⟨0, 0, 0⟩ :: es.drop (e + 1)) } else s

/-- mfs ERRLOG: the selected word; the selector's fourth word is no word of an entry (Log 13). -/
def readErrlog (s : State) : Word :=
  let (key, e) := errSel s
  let ent := ((s.errlog.getD key []).drop e).headD ⟨0, 0, 0⟩
  match bits (s.dspr.getD rERRLOGSEL 0) 16 2 with
  | 0 => ent.w0
  | 1 => ent.w1
  | 2 => ent.w2
  | _ => Config.freeWord (s.free * 4 + 3)

/-! mfs. -/

/-- Index i is one that 05 R123 lists. -/
def sprListed (i : Nat) : Bool := i ≤ 0x2B || (0x80 ≤ i && i ≤ 0x8D)

/-- The slot table of a core (15 R351). -/
def slotEntry (s : State) (c i : Nat) : Word := s.slots.getD (c * 16 + i) 0
/-- Entry i is fixed to a context. -/
def ownsSlot (s : State) (c x i : Nat) : Bool := bits (slotEntry s c i) 0 2 == 1 && bits (slotEntry s c i) 2 6 == x
/-- The mask of fixed entries a context owns (05 R123 SLOTS). -/
def slotMask (s : State) (c x : Nat) : Nat := (upFrom 0 16).foldl (fun m i => if ownsSlot s c x i then m + 2 ^ i else m) 0

/-- Registers that read 0 on a host core (20 R459). -/
def hostZero (i : Nat) : Bool :=
  i == rTID || i == rTCOORD || i == rCORE || i == rNODE || i == rGWIN || i == rTWIN || i == rVIEW || i == rWDEPTH ||
  i == rPOD || i == rSTAMPIN || i == rGANG || i == rSLOTS || i == rSPACING || i == rPROMISE || i == rREDUND ||
  i == rPARTITION || i == rSVCTHREAD

/-- The value of register i as thread k reads it (05 R123). -/
def sprRead (s : State) (k : Nat) (t : Thread) (i : Nat) : Word :=
  let p := partOf t
  if t.host && hostZero i then 0
  else if i = rPC then t.pc
  else if i = rPCORE then (if t.host then wd (0x80 + (k - 8192)) else wd (coreOf k))
  else if i = rGWIN then wd (t.gbase / 8 + t.gsize / 8 * 256)
  else if i = rTWIN then wd (t.tbase + t.tcount * 256)
  else if i = rUISTAT then wd t.uiq.length
  else if i = rSTAMPIN then wd (((t.node.bind (nodeOf s)).map (fun n => n.stampin)).getD 0)
  else if i = rSLOTS then wd (slotMask s (coreOf k) (ctxOf k))
  else if i = rCYCPERIOD then wd (cycPeriodReg s)
  else if i = rROLE then s.dspr.getD rROLE 0
  else if i < 0x80 then getSpr t i
  else if i = rTHERMMODE then thermmode s
  else if i = rERRLOG then readErrlog s
  else if i = rPERFSEL then
    let n := (sprPart s p rPERFSEL).toNat % 8
    wd n ||| perfSel s p n
  else if i = rPERFCNT then perfCount s p ((sprPart s p rPERFSEL).toNat % 8)
  else if i = rSLOTBASE ∨ i = rAUDIT ∨ i = rHUSKBASE ∨ i = rORDLOG ∨ i = rSVCTHREAD ∨ i = rWDOGLIM then sprPart s p i
  else s.dspr.getD i 0

/-- A floating instruction of thread k, or a follow-on entered as if k had issued it, has not completed: its flags may still come
(05 R128, 09 R206, 14 R333). -/
def flagsDue (s : State) (k : Nat) (t : Thread) : Bool :=
  decide (s.clk < t.fpUntil) || s.matops.any (fun q => q.2.thread == k &&
    ((t.tiles.get? q.2.tile).map (fun x => bits x.cfg 0 4)).getD 3 != 3)

/-- The clk at which it looks again. -/
def flagsAt (s : State) (t : Thread) : Nat := if s.clk < t.fpUntil then t.fpUntil else s.clk + 4

/-- MFS (07 R170, R171): fixed latency 4; FPFLAGS waits for every earlier floating instruction (05 R128). -/
def execMfs (f : XForm) (s : State) : Host.Outcome State Fault Refusal :=
  run (.mfs f) s fun s k t =>
    let i := f.index.toNat
    if sprListed i = false then .trap s 0x17 (wd i)
    else if 0x80 ≤ i ∧ supOf t = false then .trap s 0x18 (wd i)
    else if i = rFPFLAGS then
      if flagsDue s k t then .wait s { kind := .result, key := flagsAt s t }
      else .next (putScored s k (s.clk + 4) [(f.d.toNat, sprRead s k t i)] [])
    else fixed s k latAlu f.d (sprRead s k t i)

/-! mts. -/

/-- Registers that mts may not write at all (05 R123: HW). -/
def sprHw (i : Nat) : Bool :=
  i ≤ 0x07 || i == rTCAUSE || i == rTINFO || i == rUISTAT || i == rVIEW || i == rWDEPTH || i == rPOD ||
  (rSTAMPIN ≤ i && i ≤ rPARTITION) || i == rSVCTHREAD

/-- The instances of each array (18 R427). -/
def errInstances (a : Nat) : Nat :=
  match a with
  | 0 | 2 | 3 => 128
  | 1 | 5 | 7 => 144
  | 4 | 8 => 16
  | _ => 1

/-- A value that register i refuses (07 R170; each register's chapter). -/
def sprRefuses (s : State) (t : Thread) (i : Nat) (v : Word) : Bool :=
  let old := s.dspr.getD i 0
  if i = rMODE then bits v 0 3 != bits (getSpr t rMODE) 0 3 || 4 < bits v 4 3 || bits v 8 56 != 0
  else if i = rTVEC ∨ i = rUIVEC then bits v 0 2 != 0
  else if i = rTPC ∨ i = rUIPC ∨ (rLOOPTOP ≤ i ∧ i < rVIEW) then bits v 52 12 != 0
  else if i = rWAITLIM ∨ (rLOOPCNT ≤ i ∧ i < rLOOPTOP) ∨ i = rWDOGLIM then bits v 32 32 != 0
  else if i = rFPCTL then bits v 7 57 != 0
  else if i = rFPFLAGS then bits v 5 59 != 0
  else if i = rBINDBASE then
    bits v 1 1 != bits old 1 1 || bits v 2 6 != 0 || bits v 12 4 != 0 || bits v 16 8 != bits old 16 8 || bits v 24 40 != 0
  else if i = rSLOTBASE then bits v 1 63 != 0 || (bits v 0 1 == 0 && scanRuns s (partOf t))
  else if i = rERRINJ then
    bits v 14 2 != 0 || bits v 62 2 != 0 || 8 < bits v 0 4 || (bit v 12 && bit old 12)
  else if i = rERRLOGSEL then bits v 18 46 != 0 || 8 < bits v 0 4 || errInstances (bits v 0 4) ≤ bits v 4 8
  else if i = rTHERMMODE then
    bits v 2 6 != 0 || bits v 24 8 != 0 || bits v 48 16 != 0 || bits v 8 8 ≤ bits v 16 8
  else if i = rAUDIT then
    bits v 3 5 != 0 || bits v 15 1 != 0 || bits v 22 42 != 0 || (!bit v 2 && !coreIn s (partOf t) (bits v 8 7))
  else if i = rTRACECTL then bits v 0 2 == 3 || bits v 5 16 != 0 || bits v 52 12 != 0
  else if i = rHUSKBASE then bits v 53 11 != 0
  else if i = rORDLOG then bits v 4 12 != 0 || bits v 53 11 != 0
  else if i = rPERFSEL then bits v 3 5 != 0 || bits v 17 47 != 0 || 0x0B < bits v 8 8
  else false

/-- Writes register i (07 R170, R171; 05 R128, R129). -/
def sprWrite (s : State) (k : Nat) (t : Thread) (i : Nat) (v : Word) : State :=
  let p := partOf t
  if i < 0x80 then modThr s k (fun u => setSpr u i v)
  else if i = rBINDBASE then
    let old := s.dspr.getD rBINDBASE 0
    { s with dspr := s.dspr.putD rBINDBASE 0 (setBits v 0 1 (if bit old 0 then 1 else bits v 0 1)) }
  else if i = rERRINJ then writeErrinj s v
  else if i = rERRLOG then clearErrlog s
  else if i = rERRLOGSEL then { s with dspr := s.dspr.putD rERRLOGSEL 0 v }
  else if i = rTHERMMODE then
    let pending := s.agenda.any (fun q => match q.2 with
      | .thermmodeWrite _ => true
      | _ => false)
    if bit v 0 = bit (thermmode s) 0 ∧ pending = false then applyThermmode s v
    else sched { s with dspr := s.dspr.put rTHERMMODE (setBits v 0 1 (bits (thermmode s) 0 1)) } (nextRot s.clk) (.thermmodeWrite v)
  else if i = rTRACECTL then writeTracectl s v
  else if i = rAUDIT then writeAudit s p v
  else if i = rPERFSEL then writePerfsel s p v
  else if i = rPERFCNT then
    let n := (sprPart s p rPERFSEL).toNat % 8
    perfSet s p n v (perfSel s p n)
  else if i = rWDOGLIM then writeWdoglim s p v
  else setSprPart s p i v

/-- MTS (07 R170, R171): governs every instruction issued after it; FPFLAGS waits as for mfs. -/
def execMts (f : XForm) (s : State) : Host.Outcome State Fault Refusal :=
  run (.mts f) s fun s k t =>
    let i := f.index.toNat
    let v := readG s t f.a.toNat
    if sprListed i = false then .trap s 0x17 (wd i)
    else if 0x80 ≤ i ∧ supOf t = false then .trap s 0x18 (wd i)
    else if sprHw i || sprRefuses s t i v then .trap s 0x18 (wd i)
    else if i = rFPFLAGS ∧ flagsDue s k t = true then .wait s { kind := .result, key := flagsAt s t }
    else .next (sprWrite s k t i v)

/-! The same writes as steps of their own. -/

/-- THERMMODE_WRITE (15 R367). -/
def execThermmodeWrite (v : Word) (s : State) : Host.Outcome State Fault Refusal := .next (applyThermmode s v)

/-- TRACECTL_WRITE (11 R255, R257). -/
def execTracectlWrite (v : Word) (s : State) : Host.Outcome State Fault Refusal := .next (writeTracectl s v)

/-- WDOGLIM_WRITE (19 R457). -/
def execWdoglimWrite (part : Nat) (v : Word) (s : State) : Host.Outcome State Fault Refusal := .next (writeWdoglim s part v)

/-- PERFSEL_WRITE (19 R455). -/
def execPerfselWrite (part : Nat) (v : Word) (s : State) : Host.Outcome State Fault Refusal := .next (writePerfsel s part v)

/-- AUDIT_WRITE (07 R172, R173). -/
def execAuditWrite (part : Nat) (v : Word) (s : State) : Host.Outcome State Fault Refusal := .next (writeAudit s part v)

/-- ERRINJ_WRITE (18 R431). -/
def execErrinjWrite (v : Word) (s : State) : Host.Outcome State Fault Refusal := .next (writeErrinj s v)

/-- ERRLOG_CLEAR (18 R428). -/
def execErrlogClear (s : State) : Host.Outcome State Fault Refusal := .next (clearErrlog s)

/-- EVENT_RING_READ_ADVANCE: a store to the ring's control dword (18 R421): LOST clears where written 1; a change of READ
clears FULL. -/
def execEventRingReadAdvance (part : Nat) (v : Word) (s : State) : Host.Outcome State Fault Refusal :=
  let c := ringCtl part
  let old := rdCtl s c
  let s1 := if bit v 8 then setCtlF s c 8 1 0 else s
  .next (if bits v 10 8 = bits old 10 8 then s1 else setCtlF (setCtlF s1 c 10 8 (bits v 10 8)) c 9 1 0)

end Sys2Proof.Machine
end

