-- ==== Sys2Proof/Machine/Branch.lean ====
section
/-! DEFINITION. Branches, jumps, loops, software traps and the returns from handlers (07 R152 to R169). tend is with the ends
of rivals. -/

namespace Sys2Proof.Machine

/-- (PC + 4 × off) mod 2^52 (07 R153). -/
def branchTo (pc : Word) (off : Int) : Word := pcAdd pc (4 * off)

/-- A conditional branch (07 R154). -/
def branchAct (s : State) (t : Thread) (f : BForm) (cond : Word → Word → Bool) : Act :=
  if cond (readG s t f.a.toNat) (readG s t f.b.toNat) then .jump s (branchTo t.pc (offB f)) false else .next s

/-- BEQ (07 R154). -/
def execBeq (f : BForm) (s : State) : Host.Outcome State Fault Refusal :=
  run (.beq f) s fun s _ t => branchAct s t f (fun a b => a == b)

/-- BNE (07 R154). -/
def execBne (f : BForm) (s : State) : Host.Outcome State Fault Refusal :=
  run (.bne f) s fun s _ t => branchAct s t f (fun a b => a != b)

/-- BLT: signed, unsigned with MOD[0] (07 R154). -/
def execBlt (f : BForm) (s : State) : Host.Outcome State Fault Refusal :=
  run (.blt f) s fun s _ t => branchAct s t f (fun a b => decide (intOf (modU f.t) a < intOf (modU f.t) b))

/-- BGE (07 R154). -/
def execBge (f : BForm) (s : State) : Host.Outcome State Fault Refusal :=
  run (.bge f) s fun s _ t => branchAct s t f (fun a b => decide (intOf (modU f.t) b ≤ intOf (modU f.t) a))

/-- JMP (07 R155). -/
def execJmp (f : JForm) (s : State) : Host.Outcome State Fault Refusal :=
  run (.jmp f) s fun s _ t => .jump s (branchTo t.pc (offJ f)) false

/-- The address after an instruction. -/
def afterPc (t : Thread) (i : Instr) : Word := pcAdd t.pc (4 * wordsOf i)

/-- JAL: the link in g1 (07 R155). -/
def execJal (f : JForm) (s : State) : Host.Outcome State Fault Refusal :=
  run (.jal f) s fun s k t => .jump (putFixed s k latAlu 1 (afterPc t (.jal f))) (branchTo t.pc (offJ f)) false

/-- jr's target: bits 63 to 52 must be zero; read before any link (07 R156). -/
def jrAct (s : State) (a : Word) (link : State → State) : Act :=
  if bits a 52 12 ≠ 0 then .trap s 0x22 a else .jump (link s) (wd (bits a 0 52)) false

/-- JR (07 R156). -/
def execJr (f : RForm) (s : State) : Host.Outcome State Fault Refusal :=
  run (.jr f) s fun s _ t => jrAct s (readG s t f.a.toNat) id

/-- JR_LINK: Q = 1 (07 R156). -/
def execJrLink (f : RForm) (s : State) : Host.Outcome State Fault Refusal :=
  run (.jrLink f) s fun s k t =>
    jrAct s (readG s t f.a.toNat) (fun s => putFixed s k latAlu f.d.toNat (afterPc t (.jrLink f)))

/-- The exit and the top of a loop, exact (07 R157; 00 R8). -/
def loopExitAt (t : Thread) (f : MForm) : Int := (t.pc.toNat : Int) + loopExit f
def loopTopAt (t : Thread) (f : MForm) : Int := (t.pc.toNat : Int) + 4 * wordsOf (.loop f)

/-- LOOP (07 R157). LOOPTOP and LOOPEND hold 52 bits (05 R123). -/
def execLoop (f : MForm) (s : State) : Host.Outcome State Fault Refusal :=
  run (.loop f) s fun s k t =>
    let c := readG s t f.a.toNat
    let exit_ := loopExitAt t f
    let n := ldepthOf t
    if 2 ^ 32 ≤ c.toNat then .trap s 0x0C c
    else if exit_ ≤ loopTopAt t f ∨ exit_ % 4 ≠ 0 then .trap s 0x0C (wdi exit_)
    else if c = 0 then .jump s (pcAdd 0 exit_) false
    else if 4 ≤ n then .trap s 0x0B c
    else
      .next (modThr s k fun u =>
        setMode (setSpr (setSpr (setSpr u (rLOOPCNT + n) c) (rLOOPTOP + n) (pcAdd 0 (loopTopAt t f))) (rLOOPEND + n) (pcAdd 0 (exit_ - 4)))
          4 3 (n + 1))

/-- NOP: no effect (07 R160). -/
def execNop (f : ZForm) (s : State) : Host.Outcome State Fault Refusal :=
  run (.nop f) s fun s _ _ => .next s

/-- TRAP: cause 0x08, TPC past it (07 R164). -/
def execTrap (f : MForm) (s : State) : Host.Outcome State Fault Refusal :=
  run (.trap f) s fun s _ _ => .trapPast s 0x08 (trapInfo f)

/-- BRK: cause 0x09 (07 R164). -/
def execBrk (f : MForm) (s : State) : Host.Outcome State Fault Refusal :=
  run (.brk f) s fun s _ _ => .trapPast s 0x09 (trapInfo f)

/-- ERET (07 R166): the return may end a loop body (R158). -/
def execEret (f : ZForm) (s : State) : Host.Outcome State Fault Refusal :=
  run (.eret f) s fun s k t =>
    if thOf t then .jump (modThr s k trapReturn) (trapReturn t).pc true else .trap s 0x0F 0

/-- UIRET (07 R169). -/
def execUiret (f : ZForm) (s : State) : Host.Outcome State Fault Refusal :=
  run (.uiret f) s fun s k t =>
    if uihOf t && !thOf t then .jump (modThr s k uiReturn) (uiReturn t).pc true else .trap s 0x0F 0

end Sys2Proof.Machine
end

