-- ==== Sys2Proof/Machine/Sync.lean ====
section
/-! DEFINITION. What waits at a memory-side unit or a sync object: the end of a wait by the event it awaited, full/empty
words (11 R259; 12 R276), sync objects and the regions bound to them (11 R251, R252; 12 R281, R282), ordered updates and
their runs (11 R264 to R267). -/

namespace Sys2Proof.Machine

/-! The end of a wait. -/

/-- The waiting threads that a predicate picks, in order of arrival. -/
def insWait (x : Nat × Wait) : List (Nat × Wait) → List (Nat × Wait)
  | [] => [x]
  | y :: r => if x.2.order < y.2.order then x :: y :: r else y :: insWait x r

def waiters (s : State) (pick : Nat → Thread → Wait → Bool) : List (Nat × Wait) :=
  s.threads.foldl (fun acc q =>
    match waitOf q.2 with
    | some w => if pick q.1 q.2 w then insWait (q.1, w) acc else acc
    | none => acc) []

/-- A leading thread's wait ends: what it waited for goes into the load-value queue as the completed request would have
(16 R401). -/
def finishLead (s : State) (k : Nat) (t : Thread) (regs : List (Nat × Word)) (lat : Nat) : State :=
  if redundOf t = 1 then
    let core := coreOf k
    let scb := redQueue s.scb core
    match redHead scb (pairOf t) with
    | some e => pushLvq { s with scb := s.scb.put core (redDrop scb (pairOf t)) } core { e with regsOut := regs.map (fun r => r.2), lat := lat, seen := false }
    | none => s
  else s

/-- A leading thread's wait ends in a trap: it goes where its trailing thread looks, which takes the same (16 R401; 18 R425). -/
def failLead (s : State) (k : Nat) (t : Thread) (w : Wait) (cause : Nat) (info : Word) : State :=
  if redundOf t = 1 ∧ w.kind ≠ .redundant then
    let core := coreOf k
    let scb := redQueue s.scb core
    let e : RedEntry := ⟨pairOf t, [], [], [], 0, some (cause, info), false, 1, false⟩
    if (redHead scb (pairOf t)).isSome then pushLvq { s with scb := s.scb.put core (redDrop scb (pairOf t)) } core e
    else if w.kind = .mailSend ∨ w.kind = .replication ∨ w.kind = .trace ∨ (w.kind = .translation ∧ w.arg.toNat % 8 = 1) then pushScb s core e
    else pushLvq s core e
  else s

/-- The awaited event ends thread k's wait (02 R28): results reach their registers at clk due, the thread may issue from clk
at_, and its instruction has completed: a loop end counts from its issue, and a single step traps in the thread's next slot (07
R152, R165). -/
def finishWait (s : State) (k : Nat) (regs : List (Nat × Word)) (due at_ : Nat) : State :=
  match thr s k with
  | none => s
  | some t =>
    match waitOf t with
    | none => s
    | some w =>
      let s1 := finishLead s k t regs (due - s.clk)
      let s2 := if regs.isEmpty then s1 else putScored s1 k due regs []
      let s3 := modThr s2 k (fun u => { u with earliest := max u.earliest at_ })
      let s4 := retireAt s3 k w.words w.since none
      if stepDue t then dueTrap s4 k 0x0A t.pc else s4

/-- A wait ends in a trap, which its thread takes in its next slot. -/
def failWait (s : State) (k : Nat) (w : Wait) (cause : Nat) (info : Word) : State :=
  match thr s k with
  | none => s
  | some t => dueTrap (failLead s k t w cause info) k cause info

/-! Full/empty words. -/

/-- The MSU figure of a thread for a physical address (10 R241). -/
def msuFigure (k loc : Nat) : Nat := (if isHostKey k then 101 else l2Figure (clusterOf (coreOf k)) loc) + 8

/-- A waiting ldfe or stfe of the word at loc whose tag, as its view sees it, lets it go. -/
def feReady (s : State) (loc : Nat) (t : Thread) (w : Wait) : Bool :=
  let v := w.key / 2 ^ 52 % 1024
  w.key % 2 ^ 52 == loc &&
    ((w.kind == .feLoad && tagOf s (partOf t) v loc) || (w.kind == .feStore && !tagOf s (partOf t) v loc))

/-- ldfe's effect on a full word; the value it takes. -/
def feTake (s : State) (p v loc : Nat) : State × Word :=
  (setTag s p v loc loc false, wd (ofBytes ((upFrom loc 8).map (portByte s p v))))

/-- stfe's effect on an empty word. -/
def feFill (s : State) (p v loc : Nat) (x : Word) : State :=
  portWrote (wrVersionBytes (setTag s p v loc loc true) p v loc (toBytes 8 x.toNat)) p v loc 8

/-- Serves the waiting ldfes and stfes of a word in arrival order until none can go (11 R259). -/
def serveFe : Nat → State → Nat → State
  | 0, s, _ => s
  | fuel + 1, s, loc =>
    match (waiters s (fun _ t w => feReady s loc t w)).head? with
    | none => s
    | some (k, w) =>
      match thr s k with
      | none => s
      | some t =>
        let p := partOf t
        let v := w.key / 2 ^ 52 % 1024
        let at_ := s.clk + msuFigure k loc
        if w.kind = .feLoad then
          let r := feTake s p v loc
          let a := acquireAt r.1 k t 3
          serveFe fuel (finishWait a.1 k [(w.dst, r.2)] at_ (at_ + a.2)) loc
        else serveFe fuel (finishWait (feFill s p v loc w.arg) k [] at_ at_) loc

def serveFeAll (s : State) (loc : Nat) : State := serveFe (s.threads.length + 1) s loc

/-! Regions and objects. -/

/-- Entries of a partition's region binding table that hold anything (17 R407). -/
def regionIds (s : State) (p : Nat) : List Nat :=
  ((s.ctl.filter (fun q => inSpan q.1 (regionEnt p 0) 0x20000 && q.1 % 32 == 0)).map (fun q => (q.1 - regionEnt p 0) / 32)).filter
    (regionValid s p)

/-- The object of an entry, as a virtual address. -/
def regionObject (s : State) (p i : Nat) : Nat := (rdCtl s (regionEnt p i + 0x10)).toNat

/-- The ranges bound to the object at a location. -/
def boundRanges (s : State) (p loc : Nat) : List (Nat × Nat) :=
  ((regionIds s p).filter (fun i => objectLoc s p (regionObject s p i) == some loc)).map
    (fun i => regionSpan (rdCtl s (regionEnt p i)) (rdCtl s (regionEnt p i + 8)))

/-- The location of the object to which an address is bound. -/
def boundTo (s : State) (p va : Nat) : Option Nat :=
  match (regionIds s p).find? (fun i =>
    let r := regionSpan (rdCtl s (regionEnt p i)) (rdCtl s (regionEnt p i + 8))
    r.1 ≤ va && va < r.2) with
  | none => none
  | some i => objectLoc s p (regionObject s p i)

def inRanges (rs : List (Nat × Nat)) (a : Nat) : Bool := rs.any (fun r => r.1 ≤ a && a < r.2)

/-- The lines of core c's L1D in given ranges of partition p that have dirty bytes. -/
def rangeDirty (s : State) (c p : Nat) (rs : List (Nat × Nat)) : List Nat :=
  l1LineKeys s c (fun q b => b.dirty && l1Part q == p && inRanges rs (l1Addr q))

/-- Drops core c's lines of given ranges. -/
def rangeDrop (s : State) (c p : Nat) (rs : List (Nat × Nat)) : State :=
  { s with l1d := s.l1d.filter (fun q => !(l1Core q.1 == c && l1Part q.1 == p && inRanges rs (l1Addr q.1))) }

def objOf (s : State) (loc : Nat) : SyncObj := s.objs.getD loc ⟨[], false, false, 0⟩
def setObj (s : State) (loc : Nat) (o : SyncObj) : State := { s with objs := s.objs.putD loc ⟨[], false, false, 0⟩ o }

/-- Whether an acq may be granted at a clk to the object as it stands: not before the release that left it free has completed
(11 R252; 12 R282). -/
def grantable (clk : Nat) (o : SyncObj) (shared : Bool) : Bool :=
  decide (o.freeAt ≤ clk) && (o.holders.isEmpty || (shared && !o.excl))

/-- Threads that wait for the object at a location, in arrival order; a wait's argument is 1 when shared. -/
def objWaiters (s : State) (loc : Nat) : List (Nat × Wait) := waiters s (fun _ _ w => w.kind == .object && w.key == loc)

/-- Grants an object to thread k: its L1D writes back and drops its lines of the object's regions, and makes the acquire actions
of device scope, for the grant carries unbound writes too (11 R248, R250, R252, R493; Log 71). The answer is the clk at which the
grant's actions end, or what the trace ring did with a write-back. -/
def grantObject (s : State) (k loc : Nat) (shared : Bool) : WbRes :=
  match thr s k with
  | none => .done s s.clk
  | some t =>
    let p := partOf t
    let rs := boundRanges s p loc
    let base := s.clk + msuFigure k loc
    let wb := if isHostKey k then WbRes.done s base else wbLines s false base (msuFigure k loc) (rangeDirty s (coreOf k) p rs)
    match wb with
    | .done s1 at_ =>
      let s2 := if isHostKey k then s1 else rangeDrop s1 (coreOf k) p rs
      let q := acquireAt s2 k t 3
      let o := objOf q.1 loc
      .done (modThr (setObj q.1 loc { o with holders := o.holders ++ [k], excl := !shared, failed := o.failed && !o.holders.isEmpty }) k
        (fun u => { u with held := u.held.put loc 0 })) (at_ + q.2)
    | r => r

/-- Grants waiting acqs while the object allows it; one whose write-back is held comes back after 16 clk. -/
def grantWaiters : Nat → State → Nat → Nat → State
  | 0, s, _, _ => s
  | fuel + 1, s, part, loc =>
    match (objWaiters s loc).head? with
    | none => s
    | some (k, w) =>
      if grantable s.clk (objOf s loc) (w.arg == 1) then
        match grantObject s k loc (w.arg == 1) with
        | .done s1 at_ => grantWaiters fuel (finishWait s1 k [] at_ at_) part loc
        | .held s1 _ => sched s1 (s1.clk + 16) (.acqGrant part loc)
        | .diverge s1 q => grantWaiters fuel (failWait s1 k w 0x2D (wd (q * 256))) part loc
        | .failed s1 a => grantWaiters fuel (failWait s1 k w 0x2F (wd a)) part loc
      else s

/-! Ordered updates. -/

/-- The format codes of R89 that an update may have, and one update's new value (11 R264: one rounding each). -/
def updateBytes (fmt : Nat) : Nat := if fmt = 4 ∨ fmt = 11 then 8 else if fmt = 3 ∨ fmt = 10 then 4 else 2

def updateValue (fmt rm m b : Nat) : Nat :=
  match fmt with
  | 3 => (m + b) % 2 ^ 32
  | 4 => (m + b) % 2 ^ 64
  | 8 => (fpAdd fp16 rm m b).code
  | 9 => (fpAdd bf16 rm m b).code
  | 10 => (fpAdd fp32 rm m b).code
  | _ => (fpAdd fp64 rm m b).code

def applyUpdate (s : State) (u : Ordered) : State :=
  let n := updateBytes u.fmt
  let m := ofBytes ((upFrom u.addr n).map (portByte s u.part u.view))
  let s1 := makeVersion s none u.part u.view u.addr u.addr
  portWrote (wrVersionBytes s1 u.part u.view u.addr (toBytes n (updateValue u.fmt u.rm m (u.value.toNat % 2 ^ (8 * n)))))
    u.part u.view u.addr n

/-- The order of R264: TID, then sequence number, then node record address. -/
def updateBefore (a b : Ordered) : Bool :=
  a.tid < b.tid || (a.tid == b.tid && (a.seq < b.seq || (a.seq == b.seq && a.node < b.node)))

def insUpdate (x : Ordered) : List Ordered → List Ordered
  | [] => [x]
  | y :: r => if updateBefore x y then x :: y :: r else y :: insUpdate x r

def sortUpdates (l : List Ordered) : List Ordered := l.foldl (fun acc x => insUpdate x acc) []

/-- A run record of 32 bytes (11 R267). -/
def recordBytes (u : Ordered) : List Byte :=
  toBytes 8 u.addr ++ toBytes 8 u.value.toNat ++ toBytes 4 u.tid ++ toBytes 4 u.seq ++ toBytes 1 (u.fmt + u.rm * 16) ++
  toBytes 1 (u.node / 2 ^ 39) ++ toBytes 2 (u.view % 1024 + u.node / 2 ^ 47 % 32 * 1024) ++ toBytes 4 (u.node / 2 ^ 7)

/-- A record read back. -/
def readRecord (s : State) (a part object : Nat) : Ordered :=
  let f := rdMemN s (a + 0x18) 1
  let v := rdMemN s (a + 0x1A) 2
  { part := part, object := object, addr := rdMemN s a 8 % 2 ^ 52, value := wd (rdMemN s (a + 8) 8), tid := rdMemN s (a + 0x10) 4,
    seq := rdMemN s (a + 0x14) 4,
    node := rdMemN s (a + 0x1C) 4 * 2 ^ 7 + rdMemN s (a + 0x19) 1 % 256 * 2 ^ 39 + v / 1024 % 32 * 2 ^ 47,
    fmt := f % 16, rm := f / 16 % 4, view := v % 1024 }

/-- The records an MSU buffers for a partition. -/
def buffered (s : State) (p slice : Nat) : List Ordered := s.updates.filter (fun u => u.part == p && sliceOf u.addr == slice)

/-- Where a share's next run goes: after the last one still kept. -/
def nextRun (s : State) (p slice : Nat) : Nat :=
  (s.runs.filter (fun r => r.part == p && r.slice == slice)).foldl (fun m r => max m (r.offset + 512)) 0

/-- Writes an MSU's full buffer as a run, or fails its objects where the run does not fit (11 R265). -/
def spillUpdates (s : State) (p slice : Nat) : State :=
  let buf := sortUpdates (buffered s p slice)
  let sh := ordShare s p slice
  let off := nextRun s p slice
  let left := s.updates.filter (fun u => !(u.part == p && sliceOf u.addr == slice))
  if sh.1 && off + 512 ≤ sh.2.2 then
    let s1 := wrMemBytes s (sh.2.1 + off) (buf.flatMap recordBytes)
    { s1 with updates := left, runs := s1.runs ++ [⟨p, slice, off, buf.map (fun u => if u.view < 1024 then u.object else u.object + goneMark)⟩] }
  else
    buf.foldl (fun a u => setObj a u.object { objOf a u.object with failed := true }) { s with updates := left }

/-- An ordered update reaches its MSU: updates of a failed object are accepted and discarded, and one that arrives while ORDLOG's
EN is 0 is an overflow that does not fit, which fails its own object and those of the buffer (11 R265, R266). -/
def addUpdate (s : State) (u : Ordered) : State :=
  if (objOf s u.object).failed then s
  else if (ordShare s u.part (sliceOf u.addr)).1 = false then
    let s1 := spillUpdates s u.part (sliceOf u.addr)
    setObj s1 u.object { objOf s1 u.object with failed := true }
  else
    let s1 := if 16 ≤ (buffered s u.part (sliceOf u.addr)).length then spillUpdates s u.part (sliceOf u.addr) else s
    if (objOf s1 u.object).failed then s1 else { s1 with updates := s1.updates ++ [u] }

/-- The records of an object in runs of a partition. -/
def runRecords (s : State) (p loc : Nat) (r : OrdRun) : List Ordered :=
  if r.part = p then
    ((upFrom 0 16).filter (fun i => (r.objects.drop i).headD mergedMark == loc)).map
      (fun i => readRecord s ((ordShare s p r.slice).2.1 + r.offset + 32 * i) p loc)
  else []

/-- Forgets an object's records; a share whose runs are all merged starts again from offset 0. -/
def dropRecords (s : State) (p loc : Nat) : State :=
  let marked := s.runs.map (fun r => if r.part = p then { r with objects := r.objects.map (fun o => if o = loc ∨ o = loc + goneMark then mergedMark else o) } else r)
  let live (pt sl : Nat) : Bool := marked.any (fun r => r.part == pt && r.slice == sl && r.objects.any (fun o => o != mergedMark))
  { s with updates := s.updates.filter (fun u => !(u.part == p && u.object == loc)),
           runs := marked.filter (fun r => live r.part r.slice) }

/-- The last release of an object: every record of its period is applied in order, but those of discarded views (16 R387), or none when
it failed. The answer is the state, the clk it takes, and whether it failed. -/
def mergeUpdates (s : State) (p loc : Nat) : State × Nat × Bool :=
  let o := objOf s loc
  let fromRuns := s.runs.flatMap (runRecords s p loc)
  let all := sortUpdates (s.updates.filter (fun u => u.part == p && u.object == loc && decide (u.view < 1024)) ++ fromRuns)
  let runs := (s.runs.filter (fun r => !(runRecords s p loc r).isEmpty)).length
  let s1 := dropRecords s p loc
  if o.failed then (s1, 0, true)
  else (all.foldl applyUpdate s1, all.length + 56 * runs, false)

/-- The write-backs of a rel: those of the object's regions, which R493 times, and then every other dirty line, for the edge to the
next grant carries unbound writes too (11 R248, R250, R252; Log 71). -/
def relWrites (s : State) (k loc : Nat) (t : Thread) : WbRes :=
  if isHostKey k then .done s s.clk
  else
    match wbLines s false s.clk 0 (rangeDirty s (coreOf k) (partOf t) (boundRanges s (partOf t) loc)) with
    | .done s1 at_ =>
      match wbLines s1 false s.clk 0 (l1LineKeys s1 (coreOf k) (fun _ b => b.dirty)) with
      | .done s2 _ => .done s2 at_
      | r => r
    | r => r

/-- Releases an object that thread k holds: the write-backs, the message to the MSU, the period's updates when it was the last
holder, and, once it completes, the grants that may follow (11 R493; 12 R282). The answer also tells whether the period's updates
failed. -/
def releaseObject (s : State) (k : Nat) (t : Thread) (loc : Nat) : WbRes × Bool :=
  let p := partOf t
  match relWrites s k loc t with
  | .done s1 at1 =>
    let o := objOf s1 loc
    let rest := o.holders.filter (fun h => h != k)
    let m := if rest.isEmpty then mergeUpdates s1 p loc else (s1, 0, false)
    let at2 := at1 + msuFigure k loc + m.2.1
    let s2 := setObj m.1 loc (if rest.isEmpty then ⟨[], false, false, at2⟩ else { o with holders := rest })
    let s3 := modThr s2 k (fun u => { u with held := u.held.del loc })
    (.done (sched s3 at2 (.acqGrant p loc)) at2, m.2.2)
  | r => (r, false)

end Sys2Proof.Machine
end

