-- ==== Sys2Proof/Machine/Memory.lean ====
section
/-! DEFINITION. Loads, stores, acquire loads, release stores, fences, cache control, full/empty words, atomics, sync objects
and block moves (12 R268 to R284). -/

namespace Sys2Proof.Machine

/-! Plain loads and stores (12 R271). -/

/-- A scoreboarded result in D at the path's clk. -/
def scored (s : State) (k lat : Nat) (d : BitVec 7) (v : Word) : State := putScored s k (s.clk + lat) [(d.toNat, v)] []

/-- A load of n bytes, zero- or sign-extended. -/
def loadAct (s : State) (k : Nat) (t : Thread) (f : MForm) (n : Nat) : Act :=
  match loadPtr s k t (ptrM s t f n) n needR with
  | .error e => badAct e
  | .ok g =>
    let v := ofBytes g.bytes
    .next (scored g.s k g.lat f.d (if f.q then sext v (8 * n) else wd v))

/-- A store of the low n bytes of D. -/
def storeAct (s : State) (k : Nat) (t : Thread) (f : MForm) (n : Nat) : Act :=
  match storePtr s k t (ptrM s t f n) (toBytes n (readG s t f.d.toNat).toNat) needW with
  | .error e => badAct e
  | .ok g => .next (noteStore g.s k g)

/-- LD8 (12 R271). -/
def execLd8 (f : MForm) (s : State) : Host.Outcome State Fault Refusal :=
  run (.ld8 f) s fun s k t => loadAct s k t f 1

/-- LD16 (12 R271). -/
def execLd16 (f : MForm) (s : State) : Host.Outcome State Fault Refusal :=
  run (.ld16 f) s fun s k t => loadAct s k t f 2

/-- LD32 (12 R271). -/
def execLd32 (f : MForm) (s : State) : Host.Outcome State Fault Refusal :=
  run (.ld32 f) s fun s k t => loadAct s k t f 4

/-- LD64 (12 R271). -/
def execLd64 (f : MForm) (s : State) : Host.Outcome State Fault Refusal :=
  run (.ld64 f) s fun s k t => loadAct s k t f 8

/-- ST8 (12 R271). -/
def execSt8 (f : MForm) (s : State) : Host.Outcome State Fault Refusal :=
  run (.st8 f) s fun s k t => storeAct s k t f 1

/-- ST16 (12 R271). -/
def execSt16 (f : MForm) (s : State) : Host.Outcome State Fault Refusal :=
  run (.st16 f) s fun s k t => storeAct s k t f 2

/-- ST32 (12 R271). -/
def execSt32 (f : MForm) (s : State) : Host.Outcome State Fault Refusal :=
  run (.st32 f) s fun s k t => storeAct s k t f 4

/-- ST64 (12 R271). -/
def execSt64 (f : MForm) (s : State) : Host.Outcome State Fault Refusal :=
  run (.st64 f) s fun s k t => storeAct s k t f 8

/-! Access at the owning port, past L1D (12 R273, R277, R291). -/

/-- What a read at the owning port gave; the issuer's dirty bytes of the line reach the port first (11 R245; Log 24). -/
inductive GotRes where
  | ok (g : Got)
  | bad (b : Bad)
  | wb (r : WbRes)
  deriving DecidableEq, Repr

def portPiece (s : State) (k : Nat) (t : Thread) (v : Nat) (ptr : Word) (kind size a n : Nat) : GotRes :=
  let p := partOf t
  let plain (s1 : State) : GotRes :=
    match loadPiece s1 k t v ptr kind size a n with
    | .error e => .bad e
    | .ok g => .ok g
  match place s t ptr kind a n with
  | .ok (.dram va) =>
    if isHostKey k then plain s
    else
      match flushLine s (coreOf k) p va with
      | .done s1 _ =>
        match translate s1 (portOf k) p va kind with
        | .error e => .bad (.msg e.2.2 e.1 kind size va e.2.1)
        | .ok (loc, w, s2) =>
          match demandRange s2 (some k) none (portOf k) 0 p v va loc n with
          | .error e => .bad e
          | .ok (s3, lat) => .ok ⟨afterHint s3 k p v va (some loc), (upFrom loc n).map (portByte s3 p v), lat + w⟩
      | r => .wb r
  | _ => plain s

def portParts (s : State) (k : Nat) (t : Thread) (v : Nat) (ptr : Word) (kind size : Nat) : List (Nat × Nat) → GotRes
  | [] => .ok ⟨s, [], 0⟩
  | (a, n) :: r =>
    match portPiece s k t v ptr kind size a n with
    | .ok g =>
      match portParts g.s k t v ptr kind size r with
      | .ok h => .ok ⟨h.s, g.bytes ++ h.bytes, max g.lat h.lat⟩
      | e => e
    | e => e

/-- n bytes at a read at their owning ports, by lines; kind as a fault message would name it. -/
def portRead (s : State) (k : Nat) (t : Thread) (ptr : Word) (kind a n : Nat) : GotRes :=
  portParts s k t (viewFor t ptr) ptr kind n (cut a n)

/-- What a write through to the owning port did. -/
inductive PutRes where
  | ok (g : Put)
  | bad (b : Bad)
  | wb (r : WbRes)
  deriving DecidableEq, Repr

/-- New bytes in the clean line that core c's L1D holds of a view. -/
def l1Renew (s : State) (c p v va : Nat) : List Byte → State
  | [] => s
  | b :: r =>
    let s1 := match s.l1d.get? (l1Key c p v va) with
      | some x => { s with l1d := s.l1d.put (l1Key c p v va) { x with val := b, dirty := false } }
      | none => s
    l1Renew s1 c p v (va + 1) r

def putPiece (keep : Bool) (s : State) (k : Nat) (t : Thread) (v : Nat) (ptr : Word) (size a : Nat) (bs : List Byte) : PutRes :=
  let p := partOf t
  let n := bs.length
  let plain (s1 : State) : PutRes :=
    match storePiece s1 k t v ptr size a bs with
    | .error e => .bad e
    | .ok g => .ok g
  match place s t ptr 1 a n with
  | .ok (.dram va) =>
    if isHostKey k then plain s
    else
      match (if keep then .done s s.clk else flushLine s (coreOf k) p va : WbRes) with
      | .done s1 _ =>
        match translate s1 (portOf k) p va 1 with
        | .error e => .bad (.msg e.2.2 e.1 1 size va e.2.1)
        | .ok (loc, w, s2) =>
          if channelDown s2 loc then .bad (.trap s2 0x27 (wd (va / 32 * 32)))
          else
            let s3 := wrVersionBytes (makeVersion s2 none p v va loc) p v loc bs
            let s4 := if keep then l1Renew s3 (coreOf k) p v va bs else s3
            .ok ⟨afterHint (portWrote s4 p v loc n) k p v va (some loc), l2Figure (clusterOf (coreOf k)) loc + w, true⟩
      | r => .wb r
  | _ => plain s

def putParts (keep : Bool) (s : State) (k : Nat) (t : Thread) (v : Nat) (ptr : Word) (size : Nat) : List (Nat × Nat) → List Byte → PutRes
  | [], _ => .ok ⟨s, 0, false⟩
  | (a, n) :: r, bs =>
    match putPiece keep s k t v ptr size a (bs.take n) with
    | .ok g =>
      match putParts keep g.s k t v ptr size r (bs.drop n) with
      | .ok h => .ok ⟨h.s, max g.lat h.lat, g.port || h.port⟩
      | e => e
    | e => e

/-- Bytes at a written through to their owning ports. The issuer's L1D keeps no copy of the lines; a release store instead
finds its line clean and leaves it so, with the new bytes (12 R273). -/
def portWrite (keep : Bool) (s : State) (k : Nat) (t : Thread) (ptr : Word) (a : Nat) (bs : List Byte) : PutRes :=
  match putParts keep s k t (viewFor t ptr) ptr bs.length (cut a bs.length) bs with
  | .bad e => .bad (keepState s e)
  | r => r

/-! Acquire loads and release stores (12 R273). -/

/-- The scope code of ldacq and strel. -/
def scopeOf (f : MForm) : Nat := tailMod f.t % 8

/-- The thread issues nothing before a clk. -/
def holdUntil (s : State) (k at_ : Nat) : State := modThr s k (fun t => { t with earliest := max t.earliest at_ })

/-- LDACQ: at cluster scope and wider it reads at the owning port; then the acquire actions (12 R273, R294). -/
def execLdacq (f : MForm) (s : State) : Host.Outcome State Fault Refusal :=
  run (.ldacq f) s fun s k t =>
    let ptr := ptrM s t f 8
    let sc := scopeOf f
    if sc < 2 then loadAct s k t f 8
    else
      match ea t ptr 8 needR with
      | .error c => .trap s c ptr
      | .ok a =>
        match portRead s k t ptr 0 a 8 with
        | .bad e => badAct e
        | .wb r => wbAct r (fun s1 _ => .next s1)
        | .ok g =>
          let q := acquireAt g.s k t sc
          .next (holdUntil (scored q.1 k g.lat f.d (wd (ofBytes g.bytes))) k (s.clk + g.lat + q.2))

/-- STREL: its release actions complete first; at cluster scope and wider it writes through (12 R273, R294). -/
def execStrel (f : MForm) (s : State) : Host.Outcome State Fault Refusal :=
  run (.strel f) s fun s k t =>
    let ptr := ptrM s t f 8
    let sc := scopeOf f
    let bs := toBytes 8 (readG s t f.d.toNat).toNat
    match ea t ptr 8 needW with
    | .error c => .trap s c ptr
    | .ok a =>
      wbAct (releaseAt s k t sc) fun s1 at_ =>
        let late (g : Put) : Act :=
          .next (holdUntil (noteStore g.s k { g with lat := g.lat + (at_ - s.clk) }) k at_)
        if sc < 2 then
          match storeRange s1 k t ptr a bs with
          | .error e => badAct e
          | .ok g => late g
        else
          match portWrite true s1 k t ptr a bs with
          | .bad e => badAct e
          | .wb r => wbAct r (fun s2 _ => .next s2)
          | .ok g => late g

/-- FENCE at the scope in disp7: release actions, then acquire actions (12 R274). -/
def execFence (f : MForm) (s : State) : Host.Outcome State Fault Refusal :=
  run (.fence f) s fun s k t =>
    let sc := f.disp.toNat % 8
    wbAct (releaseAt s k t sc) fun s1 at_ =>
      let q := acquireAt s1 k t sc
      .next (holdUntil q.1 k (at_ + q.2))

/-! Cache control (12 R275). -/

/-- The address lies in a line that overlaps n bytes at a. -/
def overLines (a n x : Nat) : Bool := lineOf a ≤ lineOf x && lineOf x < a + n

/-- CACHECTL (12 R275): a range whose end another segment's number would name ends beyond the limit. -/
def execCachectl (f : RForm) (s : State) : Host.Outcome State Fault Refusal :=
  run (.cachectl f) s fun s k t =>
    let p := readG s t f.a.toNat
    let b := (opbReg s t f).toNat
    let m := tailMod f.t
    let last := p + wd b - 1
    if b = 0 then .next s
    else
      match ea t p 1 needR, ea t last 1 needR with
      | .error c, _ => .trap s c p
      | .ok _, .error c => .trap s c last
      | .ok a, .ok _ =>
        if 2 ^ 61 ≤ ptrOff p + b ∨ ptrSeg last ≠ ptrSeg p then .trap s 0x20 last else
        let part := partOf t
        let dropI (x : State) (of : Nat → Bool) : State :=
          { x with l1i := x.l1i.filter (fun q => !(of (q.1 / 2 ^ 52) && overLines a b (q.1 % 2 ^ 52))) }
        if isHostKey k then .next (if m = 3 then dropI s (fun c => 128 ≤ c) else s)
        else
          let c := coreOf k
          let mine (q : Nat) : Bool := l1Core q == c && l1Part q == part && overLines a b (l1Addr q)
          let clean (x : State) : State := { x with l1d := x.l1d.filter (fun q => !(mine q.1) || q.2.dirty) }
          if m = 1 then .next (holdUntil (clean s) k (s.clk + 8))
          else
            wbAct (wbLines s false s.clk 0 (l1LineKeys s c (fun q y => y.dirty && mine q))) fun s1 at_ =>
              let s2 :=
                if m = 2 then { s1 with l1d := s1.l1d.filter (fun q => !(mine q.1)) }
                else if m = 3 then dropI s1 (coreIn s1 part)
                else s1
              .next (holdUntil s2 k at_)

/-! Full/empty words (12 R276). -/

/-- The word a full/empty operation acts on: translated DRAM only; in a world, the output image has its own cause (R270). -/
def feWord (s : State) (k : Nat) (t : Thread) (ptr : Word) (need : Rights) : PortRes :=
  match ea t ptr 8 need with
  | .error c => .bad (.trap s c ptr)
  | .ok a =>
    if a < 0x8000000000000 then msuWord s k t ptr a 8
    else
      let out := match place s t ptr 2 a 8 with
        | .ok (.pim l) => isOutput l
        | _ => false
      .bad (if out && viewOf t != 0 then .trap s 0x43 (wd a) else .trap s 0x2C ptr)

/-- Carries on with the word a port found. -/
def withWord (_s : State) (r : PortRes) (f : PortWord → Act) : Act :=
  match r with
  | .ok w => f w
  | .bad e => badAct e
  | .wb x => wbAct x (fun s1 _ => .next s1)
  | .down s loc => .wait s { kind := .unit, key := sliceOf loc }

/-- A waiting ldfe or stfe. -/
def feWait (s : State) (kind : WaitKind) (p : Nat) (w : PortWord) (arg : Word) (dst : Nat) : Act :=
  .wait s { kind := kind, key := verKey p w.view w.loc, arg := arg, dst := dst, cause := 0x33 }

/-- LDFE: takes a full word, else waits; an acquire at device scope (11 R259; 12 R276). -/
def execLdfe (f : MForm) (s : State) : Host.Outcome State Fault Refusal :=
  run (.ldfe f) s fun s k t =>
    withWord s (feWord s k t (ptrM s t f 8) needFe) fun w =>
      let p := partOf t
      if tagOf w.s p w.view w.loc then
        let r := feTake w.s p w.view w.loc
        let q := acquireAt r.1 k t 3
        .next (serveFeAll (holdUntil (scored q.1 k w.lat f.d r.2) k (if t.host then s.clk else s.clk + w.lat + q.2)) w.loc)
      else feWait w.s .feLoad p w 0 f.d.toNat

/-- STFE: fills an empty word, else waits; a release at device scope, whose actions complete before the word is filled: until
then the thread waits, and the instruction issues again (11 R250, R259; 12 R276). -/
def execStfe (f : MForm) (s : State) : Host.Outcome State Fault Refusal :=
  run (.stfe f) s fun s k t =>
    match ea t (ptrM s t f 8) 8 needFe with
    | .error c => .trap s c (ptrM s t f 8)
    | .ok _ =>
      let done := (waitMark t).any (fun w => w.kind == .release)
      wbAct (if done then .done s s.clk else releaseAt s k t 3) fun s1 at_ =>
        if s.clk < at_ then .wait s1 { kind := .release, key := at_ }
        else withWord s1 (feWord s1 k t (ptrM s t f 8) needFe) fun w =>
          let p := partOf t
          let x := readG s t f.d.toNat
          if tagOf w.s p w.view w.loc then feWait w.s .feStore p w x 0
          else
            let g : Put := ⟨feFill w.s p w.view w.loc x, w.lat, false⟩
            .next (serveFeAll (noteStore g.s k g) w.loc)

/-- FECHK: the tag in D, the value in C (12 R276). -/
def execFechk (f : MForm) (s : State) : Host.Outcome State Fault Refusal :=
  run (.fechk f) s fun s k t =>
    withWord s (feWord s k t (ptrM s t f 8) needFeRead) fun w =>
      let p := partOf t
      let tag : Word := if tagOf w.s p w.view w.loc then 1 else 0
      .next (putScored w.s k (s.clk + w.lat) [(f.d.toNat, tag), ((tailC f.t).toNat, wd (wordAt w p 8))] [])

/-! Atomics (12 R277 to R280). -/

/-- An indivisible read, computation and write of n bytes: the old value goes to D (12 R277). The new value is computed from
the old one and source B. -/
def atomicAct (s : State) (k : Nat) (t : Thread) (f : RForm) (n : Nat) (new : Nat → Nat → Nat) : Act :=
  let ptr := ptrR s t f
  match ea t ptr n needAtomic with
  | .error c => .trap s c ptr
  | .ok a =>
    withWord s (atomicWord s k t ptr a n) fun w =>
      let m := wordAt w (partOf t) n
      let b := (opbReg s t f).toNat % 2 ^ (8 * n)
      .next (putScored (setWord w (partOf t) n (new m b)) k (s.clk + w.lat) [(f.d.toNat, wd m)] [])

/-- SZ of an integer atomic, in bytes, and of a floating one as a format code (12 R278). -/
def amoBytes (f : RForm) : Nat := if tailMod f.t / 16 % 4 = 1 then 4 else 8
def amoFmt (f : RForm) : Nat :=
  match tailMod f.t / 16 % 4 with
  | 0 => 11
  | 1 => 10
  | 2 => 8
  | _ => 9
def fmtFloat (code : Nat) : FpFmt :=
  match code with
  | 8 => fp16
  | 9 => bf16
  | 10 => fp32
  | _ => fp64

/-- AMOADD (12 R279). -/
def execAmoadd (f : RForm) (s : State) : Host.Outcome State Fault Refusal :=
  run (.amoadd f) s fun s k t =>
    atomicAct s k t f (amoBytes f) (fun m b => (m + b) % 2 ^ (8 * amoBytes f))

/-- AMOBIT: or, and, xor (12 R279). -/
def execAmobit (f : RForm) (s : State) : Host.Outcome State Fault Refusal :=
  run (.amobit f) s fun s k t =>
    atomicAct s k t f (amoBytes f) (fun m b =>
      match tailMod f.t % 4 with
      | 0 => m ||| b
      | 1 => m &&& b
      | _ => m ^^^ b)

/-- Lesser and greater of two n-byte values, unsigned or signed. -/
def amoLess (f : RForm) (m b : Nat) : Bool :=
  if tailMod f.t % 2 = 1 then m < b else sextInt m (8 * amoBytes f) < sextInt b (8 * amoBytes f)

/-- AMOMIN (12 R279). -/
def execAmomin (f : RForm) (s : State) : Host.Outcome State Fault Refusal :=
  run (.amomin f) s fun s k t =>
    atomicAct s k t f (amoBytes f) (fun m b => if amoLess f b m then b else m)

/-- AMOMAX (12 R279). -/
def execAmomax (f : RForm) (s : State) : Host.Outcome State Fault Refusal :=
  run (.amomax f) s fun s k t =>
    atomicAct s k t f (amoBytes f) (fun m b => if amoLess f m b then b else m)

/-- AMOSWAP (12 R279). -/
def execAmoswap (f : RForm) (s : State) : Host.Outcome State Fault Refusal :=
  run (.amoswap f) s fun s k t => atomicAct s k t f (amoBytes f) (fun _ b => b)

/-- CAS: the comparand is the old D (12 R279). -/
def execCas (f : RForm) (s : State) : Host.Outcome State Fault Refusal :=
  run (.cas f) s fun s k t =>
    let c := (readG s t f.d.toNat).toNat % 2 ^ (8 * amoBytes f)
    atomicAct s k t f (amoBytes f) (fun m b => if m = c then b else m)

/-- FADDA_U: one rounding in FPCTL.RM; no flag, no trap (12 R280). -/
def execFaddaU (f : RForm) (s : State) : Host.Outcome State Fault Refusal :=
  run (.faddaU f) s fun s k t =>
    let m := fmtFloat (amoFmt f)
    atomicAct s k t f (m.width / 8) (fun x b => (fpAdd m (ctlRm (fpctlOf t)) x b).code)

/-- The ordered update of an element at a virtual address, bound and held (11 R264; 12 R280): the state, or the cause. -/
def orderedAt (s : State) (k : Nat) (t : Thread) (va fmt : Nat) (loc : Nat) (v : Word) (view : Nat) : Except Nat State :=
  match boundTo s (partOf t) va with
  | none => .error 0x3A
  | some obj =>
    match t.held.get? obj with
    | none => .error 0x3B
    | some seq =>
      let u : Ordered := ⟨partOf t, obj, loc, v, bits (getSpr t rTID) 0 32, seq, (nodeAddr t).toNat, fmt, ctlRm (fpctlOf t), view⟩
      .ok (addUpdate (modThr s k (fun x => { x with held := x.held.put obj (seq + 1) })) u)

/-- FADDA_O (12 R280): the update waits at the MSU for the last release. -/
def execFaddaO (f : RForm) (s : State) : Host.Outcome State Fault Refusal :=
  run (.faddaO f) s fun s k t =>
    let ptr := ptrR s t f
    let n := updateBytes (amoFmt f)
    match ea t ptr n needAtomic with
    | .error c => .trap s c ptr
    | .ok a =>
      match place s t ptr 2 a n with
      | .ok (.scratch _ _) => .trap s 0x3A ptr
      | _ =>
        withWord s (atomicWord s k t ptr a n) fun w =>
          match orderedAt w.s k t a (amoFmt f) w.loc (wd ((opbReg s t f).toNat % 2 ^ (8 * n))) w.view with
          | .error c => .trap s c ptr
          | .ok s1 => .next (noteStore s1 k ⟨s1, w.lat, false⟩)

/-- FMAXA: maximumNumber, or minimumNumber with MIN (12 R280). -/
def execFmaxa (f : RForm) (s : State) : Host.Outcome State Fault Refusal :=
  run (.fmaxa f) s fun s k t =>
    let m := fmtFloat (amoFmt f)
    atomicAct s k t f (m.width / 8) (fun x b => (fpMinMax m (tailMod f.t % 2 == 0) x b).code)

/-! Sync objects (12 R281, R282). -/

/-- The object that acq and rel name: its location and the clk of the translation. -/
def objectWord (s : State) (k : Nat) (t : Thread) (ptr : Word) : PortRes :=
  match ea t ptr 8 needAtomic with
  | .error c => .bad (.trap s c ptr)
  | .ok a =>
    match place s t ptr 2 a 8 with
    | .error e => .bad e
    | .ok (.dram va) =>
      match translate s (portOf k) (partOf t) va 2 with
      | .error e => .bad (.msg e.2.2 e.1 2 8 va e.2.1)
      | .ok (loc, w, s1) => .ok ⟨s1, loc, 0, va, w⟩
    | .ok _ => .bad (.trap s 0x3A ptr)

/-- acq: granted at once when the object allows it and nobody waits before it, else a wait in arrival order (11 R252). -/
def acqAct (s : State) (k : Nat) (t : Thread) (f : RForm) (shared : Bool) : Act :=
  let ptr := ptrR s t f
  withWord s (objectWord s k t ptr) fun w =>
    if (boundRanges w.s (partOf t) w.loc).isEmpty then .trap s 0x3A ptr
    else if (t.held.get? w.loc).isSome || 8 ≤ t.held.length then .trap s 0x07 ptr
    else if grantable w.s.clk (objOf w.s w.loc) shared && (objWaiters w.s w.loc).isEmpty then
      wbAct (grantObject w.s k w.loc shared) fun s1 at_ => .next (holdUntil s1 k (at_ + w.lat))
    else .wait w.s { kind := .object, key := w.loc, arg := if shared then 1 else 0, cause := 0x33 }

/-- ACQ (12 R281). -/
def execAcq (f : RForm) (s : State) : Host.Outcome State Fault Refusal :=
  run (.acq f) s fun s k t => acqAct s k t f false

/-- ACQ_SH (12 R281). -/
def execAcqSh (f : RForm) (s : State) : Host.Outcome State Fault Refusal :=
  run (.acqSh f) s fun s k t => acqAct s k t f true

/-- ACQ_GRANT: the object grants the requests that wait, in arrival order (11 R252). -/
def execAcqGrant (part obj : Nat) (s : State) : Host.Outcome State Fault Refusal :=
  .next (grantWaiters (s.threads.length + 1) s part obj)

/-- REL (12 R282): a failed period traps the last holder with 0x3C, the release done (18 R425). -/
def execRel (f : RForm) (s : State) : Host.Outcome State Fault Refusal :=
  run (.rel f) s fun s k t =>
    let ptr := ptrR s t f
    withWord s (objectWord s k t ptr) fun w =>
      if (t.held.get? w.loc).isNone then .trap s 0x3B ptr
      else if (boundRanges w.s (partOf t) w.loc).isEmpty then .trap s 0x3A ptr
      else
        let r := releaseObject w.s k t w.loc
        wbAct r.1 fun s1 at_ =>
          let s2 := holdUntil s1 k (at_ + w.lat)
          if r.2 then .trapPast s2 0x3C (wd w.va) else .next s2

/-! Block moves and fills (12 R283, R284). -/

/-- What remains of a block operation: the destination and source pointers and the bytes. -/
structure Block where
  d : Word
  a : Word
  b : Nat
  deriving DecidableEq, Repr

/-- Bytes from x on, of n, that a fill pattern gives. -/
def fillBytes (pat : Word) (x n : Nat) : List Byte := (upFrom x n).map (fun i => BitVec.ofNat 8 (bits pat (8 * (i % 8)) 8))

/-- Leaves the registers of a bmove or bfill describing what remains. -/
def blockRegs (f : RForm) (move : Bool) (q : Block) : List (Nat × Word) :=
  [(f.d.toNat, q.d)] ++ (if move then [(f.a.toNat, q.a)] else []) ++ [(f.b.toNat, wd q.b)]

def setBlock (s : State) (k : Nat) (f : RForm) (move : Bool) (q : Block) : State :=
  modThr s k (fun t => (blockRegs f move q).foldl (fun u r => setGpr u r.1 r.2) t)

/-- One chunk: its source bytes and then its destination bytes are checked, then they are moved or filled. The answer is the state,
what remains and the chunk's clk. -/
def blockChunk (s : State) (k : Nat) (t : Thread) (f : RForm) (move desc : Bool) (pat : Word) (q : Block) :
    Except Bad (State × Block × Nat) :=
  match ea t (if desc then q.d + wd q.b - 1 else q.d) 1 needNone with
  | .error c => .error (.trap s c (if desc then q.d + wd q.b - 1 else q.d))
  | .ok x =>
    let n := if desc then min q.b (x % 64 + 1) else min q.b (64 - x % 64)
    let dp := if desc then q.d + wd (q.b - n) else q.d
    let ap := if desc then q.a + wd (q.b - n) else q.a
    match (if move then eaRow t ap n needR else .ok 0 : Except Nat Nat), eaRow t dp n needW with
    | .error c, _ => .error (.trap s c ap)
    | .ok _, .error c => .error (.trap s c dp)
    | .ok a, .ok d =>
      match (if move then loadRange s k t ap a n else .ok ⟨s, [], 0⟩ : Except Bad Got) with
      | .error e => .error e
      | .ok g =>
        match storeRange g.s k t dp d (if move then g.bytes else fillBytes pat d n) with
        | .error e => .error e
        | .ok h =>
          let s1 := noteStore h.s k h
          let rest : Block := if desc then { q with b := q.b - n }
            else ⟨if f.d = 0 then 0 else q.d + wd n, if f.a = 0 || !move then q.a else q.a + wd n, q.b - n⟩
          .ok (s1, rest, max g.lat h.lat)

/-- Chunk after chunk; a chunk that fails leaves the registers at what remains (12 R284). -/
def blockGo (k : Nat) (t : Thread) (f : RForm) (move desc : Bool) (pat : Word) : Nat → State → Block → Nat → Nat → Act
  | 0, s, _, _, _ => .next s
  | fuel + 1, s, q, i, lat =>
    if q.b = 0 then .next (putScored s k (s.clk + lat) (blockRegs f move q) [])
    else
      match blockChunk s k t f move desc pat q with
      | .error (.trap s1 c info) => .trap (setBlock s1 k f move q) c info
      | .error (.msg s1 c kd n a w) => .blocked (setBlock s1 k f move q) c kd n a w
      | .ok (s1, rest, l) => blockGo k t f move desc pat fuel s1 rest (i + 1) (max lat (i + l))

/-- BMOVE: from the end where the ranges overlap so that the source lies below (12 R283). -/
def execBmove (f : RForm) (s : State) : Host.Outcome State Fault Refusal :=
  run (.bmove f) s fun s k t =>
    if f.d = f.a then .trap s 0x07 (fieldInfo (.bmove f) 0 17)
    else if f.d = f.b ∨ f.a = f.b then .trap s 0x07 (fieldInfo (.bmove f) 0 24)
    else
      let q : Block := ⟨readG s t f.d.toNat, readG s t f.a.toNat, (readG s t f.b.toNat).toNat⟩
      let desc := match ea t q.d 1 needW, ea t q.a 1 needR with
        | .ok x, .ok y => decide (y < x ∧ x < y + q.b)
        | _, _ => false
      blockGo k t f true desc 0 (q.b + 1) s q 0 0

/-- BFILL (12 R283). -/
def execBfill (f : RForm) (s : State) : Host.Outcome State Fault Refusal :=
  run (.bfill f) s fun s k t =>
    let q : Block := ⟨readG s t f.d.toNat, 0, (readG s t f.b.toNat).toNat⟩
    blockGo k t f false false (readG s t f.a.toNat) (q.b + 1) s q 0 0

end Sys2Proof.Machine
end

