-- ==== Sys2Proof/Machine/Pad.lean ====
section
/-! DEFINITION. Scratchpad tags, bank formats, segment registers, translation probes and invalidations, stamped access
(12 R285 to R293). -/

namespace Sys2Proof.Machine

/-- A value that 12 R294 gives 6 clk. -/
def after6 (s : State) (k : Nat) (d : BitVec 7) (v : Word) : Act := .next (scored s k 6 d v)

/-! The tag table (10 R220, R221; 12 R285). -/

/-- Slots of a core: 256 for each bound slab. -/
def slotCount (s : State) (c : Nat) : Nat := 256 * gangOf s c

/-- The key of a core's slot: the slab that serves the lower half of its part. -/
def tagKeyOf (s : State) (c i : Nat) : Nat := (slabRef s c (i / 256)).1 * 256 + i % 256
def tagEntry (s : State) (c i : Nat) : Word := s.tagTab.getD (tagKeyOf s c i) 0
def setTagEntry (s : State) (c i : Nat) (v : Word) : State := { s with tagTab := s.tagTab.putD (tagKeyOf s c i) 0 v }

/-- The slot whose valid entry holds a tag. -/
def tagFind (s : State) (c tag : Nat) : Option Nat :=
  firstFrom (fun i => bits (tagEntry s c i) 0 42 == tag + 2 ^ 41) 0 (slotCount s c)

/-- TLOOK (12 R285). -/
def execTlook (f : RForm) (s : State) : Host.Outcome State Fault Refusal :=
  run (.tlook f) s fun s k t =>
    let p := readG s t f.a.toNat
    match ea t p 1 needNone with
    | .error c => .trap s c p
    | .ok a => after6 s k f.d (wd ((tagFind s (coreOf k) (a / 2048)).getD 0xFFFF))

/-- TSET: installs a tag in a slot, which no other slot of the core then holds (12 R285). -/
def execTset (f : RForm) (s : State) : Host.Outcome State Fault Refusal :=
  run (.tset f) s fun s k t =>
    let p := readG s t f.a.toNat
    let i := readG s t f.b.toNat
    let c := coreOf k
    if slotCount s c ≤ i.toNat then .trap s 0x07 i
    else
      match ea t p 1 needNone with
      | .error e => .trap s e p
      | .ok a =>
        let old := tagEntry s c i.toNat
        let s1 := match tagFind s c (a / 2048) with
          | some j => setTagEntry s c j (setBits (tagEntry s c j) 41 1 0)
          | none => s
        after6 (setTagEntry s1 c i.toNat (wd (a / 2048 + 2 ^ 41))) k f.d old

/-- TSET_INVALIDATE: Q = 1 (12 R285). -/
def execTsetInvalidate (f : RForm) (s : State) : Host.Outcome State Fault Refusal :=
  run (.tsetInvalidate f) s fun s k t =>
    let i := readG s t f.b.toNat
    let c := coreOf k
    if slotCount s c ≤ i.toNat then .trap s 0x07 i
    else
      let old := tagEntry s c i.toNat
      after6 (setTagEntry s c i.toNat (setBits old 41 1 0)) k f.d old

/-! Bank formats (10 R218; 12 R286). -/

/-- The key of bank i of a core: its half-slab and its place there. -/
def bankKey (s : State) (c i : Nat) : Nat := halfOf s c (i / 16) (8 ≤ i % 16) * 8 + i % 8
def bankReg (s : State) (key : Nat) : Word := s.bankFmt.getD key 0xD

/-- The format in effect for a bank: a bfmt takes effect in the clk after it completes (10 R219). -/
def bankNow (s : State) (key : Nat) : Word :=
  (((s.fmtOld.getD key []).find? (fun x => s.clk < x.1)).map (fun x => x.2)).getD (bankReg s key)

/-- Writes a bank's register by a bfmt that completes lat clk later. -/
def setBank (s : State) (key lat : Nat) (v : Word) : State :=
  { s with bankFmt := s.bankFmt.putD key 0xD v,
           fmtOld := s.fmtOld.put key ((s.fmtOld.getD key []).filter (fun x => s.clk < x.1) ++ [(s.clk + lat + 1, bankReg s key)]) }

/-- BFMT (12 R286). -/
def execBfmt (f : RForm) (s : State) : Host.Outcome State Fault Refusal :=
  run (.bfmt f) s fun s k t =>
    let i := readG s t f.a.toNat
    let v := opbReg s t f
    if 16 * gangOf s (coreOf k) ≤ i.toNat then .trap s 0x07 i
    else if bits v 5 59 ≠ 0 ∨ 14 ≤ bits v 0 4 then .trap s 0x07 v
    else
      let key := bankKey s (coreOf k) i.toNat
      after6 (setBank s key 6 v) k f.d (bankReg s key)

/-- BFMT_READ: Q = 1 (12 R286). -/
def execBfmtRead (f : RForm) (s : State) : Host.Outcome State Fault Refusal :=
  run (.bfmtRead f) s fun s k t =>
    let i := readG s t f.a.toNat
    if 16 * gangOf s (coreOf k) ≤ i.toNat then .trap s 0x07 i
    else after6 s k f.d (bankReg s (bankKey s (coreOf k) i.toNat))

/-! Segment registers (05 R115; 12 R287). -/

/-- Bits of a segment value that must be zero: [63:53] and [127:124] (05 R115). -/
def segZeroBad (g : BitVec 128) : Bool := segBits g 53 11 != 0 || segBits g 124 4 != 0

/-- A value that a segment register never takes. -/
def segBad (g : BitVec 128) : Bool :=
  segZeroBad g || decide (2 ^ 52 ≤ segBase g + segLimit g) || (segT g && segBits g 9 43 != 0)

/-- A value derived from a parent keeps within it (12 R287). -/
def segWithin (g par : BitVec 128) : Bool :=
  let sub (a b : Bool) : Bool := !a || b
  sub (segR g) (segR par) && sub (segW g) (segW par) && sub (segX g) (segX par) && sub (segA g) (segA par) &&
  segF g == segF par && segS g == segS par && segV g == segV par && segT g == segT par &&
  (if segT g then segBase g == segBase par && decide (segLimit g ≤ segLimit par)
   else decide (segBase par ≤ segBase g) && decide (segBase g + segLimit g ≤ segBase par + segLimit par))

/-- SGSET: the checks in order, each with its number (12 R287). -/
def execSgset (f : RForm) (s : State) : Host.Outcome State Fault Refusal :=
  run (.sgset f) s fun s k t =>
    let n := f.d.toNat
    let g : BitVec 128 := readG s t f.b.toNat ++ readG s t f.a.toNat
    let free := 8 ≤ tailMod f.t
    let par := segOf t (tailMod f.t % 8)
    let put : Act := .next (modThr s k (fun u => { u with segs := u.segs.putD n 0 g }))
    if segBad g then .trap s 0x22 (wd n)
    else if free then (if supOf t then put else .trap s 0x06 (wd n))
    else if n = 0 ∧ supOf t = false then .trap s 0x21 (wd n)
    else if segValid par = false then .trap s 0x22 (wd (tailMod f.t % 8))
    else if segValid g && !segWithin g par then .trap s 0x21 (wd n)
    else put

/-! Probes (12 R288). -/

/-- gB[5:0] of probe MOD 2. -/
def probeRights (w : Word) : Rights :=
  { r := bit w 0, w := bit w 1, x := bit w 2, a := bit w 3, f := bit w 4, s := bit w 5 }

/-- The result of probe MOD 2: the address, or the cause ea would raise. -/
def probeEa (t : Thread) (p : Word) (size : Nat) (n : Rights) : Word :=
  match ea t p size n with
  | .ok a => wd (a % 2 ^ 52)
  | .error c => wd (c * 2 ^ 56)

/-- The result of probe MOD 3: an entry's translation and rights. -/
def probeEntry (e : TlbEntry) (v : Nat) : Word :=
  let b (x : Bool) (i : Nat) : Nat := if x then 2 ^ i else 0
  wd (physAddr e v + 2 ^ 56 + b e.r 57 + b e.w 58 + b e.x 59 + b e.a 60 + b e.big 61)

/-- PROBE (12 R288): MOD 3 is privileged and looks or walks without a fault message, joining a walk in flight (10 R237). -/
def execProbe (f : RForm) (s : State) : Host.Outcome State Fault Refusal :=
  run (.probe f) s fun s k t =>
    let a := readG s t f.a.toNat
    match tailMod f.t with
    | 2 =>
      let b := opbReg s t f
      let size := bits b 8 8
      if bits b 6 2 ≠ 0 ∨ bits b 16 48 ≠ 0 ∨ ¬(size = 1 ∨ size = 2 ∨ size = 4 ∨ size = 8) then .trap s 0x07 b
      else after6 s k f.d (probeEa t a size (probeRights b))
    | 3 =>
      let v := a.toNat
      if supOf t = false then
        .trap s 0x06 (fieldInfo (.probe f) 1 0)
      else if bits a 51 13 ≠ 0 then .trap s 0x07 a
      else
        let r := lookUp s (portOf k) (partOf t) v
        .next (scored r.2.2 k (24 + r.2.1) f.d ((r.1.map (fun e => probeEntry e v)).getD 0))
    | m =>
      if bits a 3 61 ≠ 0 then .trap s 0x07 a
      else after6 s k f.d (wd (segBits (segOf t a.toNat) (64 * m) 64))

/-! Translation invalidate (12 R289). -/

/-- An invalidation of the issuer's partition's entries in every cluster port, or of a host core in the host cores' caches
alone (12 R289; 20 R460). Walks in flight then install nothing; a requester of one keeps what its walk found (Log 94). -/
def invalidated (s : State) (k : Nat) (t : Thread) (pick : TlbEntry → Bool) : State :=
  let p := partOf t
  holdUntil (tlbDrop s (fun port => isHostKey k == decide (16 ≤ port)) (fun e => e.part == p && pick e)) k (s.clk + 104)

/-- PTINV (12 R289). -/
def execPtinv (f : RForm) (s : State) : Host.Outcome State Fault Refusal :=
  run (.ptinv f) s fun s k t =>
    let a := readG s t f.a.toNat
    if bits a 51 13 ≠ 0 then .trap s 0x07 a
    else .next (invalidated s k t (tlbCovers (partOf t) a.toNat))

/-- PTINV_ALL: MOD 1 (12 R289). -/
def execPtinvAll (f : RForm) (s : State) : Host.Outcome State Fault Refusal :=
  run (.ptinvAll f) s fun s k t => .next (invalidated s k t (fun _ => true))

/-! Stamped access (12 R290 to R293). -/

/-- The address of the header of the region a pointer's segment holds. -/
def headerAddr (t : Thread) (ptr : Word) : Nat :=
  let g := segOf t (ptrSeg ptr)
  if segT g then twinAddress (segBase g) 0 else segBase g

/-- STAMPIN of a thread's node; a thread without a node has 0 (05 R123). -/
def stampinOf (s : State) (t : Thread) : Nat := ((t.node.bind (nodeOf s)).map (fun n => n.stampin)).getD 0

/-- STAMPIN as a thread's own access at issue finds it: after every stamped read that precedes it (05 R129). -/
def ownStampin (s : State) (t : Thread) : Nat := t.stamps.foldl (fun m x => min m x.2) (stampinOf s t)

/-- Before a stamped access is sent the issuer's L1D writes back and drops the lines of its header and its data (12 R291). -/
def flushStamped (s : State) (k : Nat) (t : Thread) (ptr : Word) (hdr a : Nat) : WbRes :=
  if isHostKey k then .done s s.clk
  else [(hdr, 16), (a, 8)].foldl (fun acc x =>
    match acc with
    | .done s1 at_ =>
      match place s t ptr 0 x.1 x.2 with
      | .ok (.dram va) =>
        match flushLine s1 (coreOf k) (partOf t) va with
        | .done s2 a2 => .done s2 (max at_ a2)
        | r => r
      | _ => acc
    | r => r) (.done s s.clk)

/-- The address lies in the output image (12 R270). -/
def onOutput (s : State) (t : Thread) (ptr : Word) (a : Nat) : Bool :=
  match place s t ptr 0 a 8 with
  | .ok (.pim l) => isOutput l
  | _ => false

/-- The common part of sread: the outcome of a refusal with the age, and of a read. -/
def sreadAct (s : State) (k : Nat) (t : Thread) (f : MForm) (stale : State → Nat → Word → Act)
    (fresh : State → Nat → Word → Act) : Act :=
  let ptr := ptrM s t f 8
  match ea t ptr 8 needSRead with
  | .error c => .trap s c ptr
  | .ok a =>
    if ptrOff ptr < 16 then .trap s 0x21 ptr
    else if viewOf t ≠ 0 ∧ onOutput s t ptr a = true then .trap s 0x43 (wd a)
    else
      wbAct (flushStamped s k t ptr (headerAddr t ptr) a) fun s _ =>
      match portRead s k t ptr 0 (headerAddr t ptr) 16 with
      | .bad e => badAct e
      | .wb r => wbAct r (fun s1 _ => .next s1)
      | .ok h =>
        let stamp := fieldOf h.bytes 0 6
        let age := (nowStamp h.s + 2 ^ 48 - stamp) % 2 ^ 48
        if fieldOf h.bytes 6 2 % 2 = 0 ∨ fieldOf h.bytes 8 4 < age then stale h.s h.lat (wd age)
        else
          match portRead h.s k t ptr 0 a 8 with
          | .bad e => badAct e
          | .wb r => wbAct r (fun s1 _ => .next s1)
          | .ok g =>
            let lat := h.lat + g.lat
            fresh (modThr g.s k (fun u => { u with stamps := u.stamps ++ [(s.clk + lat, stamp)] })) lat (wd (ofBytes g.bytes))

/-- SREAD: Q = 1 traps on stale data (12 R291). -/
def execSread (f : MForm) (s : State) : Host.Outcome State Fault Refusal :=
  run (.sread f) s fun s k t =>
    sreadAct s k t f (fun s _ age => .trap s 0x2A age) (fun s lat v => .next (scored s k lat f.d v))

/-- SREAD_STATUS: status in D, data in C (12 R291). -/
def execSreadStatus (f : MForm) (s : State) : Host.Outcome State Fault Refusal :=
  run (.sreadStatus f) s fun s k t =>
    sreadAct s k t f (fun s lat _ => .next (scored s k lat f.d 0x2A))
      (fun s lat v => .next (putScored s k (s.clk + lat) [(f.d.toNat, 0), ((tailC f.t).toNat, v)] []))

/-- What a stamped write did: performed, refused as an access, stopped at the trace ring, or behind the header's stamp. -/
inductive StampRes where
  | ok (g : Put)
  | bad (b : Bad)
  | wb (r : WbRes)
  | behind (s : State) (stamp : Nat)
  deriving DecidableEq, Repr

/-- A stamped write: the comparison with the header, the data, then the header (12 R292). -/
def stampWrite (s : State) (k : Nat) (t : Thread) (ptr : Word) (hdr a stamp : Nat) (v : Word) : StampRes :=
  match flushStamped s k t ptr hdr a with
  | .done s _ =>
    match portRead s k t ptr 1 hdr 16 with
    | .bad e => .bad e
    | .wb r => .wb r
    | .ok h =>
      let flags := fieldOf h.bytes 6 2
      if flags % 2 = 1 ∧ stamp < fieldOf h.bytes 0 6 then .behind h.s (fieldOf h.bytes 0 6)
      else
        match portWrite false h.s k t ptr a (toBytes 8 v.toNat) with
        | .bad e => .bad e
        | .wb r => .wb r
        | .ok g =>
          match portWrite false g.s k t ptr hdr (toBytes 6 stamp ++ toBytes 2 (flags / 2 * 2 + 1)) with
          | .bad e => .bad (keepState s e)
          | .wb r => .wb r
          | .ok w => .ok ⟨w.s, max g.lat w.lat, g.port || w.port⟩
  | r => .wb r

/-- SWRITE: the thread goes on once the header update is accepted; in a world, one to the output image is held with its stamp (12
R292; 16 R394). -/
def execSwrite (f : MForm) (s : State) : Host.Outcome State Fault Refusal :=
  run (.swrite f) s fun s k t =>
    let ptr := ptrM s t f 8
    let v := readG s t f.d.toNat
    match ea t ptr 8 needSWrite with
    | .error c => .trap s c ptr
    | .ok a =>
      if ptrOff ptr < 16 then .trap s 0x21 ptr
      else if viewOf t ≠ 0 ∧ onOutput s t ptr a = true then
        match holdOp s (partOf t) (viewOf t) ⟨1, a, 8, v, ownStampin s t, toBytes 8 (headerAddr t ptr), t.pc, k⟩ with
        | none => .trap s 0x42 0
        | some s1 => .next s1
      else
        match stampWrite s k t ptr (headerAddr t ptr) a (ownStampin s t) v with
        | .bad e => badAct e
        | .wb r => wbAct r (fun s1 _ => .next s1)
        | .behind s1 h => .trap s1 0x6E (wd h)
        | .ok g => .next (holdUntil (noteStore g.s k g) k (s.clk + g.lat))

end Sys2Proof.Machine
end

