-- ==== Sys2Proof/Machine/Elem.lean ====
section
/-! DEFINITION. Element formats (04 R89 to R106), tiles and their configuration (05 R119 to R121), and what every tile
instruction does around its elements: agreement, masks, locks, latencies, floating exceptions (08 R174 to R180). -/

namespace Sys2Proof.Machine

/-! Formats, by the codes of R89. -/

/-- Bits of an element. -/
def elemBits (f : Nat) : Nat :=
  match f with
  | 2 | 8 | 9 => 16
  | 3 | 10 => 32
  | 4 | 11 => 64
  | 5 => 4
  | _ => 8

def isIntFmt (f : Nat) : Bool := f ≤ 4
def isFp8Fmt (f : Nat) : Bool := f == 6 || f == 7
/-- FP16, BF16, FP32 and FP64. -/
def isFloatFmt (f : Nat) : Bool := 8 ≤ f && f ≤ 11

def fpOf (f : Nat) : FpFmt :=
  match f with
  | 5 => fp4
  | 6 => e4m3
  | 7 => e5m2
  | 8 => fp16
  | 9 => bf16
  | 10 => fp32
  | _ => fp64

/-- An integer element's value; UINT8 is unsigned. -/
def intVal (f x : Nat) : Int := if f = 1 then ((x % 256 : Nat) : Int) else sextInt x (elemBits f)

/-- The range of an integer format. -/
def intLo (f : Nat) : Int := if f = 1 then 0 else -(2 ^ (elemBits f - 1))
def intHi (f : Nat) : Int := if f = 1 then 255 else 2 ^ (elemBits f - 1) - 1

/-- An integer as an element: its low bits. -/
def intCode (f : Nat) (z : Int) : Nat := (z % 2 ^ elemBits f).toNat

/-- A scalar as one element: its low bits, bit 0 for MASK (08 R177). -/
def scalarElem (f : Nat) (w : Word) : Nat := if f = 12 then w.toNat % 2 else w.toNat % 2 ^ elemBits f

/-! Tiles. -/

def tileOf (t : Thread) (n : Nat) : Tile := t.tiles.getD n ⟨0, []⟩
def cfgFmt (c : Word) : Nat := bits c 0 4
def cfgRows (c : Word) : Nat := bits c 4 5 + 1
def cfgCols (c : Word) : Nat := bits c 9 9
def cfgScale (c : Word) : Nat := bits c 18 5
def cfgSen (c : Word) : Bool := bit c 23
def cfgBand (c : Word) : Nat := bits c 24 16
def cfgNsp (c : Word) : Nat := bits c 40 8
def cfgMeta (c : Word) : Nat := bits c 48 5

/-- Gang width of a thread's core. -/
def gangWidth (t : Thread) : Nat := bits (getSpr t rGANG) 0 3

def tileFmt (x : Tile) : Nat := cfgFmt x.cfg
def tileRows (x : Tile) : Nat := cfgRows x.cfg
def tileCols (x : Tile) : Nat := cfgCols x.cfg
def sameShape (x y : Tile) : Bool := tileRows x == tileRows y && tileCols x == tileCols y

/-- Elements of a row, of a tile; an element by number (08 R174). -/
def rowLen (g : Nat) (x : Tile) : Nat := g * tileCols x
def elemCount (g : Nat) (x : Tile) : Nat := tileRows x * rowLen g x
def elemAt (x : Tile) (n : Nat) : Nat := x.elems.getD n 0
def setElem (x : Tile) (n v : Nat) : Tile := { x with elems := x.elems.putD n 0 v }
def setElems (x : Tile) (vs : List (Nat × Nat)) : Tile := vs.foldl (fun a v => setElem a v.1 v.2) x

/-- A tile's bytes per slab, rounded up (05 R120). -/
def slabBytes (x : Tile) : Nat := (tileRows x * tileCols x * elemBits (tileFmt x) + 7) / 8

/-- A configuration word that tcfg refuses (05 R120). -/
def cfgRefused (c : Word) : Bool :=
  14 ≤ cfgFmt c || cfgCols c == 0 || 256 < cfgCols c || 2048 * 8 < cfgRows c * cfgCols c * elemBits (cfgFmt c) ||
  (cfgFmt c == 5 && (cfgCols c % 8 != 0 || !cfgSen c)) ||
  (cfgSen c && !(cfgFmt c == 5 || isFp8Fmt (cfgFmt c))) ||
  (!cfgSen c && (cfgBand c != 0 || cfgScale c != 0)) ||
  !(cfgNsp c == 0 || cfgNsp c == 8 || cfgNsp c == 16 || cfgNsp c == 32) || (cfgNsp c == 0 && cfgMeta c != 0) ||
  bits c 53 11 != 0

/-! Checks (08 R175, R178). -/

/-- The first check that fails: its cause and information. -/
def firstBad : List (Bool × Nat × Word) → Option (Nat × Word)
  | [] => none
  | (b, c, i) :: r => if b then some (c, i) else firstBad r

/-- Unconfigured tiles among those named (R178 step 2). -/
def unconfigured (t : Thread) (ns : List Nat) : List (Bool × Nat × Word) :=
  ns.map (fun n => ((tileOf t n).cfg == 0, 0x12, wd n))

/-- The mask tile, when PE is set. -/
def maskNums (f : RForm) : List Nat := if tailPe f.t then [(tailPt f.t).toNat] else []

/-- The format and the shape check of the mask tile against the masked tile (03 R71). -/
def maskFmt (t : Thread) (f : RForm) : List (Bool × Nat × Word) :=
  (maskNums f).map (fun n => (tileFmt (tileOf t n) != 12, 0x13, wd n))
def maskShape (t : Thread) (f : RForm) (x : Tile) : List (Bool × Nat × Word) :=
  (maskNums f).map (fun n => (!sameShape (tileOf t n) x, 0x14, wd n))

def badFmt (b : Bool) (n : Nat) : Bool × Nat × Word := (b, 0x13, wd n)
def badShape (b : Bool) (n : Nat) : Bool × Nat × Word := (b, 0x14, wd n)

/-- Element n is enabled (08 R176). -/
def enabledAt (t : Thread) (f : RForm) (n : Nat) : Bool :=
  match maskNums f with
  | [] => true
  | m :: _ => elemAt (tileOf t m) n % 2 == 1

/-- The enabled elements of a tile, in ascending number. -/
def enabledElems (t : Thread) (f : RForm) (x : Tile) : List Nat :=
  (upFrom 0 (elemCount (gangWidth t) x)).filter (enabledAt t f)

/-! Latencies and completion (08 R179, R180). -/

def ceilDiv (a b : Nat) : Nat := (a + b - 1) / b

/-- base + ⌈B/128⌉, doubled where an operand or result is FP64. -/
def tileLat (base : Nat) (xs : List Tile) : Nat :=
  let b := xs.foldl (fun m x => max m (slabBytes x)) 0
  (if xs.any (fun x => tileFmt x == 11) then 2 else 1) * (base + ceilDiv b 128)

/-- The largest number of 64-byte row-chunks in one slab's part of a tile (10 R242). -/
def rowChunks (x : Tile) : Nat := tileRows x * ceilDiv (tileCols x * elemBits (tileFmt x)) 512

/-- The latency of a tile access whose slowest line takes lat (10 R241, R242). -/
def tilePath (lat chunks : Nat) : Nat := if lat ≤ 10 then 10 + chunks else lat + (chunks - 1)

/-- A write of a tile passes the injection point of the tile file of every slab of the core (18 R431). -/
def injectTile (s : State) (k : Nat) (t : Thread) (n : Nat) : State :=
  (upFrom 0 (gangWidth t)).foldl (fun a j => injectAt a 1 (slabRef s (coreOf k) j).1 (t.tbase + n) [t.tbase + n]) s

/-- A tile instruction's end: the tile it writes, write-locked until completion, and those it read, read-locked (R179). -/
def tileEnd (s : State) (k lat : Nat) (writes : List (Nat × Tile)) (reads : List Nat) : State :=
  let s1 := modThr s k (fun t => { t with tiles := writes.foldl (fun a w => a.put w.1 w.2) t.tiles })
  let s2 := match thr s k with
    | none => s1
    | some t => writes.foldl (fun a w => injectTile a k t w.1) s1
  putScored s2 k (s.clk + lat) [] (writes.map (fun w => w.1) ++ reads.map readLock)

/-- A wait for a tile that an instruction names beside its fields, a scale or metadata tile (R179). -/
def lockWait (s : State) (k : Nat) (t : Thread) (ns : List (Nat × Bool)) : Option Act :=
  (ns.find? (fun n => mustWait (locksOf s k t) n.1 n.2)).map (fun n =>
    .wait s { kind := .tileLock, key := n.1, arg := if n.2 then 1 else 0, cause := 0x19, info := wd n.1 })

/-- The lowest element that raised an exception whose trap is enabled, for the cause taken (04 R96). -/
def trapElem (fpctl : Word) (cause : Nat) (fl : List (Nat × FpFlags)) : Nat :=
  let hit := fl.filter (fun x =>
    fpCause fpctl (if cause = 0x1C then x.2 &&& flagNV else x.2 &&& (flagDZ ||| flagOF)) == some cause)
  match hit with
  | [] => 0
  | x :: r => r.foldl (fun m y => min m y.1) x.1

/-- The end of an instruction that may raise floating exceptions: the flags of all its elements accumulate; with an enabled
one it writes nothing and traps at completion (04 R96; 08 R178 step 7). -/
def floatEnd (s : State) (k lat : Nat) (t : Thread) (fl : List (Nat × FpFlags)) (good : State → State) : Act :=
  let all := fl.foldl (fun a x => a ||| x.2) 0
  let s1 := modThr s k fun u => { setSpr u rFPFLAGS (accrue (getSpr u rFPFLAGS) all) with fpUntil := max u.fpUntil (s.clk + lat) }
  match fpCause (fpctlOf t) all with
  | some c => .trap (holdUntil s1 k (s.clk + lat + 4)) c (wd (trapElem (fpctlOf t) c fl % 65536))
  | none => .next (good s1)

/-- An elementwise instruction's end: results by element number. -/
def vecEnd (s : State) (k lat : Nat) (t : Thread) (d : Nat) (rs : List (Nat × Nat × FpFlags)) (reads : List Nat) : Act :=
  floatEnd s k lat t (rs.map (fun r => (r.1, r.2.2))) (fun s1 =>
    tileEnd s1 k lat [(d, setElems (tileOf t d) (rs.map (fun r => (r.1, r.2.1))))] reads)

end Sys2Proof.Machine
end

