-- ==== Sys2Proof/Machine/Tiles.lean ====
section
/-! DEFINITION. Tile configuration, tile loads and stores, indexed access, element moves (08 R183 to R187). -/

namespace Sys2Proof.Machine

/-! tcfg (08 R183). -/

/-- TCFG_WRITE: the new configuration, every element zero; it waits for the lock (08 R183). -/
def execTcfgWrite (f : RForm) (s : State) : Host.Outcome State Fault Refusal :=
  run (.tcfgWrite f) s fun s k t =>
    let c := opbImm s t f
    if cfgRefused c then .trap s 0x12 c else .next (tileEnd s k 8 [(f.d.toNat, ⟨c, []⟩)] [])

/-- TCFG_READ (08 R183). -/
def execTcfgRead (f : RForm) (s : State) : Host.Outcome State Fault Refusal :=
  run (.tcfgRead f) s fun s k t =>
    .next (putScored s k (s.clk + 4) [(f.d.toNat, (tileOf t f.a.toNat).cfg)] [readLock f.a.toNat])

/-! Whole-tile loads and stores (08 R184). -/

/-- A typed bank under n bytes at an address has another format (10 R218). -/
def bankMismatch (s : State) (fmt a n : Nat) : Bool :=
  if 0x8000000000000 ≤ a ∧ a < 0x9000000000000 then
    let c := (a - 0x8000000000000) / 2 ^ 32
    let o := a % 2 ^ 32
    (upFrom (o / 32768) ((o + n - 1) / 32768 + 1 - o / 32768)).any (fun i =>
      let r := bankNow s (bankKey s c i)
      bit r 4 && bits r 0 4 != fmt)
  else false

/-- The accesses that n bytes of elements of esz bytes make: by lines, in control space element by element, for it takes accesses of
8 bytes alone (08 R184, R194; 10 R234). -/
def elemCut (a n esz : Nat) : List (Nat × Nat) :=
  if 0xF000000000000 ≤ a then (upFrom 0 (n / max 1 esz)).map (fun i => (a + i * max 1 esz, max 1 esz)) else cut a n

/-- What the address map refuses by a trap, before anything is accessed (08 R178 step 5). -/
def placeTrap (s : State) (t : Thread) (p : Word) (kind a n esz : Nat) : Option (Nat × Word) :=
  match crossing s a n with
  | some (.trap _ cause i) => some (cause, i)
  | _ =>
    (elemCut a n esz).findSome? (fun c =>
      match place s t p kind c.1 c.2 with
      | .error (.trap _ cause i) => some (cause, i)
      | _ => none)

/-- The pointer of row r. -/
def rowPtr (p stride : Word) (r : Nat) : Word := p + wd r * stride

/-- The checks of rows in order: their addresses, or the first failure (08 R184). -/
def rowChecks (s : State) (t : Thread) (p stride : Word) (len esize fmt kind : Nat) (need : Rights) : Nat → Nat → Except (Nat × Word) (List Nat)
  | _, 0 => .ok []
  | r, rows + 1 =>
    let q := rowPtr p stride r
    match eaRow t q len need with
    | .error c => .error (c, q)
    | .ok a =>
      if q.toNat % esize ≠ 0 then .error (0x23, q)
      else
        match placeTrap s t q kind a len esize with
        | some e => .error e
        | none =>
          if bankMismatch s fmt a len then .error (0x2E, q)
          else
            match rowChecks s t p stride len esize fmt kind need (r + 1) rows with
            | .error e => .error e
            | .ok as => .ok (a :: as)

/-- The bytes an element occupies in its row: offset and size; FP4's is the byte of its pair. -/
def elemSpan (bitsE i : Nat) : Nat × Nat := if bitsE = 4 then (i / 2, 1) else (i * (bitsE / 8), bitsE / 8)
/-- An element's value in those bytes. -/
def elemFrom (bitsE i v : Nat) : Nat := if bitsE = 4 then v / 2 ^ (4 * (i % 2)) % 16 else v

/-- The elements of a row that are enabled, by logical index. -/
def rowEnabled (t : Thread) (f : RForm) (x : Tile) (r : Nat) : List Nat :=
  let len := rowLen (gangWidth t) x
  (upFrom 0 len).filter (fun i => enabledAt t f (r * len + i))

/-- A row's bytes from its elements in order. -/
def packRow (bitsE : Nat) : List Nat → Nat
  | [] => 0
  | v :: r => v % 2 ^ bitsE + 2 ^ bitsE * packRow bitsE r

/-- Loads of single elements. -/
def loadElems (s : State) (k : Nat) (t : Thread) (p : Word) (a bitsE base : Nat) :
    List Nat → List (Nat × Nat) → Nat → Except Bad (State × List (Nat × Nat) × Nat)
  | [], acc, lat => .ok (s, acc, lat)
  | i :: r, acc, lat =>
    let sp := elemSpan bitsE i
    match loadRange s k t p (a + sp.1) sp.2 with
    | .error e => .error e
    | .ok g => loadElems g.s k t p a bitsE base r (acc ++ [(base + i, elemFrom bitsE i (ofBytes g.bytes))]) (max lat g.lat)

/-- A row is accessed by lines where every element is enabled and its memory takes accesses of any size; elsewhere each element
is an access of its own (08 R194; 16 R394). -/
def wholeRow (on len a : Nat) : Bool := on == len && decide (a < 0x9000000000000)

/-- Loads rows one by one. -/
def loadRows (s : State) (k : Nat) (t : Thread) (f : RForm) (x : Tile) (p stride : Word) :
    Nat → List Nat → List (Nat × Nat) → Nat → Except Bad (State × List (Nat × Nat) × Nat)
  | _, [], acc, lat => .ok (s, acc, lat)
  | r, a :: as, acc, lat =>
    let len := rowLen (gangWidth t) x
    let e := elemBits (tileFmt x)
    let q := rowPtr p stride r
    let on := rowEnabled t f x r
    if wholeRow on.length len a then
      match loadElemsRange s k t q a (len * e / 8) (max 1 (e / 8)) with
      | .error b => .error b
      | .ok g =>
        let v := ofBytes g.bytes
        loadRows g.s k t f x p stride (r + 1) as (acc ++ on.map (fun i => (r * len + i, v / 2 ^ (e * i) % 2 ^ e))) (max lat g.lat)
    else
      match loadElems s k t q a e (r * len) on [] 0 with
      | .error b => .error b
      | .ok (s1, vs, l) => loadRows s1 k t f x p stride (r + 1) as (acc ++ vs) (max lat l)

/-- The byte at an address as the thread's core sees it, read for the nibble that a store keeps: no access of its own. -/
def keptByte (s : State) (k : Nat) (t : Thread) (p : Word) (a : Nat) : Nat :=
  match place s t p 1 a 1 with
  | .ok (.dram va) =>
    match translateAny s (portOf k) (partOf t) va with
    | some loc => (coreByte s (coreOf k) (partOf t) (viewFor t p) va loc).toNat
    | none => 0
  | .ok (.scratch _ l) => (rdMem s l).toNat
  | .ok pl => (portByte s (partOf t) (viewFor t p) (portLoc pl)).toNat
  | .error _ => 0

/-- The stores of a row's elements, as offset and bytes: FP4 nibbles by bytes, each with the nibble it keeps (08 R184). -/
def elemStores (s : State) (k : Nat) (t : Thread) (p : Word) (a bitsE : Nat) (vs : List (Nat × Nat)) : List (Nat × List Byte) :=
  if bitsE = 4 then
    ((vs.map (fun v => v.1 / 2)).eraseDups).map (fun b =>
      let nib (j : Nat) : Nat := match vs.find? (fun v => v.1 == 2 * b + j) with
        | some v => v.2 % 16
        | none => keptByte s k t p (a + b) / 16 ^ j % 16
      (b, [BitVec.ofNat 8 (nib 0 + 16 * nib 1)]))
  else vs.map (fun v => (v.1 * (bitsE / 8), toBytes (bitsE / 8) v.2))

/-- Stores one by one. -/
def storeEach (k : Nat) (t : Thread) (p : Word) (a : Nat) : List (Nat × List Byte) → Put → Except Bad Put
  | [], g => .ok g
  | x :: r, g =>
    match storeRange g.s k t p (a + x.1) x.2 with
    | .error e => .error e
    | .ok h => storeEach k t p a r ⟨h.s, max g.lat h.lat, g.port || h.port⟩

/-- Stores rows one by one. -/
def storeRows (s : State) (k : Nat) (t : Thread) (f : RForm) (x : Tile) (p stride : Word) :
    Nat → List Nat → Put → Except Bad Put
  | _, [], g => .ok g
  | r, a :: as, g =>
    let len := rowLen (gangWidth t) x
    let e := elemBits (tileFmt x)
    let q := rowPtr p stride r
    let on := rowEnabled t f x r
    let put : Except Bad Put :=
      if wholeRow on.length len a then storeElemsRange g.s k t q a (toBytes (len * e / 8) (packRow e (on.map (fun i => elemAt x (r * len + i))))) (max 1 (e / 8))
      else storeEach k t q a (elemStores g.s k t q a e (on.map (fun i => (i, elemAt x (r * len + i))))) ⟨g.s, 0, false⟩
    match put with
    | .error b => .error b
    | .ok h => storeRows s k t f x p stride (r + 1) as ⟨h.s, max g.lat h.lat, g.port || h.port⟩

/-- Sectors that no access of a tile store covers alone, and all of them cover together (10 R229). -/
def jointSectors (es : List (Nat × Nat)) : List Nat :=
  ((es.flatMap (fun e => (sectorsOf e.1 e.2).filter (fun q => !(e.1 ≤ q * 32 && q * 32 + 32 ≤ e.1 + e.2)))).eraseDups).filter (fun q =>
    (upFrom (q * 32) 32).all (fun x => es.any (fun e => e.1 ≤ x && x < e.1 + e.2)))

/-- A tile store that covers a sector by several of its accesses clears the sector's poison too, where it wrote it. -/
def coverSector (s : State) (k : Nat) (t : Thread) (v q : Nat) : State :=
  let p := partOf t
  match place s t 0 1 (q * 32) 32 with
  | .ok (.dram va) =>
    let key := l1Key (coreOf k) p v va
    if !isHostKey k && (upFrom key 32).all (fun a => ((s.l1d.get? a).map (fun b => b.dirty)).getD false) then
      { s with l1d := (upFrom key 32).foldl (fun m a => m.modify a (fun b => { b with whole := true })) s.l1d, l1Poison := s.l1Poison.del (key / 32) }
    else
      match translateAny s (portOf k) p va with
      | some loc => clearPoison s p v loc 32
      | none => s
  | .ok (.ctl _) => s
  | .ok pl => clearPoison s p (placeView pl v) (portLoc pl) 32
  | .error _ => s

def coverJoint (s : State) (k : Nat) (t : Thread) (p : Word) (es : List (Nat × Nat)) : State :=
  (jointSectors es).foldl (fun a q => coverSector a k t (viewFor t p) q) s

/-- The accesses of a tst: address and bytes. -/
def tstParts (t : Thread) (f : RForm) (x : Tile) (as : List Nat) : List (Nat × Nat) :=
  let len := rowLen (gangWidth t) x
  let e := elemBits (tileFmt x)
  (as.zip (upFrom 0 as.length)).flatMap (fun q =>
    let on := rowEnabled t f x q.2
    if on.length = len then [(q.1, len * e / 8)] else on.map (fun i => (q.1 + i * e / 8, max 1 (e / 8))))

/-- The row stride of tld and tst: register or literal; IMM16 is the displacement (08 R177). -/
def strideOf (s : State) (t : Thread) (f : RForm) : Word := opbReg s t f

/-- The checks and rows of tld and tst. -/
def rowsAct (s : State) (t : Thread) (f : RForm) (kind : Nat) (need : Rights) (go : Tile → Word → Word → List Nat → Act) : Act :=
  let d := f.d.toNat
  let x := tileOf t d
  match firstBad (unconfigured t (d :: maskNums f) ++ maskFmt t f ++ maskShape t f x) with
  | some e => .trap s e.1 e.2
  | none =>
    let e := elemBits (tileFmt x)
    let p := ptrR s t f
    let st := strideOf s t f
    match rowChecks s t p st (rowLen (gangWidth t) x * e / 8) (max 1 (e / 8)) (tileFmt x) kind need 0 (tileRows x) with
    | .error e => .trap s e.1 e.2
    | .ok as => go x p st as

/-- TLD (08 R184). -/
def execTld (f : RForm) (s : State) : Host.Outcome State Fault Refusal :=
  run (.tld f) s fun s k t =>
    rowsAct s t f 0 needR fun x p st as =>
      match loadRows s k t f x p st 0 as [] 0 with
      | .error e => badAct e
      | .ok (s1, vs, lat) => .next (tileEnd s1 k (tilePath lat (rowChunks x)) [(f.d.toNat, setElems x vs)] (maskNums f))

/-- TST (08 R184): rows in order, so that overlapping bytes keep the highest element. -/
def execTst (f : RForm) (s : State) : Host.Outcome State Fault Refusal :=
  run (.tst f) s fun s k t =>
    rowsAct s t f 1 needW fun x p st as =>
      match storeRows s k t f x p st 0 as ⟨s, 0, false⟩ with
      | .error e => badAct (keepState s e)
      | .ok g =>
        let lat := tilePath g.lat (rowChunks x)
        .next (tileEnd (noteStore (coverJoint g.s k t p (tstParts t f x as)) k { g with lat := lat }) k lat [] (f.d.toNat :: maskNums f))

/-! Indexed access (08 R185, R186). -/

/-- Formats that tscadd accepts. -/
def scaddFmt (f : Nat) : Bool := f == 3 || f == 4 || (8 ≤ f && f ≤ 11)

/-- An enabled element's access: number, pointer and address; or the first failure. -/
def indexGo (s : State) (t : Thread) (p : Word) (x b : Tile) (cause kind : Nat) (need : Rights)
    (more : Word → Nat → Option (Nat × Word)) : List Nat → Except (Nat × Word) (List (Nat × Word × Nat))
  | [] => .ok []
  | n :: r =>
    let esz := elemBits (tileFmt x) / 8
    let i := intVal (tileFmt b) (elemAt b n)
    if i < 0 ∨ (segLimit (segOf t (ptrSeg p)) : Int) < (ptrOff p : Int) + (i + 1) * esz - 1 then .error (cause, wd n)
    else
      let q := p + wdi (i * esz)
      match ea t q esz need with
      | .error c => .error (c, q)
      | .ok a =>
        match more q a with
        | some e => .error e
        | none =>
          match placeTrap s t q kind a esz esz with
          | some e => .error e
          | none =>
            if bankMismatch s (tileFmt x) a esz then .error (0x2E, q)
            else
              match indexGo s t p x b cause kind need more r with
              | .error e => .error e
              | .ok l => .ok ((n, q, a) :: l)

/-- The checks of tgather, tscatter and tscadd before any access (08 R185). -/
def indexAct (s : State) (t : Thread) (f : RForm) (cause kind : Nat) (need : Rights) (add : Bool)
    (base : Word → Nat → Option (Nat × Word)) (more : Word → Word → Nat → Option (Nat × Word))
    (go : Tile → List (Nat × Word × Nat) → Act) : Act :=
  let d := f.d.toNat
  let x := tileOf t d
  let b := tileOf t f.b.toNat
  match firstBad (unconfigured t ([d, f.b.toNat] ++ maskNums f) ++
      [badFmt (tileFmt x == 5 || (add && !scaddFmt (tileFmt x))) d,
       badFmt (tileFmt b != 3 && tileFmt b != 4) f.b.toNat] ++ maskFmt t f ++
      [badShape (!sameShape b x) f.b.toNat] ++ maskShape t f x) with
  | some e => .trap s e.1 e.2
  | none =>
    let p := ptrR s t f
    match ea t p (elemBits (tileFmt x) / 8) need with
    | .error c => .trap s c p
    | .ok a =>
      match base p a with
      | some e => .trap s e.1 e.2
      | none =>
        match indexGo s t p x b cause kind need (more p) (enabledElems t f x) with
        | .error e => .trap s e.1 e.2
        | .ok l => go x l

/-- The slowest element's path, and one clk for each eight elements of the slab with most (08 R180). -/
def indexLat (t : Thread) (x : Tile) (lat : Nat) (l : List (Nat × Word × Nat)) : Nat :=
  let len := rowLen (gangWidth t) x
  let inSlab (j : Nat) : Nat := (l.filter (fun e => e.1 % len / tileCols x == j)).length
  lat + ceilDiv ((upFrom 0 (gangWidth t)).foldl (fun m j => max m (inSlab j)) 0) 8

def gatherGo (k : Nat) (t : Thread) (esz : Nat) : State → List (Nat × Word × Nat) → List (Nat × Nat) → Nat → Except Bad (State × List (Nat × Nat) × Nat)
  | s, [], acc, lat => .ok (s, acc, lat)
  | s, (n, q, a) :: r, acc, lat =>
    match loadRange s k t q a esz with
    | .error e => .error e
    | .ok g => gatherGo k t esz g.s r (acc ++ [(n, ofBytes g.bytes)]) (max lat g.lat)

/-- TGATHER (08 R185). -/
def execTgather (f : RForm) (s : State) : Host.Outcome State Fault Refusal :=
  run (.tgather f) s fun s k t =>
    indexAct s t f 0x5B 0 needR false (fun _ _ => none) (fun _ _ _ => none) fun x l =>
      match gatherGo k t (elemBits (tileFmt x) / 8) s l [] 0 with
      | .error e => badAct e
      | .ok (s1, vs, lat) =>
        .next (tileEnd s1 k (indexLat t x lat l) [(f.d.toNat, setElems x vs)] (f.b.toNat :: maskNums f))

def scatterGo (k : Nat) (t : Thread) (esz : Nat) (x : Tile) : List (Nat × Word × Nat) → Put → Except Bad Put
  | [], g => .ok g
  | (n, q, a) :: r, g =>
    match storeRange g.s k t q a (toBytes esz (elemAt x n)) with
    | .error e => .error e
    | .ok h => scatterGo k t esz x r ⟨h.s, max g.lat h.lat, g.port || h.port⟩

/-- TSCATTER (08 R185): in ascending element number, so that a shared target keeps the highest. -/
def execTscatter (f : RForm) (s : State) : Host.Outcome State Fault Refusal :=
  run (.tscatter f) s fun s k t =>
    indexAct s t f 0x5C 1 needW false (fun _ _ => none) (fun _ _ _ => none) fun x l =>
      match scatterGo k t (elemBits (tileFmt x) / 8) x l ⟨s, 0, false⟩ with
      | .error e => badAct (keepState s e)
      | .ok g =>
        let lat := indexLat t x g.lat l
        let es := l.map (fun e => (e.2.2, elemBits (tileFmt x) / 8))
        .next (tileEnd (noteStore (coverJoint g.s k t (ptrR s t f) es) k { g with lat := lat }) k lat [] ([f.d.toNat, f.b.toNat] ++ maskNums f))

/-- Ranges that have no atomic port: the PIM, twin-buffer space and control space; in a world the output image has its own cause (08
R185; 12 R270). -/
def noAtomic (s : State) (t : Thread) (q : Word) (a n : Nat) : Option (Nat × Word) :=
  if noAtomicRange a = false then none
  else
    match place s t q 2 a n with
    | .ok (.pim l) => if isOutput l && viewOf t != 0 then some (0x43, wd a) else some (0x2B, q)
    | _ => some (0x2B, q)

/-- An element added into its target (08 R186). -/
def scaddValue (fmt rm m b : Nat) : Nat := updateValue fmt rm m b

/-- Atomic adds in ascending element number; nothing is done where one of them is refused. -/
def scaddGo (k : Nat) (t : Thread) (x : Tile) (ordered : Bool) (base : Word) : List (Nat × Word × Nat) → State → Nat → PortRes
  | [], s, lat => .ok ⟨s, 0, 0, 0, lat⟩
  | (n, q, a) :: r, s, lat =>
    let fmt := tileFmt x
    let esz := elemBits fmt / 8
    match atomicWord s k t q a esz with
    | .ok w =>
      let rm := ctlRm (fpctlOf t)
      if ordered then
        match thr w.s k with
        | none => .bad (.trap s 0x3B base)
        | some u =>
          match orderedAt w.s k u a fmt w.loc (wd (elemAt x n)) w.view with
          | .error c => .bad (.trap s c base)
          | .ok s1 => scaddGo k t x ordered base r s1 (max lat w.lat)
      else
        let m := wordAt w (partOf t) esz
        scaddGo k t x ordered base r (setWord w (partOf t) esz (scaddValue fmt rm m (elemAt x n))) (max lat w.lat)
    | e => e

/-- A line's write-back that stops a tscadd leaves no element added; it is held as it was, to be judged once (11 R257, R258). -/
def keepWb (s : State) : WbRes → WbRes
  | .done s1 at_ => .done s1 at_
  | .held e q => .held { s with heldWbs := s.heldWbs ++ e.heldWbs.filter (fun x => !s.heldWbs.contains x),
                                heldRecs := e.heldRecs.foldl (fun a x => a.put x.1 x.2) s.heldRecs } q
  | .diverge _ q => .diverge s q
  | .failed e a => .failed (foundIn s e) a

/-- tscadd: the outcome of either form. -/
def scaddAct (s : State) (k : Nat) (t : Thread) (f : RForm) (ordered : Bool) : Act :=
  let p := partOf t
  indexAct s t f 0x5C 2 needAtomic true
    (fun q a => if ordered && (boundTo s p a).isNone then some (0x3A, q) else none)
    (fun base q a =>
      match noAtomic s t q a (elemBits (tileFmt (tileOf t f.d.toNat)) / 8) with
      | some e => some e
      | none =>
        if ordered then
          match boundTo s p a with
          | none => some (0x3A, base)
          | some obj => if (t.held.get? obj).isNone then some (0x3B, base) else none
        else none)
    fun x l =>
      match scaddGo k t x ordered (ptrR s t f) l s 0 with
      | .ok w =>
        let lat := indexLat t x w.lat l
        .next (tileEnd (noteStore w.s k ⟨w.s, lat, false⟩) k lat [] ([f.d.toNat, f.b.toNat] ++ maskNums f))
      | .bad e => badAct (keepState s e)
      | .wb r => wbAct (keepWb s r) (fun s1 _ => .next s1)
      | .down _ loc => .wait s { kind := .unit, key := sliceOf loc }

/-- TSCADD_U (08 R186). -/
def execTscaddU (f : RForm) (s : State) : Host.Outcome State Fault Refusal :=
  run (.tscaddU f) s fun s k t => scaddAct s k t f false

/-- TSCADD_O (08 R186; 11 R264). -/
def execTscaddO (f : RForm) (s : State) : Host.Outcome State Fault Refusal :=
  run (.tscaddO f) s fun s k t => scaddAct s k t f true

/-! Element moves (08 R187). -/

/-- A selector that tmovr and tmovs refuse, and the element it names. -/
def selBad (t : Thread) (x : Tile) (v : Word) : Bool :=
  bits v 15 49 != 0 || tileRows x ≤ bits v 10 5 || rowLen (gangWidth t) x ≤ bits v 0 10
def selElem (t : Thread) (x : Tile) (v : Word) : Nat := bits v 10 5 * rowLen (gangWidth t) x + bits v 0 10

/-- TMOVR (08 R187). -/
def execTmovr (f : RForm) (s : State) : Host.Outcome State Fault Refusal :=
  run (.tmovr f) s fun s k t =>
    let d := f.d.toNat
    let x := tileOf t d
    let v := opbImm s t f
    match firstBad (unconfigured t (d :: maskNums f) ++ maskFmt t f ++ maskShape t f x ++ [(selBad t x v, 0x14, v)]) with
    | some e => .trap s e.1 e.2
    | none =>
      let n := selElem t x v
      let y := if enabledAt t f n then setElem x n (scalarElem (tileFmt x) (readG s t f.a.toNat)) else x
      .next (tileEnd s k 8 [(d, y)] (maskNums f))

/-- TMOVS: the element zero- or sign-extended (08 R187). -/
def execTmovs (f : RForm) (s : State) : Host.Outcome State Fault Refusal :=
  run (.tmovs f) s fun s k t =>
    let a := f.a.toNat
    let x := tileOf t a
    let v := opbImm s t f
    match firstBad (unconfigured t (a :: maskNums f) ++ maskFmt t f ++ maskShape t f x ++ [(selBad t x v, 0x14, v)]) with
    | some e => .trap s e.1 e.2
    | none =>
      let n := selElem t x v
      let e := elemAt x n
      let r := if f.q then sext e (elemBits (tileFmt x)) else wd e
      .next (putScored s k (s.clk + 4) (if enabledAt t f n then [(f.d.toNat, r)] else []) ((a :: maskNums f).map readLock))

/-- TBCAST (08 R187). -/
def execTbcast (f : RForm) (s : State) : Host.Outcome State Fault Refusal :=
  run (.tbcast f) s fun s k t =>
    let d := f.d.toNat
    let x := tileOf t d
    let v := scalarElem (tileFmt x) (opbImm s t f)
    match firstBad (unconfigured t (d :: maskNums f) ++ maskFmt t f ++ maskShape t f x) with
    | some e => .trap s e.1 e.2
    | none =>
      .next (tileEnd s k (tileLat 8 [x]) [(d, setElems x ((enabledElems t f x).map (fun n => (n, v))))] (maskNums f))

end Sys2Proof.Machine
end

