-- ==== Sys2Proof/Machine/Vector.lean ====
section
/-! DEFINITION. Elementwise instructions (08 R188 to R193) and the roots and powers of 09 R198. -/

namespace Sys2Proof.Machine

/-- Formats the elementwise arithmetic accepts: the integers and the four floating formats (08 R188). -/
def arithFmt (f : Nat) : Bool := isIntFmt f || isFloatFmt f

/-- Source B of an elementwise instruction at element n: a tile's element, or the scalar as an element of format g. -/
def elemB (s : State) (t : Thread) (f : RForm) (g n : Nat) : Nat :=
  if f.q then scalarElem g (opbImm s t f) else elemAt (tileOf t f.b.toNat) n

/-- Tile numbers of the sources, the mask last. -/
def vecNums (f : RForm) : List Nat := [f.a.toNat] ++ (if f.q then [] else [f.b.toNat]) ++ maskNums f

/-- The checks of an instruction whose D, A and tile B agree in format and shape (R175), and whose format is accepted. -/
def agreeChecks (t : Thread) (f : RForm) (ok : Nat → Bool) : List (Bool × Nat × Word) :=
  let d := f.d.toNat
  let x := tileOf t d
  let a := tileOf t f.a.toNat
  let b := tileOf t f.b.toNat
  unconfigured t (d :: vecNums f) ++
  [badFmt (!ok (tileFmt x)) d, badFmt (tileFmt a != tileFmt x) f.a.toNat, badFmt (!f.q && tileFmt b != tileFmt x) f.b.toNat] ++
  maskFmt t f ++
  [badShape (!sameShape a x) f.a.toNat, badShape (!f.q && !sameShape b x) f.b.toNat] ++ maskShape t f x

/-- An elementwise operation on every enabled element, from the element's number and the two codes; extra names tiles read
beside A and B. -/
def vecOpWith (s : State) (k : Nat) (t : Thread) (f : RForm) (base : Nat) (extra : List Nat) (checks : List (Bool × Nat × Word))
    (op : Nat → Nat → Nat → FpRes) : Act :=
  match firstBad checks with
  | some e => .trap s e.1 e.2
  | none =>
    let d := f.d.toNat
    let x := tileOf t d
    let a := tileOf t f.a.toNat
    let fa := tileFmt a
    let rs := (enabledElems t f x).map (fun n =>
      let r := op n (elemAt a n) (elemB s t f fa n)
      (n, r.code, r.flags))
    vecEnd s k (tileLat base ([x, a] ++ (if f.q then [] else [tileOf t f.b.toNat]) ++ extra.map (tileOf t))) t d rs (vecNums f ++ extra)

def vecOp (s : State) (k : Nat) (t : Thread) (f : RForm) (base : Nat) (checks : List (Bool × Nat × Word))
    (op : Nat → Nat → Nat → FpRes) : Act := vecOpWith s k t f base [] checks op

/-- A floating operation with FTZ at FP32 (04 R95). -/
def flushed (fpctl : Word) (f : Nat) (op : FpFmt → Nat → Nat → Nat → FpRes) (a b : Nat) : FpRes :=
  let m := fpOf f
  let z := ctlFtz fpctl
  flushOut m z (op m (ctlRm fpctl) (flushIn m z a) (flushIn m z b))

/-- An integer result: its low bits, or clamped to the format's range (04 R90). -/
def intRes8 (f : Nat) (sat : Bool) (z : Int) : FpRes :=
  ⟨intCode f (if sat then clampInt (intLo f) (intHi f) z else z), 0⟩

/-- SAT on a floating format (08 R188): no value is named, so TINFO has the layout of 03 R73: SAT is bit 0 of word 1. -/
def satBad (i : Instr) (t : Thread) (f : RForm) : List (Bool × Nat × Word) :=
  [(modU f.t && !isIntFmt (tileFmt (tileOf t f.d.toNat)), 0x07, fieldInfo i 1 0)]

/-- vadd, vsub and vmul. -/
def vecArith (i : Instr) (s : State) (k : Nat) (t : Thread) (f : RForm) (iop : Int → Int → Int) (fop : FpFmt → Nat → Nat → Nat → FpRes) : Act :=
  let g := tileFmt (tileOf t f.d.toNat)
  vecOp s k t f 8 (agreeChecks t f arithFmt ++ satBad i t f) fun _ a b =>
    if isIntFmt g then intRes8 g (modU f.t) (iop (intVal g a) (intVal g b)) else flushed (fpctlOf t) g fop a b

/-- VADD (08 R188). -/
def execVadd (f : RForm) (s : State) : Host.Outcome State Fault Refusal :=
  run (.vadd f) s fun s k t => vecArith (.vadd f) s k t f (fun x y => x + y) fpAdd

/-- VSUB (08 R188). -/
def execVsub (f : RForm) (s : State) : Host.Outcome State Fault Refusal :=
  run (.vsub f) s fun s k t => vecArith (.vsub f) s k t f (fun x y => x - y) fpSub

/-- VMUL (08 R188). -/
def execVmul (f : RForm) (s : State) : Host.Outcome State Fault Refusal :=
  run (.vmul f) s fun s k t => vecArith (.vmul f) s k t f (fun x y => x * y) fpMul

/-- VFMA: x × y + D(n), one rounding; floating formats only (08 R188). -/
def execVfma (f : RForm) (s : State) : Host.Outcome State Fault Refusal :=
  run (.vfma f) s fun s k t =>
    let x := tileOf t f.d.toNat
    let g := tileFmt x
    vecOp s k t f 8 (agreeChecks t f isFloatFmt) fun n a b =>
      flushed (fpctlOf t) g (fun m rm a b => fpFma m rm a b (flushIn m (ctlFtz (fpctlOf t)) (elemAt x n))) a b

/-- vmin and vmax. -/
def vecMinMax (s : State) (k : Nat) (t : Thread) (f : RForm) (isMax : Bool) : Act :=
  let g := tileFmt (tileOf t f.d.toNat)
  vecOp s k t f 8 (agreeChecks t f arithFmt) fun _ a b =>
    if isIntFmt g then intRes8 g false (if (intVal g a ≤ intVal g b) != isMax then intVal g a else intVal g b)
    else flushed (fpctlOf t) g (fun m _ a b => fpMinMax m isMax a b) a b

/-- VMIN (08 R188). -/
def execVmin (f : RForm) (s : State) : Host.Outcome State Fault Refusal :=
  run (.vmin f) s fun s k t => vecMinMax s k t f false

/-- VMAX (08 R188). -/
def execVmax (f : RForm) (s : State) : Host.Outcome State Fault Refusal :=
  run (.vmax f) s fun s k t => vecMinMax s k t f true

/-- vlog's operations on bit patterns (08 R189). -/
def vlogVal (op w a b : Nat) : Nat :=
  match op with
  | 0 => a &&& b
  | 1 => a ||| b
  | 2 => a ^^^ b
  | _ => a &&& (2 ^ w - 1 - b % 2 ^ w)

/-- VLOG (08 R189). -/
def execVlog (f : RForm) (s : State) : Host.Outcome State Fault Refusal :=
  run (.vlog f) s fun s k t =>
    let g := tileFmt (tileOf t f.d.toNat)
    let w := if g = 12 then 1 else elemBits g
    vecOp s k t f 8 (agreeChecks t f (fun _ => true)) fun _ a b => ⟨vlogVal (tailMod f.t % 4) w (a % 2 ^ w) (b % 2 ^ w), 0⟩

/-- The checks of an instruction of D and A alone. -/
def agreeTwo (t : Thread) (f : RForm) (ok : Nat → Bool) : List (Bool × Nat × Word) :=
  let d := f.d.toNat
  let x := tileOf t d
  let a := tileOf t f.a.toNat
  unconfigured t ([d, f.a.toNat] ++ maskNums f) ++ [badFmt (!ok (tileFmt x)) d, badFmt (tileFmt a != tileFmt x) f.a.toNat] ++
  maskFmt t f ++ [badShape (!sameShape a x) f.a.toNat] ++ maskShape t f x

/-- An operation on every enabled element of A. -/
def vecOne (s : State) (k : Nat) (t : Thread) (f : RForm) (base : Nat) (checks : List (Bool × Nat × Word)) (op : Nat → FpRes) : Act :=
  match firstBad checks with
  | some e => .trap s e.1 e.2
  | none =>
    let d := f.d.toNat
    let x := tileOf t d
    let a := tileOf t f.a.toNat
    let rs := (enabledElems t f x).map (fun n =>
      let r := op (elemAt a n)
      (n, r.code, r.flags))
    vecEnd s k (tileLat base [x, a]) t d rs (f.a.toNat :: maskNums f)

/-- VSHR: logical, or arithmetic with Q = 1 (08 R190). -/
def execVshr (f : RForm) (s : State) : Host.Outcome State Fault Refusal :=
  run (.vshr f) s fun s k t =>
    let g := tileFmt (tileOf t f.d.toNat)
    let n := opbImm s t f
    vecOne s k t f 8 (agreeTwo t f isIntFmt ++ [(decide (elemBits g ≤ n.toNat), 0x07, n)]) fun a =>
      if f.q then ⟨intCode g (sextInt a (elemBits g) / 2 ^ n.toNat), 0⟩ else ⟨a / 2 ^ n.toNat, 0⟩

/-- The condition of vcmp on two elements of a format (08 R191). -/
def vcmpVal (g c a b : Nat) : Bool × FpFlags :=
  if isIntFmt g then
    let x := intVal g a
    let y := intVal g b
    (match c with
      | 0 => decide (x < y)
      | 1 => decide (x ≤ y)
      | 2 => x == y
      | 3 => x != y
      | _ => false, 0)
  else
    match c with
    | 3 =>
      let r := fpCompare (fpOf g) 2 a b
      (!r.1, r.2)
    | 4 => fpCompare (fpOf g) 3 a b
    | c => fpCompare (fpOf g) c a b

/-- VCMP: D is a MASK tile of A's shape (08 R191). -/
def execVcmp (f : RForm) (s : State) : Host.Outcome State Fault Refusal :=
  run (.vcmp f) s fun s k t =>
    let d := f.d.toNat
    let x := tileOf t d
    let a := tileOf t f.a.toNat
    let b := tileOf t f.b.toNat
    let g := tileFmt a
    let z := ctlFtz (fpctlOf t)
    vecOp s k t f 8
      (unconfigured t (d :: vecNums f) ++
        [badFmt (tileFmt x != 12) d, badFmt (!(arithFmt g || isFp8Fmt g)) f.a.toNat, badFmt (!f.q && tileFmt b != g) f.b.toNat] ++
        maskFmt t f ++ [badShape (!sameShape a x) d, badShape (!f.q && !sameShape b a) f.b.toNat] ++ maskShape t f x)
      fun _ a b =>
        let r := vcmpVal g (tailMod f.t) (if g = 10 then flushIn fp32 z a else a) (if g = 10 then flushIn fp32 z b else b)
        ⟨if r.1 then 1 else 0, r.2⟩

/-- VSEL: the condition tile in C (08 R192). -/
def execVsel (f : RForm) (s : State) : Host.Outcome State Fault Refusal :=
  run (.vsel f) s fun s k t =>
    let c := (tailC f.t).toNat
    let d := f.d.toNat
    let x := tileOf t d
    let a := tileOf t f.a.toNat
    let b := tileOf t f.b.toNat
    let ct := tileOf t c
    vecOpWith s k t f 8 [c]
      (unconfigured t ([d, f.a.toNat] ++ (if f.q then [] else [f.b.toNat]) ++ [c] ++ maskNums f) ++
        [badFmt (tileFmt a != tileFmt x) f.a.toNat, badFmt (!f.q && tileFmt b != tileFmt x) f.b.toNat, badFmt (tileFmt ct != 12) c] ++
        maskFmt t f ++
        [badShape (!sameShape a x) f.a.toNat, badShape (!f.q && !sameShape b x) f.b.toNat, badShape (!sameShape ct x) c] ++ maskShape t f x)
      (fun n a b => ⟨if elemAt ct n % 2 = 1 then a else b, 0⟩)

/-- Conversion of one element (08 R193). An FP32 subnormal is a zero under FTZ, also on its way to FP8 (R193's last line, against 04
R98; Log 93); to BF16 as fcvt (Log 23). -/
def vcvtVal (t : Thread) (m from_ into x : Nat) : FpRes :=
  let rm := cvtRm t m
  let z := ctlFtz (fpctlOf t)
  let sat8 := ctlSat8 (fpctlOf t)
  let src := if from_ = 10 then flushIn fp32 z x else x
  if isIntFmt from_ then
    let v := intVal from_ x
    if isIntFmt into then ⟨intCode into (clampInt (intLo into) (intHi into) v), 0⟩
    else if isFp8Fmt into then fpRound8 (fpOf into) rm sat8 (decide (v < 0)) v.natAbs 1
    else fpOfInt (fpOf into) rm v
  else
    let v := fpDecode (fpOf from_) src
    if isIntFmt into then
      let r := fpToInt rm (intLo into) (intHi into) v
      ⟨intCode into r.1, r.2⟩
    else if from_ = into then
      match v with
      | .nan sn => ⟨(fpOf into).nan, nvIf sn⟩
      | _ => ⟨src, 0⟩
    else if isFp8Fmt into then fpTo8 (fpOf into) rm sat8 v
    else if from_ = 10 ∧ into = 9 then toBf16 rm v
    else flushOut (fpOf into) z (fpConvert (fpOf into) rm v)

/-- VCVT (08 R193). -/
def execVcvt (f : RForm) (s : State) : Host.Outcome State Fault Refusal :=
  run (.vcvt f) s fun s k t =>
    let d := f.d.toNat
    let x := tileOf t d
    let a := tileOf t f.a.toNat
    let ok (g : Nat) : Bool := arithFmt g || isFp8Fmt g
    vecOne s k t f 8
      (unconfigured t ([d, f.a.toNat] ++ maskNums f) ++ [badFmt (!ok (tileFmt x)) d, badFmt (!ok (tileFmt a)) f.a.toNat] ++
        maskFmt t f ++ [badShape (!sameShape a x) f.a.toNat] ++ maskShape t f x)
      (vcvtVal t (tailMod f.t) (tileFmt a) (tileFmt x))

/-- VRECIP: the correctly rounded reciprocal (08 R188). -/
def execVrecip (f : RForm) (s : State) : Host.Outcome State Fault Refusal :=
  run (.vrecip f) s fun s k t =>
    let g := tileFmt (tileOf t f.d.toNat)
    vecOne s k t f 12 (agreeTwo t f isFloatFmt) fun a =>
      flushed (fpctlOf t) g (fun m rm a _ => fpDiv m rm (fpOfInt m 0 1).code a) a 0

/-- VRSQRT (09 R198). -/
def execVrsqrt (f : RForm) (s : State) : Host.Outcome State Fault Refusal :=
  run (.vrsqrt f) s fun s k t =>
    let g := tileFmt (tileOf t f.d.toNat)
    vecOne s k t f 12 (agreeTwo t f isFloatFmt) fun a => flushed (fpctlOf t) g (fun m rm a _ => fpRsqrt m rm a) a 0

/-- VEXP2 (09 R198). -/
def execVexp2 (f : RForm) (s : State) : Host.Outcome State Fault Refusal :=
  run (.vexp2 f) s fun s k t =>
    let g := tileFmt (tileOf t f.d.toNat)
    vecOne s k t f 12 (agreeTwo t f isFloatFmt) fun a => flushed (fpctlOf t) g (fun m rm a _ => fpExp2 m rm a) a 0

end Sys2Proof.Machine
end

