-- ==== Sys2Proof/Machine/Reduce.lean ====
section
/-! DEFINITION. Reductions, argmax, block scales, quantisation and its inverse (04 R99 to R105, R109, R110; 09 R199 to
R204). -/

namespace Sys2Proof.Machine

/-! vred (09 R199, R200). -/

/-- Formats D may have for A's (09 R199). -/
def vredPair (a d : Nat) : Bool :=
  if a = 1 then d == 1 || (2 ≤ d && d ≤ 4)
  else if a = 0 then d == 0 || (2 ≤ d && d ≤ 4)
  else if isIntFmt a then isIntFmt d && a ≤ d
  else if a = 8 ∨ a = 9 then d == a || d == 10 || d == 11
  else if a = 10 then d == 10 || d == 11
  else d == 11

/-- An element of A in D's format, exactly; a signalling NaN stays signalling (09 R200). -/
def widen (fpctl : Word) (a d x : Nat) : Nat :=
  if isIntFmt a then intCode d (intVal a x)
  else
    let y := if a = 10 then flushIn fp32 (ctlFtz fpctl) x else x
    if a = d then y
    else
      match fpDecode (fpOf a) y with
      | .nan true => (fpOf d).maxFin + 2
      | v => (fpConvert (fpOf d) 0 v).code

/-- One step of a reduction in D's format: 0 add, 1 min, 2 max. -/
def redStep (fpctl : Word) (d op a b : Nat) : FpRes :=
  if isIntFmt d then
    let x := intVal d a
    let y := intVal d b
    match op with
    | 0 => ⟨intCode d (x + y), 0⟩
    | 1 => ⟨intCode d (if x ≤ y then x else y), 0⟩
    | _ => ⟨intCode d (if x ≤ y then y else x), 0⟩
  else
    match op with
    | 0 => flushed fpctl d fpAdd a b
    | 1 => flushed fpctl d (fun m _ x y => fpMinMax m false x y) a b
    | _ => flushed fpctl d (fun m _ x y => fpMinMax m true x y) a b

/-- A partial result: its code and the lowest element that feeds it. -/
abbrev RedVal := Nat × Nat

/-- Results and the flags of the steps, each under the element 09 R200 names for it. -/
def redOrdered (fpctl : Word) (d op : Nat) : List RedVal → RedVal → List (Nat × FpFlags) → RedVal × List (Nat × FpFlags)
  | [], acc, fl => (acc, fl)
  | x :: r, acc, fl =>
    let s := redStep fpctl d op acc.1 x.1
    redOrdered fpctl d op r (s.code, acc.2) (fl ++ [(x.2, s.flags)])

/-- One level of the tree: neighbours in pairs, an odd last one unchanged (04 R109). -/
def redLevel (fpctl : Word) (d op : Nat) : List RedVal → List RedVal × List (Nat × FpFlags)
  | a :: b :: r =>
    let s := redStep fpctl d op a.1 b.1
    let t := redLevel fpctl d op r
    ((s.code, a.2) :: t.1, (b.2, s.flags) :: t.2)
  | l => (l, [])

def redTree (fpctl : Word) (d op : Nat) : Nat → List RedVal → List (Nat × FpFlags) → Option RedVal × List (Nat × FpFlags)
  | 0, l, fl => (l.head?, fl)
  | fuel + 1, l, fl =>
    match l with
    | [] => (none, fl)
    | [x] => (some x, fl)
    | _ =>
      let t := redLevel fpctl d op l
      redTree fpctl d op fuel t.1 (fl ++ t.2)

/-- The identity of an operation in D's format. -/
def redIdentity (d op : Nat) : Nat :=
  match op with
  | 0 => 0
  | 1 => if isIntFmt d then intCode d (intHi d) else (fpOf d).maxFin + 1
  | _ => if isIntFmt d then intCode d (intLo d) else 2 ^ (elemBits d - 1) + (fpOf d).maxFin + 1

/-- The enabled elements of row r of A in slab j, in ascending column. -/
def slabElems (t : Thread) (f : RForm) (x : Tile) (r j : Nat) : List Nat :=
  let cols := tileCols x
  (upFrom (r * rowLen (gangWidth t) x + j * cols) cols).filter (enabledAt t f)

/-- The result of one row and the flags of its steps. One element alone makes no step: a NaN is written as the canonical one and
raises no flag (04 R92; Log 65). -/
def redRow (t : Thread) (f : RForm) (x : Tile) (d op : Nat) (ordered : Bool) (r : Nat) : Nat × List (Nat × FpFlags) :=
  let c := fpctlOf t
  let val (n : Nat) : RedVal := (widen c (tileFmt x) d (elemAt x n), n)
  let slabs := (upFrom 0 (gangWidth t)).map (fun j => (slabElems t f x r j).map val)
  let done : Option RedVal × List (Nat × FpFlags) :=
    if ordered then
      match slabs.flatten with
      | [] => (none, [])
      | v :: rest =>
        let o := redOrdered c d op rest v []
        (some o.1, o.2)
    else
      let tops := slabs.map (fun l => redTree c d op (l.length + 1) l [])
      redTree c d op (tops.length + 1) (tops.filterMap (fun q => q.1)) (tops.flatMap (fun q => q.2))
  match done.1 with
  | none => (redIdentity d op, [])
  | some v =>
    if done.2.isEmpty && isFloatFmt d then
      let o := flushOut (fpOf d) (ctlFtz c) ⟨if (fpDecode (fpOf d) v.1).isNan then (fpOf d).nan else v.1, 0⟩
      (o.code, [(v.2, o.flags)])
    else (v.1, done.2)

/-- ⌈log2 n⌉. -/
def log2Up (n : Nat) : Nat := if n ≤ 1 then 0 else (n - 1).log2 + 1

/-- L of 09 R197. -/
def treeLevels (t : Thread) (f : RForm) (x : Tile) : Nat :=
  let n := (upFrom 0 (tileRows x)).foldl (fun m r =>
    (upFrom 0 (gangWidth t)).foldl (fun m j => max m (slabElems t f x r j).length) m) 0
  log2Up n + (gangWidth t).log2

/-- The shape that vred and vargmax give D: A's rows, one column. -/
def columnOf (d a : Tile) : Bool := tileRows d == tileRows a && tileCols d == 1

/-- One value for each row, written to every element of the row of D. -/
def rowResults (t : Thread) (rows : List Nat) : List (Nat × Nat) :=
  let g := gangWidth t
  (rows.zipIdx).flatMap (fun q => (upFrom 0 g).map (fun j => (q.2 * g + j, q.1)))

/-- VRED (09 R199, R200). -/
def execVred (f : RForm) (s : State) : Host.Outcome State Fault Refusal :=
  run (.vred f) s fun s k t =>
    let d := f.d.toNat
    let a := f.a.toNat
    let x := tileOf t d
    let y := tileOf t a
    match firstBad (unconfigured t ([d, a] ++ maskNums f) ++
        [badFmt (!arithFmt (tileFmt y)) a, badFmt (!vredPair (tileFmt y) (tileFmt x)) d] ++ maskFmt t f ++
        [badShape (!columnOf x y) d] ++ maskShape t f y) with
    | some e => .trap s e.1 e.2
    | none =>
      let op := tailMod f.t
      let rows := (upFrom 0 (tileRows y)).map (redRow t f y (tileFmt x) op f.q)
      let extra := if f.q && op == 0 then 4 * rowLen (gangWidth t) y else 5 * treeLevels t f y
      let b := max (slabBytes x) (slabBytes y)
      let lat := (if tileFmt x == 11 || tileFmt y == 11 then 2 else 1) * (8 + ceilDiv b 128 + extra)
      floatEnd s k lat t (rows.flatMap (fun r => r.2)) (fun s1 =>
        tileEnd s1 k lat [(d, setElems x (rowResults t (rows.map (fun r => r.1))))] (a :: maskNums f))

/-! vargmax (09 R201; 04 R110). -/

/-- A candidate's value: NaN, or comparable; a subnormal FP32 counts as zero under FTZ (04 R95). -/
def argVal (fpctl : Word) (fmt x : Nat) : FpVal :=
  if isIntFmt fmt then
    let z := intVal fmt x
    .fin (decide (z < 0)) z.natAbs 1
  else fpDecode (fpOf fmt) (flushIn (fpOf fmt) (ctlFtz fpctl) x)

/-- Candidate (i, a) is chosen over (j, b). -/
def argBetter (seed : Word) (i : Nat) (a : FpVal) (j : Nat) (b : FpVal) : Bool :=
  let hash := (tieHash seed (wd i)).toNat < (tieHash seed (wd j)).toNat
  if a.isNan then b.isNan && hash
  else b.isNan || fpLtVal b a || (fpEqVal a b && hash)

def argRow (t : Thread) (f : RForm) (x : Tile) (r : Nat) : Nat :=
  let len := rowLen (gangWidth t) x
  let seed := getSpr t rTIESEED
  let best := (rowEnabled t f x r).foldl (fun b i =>
    let v := argVal (fpctlOf t) (tileFmt x) (elemAt x (r * len + i))
    match b with
    | none => some (i, v)
    | some (j, w) => if argBetter seed i v j w then some (i, v) else b) none
  match best with
  | some (i, _) => i
  | none => 2 ^ 32 - 1

/-- VARGMAX (09 R201). -/
def execVargmax (f : RForm) (s : State) : Host.Outcome State Fault Refusal :=
  run (.vargmax f) s fun s k t =>
    let d := f.d.toNat
    let a := f.a.toNat
    let x := tileOf t d
    let y := tileOf t a
    match firstBad (unconfigured t ([d, a] ++ maskNums f) ++
        [badFmt (!(arithFmt (tileFmt y) || isFp8Fmt (tileFmt y))) a, badFmt (tileFmt x != 3) d] ++ maskFmt t f ++
        [badShape (!columnOf x y) d] ++ maskShape t f y) with
    | some e => .trap s e.1 e.2
    | none =>
      let b := max (slabBytes x) (slabBytes y)
      let lat := (if tileFmt y == 11 then 2 else 1) * (8 + ceilDiv b 128 + 5 * treeLevels t f y)
      .next (tileEnd s k lat [(d, setElems x (rowResults t ((upFrom 0 (tileRows y)).map (argRow t f y))))] (a :: maskNums f))

/-! Scales (04 R101 to R103). -/

/-- Columns of a scale tile per slab. -/
def scaleCols (x : Tile) : Nat := ceilDiv (tileCols x) 8

/-- The checks of the scale tile of tile n, and of its BAND when it is read (04 R102, R103; Log 15). A scale tile outside the
window or unconfigured traps at this stage (Log 72). -/
def scaleChecks (t : Thread) (n : Nat) (band : Bool) : List (Bool × Nat × Word) :=
  let x := tileOf t n
  if cfgSen x.cfg then
    let m := cfgScale x.cfg
    let y := tileOf t m
    [(decide (t.tcount ≤ m), 0x11, wd m), (y.cfg == 0, 0x12, wd m),
     (tileFmt y != 13 || tileRows y != tileRows x || tileCols y != scaleCols x, 0x15, wd m),
     (band && (32768 ≤ cfgBand x.cfg || cfgBand x.cfg == 0x7F80), 0x15, wd n)]
  else []

/-- The wait for scale and metadata tiles comes first (08 R178 step 1), then the checks. -/
def lockThen (s : State) (k : Nat) (t : Thread) (locks : List (Nat × Bool)) (checks : List (Bool × Nat × Word)) (go : Unit → Act) : Act :=
  match lockWait s k t locks with
  | some act => act
  | none =>
    match firstBad checks with
    | some e => .trap s e.1 e.2
    | none => go ()

/-- The scale tile of tile n as a lock, where its configuration names one. -/
def scaleLock (t : Thread) (n : Nat) (writes : Bool) : List (Nat × Bool) :=
  if cfgSen (tileOf t n).cfg then [(cfgScale (tileOf t n).cfg, writes)] else []

/-- The element number of a block's scale byte for element n of tile x. -/
def scaleElem (g : Nat) (x : Tile) (n : Nat) : Nat :=
  let len := rowLen g x
  n / len * (g * scaleCols x) + n % len / tileCols x * scaleCols x + n % tileCols x / 8

/-- The exact value of an element with its block and band scales, and the flags of a NaN it makes (04 R102, R105; 09 R203). -/
def scaledVal (t : Thread) (g : Nat) (x : Tile) (n : Nat) : FpExact :=
  let v := fpDecode (fpOf (tileFmt x)) (elemAt x n)
  if cfgSen x.cfg then
    match fpDecode bf16 (cfgBand x.cfg), fpDecode e3m5 (elemAt (tileOf t (cfgScale x.cfg)) (scaleElem g x n)) with
    | .nan _, _ => ⟨.nan false, 0⟩
    | b, sc => 
      let m := exactMul sc b
      let p := exactMul v m.val
      ⟨p.val, p.flags⟩
  else
    match v with
    | .nan sn => ⟨.nan false, nvIf sn⟩
    | _ => ⟨v, 0⟩

/-! Quantisation (04 R104, R105). -/

/-- The larger of two magnitudes, as fractions. -/
def magMax (a b : Nat × Nat) : Nat × Nat := if a.1 * b.2 < b.1 * a.2 then b else a

/-- A finite value's magnitude; anything else counts as 0. -/
def magOf : FpVal → Nat × Nat
  | .fin _ n d => (n, d)
  | _ => (0, 1)

def finite : FpVal → Bool
  | .fin _ _ _ => true
  | _ => false

/-- What quantisation writes: elements, scale bytes, BAND, and the flags raised. -/
structure Quant where
  elems  : List (Nat × Nat)
  scales : List (Nat × Nat)
  band   : Nat
  flags  : FpFlags
  deriving DecidableEq, Repr

/-- The blocks of a tile: the scale element and the element numbers of each. -/
def blocksOf (g : Nat) (x : Tile) : List (Nat × List Nat) :=
  let sc := scaleCols x
  (upFrom 0 (tileRows x * g * sc)).map (fun q =>
    let r := q / (g * sc)
    let j := q % (g * sc) / sc
    let b := q % sc
    (q, upFrom (r * rowLen g x + j * tileCols x + 8 * b) (min 8 (tileCols x - 8 * b))))

/-- R104 on the values of D's elements, with the band's maximum. -/
def quantise (g : Nat) (d : Tile) (val : Nat → FpVal) (m : Nat × Nat) : Quant :=
  let bs : FpRes := if m.1 = 0 then ⟨0, 0⟩ else fpRoundSat bf16 2 false m.1 (m.2 * 189)
  let b := magOf (fpDecode bf16 bs.code)
  let block (q : Nat × List Nat) : List (Nat × Nat) × (Nat × Nat) × FpFlags :=
    let bm := q.2.foldl (fun m n => magMax m (magOf (val n))) (0, 1)
    let sr : FpRes := if b.1 = 0 then ⟨0, 0⟩ else fpRoundSat e3m5 2 false (bm.1 * b.2) (bm.2 * 6 * b.1)
    let sc := if b.1 = 0 then 0 else max sr.code 1
    let st := magOf (fpDecode e3m5 sc)
    let el (n : Nat) : Nat × FpRes :=
      match val n with
      | .fin s x y => (n, if sc = 0 then ⟨fpSignBit fp4 s, 0⟩ else fpRoundSat fp4 0 s (x * (st.2 * b.2)) (y * (st.1 * b.1)))
      | _ => (n, ⟨0, 0⟩)
    let es := q.2.map el
    (es.map (fun e => (e.1, e.2.code)), (q.1, sc), es.foldl (fun a e => a ||| e.2.flags) sr.flags)
  let bs_ := (blocksOf g d).map block
  ⟨bs_.flatMap (fun q => q.1), bs_.map (fun q => q.2.1), bs.code, bs_.foldl (fun a q => a ||| q.2.2) bs.flags⟩

/-- R105: a band with a NaN or an infinity. -/
def quantBad (g : Nat) (d : Tile) : Quant :=
  ⟨(upFrom 0 (elemCount g d)).map (fun n => (n, 0)), (blocksOf g d).map (fun q => (q.1, 0)), 0x7FC0, flagNV⟩

/-- The end of vquant and bqadd: all of D, its scale bytes and its BAND are written. A trap in which no element is at fault names
element 0 (Log 98). -/
def quantEnd (s : State) (k lat : Nat) (t : Thread) (d : Nat) (bad : Option Nat) (q : Quant) (reads : List Nat) : Act :=
  let x := tileOf t d
  let m := cfgScale x.cfg
  let nx := setElems { x with cfg := setBits x.cfg 24 16 q.band } q.elems
  floatEnd s k lat t [(bad.getD 0, q.flags)] (fun s1 => tileEnd s1 k lat [(d, nx), (m, setElems (tileOf t m) q.scales)] reads)

/-- The latency of vquant and bqadd (09 R197). -/
def quantLat (xs : List Tile) : Nat := 16 + 2 * ceilDiv (xs.foldl (fun m x => max m (slabBytes x)) 0) 128

/-- A wide element's value, a subnormal FP32 input flushed under FTZ (04 R95). -/
def wideVal (t : Thread) (x : Tile) (n : Nat) : FpVal :=
  fpDecode (fpOf (tileFmt x)) (if tileFmt x = 10 then flushIn fp32 (ctlFtz (fpctlOf t)) (elemAt x n) else elemAt x n)

/-- VQUANT (09 R202). -/
def execVquant (f : RForm) (s : State) : Host.Outcome State Fault Refusal :=
  run (.vquant f) s fun s k t =>
    let d := f.d.toNat
    let a := f.a.toNat
    let x := tileOf t d
    let y := tileOf t a
    let g := gangWidth t
    let w := opbReg s t f
    lockThen s k t (scaleLock t d true)
      (unconfigured t ([d, a] ++ maskNums f) ++
        [badFmt (!isFloatFmt (tileFmt y)) a, badFmt (tileFmt x != 5) d] ++ maskFmt t f ++
        [badShape (!sameShape y x) a] ++ maskShape t f x ++ scaleChecks t d false ++ [(f.q && bit w 31, 0x07, w)])
      fun _ =>
        let val (n : Nat) : FpVal := if enabledAt t f n then wideVal t y n else .fin false 0 1
        let ns := upFrom 0 (elemCount g x)
        let given := fpDecode fp32 (flushIn fp32 (ctlFtz (fpctlOf t)) (w.toNat % 2 ^ 32))
        let m := if f.q then magOf given else ns.foldl (fun m n => magMax m (magOf (val n))) (0, 1)
        let badAt := ns.find? (fun n => !finite (val n))
        let bad := badAt.isSome || (f.q && !finite given)
        quantEnd s k (quantLat [x, y]) t d badAt (if bad then quantBad g x else
          let q := quantise g x val m
          { q with elems := q.elems.map (fun e => if enabledAt t f e.1 then e else (e.1, 0)) }) (a :: maskNums f)

/-- One element of vdeq (04 R105; 09 R203). -/
def vdeqVal (t : Thread) (g : Nat) (x : Tile) (n : Nat) : FpRes :=
  let v := scaledVal t g x n
  match v.val with
  | .fin s a b =>
    let r := fpRound fp32 0 s a b
    ⟨r.code, r.flags⟩
  | _ => fpFinish fp32 0 v

/-- VDEQ (09 R203). -/
def execVdeq (f : RForm) (s : State) : Host.Outcome State Fault Refusal :=
  run (.vdeq f) s fun s k t =>
    let d := f.d.toNat
    let a := f.a.toNat
    let x := tileOf t d
    let y := tileOf t a
    let g := gangWidth t
    lockThen s k t (scaleLock t a false)
      (unconfigured t ([d, a] ++ maskNums f) ++
        [badFmt (!(tileFmt y == 5 || isFp8Fmt (tileFmt y))) a, badFmt (tileFmt x != 10) d] ++ maskFmt t f ++
        [badShape (!sameShape y x) a] ++ maskShape t f x ++ scaleChecks t a true)
      fun _ =>
        let rs := (enabledElems t f x).map (fun n =>
          let r := vdeqVal t g y n
          (n, r.code, r.flags))
        let lat := 8 + ceilDiv (max (slabBytes x) (slabBytes y)) 128
        vecEnd s k lat t d rs ([a] ++ (if cfgSen y.cfg then [cfgScale y.cfg] else []) ++ maskNums f)

/-- BQADD: the exact sum requantised (09 R204); a sum that cancels is +0 (Log 97). -/
def execBqadd (f : RForm) (s : State) : Host.Outcome State Fault Refusal :=
  run (.bqadd f) s fun s k t =>
    let d := f.d.toNat
    let a := f.a.toNat
    let b := f.b.toNat
    let x := tileOf t d
    let y := tileOf t a
    let z := tileOf t b
    let g := gangWidth t
    lockThen s k t (scaleLock t d true ++ scaleLock t a false)
      (unconfigured t ([d, a, b] ++ maskNums f) ++
        [badFmt (tileFmt y != 5) a, badFmt (tileFmt x != 5) d, badFmt (!isFloatFmt (tileFmt z)) b] ++ maskFmt t f ++
        [badShape (!sameShape y x) a, badShape (!sameShape z x) b] ++ maskShape t f x ++
        scaleChecks t a true ++ scaleChecks t d false ++ [(d != a && cfgScale x.cfg == cfgScale y.cfg, 0x15, wd (cfgScale x.cfg))])
      fun _ =>
        let val (n : Nat) : FpVal :=
          let v := (scaledVal t g y n).val
          if enabledAt t f n then (exactAdd 0 v (wideVal t z n)).val else v
        let ns := upFrom 0 (elemCount g x)
        let badAt := ns.find? (fun n => !finite (val n))
        let m := ns.foldl (fun m n => magMax m (magOf (val n))) (0, 1)
        quantEnd s k (quantLat [x, y, z]) t d badAt (if badAt.isSome then quantBad g x else quantise g x val m)
          ([a, b, cfgScale y.cfg] ++ maskNums f)

end Sys2Proof.Machine
end

