-- ==== Sys2Proof/Machine/Matrix.lean ====
section
/-! DEFINITION. Matrix multiply-accumulate and the matrix queues (04 R107, R108; 09 R205 to R211). -/

namespace Sys2Proof.Machine

/-! Checks (09 R205, R207). -/

/-- The format class of A and B: 0 FP4, 1 FP8, 2 eight-bit integers, 3 FP16, 4 BF16; 9 none. -/
def matClass (f : Nat) : Nat :=
  if f = 5 then 0 else if f = 6 ∨ f = 7 then 1 else if f = 0 ∨ f = 1 then 2 else if f = 8 then 3 else if f = 9 then 4 else 9

def kMax (c : Nat) : Nat := if c = 0 then 128 else if c = 1 ∨ c = 2 then 64 else 32

/-- The accumulator formats of a class. -/
def accOk (c f : Nat) : Bool := if c = 2 then f == 3 else f == 10 || f == 8 || f == 9

/-- Metadata of the stored elements of slab 0: byte c of row i. -/
def metaAt (t : Thread) (g : Nat) (x : Tile) (i c : Nat) : Nat := elemAt (tileOf t (cfgMeta x.cfg)) (i * (g * tileCols x) + c)

/-- The metadata bytes of a sparse tile are positions, rising within each group (09 R207). -/
def metaBad (t : Thread) (g : Nat) (x : Tile) : Bool :=
  let sp := cfgNsp x.cfg
  (upFrom 0 (tileRows x)).any (fun i => (upFrom 0 (tileCols x)).any (fun c =>
    64 ≤ metaAt t g x i c % 256 || (c % sp != 0 && metaAt t g x i c % 256 ≤ metaAt t g x i (c - 1) % 256)))

/-- The metadata tile's own checks. -/
def metaChecks (t : Thread) (g a : Nat) : List (Bool × Nat × Word) :=
  let x := tileOf t a
  let m := cfgMeta x.cfg
  let y := tileOf t m
  [(decide (t.tcount ≤ m), 0x11, wd m), (y.cfg == 0, 0x12, wd m),
   (!(tileFmt y == 1 || tileFmt y == 13) || !sameShape y x || metaBad t g x, 0x16, wd m)]

/-- The checks of mma and mmasp in order, with every one made before anything is queued. -/
def matChecks (t : Thread) (d a b : Nat) (sparse : Bool) : List (Bool × Nat × Word) :=
  let g := gangWidth t
  let x := tileOf t d
  let y := tileOf t a
  let z := tileOf t b
  let c := matClass (tileFmt y)
  let kk := tileCols z
  unconfigured t [d, a, b] ++
  [badFmt (c == 9 || (sparse && 2 < c)) a, badFmt (matClass (tileFmt z) != c) b, (!accOk c (tileFmt x), 0x1A, wd d),
   (if sparse then !(cfgNsp y.cfg == 8 || cfgNsp y.cfg == 16 || cfgNsp y.cfg == 32) else cfgNsp y.cfg != 0, 0x16, wd a), (cfgNsp z.cfg != 0, 0x16, wd b),
   badShape (if sparse then !((kk == 64 || kk == 128) && tileCols y == kk / 64 * cfgNsp y.cfg) else kMax c < tileCols y) a,
   badShape (16 < tileRows z || (if sparse then kMax c < kk else kk != tileCols y)) b,
   badShape (tileRows x != tileRows y || tileCols x != tileRows z) d] ++
  scaleChecks t a true ++ scaleChecks t b true ++ (if sparse then metaChecks t g a else [])

/-! What one slab computes (09 R206, R207; 04 R107, R108). -/

/-- The exact sum of terms with R107's rules for special operands; zero is −0 only where every term is (Log 17). -/
def exactSum (terms : List FpExact) : FpExact :=
  let nan := terms.any (fun x => x.val.isNan)
  let pos := terms.any (fun x => x.val.isInf && !x.val.isNeg)
  let neg := terms.any (fun x => x.val.isInf && x.val.isNeg)
  let fl := terms.foldl (fun a x => a ||| x.flags) 0
  if nan || (pos && neg) then ⟨.nan false, fl ||| nvIf (pos && neg)⟩
  else if pos then ⟨.inf false, fl⟩
  else if neg then ⟨.inf true, fl⟩
  else
    let den := terms.foldl (fun m x => max m (match x.val with
      | .fin _ _ d => d
      | _ => 1)) 1
    let z : Int := terms.foldl (fun acc x => match x.val with
      | .fin s n d => acc + signed s (n * (den / d))
      | _ => acc) 0
    if z = 0 then ⟨.fin (terms.all (fun x => x.val.isNeg)) 0 1, fl⟩
    else ⟨.fin (decide (z < 0)) z.natAbs den, fl⟩

/-- The factor pairs of output element (i, j) of slab part q: element numbers in A and B (09 R206, R207). -/
def matPairs (t : Thread) (g : Nat) (y z : Tile) (sparse : Bool) (q i j : Nat) : List (Nat × Nat) :=
  let kk := tileCols z
  (upFrom 0 (tileCols y)).map (fun c =>
    let p := if sparse then c / cfgNsp y.cfg * 64 + metaAt t g y i c % 64 else c
    (i * (g * tileCols y) + c, j * (g * kk) + q * kk + p))

/-- A signalling NaN used as a factor raises invalid, whatever its BAND (04 R92). -/
def usedNan (x : Tile) (n : Nat) : FpFlags := nvIf (fpDecode (fpOf (tileFmt x)) (elemAt x n)).isSnan

/-- One element of D: its code and flags. -/
def matElem (t : Thread) (g : Nat) (x y z : Tile) (sparse zero : Bool) (q i j : Nat) : Nat × FpRes :=
  let n := i * (g * tileCols x) + q * tileCols x + j
  let ps := matPairs t g y z sparse q i j
  if tileFmt x = 3 then
    let acc0 : Int := if zero then 0 else intVal 3 (elemAt x n)
    let acc := ps.foldl (fun acc p => acc + intVal (tileFmt y) (elemAt y p.1) * intVal (tileFmt z) (elemAt z p.2)) acc0
    (n, ⟨intCode 3 acc, 0⟩)
  else
    let old : FpExact := if zero then ⟨.fin false 0 1, 0⟩ else
      match fpDecode (fpOf (tileFmt x)) (elemAt x n) with
      | .nan sn => ⟨.nan false, nvIf sn⟩
      | v => ⟨v, 0⟩
    let terms := ps.map (fun p =>
      let u := scaledVal t g y p.1
      let v := scaledVal t g z p.2
      let m := exactMul u.val v.val
      (⟨m.val, m.flags ||| u.flags ||| v.flags ||| usedNan y p.1 ||| usedNan z p.2⟩ : FpExact))
    (n, fpFinish (fpOf (tileFmt x)) 0 (exactSum (old :: terms)))

/-- Every element of D that slab part q writes. -/
def matPart (t : Thread) (g d a b : Nat) (sparse zero : Bool) (q : Nat) : List (Nat × FpRes) :=
  let x := tileOf t d
  let y := tileOf t a
  let z := tileOf t b
  (upFrom 0 (tileRows x)).flatMap (fun i => (upFrom 0 (tileCols x)).map (fun j => matElem t g x y z sparse zero q i j))

/-! The queues (09 R208, R209). A slab's queue is keyed by the physical slab that serves the lower half of the core's part;
the running entry, if any, stands first, and a suspended one is the other that has started. -/

def queueOf (s : State) (slab : Nat) : List MatEntry := s.matq.getD slab []
def setQueue (s : State) (slab : Nat) (q : List MatEntry) : State := { s with matq := s.matq.putD slab [] q }

/-- The slabs of a core. -/
def slabsOf (s : State) (c : Nat) : List Nat := (upFrom 0 (gangOf s c)).map (fun j => (slabRef s c j).1)

/-- Clk of one k-step and number of k-steps (09 R209). -/
def kStepLen (c : Nat) : Nat := if c = 0 then 4 else if c = 1 then 8 else if c = 2 then 16 else 32
def kSteps (c nsp : Nat) (sparse : Bool) : Nat := kMax c / 16 / (if sparse then min (64 / nsp) 4 else 1)

/-- The k-step length of an entry: its tile A is locked while it is queued. -/
def entryStep (s : State) (e : MatEntry) : Nat :=
  match thr s e.thread with
  | none => 4
  | some t => kStepLen (matClass (tileFmt (tileOf t e.a)))

/-- Effective priority of a waiting entry. -/
def effPri (s : State) (e : MatEntry) : Nat := min 7 (e.pri + (s.clk - e.order) / 1024)

/-- The waiting entry of highest effective priority: the first that entered among equals, and of one clk the lowest context
(09 R209). -/
def bestWaiting (s : State) (q : List MatEntry) : Option MatEntry :=
  let before (e x : MatEntry) : Bool :=
    e.order < x.order || (e.order == x.order && (e.thread < x.thread || (e.thread == x.thread && e.op < x.op)))
  (q.filter (fun e => !e.started)).foldl (fun b e =>
    match b with
    | none => some e
    | some x => if effPri s x < effPri s e || (effPri s x == effPri s e && before e x) then some e else b) none

/-- Starts or resumes an entry of a slab: it becomes the first of the queue, and its first k-step ends after the fill. overtook: it
overtakes the running entry. -/
def startEntry (s : State) (slab : Nat) (e : MatEntry) (overtook : Bool) : State :=
  let rest := (queueOf s slab).filter (fun x => x.op != e.op)
  let e1 := { (if e.started then e else { e with started := true, pri := effPri s e }) with overtook := overtook }
  sched (setQueue s slab (e1 :: rest)) (s.clk + 12 + entryStep s e) (.matrixKstepBoundary slab)

/-- What an idle slab does next: a suspended entry resumes; otherwise the best entry waiting at the end of the clk starts, for it may
enter in this clk (09 R209). -/
def nextEntry (s : State) (slab : Nat) : State :=
  let q := queueOf s slab
  match q.find? (fun e => e.started) with
  | some e => startEntry s slab e false
  | none => if q.isEmpty then s else sched s s.clk (.matrixEntryStart slab)

/-- A matrix operation enters the queues of its core's slabs (09 R208); chain names the chain entry that it follows, as
chain × 2^32 + sequence. The trailing thread of a redundant pair computes part
k on slab (k + 1) mod g (16 R400). -/
def enterMatrix (s : State) (k : Nat) (t : Thread) (d a b pri : Nat) (sparse zero : Bool) (chain : Option Nat) : State :=
  let c := coreOf k
  let y := tileOf t a
  let z := tileOf t b
  let op := s.nextId
  let cls := matClass (tileFmt y)
  let scales (x : Tile) : List Nat := if cfgSen x.cfg then [readLock (cfgScale x.cfg)] else []
  let locks := [d, readLock a, readLock b] ++ scales y ++ scales z ++ (if sparse then [readLock (cfgMeta y.cfg)] else [])
  let e : MatEntry := ⟨op, k, pri, sparse, zero, d, a, b, kSteps cls (cfgNsp y.cfg) sparse, 0, false, s.clk, false⟩
  let s1 := { s with nextId := op + 1, matops := s.matops.put op ⟨k, d, locks, (slabsOf s c).length, 0, [], [], chain⟩ }
  (slabsOf s c).foldl (fun m slab =>
    let idle := (queueOf m slab).isEmpty
    let m1 := setQueue m slab (queueOf m slab ++ [e])
    if idle then sched m1 m1.clk (.matrixEntryStart slab) else m1) s1

/-- Some slab of a core has eight entries, running and suspended ones among them (09 R208; Log 96). -/
def matFull (s : State) (c : Nat) : Bool := (slabsOf s c).any (fun slab => 8 ≤ (queueOf s slab).length)

/-- Scale and metadata tiles that an operation reads. -/
def matExtra (t : Thread) (a b : Nat) (sparse : Bool) : List (Nat × Bool) :=
  scaleLock t a false ++ scaleLock t b false ++
    (if sparse && cfgNsp (tileOf t a).cfg != 0 then [(cfgMeta (tileOf t a).cfg, false)] else [])

/-- mma and mmasp. -/
def matAct (s : State) (k : Nat) (t : Thread) (f : RForm) (sparse : Bool) : Act :=
  let d := f.d.toNat
  let a := f.a.toNat
  let b := f.b.toNat
  lockThen s k t (matExtra t a b sparse) (matChecks t d a b sparse) fun _ =>
    if matFull s (coreOf k) then .wait s { kind := .matrix, cause := 0x58 }
    else .next (enterMatrix s k t d a b (tailMod f.t % 8) sparse (tailMod f.t / 8 % 2 == 1) none)

/-- MMA (09 R205, R206). -/
def execMma (f : RForm) (s : State) : Host.Outcome State Fault Refusal :=
  run (.mma f) s fun s k t => matAct s k t f false

/-- MMASP (09 R207). -/
def execMmasp (f : RForm) (s : State) : Host.Outcome State Fault Refusal :=
  run (.mmasp f) s fun s k t => matAct s k t f true

/-- An idle slab starts its best waiting entry (09 R209). -/
def startBest (s : State) (slab : Nat) : State :=
  if (queueOf s slab).any (fun e => e.started) then s
  else
    match bestWaiting s (queueOf s slab) with
    | some e => startEntry s slab e false
    | none => s

/-- MATRIX_ENTRY_START, at the end of a clk. -/
def execMatrixEntryStart (slab : Nat) (s : State) : Host.Outcome State Fault Refusal := .next (startBest s slab)

/-- A matrix operation is complete: its flags reach FPFLAGS, a bad tile element is a deferred 0x73 (09 R211; 18 R425). -/
def finishOp (s : State) (op : Nat) (m : MatOp) : State :=
  let s1 := modThr { s with matops := s.matops.del op } m.thread fun t =>
    { setSpr t rFPFLAGS (accrue (getSpr t rFPFLAGS) m.flags) with
      deferred := t.deferred ++ m.bad.map (fun b => (0x73, wd (b.1 + b.2 * 256))) }
  match m.chain with
  | some n => sched s1 s1.clk (.entryCompletion (n / 2 ^ 32))
  | none => s1

/-- The tile file's errors that the reading of a slab's parts of tiles finds: logged, and the tiles that are uncorrectable
(09 R211). -/
def tileErrors (s : State) (t : Thread) (k slab : Nat) (ns : List Nat) : State × List Nat :=
  ns.foldl (fun acc n =>
    match findEcc acc.1 1 slab (t.tbase + n) with
    | none => acc
    | some (s1, ue) => (logError s1 1 slab (t.tbase + n) ue (errContext (some k)), if ue then acc.2 ++ [n] else acc.2))
    (s, [])

/-- The tiles of an entry that slab 0 broadcasts to every slab, and those of which each slab reads its own part; the old contents
of D are not read with Z = 1 (09 R206, R207). -/
def sharedTiles (t : Thread) (e : MatEntry) : List Nat :=
  e.a :: (scaleLock t e.a false).map (fun q => q.1) ++ (if e.sparse then [cfgMeta (tileOf t e.a).cfg] else [])
def ownTiles (t : Thread) (e : MatEntry) : List Nat :=
  (if e.zero then [] else [e.d]) ++ e.b :: (scaleLock t e.b false).map (fun q => q.1)

/-- MATRIX_ENTRY_COMPLETE: the slab's part of D is written, and the slab goes on (09 R208, R209). -/
def completeEntry (s : State) (slab : Nat) : State :=
  match queueOf s slab with
  | [] => s
  | e :: rest =>
    let s1 := setQueue (match thr s e.thread with
      | some t => perfBump s (partOf t) 6
      | none => s) slab rest
    let s2 := match thr s1 e.thread, s1.matops.get? e.op with
      | some t, some m =>
        let g := gangWidth t
        let idx := ((slabsOf s1 (coreOf e.thread)).findIdx? (fun x => x == slab)).getD 0
        let q := if redundOf t = 2 then (idx + g - 1) % max g 1 else idx
        let sh := tileErrors s1 t e.thread ((slabsOf s1 (coreOf e.thread)).headD slab) (sharedTiles t e)
        let er := tileErrors sh.1 t e.thread slab (ownTiles t e)
        let badA := m.badA ++ sh.2
        let bad := badA ++ er.2
        let rs := if !bad.isEmpty then [] else matPart t g e.d e.a e.b e.sparse e.zero q
        let m1 := { m with left := m.left - 1, flags := rs.foldl (fun a r => a ||| r.2.flags) m.flags,
                           bad := m.bad ++ (bad.head?.map (fun n => (n, slab))).toList, badA := badA }
        let s3 := modThr er.1 e.thread fun u =>
          { u with tiles := u.tiles.put e.d (setElems (tileOf u e.d) (rs.map (fun r => (r.1, r.2.code)))) }
        if m1.left = 0 then finishOp s3 e.op m1 else { s3 with matops := s3.matops.put e.op m1 }
      | _, _ => s1
    nextEntry s2 slab

def execMatrixEntryComplete (slab : Nat) (s : State) : Host.Outcome State Fault Refusal := .next (completeEntry s slab)

/-- MATRIX_KSTEP_BOUNDARY: the running entry has done a k-step; it completes, is overtaken, or goes on (09 R209). An entry
whose operation is gone is abandoned (R210). -/
def kstepBoundary (s : State) (slab : Nat) : State :=
  match queueOf s slab with
  | [] => s
  | e :: rest =>
    if e.started = false then s
    else if (s.matops.get? e.op).isNone then nextEntry (setQueue s slab rest) slab
    else
      let e1 := { e with done := e.done + 1 }
      let s1 := setQueue s slab (e1 :: rest)
      if e1.steps ≤ e1.done then sched s1 s1.clk (.matrixEntryComplete slab)
      else
        let best := if e1.overtook then none else
          (bestWaiting s1 rest).bind (fun x => if e1.pri < effPri s1 x then some x else none)
        match best with
        | some x => startEntry s1 slab x true
        | none => sched s1 (s1.clk + entryStep s1 e1) (.matrixKstepBoundary slab)

def execMatrixKstepBoundary (slab : Nat) (s : State) : Host.Outcome State Fault Refusal := .next (kstepBoundary s slab)

/-- Some entry of a thread has not completed (09 R210). -/
def matBusy (s : State) (k : Nat) : Bool := s.matops.any (fun q => q.2.thread == k)

end Sys2Proof.Machine
end

