-- ==== Sys2Proof/Machine/Counters.lean ====
section
/-! DEFINITION. PTP time and the cycle domain's clocks, timelines, barrier objects and chain sequences (19 R438 to R454; 20
R468, R469). The tick itself stands in Cycle. -/

namespace Sys2Proof.Machine

/-! PTP time (19 R438; 20 R468). -/

/-- One nanosecond in the units PTP time is kept in. -/
def nsUnit : Int := 21 * 2 ^ 40

/-- PTP units that pass in one clk: 10 / 21 ns, corrected by ADJ. -/
def ptpPerClk (s : State) : Int := 10 * (2 ^ 40 + s.ptpRate)

def ptpUnits (s : State) : Int := s.ptpBase + ((s.clk : Int) - s.ptpAt) * ptpPerClk s

/-- PTP time in ns, rounded down. -/
def ptpNs (s : State) : Int := ptpUnits s / nsUnit

/-- a / b rounded up, b positive. -/
def ceilInt (a b : Int) : Int := -((-a) / b)

/-- The clk of rotation index 0 nearest a time in ns, the earlier of two; none while the clock does not run forward
(19 R433). -/
def clkAtNs (s : State) (ns : Int) : Option Int :=
  let den := ptpPerClk s
  if den ≤ 0 then none
  else
    let num := ns * nsUnit - s.ptpBase + (s.ptpAt : Int) * den
    some (16 * ceilInt (2 * num - 16 * den) (32 * den))

/-- The same of a place in tenths of a clk. -/
def clkAtTenths (x : Int) : Int := 16 * ceilInt (2 * x - 160) 320

/-- The clk by which ns nanoseconds from a time in ns have passed, not before now. -/
def clkAfter (s : State) (ns : Int) : Nat :=
  let den := ptpPerClk s
  if den ≤ 0 then s.clk
  else max s.clk (ceilInt (ns * nsUnit - s.ptpBase + (s.ptpAt : Int) * den) den).toNat

/-! The cycle block's fields (19 R432). -/

def cycLocked (s : State) : Bool := ctlF s cycleBase 34 1 == 1
def cycHoldover (s : State) : Bool := ctlF s cycleBase 33 1 == 1
def cycOrigin (s : State) : Int := (rdCtl s (cycleBase + 8)).toNat
def egressOff (s : State) : Nat := ctlF s (cycleBase + 0x10) 0 32
def lastTick (s : State) : Int := sgn (rdCtl s (cycleBase + 0x20))

/-- The first due time of a tick at or after a time. -/
def dueFrom (s : State) (x : Int) : Int :=
  let p : Int := cyclePeriod s
  if p ≤ 0 then x else cycOrigin s + p * ceilInt (x - cycOrigin s) p

/-- Makes the next tick due: on PTP time, or in holdover on the device's own oscillator (19 R433, R434). -/
def placeTick (s : State) : State :=
  let s1 := unsched s (fun i => i == .boundaryTick)
  if s1.cycOn = false then s1
  else
    let at_ := if cycHoldover s1 then some (clkAtTenths s1.cycHold) else clkAtNs s1 s1.cycDue
    match at_ with
    | none => s1
    | some c => sched s1 (if (s1.clk : Int) ≤ c then c.toNat else nextRot s1.clk) .boundaryTick

/-- Where a due time lies on the oscillator, in tenths of a clk. -/
def tenthsOf (s : State) (ns : Int) : Int :=
  let den := ptpPerClk s
  if den ≤ 0 then 10 * s.clk else 10 * (ns * nsUnit - s.ptpBase + (s.ptpAt : Int) * den) / den

/-- PTP time is disciplined (20 R469). -/
def ptpGood (s : State) : Bool :=
  ctlF s (ptpBlock + 0x10) 0 1 == 1 && (match s.ptpWrote with
    | some c => decide ((s.clk - c) * 10 ≤ 21 * 2 ^ 31)
    | none => false)

/-- ADJ or STEP has been written: when 2^31 ns have passed without another, discipline is lost. -/
def ptpTouched (s : State) : State :=
  let s1 := sched { s with ptpWrote := some s.clk } (s.clk + 4509715661) .ptpDisciplineLost
  if ptpGood s1 && !cycLocked s1 then sched s1 s1.clk .ptpDisciplineRestored else s1

/-- The clk at which PTP time comes to a time, in its units; while the clock does not run forward, by its nominal rate (Log 28). -/
def clkAtUnits (s : State) (u : Int) : Nat :=
  let left := u - ptpUnits s
  s.clk + (if ptpPerClk s ≤ 0 then ceilInt (left * 21) (10 * nsUnit) else ceilInt left (ptpPerClk s)).toNat

/-- Events that are due at a PTP time after the tick: gate list entries, egress frames and the egress check. -/
def onPtp (i : Instr) : Bool :=
  match i with
  | .gateListEntry _ | .egressFrameBuild _ _ | .egressCheck _ => true
  | _ => false

/-- These events go with the PTP clock's new rate from now on (01 R24). -/
def replacePtp (old : Int) (s : State) : State :=
  let new := ptpPerClk s
  if old ≤ 0 ∨ new ≤ 0 ∨ old = new then s
  else (s.agenda.filter (fun q => onPtp q.2)).foldl
    (fun a q => sched a (s.clk + (ceilInt ((q.1 - s.clk : Nat) * old) new).toNat) q.2) (unsched s onPtp)

/-- PTP_ADJUST: a write of ADJ (20 R468). -/
def execPtpAdjust (v : Word) (s : State) : Host.Outcome State Fault Refusal :=
  let s1 := { wrCtl s ptpBlock (wd (bits v 0 48)) with ptpBase := ptpUnits s, ptpAt := s.clk, ptpRate := sextInt (bits v 0 48) 48 }
  let s2 := replacePtp (ptpPerClk s) s1
  .next (ptpTouched (if cycHoldover s2 then s2 else placeTick s2))

/-- PTP_STEP: a write of STEP (20 R468, R469). A forward step skips the due times it passes; a backward one holds ticks until
the next that has not been ticked (19 R434). What is due after the last tick keeps its distance from it (Log 28). -/
def execPtpStep (v : Word) (s : State) : Host.Outcome State Fault Refusal :=
  if v = 0 then .next s
  else
    let s1 := { s with ptpBase := ptpUnits s + sgn v * nsUnit, ptpAt := s.clk, gateTick := s.gateTick + sgn v * nsUnit }
    let s2 := if s1.cycOn && !cycHoldover s1 then
      placeTick { s1 with cycDue := max s1.cycDue (dueFrom s1 (ptpNs s1)) } else s1
    .next (ptpTouched s2)

/-- PTP_DISCIPLINE_LOST (19 R434; 20 R469): the port the message names is not one the spec fixes (Log 13). -/
def execPtpDisciplineLost (s : State) : Host.Outcome State Fault Refusal :=
  if cycLocked s && !ptpGood s then
    let s1 := setCtlF s cycleBase 33 2 1
    let s2 := postUnit { s1 with cycHold := tenthsOf s s.cycDue, free := s1.free + 1 } 0 0x64 5 0 (Config.freeWord (s.free * 4 + 2))
    .next (placeTick s2)
  else .next s

/-- PTP_DISCIPLINE_RESTORED (19 R434): a difference of more than 8 ns, which is 168 tenths of a clk, moves the tick; SLIP records it in
whole ns, cut towards 0 (Log 95). -/
def execPtpDisciplineRestored (s : State) : Host.Outcome State Fault Refusal :=
  if ptpGood s && !cycLocked s then
    let held := cycHoldover s && s.cycOn
    let s1 := setCtlF s cycleBase 33 2 2
    if held then
      let due := max s1.cycDue (dueFrom s1 (ptpNs s1))
      let diff := tenthsOf s1 due - s1.cycHold
      let slip := Int.tdiv diff 21
      let s2 := { s1 with cycDue := due }
      let s3 := if -168 ≤ diff ∧ diff ≤ 168 then s2
        else postUnit { wrCtl s2 (cycleBase + 0x28) (wdi slip) with slipKept := true } 0 0x65 5 0 (wdi slip)
      .next (placeTick s3)
    else .next s1
  else .next s

/-! Starting and stopping the domain (19 R433). -/

/-- CYCLE_DOMAIN_START: the first tick is the first due one at least 1 µs later. SLOTBASE of the scan partition reads STATIC
from here on (15 R353). -/
def execCycleDomainStart (s : State) : Host.Outcome State Fault Refusal :=
  let s1 := { s with cycOn := true, cycTick := false, cycDue := dueFrom s (ptpNs s + 1000) }
  let s2 := if isScan s1 0 then setSprPart s1 0 rSLOTBASE (setBits (sprPart s1 0 rSLOTBASE) 0 1 1) else s1
  .next (placeTick { s2 with cycHold := tenthsOf s2 s2.cycDue })

/-- CYCLE_DOMAIN_STOP: every thread waiting in cwait traps. -/
def execCycleDomainStop (s : State) : Host.Outcome State Fault Refusal :=
  let gone (i : Instr) : Bool :=
    match i with
    | .boundaryTick | .scanRelease | .egressCheck _ => true
    | _ => false
  let s1 := { unsched s gone with cycOn := false, cycTick := false }
  .next ((waiters s1 (fun _ _ w => w.kind == .cycle)).foldl (fun a q => failWait a q.1 q.2 0x63 0) s1)

/-! cwait, rdcyc and rdptp (19 R441 to R443). -/

/-- CWAIT: waits for the release of the first tick strictly after its issue. -/
def execCwait (f : RForm) (s : State) : Host.Outcome State Fault Refusal :=
  run (.cwait f) s fun s k _ =>
    if cycPeriodReg s = 0 then .trap s 0x63 0
    else .wait (modThr s k (fun t => { t with released := false })) { kind := .cycle, dst := f.d.toNat, cause := 0x36 }

/-- The tick marks the threads that it releases. -/
def markCycle (s : State) (stamp : Word) : State :=
  (waiters s (fun _ _ w => w.kind == .cycle && w.key == 0 && decide (w.since < s.clk))).foldl (fun a q =>
    modThr a q.1 (fun t => { t with run := .waiting { q.2 with key := 1, arg := stamp } })) s

/-- SCAN_RELEASE, 42 clk after a tick: the stamp is readable by an instruction issued in this clk. -/
def execScanRelease (s : State) : Host.Outcome State Fault Refusal :=
  .next ((waiters s (fun _ _ w => w.kind == .cycle && w.key == 1)).foldl (fun a q =>
    let a1 := finishWait a q.1 [(q.2.dst, q.2.arg)] a.clk a.clk
    modThr a1 q.1 (fun t => { t with released := isScan a1 (partOf t) })) s)

/-- RDCYC (19 R443). -/
def execRdcyc (f : RForm) (s : State) : Host.Outcome State Fault Refusal :=
  run (.rdcyc f) s fun s k _ =>
    let v := match tailMod f.t with
      | 0 => wd (nowStamp s)
      | 1 => wd s.clk
      | _ => if s.cycOn && s.cycTick then wdi (ptpNs s - lastTick s) else 0
    fixed s k latAlu f.d v

/-- RDPTP (19 R443). -/
def execRdptp (f : RForm) (s : State) : Host.Outcome State Fault Refusal :=
  run (.rdptp f) s fun s k _ => .next (scored s k 12 f.d (wdi (ptpNs s)))

/-! Timelines (19 R444 to R449). -/

/-- The timeline that gpr(A) names, as partition × 4096 + index. -/
def timelineKey (s : State) (t : Thread) (v : Word) : Option Nat :=
  if t.host then (if 2 ^ 16 ≤ v.toNat ∨ logicals s (v.toNat / 4096) = 0 then none else some v.toNat)
  else if 4096 ≤ v.toNat then none else some (partOf t * 4096 + v.toNat)

def timelineAt (key : Nat) : Nat := timelineBase (key / 4096) (key % 4096)
def timelineValue (s : State) (key : Nat) : Nat := (rdCtl s (timelineAt key)).toNat

/-- One change applied to a value: the value after it, and whether it saturated. -/
def timelineApply (v : Nat) (o : TlOp) : Nat × Bool :=
  if o.cls = 0 then (o.val.toNat, false)
  else if 2 ^ 64 ≤ v + o.val.toNat then (2 ^ 64 - 1, true) else (v + o.val.toNat, false)

/-- The order of R449. -/
def timelineBefore (a b : TlOp) : Bool := a.cls < b.cls || (a.cls == b.cls && a.ord < b.ord)

def insTlOp (x : TlOp) : List TlOp → List TlOp
  | [] => [x]
  | y :: r => if timelineBefore x y then x :: y :: r else y :: insTlOp x r

/-- The changes that reach one timeline in this clk, in order. -/
def timelineOps (s : State) (key : Nat) : List TlOp :=
  (s.tlOps.filter (fun o => o.key == key && decide (o.at_ ≤ s.clk))).foldl (fun acc o => insTlOp o acc) []

/-- A change on its way to a timeline's port: it is applied with the others of its clk at that clk's end. -/
def timelineAdd (s : State) (o : TlOp) : State := { s with tlOps := s.tlOps ++ [o] }

/-- A completion's increment (13 R302; 14 R328; 20 R465): class and place in the order of R449. -/
def timelineCount (s : State) (key cls ord : Nat) (b : Word) : State := timelineAdd s ⟨key, cls, ord, b, none, 0, 0, s.clk⟩

/-- The slot of a spilled thread, and the completions its husk holds: h0 and h1 of each, h0 of a free place 0 (15 R361). -/
def huskOf (key : Nat) : Nat := key - huskKey 0
def huskUi (s : State) (slot i : Nat) : Nat := rdMemN s (slot + 0x840 + 16 * i) 8

/-- Queues a completion for a notifier, which a husk keeps among its bytes; of more than four, the last is lost and logged as 0x1B
(05 R122; 07 R167; 15 R361). -/
def announceTo (s : State) (k : Nat) (h0 h1 : Word) : State :=
  if isHuskKey k then
    let slot := huskOf k
    match firstFrom (fun i => huskUi s slot i == 0) 0 4 with
    | some i => wrMemN (wrMemN s (slot + 0x840 + 16 * i) 8 h0.toNat) (slot + 0x848 + 16 * i) 8 h1.toNat
    | none => logEvent s (((s.husks.get? slot).map (fun h => partOf h.image)).getD 0) 0x1B 0 (rdMemN s (slot + 4) 2) (rdMemN s (slot + 6) 1) h0
  else announce s k h0 h1

/-- Fires the arming of a timeline whose value meets it (19 R447). -/
def timelineFire (s : State) (key : Nat) : State :=
  let a := timelineAt key
  if ctlF s (a + 0x10) 13 1 = 1 ∧ (rdCtl s (a + 8)).toNat ≤ timelineValue s key then
    let s1 := setCtlF s (a + 0x10) 13 1 0
    match s1.tlNote.get? key with
    | some k => announceTo s1 k (uiWord 2 (key % 4096)) (rdCtl s1 a)
    | none => s1
  else s

/-- What one change answers: the old value of a tcset, the new value of a tcadd, or its trap in the thread's next slot; a completion
that saturates is reported. -/
def timelineAnswer (s : State) (v : Nat) (o : TlOp) : State :=
  let r := timelineApply v o
  match o.who with
  | some k =>
    if r.2 then dueTrap s k 0x34 (wd (if isHostKey k then o.key else o.key % 4096))
    else if o.dst = 0 then s else putScored s k o.due [(o.dst, wd (if o.cls = 0 then v else r.1))] []
  | none =>
    if r.2 then
      (if o.cls = 2 && decide (128 ≤ o.ord) then postUnit s (o.key / 4096) 0x34 6 ((o.ord - 128) / 2) (wd (o.key % 4096))
       else if o.cls = 2 then postUnit s (o.key / 4096) 0x34 1 (0x8000 + o.ord) (wd (o.key % 4096))
       else postUnit s (o.key / 4096) 0x34 9 (o.key / 4096) (wd (o.key % 4096)))
    else s

/-- A waiting tcwait ends with a status; status 0 is an acquire (19 R446). -/
def timelineWake (s : State) (k : Nat) (w : Wait) (status : Nat) : State :=
  match thr s k with
  | none => s
  | some t =>
    let q := if status = 0 then acquireAt s k t 3 else (s, 0)
    finishWait q.1 k [(w.dst, wd status)] (s.clk + 24) (s.clk + 24 + q.2)

/-- The end of a clk in which a timeline changed (19 R448, R449). -/
def settleTimeline (s : State) (key : Nat) : State :=
  let ops := timelineOps s key
  let r := ops.foldl (fun (acc : State × Nat × Bool) o =>
    let v := acc.2.1
    (timelineAnswer acc.1 v o, (timelineApply v o).1, acc.2.2 || (o.cls == 0 && decide (o.val.toNat < v))))
    (s, timelineValue s key, false)
  let s1 := wrCtl r.1 (timelineAt key) (wd r.2.1)
  let s2 := (waiters s1 (fun _ _ w => w.kind == .timeline && w.key == key)).foldl (fun a q =>
    if q.2.arg.toNat ≤ r.2.1 then timelineWake a q.1 q.2 0
    else if r.2.2 && decide (q.2.since < s.clk) then timelineWake a q.1 q.2 0x35
    else a) s1
  timelineFire s2 key

/-- The changes that reach their ports in this clk. -/
def dueTlOps (s : State) : List TlOp := s.tlOps.filter (fun o => o.at_ ≤ s.clk)

def settleTimelines (s : State) : State :=
  let keys := ((dueTlOps s).map (fun o => o.key)).eraseDups
  { keys.foldl settleTimeline s with tlOps := s.tlOps.filter (fun o => s.clk < o.at_) }

/-- Carries on with the timeline that an instruction names. -/
def withTimeline (s : State) (t : Thread) (v : Word) (f : Nat → Act) : Act :=
  if viewOf t ≠ 0 then .trap s 0x4B v
  else match timelineKey s t v with
    | none => .trap s 0x07 v
    | some key => f key

/-- TCADD: a release at device scope, and when its actions have completed the add at the port; the thread issues nothing before that
has been made, since one that saturates traps past the tcadd, its update made (19 R445, R449). -/
def execTcadd (f : RForm) (s : State) : Host.Outcome State Fault Refusal :=
  run (.tcadd f) s fun s k t =>
    let b := opbReg s t f
    withTimeline s t (readG s t f.a.toNat) fun key =>
      wbAct (releaseAt s k t 3) fun s1 at_ =>
        .next (holdUntil (timelineAdd s1 ⟨key, 1, k, b, some k, f.d.toNat, at_ + 40, at_⟩) k (at_ + 1))

/-- TCWAIT, MOD 0 (19 R446). -/
def execTcwait (f : RForm) (s : State) : Host.Outcome State Fault Refusal :=
  run (.tcwait f) s fun s k t =>
    let b := opbReg s t f
    withTimeline s t (readG s t f.a.toNat) fun key =>
      if b.toNat ≤ timelineValue s key then
        let q := acquireAt s k t 3
        .next (holdUntil (scored q.1 k 24 f.d 0) k (s.clk + 24 + q.2))
      else .wait s { kind := .timeline, key := key, arg := b, dst := f.d.toNat, cause := 0x36 }

/-- TCWAIT_ARM, MOD 1 (19 R447): the arming is looked at with the final VALUE of this clk (R449). A host core as notifier is named by
its number. -/
def execTcwaitArm (f : RForm) (s : State) : Host.Outcome State Fault Refusal :=
  run (.tcwaitArm f) s fun s k t =>
    let i := readG s t f.a.toNat
    let b := opbReg s t f
    withTimeline s t i fun key =>
      let a := timelineAt key
      if ctlF s (a + 0x10) 13 1 = 1 ∧ s.tlNote.get? key ≠ some k then .trap s 0x07 (formInfo (.tcwaitArm f))
      else
        let who := if t.host then k - 8192 else coreOf k + ctxOf k * 128
        let s1 := wrCtl (wrCtl s (a + 8) b) (a + 0x10) (wd (who + 2 ^ 13))
        let s2 := timelineAdd { s1 with tlNote := s1.tlNote.put key k } ⟨key, 4, 0, 0, none, 0, 0, s.clk⟩
        .next (scored s2 k 24 f.d 0)

/-- TCWAIT_DISARM, MOD 2 (19 R447). -/
def execTcwaitDisarm (f : RForm) (s : State) : Host.Outcome State Fault Refusal :=
  run (.tcwaitDisarm f) s fun s k t =>
    withTimeline s t (readG s t f.a.toNat) fun key =>
      let a := timelineAt key
      let s1 := if s.tlNote.get? key = some k then setCtlF s (a + 0x10) 13 1 0 else s
      .next (scored s1 k 24 f.d 0)

/-- TCSET (19 R448). -/
def execTcset (f : RForm) (s : State) : Host.Outcome State Fault Refusal :=
  run (.tcset f) s fun s k t =>
    let b := opbReg s t f
    withTimeline s t (readG s t f.a.toNat) fun key =>
      .next (timelineAdd s ⟨key, 0, k, b, some k, f.d.toNat, s.clk + 40, s.clk⟩)

/-- A notifier that ends disarms its timelines (19 R447). -/
def disarmTimelines (s : State) (k : Nat) : State :=
  (s.tlNote.filter (fun q => q.2 == k)).foldl (fun a q => setCtlF a (timelineAt q.1 + 0x10) 13 1 0) s

/-! Barrier objects (19 R450 to R453; 14 R329). -/

/-- The object an instruction names: its address, location, path figure, and the state the read of it leaves. -/
structure BarObj where
  s    : State
  addr : Nat
  loc  : Nat
  lat  : Nat
  deriving DecidableEq, Repr

def barObj (s : State) (k : Nat) (t : Thread) (i : Instr) (ptr : Word) (need : Rights) : Except Bad BarObj :=
  match ea t ptr 16 need with
  | .error c => .error (.trap s c ptr)
  | .ok a =>
    if a % 16 ≠ 0 then .error (.trap s 0x23 ptr)
    else if a < 0x8000000000000 ∨ 0x9000000000000 ≤ a then .error (.trap s 0x07 (formInfo i))
    else
      match place s t ptr 0 a 16 with
      | .error e => .error e
      | .ok (.scratch c loc) =>
        match demandRange (windowWake s c).1 (some k) none (portOf k) (portFigure s k (.scratch c loc)) (partOf t) 0 a loc 16 with
        | .error e => .error e
        | .ok (s1, lat) => .ok ⟨s1, a, loc, lat + (windowWake s c).2⟩
      | .ok _ => .error (.trap s 0x07 (formInfo i))

def barExpected (s : State) (loc : Nat) : Nat := rdMemN s loc 8
def barLanded (s : State) (loc : Nat) : Nat := rdMemN s (loc + 8) 8 % 2 ^ 63
def barPhase (s : State) (loc : Nat) : Nat := rdMemN s (loc + 8) 8 / 2 ^ 63

def withBar (s : State) (k : Nat) (t : Thread) (i : Instr) (ptr : Word) (need : Rights) (f : BarObj → Act) : Act :=
  match barObj s k t i ptr need with
  | .error e => badAct e
  | .ok o => f o

/-- An engine moves a chunk in this clk. -/
def chunkDue (s : State) : Bool :=
  s.agenda.any (fun q => decide (q.1 ≤ s.clk) && (match q.2 with
    | .engineChunk _ => true
    | _ => false))

/-- A barrier instruction acts now, or behind the engines' updates of its clk (19 R450). -/
def afterEngines (i : Instr) (s : State) (k : Nat) (t : Thread) (act : State → Nat → Thread → Act) : Act :=
  if chunkDue s && redundOf t == 0 then .gone { s with barOps := s.barOps ++ [(k, i)] } else act s k t

/-- What binit, bwait and btest do at the object's port (19 R451 to R453). -/
def binitAct (f : RForm) (s : State) (k : Nat) (t : Thread) : Act :=
  let e := opbReg s t f
  withBar s k t (.binit f) (readG s t f.a.toNat) needRW fun o =>
    if 2 ^ 63 ≤ e.toNat then .trap o.s 0x07 e
    else if barLanded o.s o.loc ≠ 0 then .trap o.s 0x3F (wd o.addr)
    else
      let s1 := portWrote (wrMemN o.s o.loc 8 e.toNat) 0 0 o.loc 8
      .next (scored s1 k o.lat f.d (wd (barPhase o.s o.loc)))

def bwaitAct (f : RForm) (s : State) (k : Nat) (t : Thread) : Act :=
  let b := readG s t f.b.toNat
  withBar s k t (.bwait f) (readG s t f.a.toNat) needR fun o =>
    if bits b 1 63 ≠ 0 then .trap o.s 0x07 b
    else if barPhase o.s o.loc = b.toNat then
      let q := acquireAt o.s k t 3
      .next (holdUntil (scored q.1 k o.lat f.d b) k (s.clk + o.lat + q.2))
    else if barExpected o.s o.loc = 0 then .trap o.s 0x3F (wd o.addr)
    else .wait o.s { kind := .barrier, key := o.loc, arg := b, dst := f.d.toNat, cause := 0x3D }

def bwaitArmAct (f : RForm) (s : State) (k : Nat) (t : Thread) : Act :=
  withBar s k t (.bwaitArm f) (readG s t f.a.toNat) needR fun o =>
    let s1 := modThr o.s k (fun u => { u with barArm := some (wd o.addr) })
    .next (scored s1 k o.lat f.d (wd (barPhase o.s o.loc)))

def bwaitDisarmAct (f : RForm) (s : State) (k : Nat) (t : Thread) : Act :=
  withBar s k t (.bwaitDisarm f) (readG s t f.a.toNat) needR fun o =>
    .next (scored (modThr o.s k (fun u => { u with barArm := none })) k o.lat f.d (wd (barPhase o.s o.loc)))

def btestAct (f : RForm) (s : State) (k : Nat) (t : Thread) : Act :=
  withBar s k t (.btest f) (readG s t f.a.toNat) needR fun o => .next (scored o.s k o.lat f.d (wd (rdMemN o.s (o.loc + 8) 8)))

/-- BINIT (19 R451). -/
def execBinit (f : RForm) (s : State) : Host.Outcome State Fault Refusal :=
  run (.binit f) s fun s k t => afterEngines (.binit f) s k t (binitAct f)

/-- BWAIT, MOD 0 (19 R452). -/
def execBwait (f : RForm) (s : State) : Host.Outcome State Fault Refusal :=
  run (.bwait f) s fun s k t => afterEngines (.bwait f) s k t (bwaitAct f)

/-- BWAIT_ARM, MOD 1 (19 R452). -/
def execBwaitArm (f : RForm) (s : State) : Host.Outcome State Fault Refusal :=
  run (.bwaitArm f) s fun s k t => afterEngines (.bwaitArm f) s k t (bwaitArmAct f)

/-- BWAIT_DISARM, MOD 2 (19 R452). -/
def execBwaitDisarm (f : RForm) (s : State) : Host.Outcome State Fault Refusal :=
  run (.bwaitDisarm f) s fun s k t => afterEngines (.bwaitDisarm f) s k t (bwaitDisarmAct f)

/-- BTEST (19 R453). -/
def execBtest (f : RForm) (s : State) : Host.Outcome State Fault Refusal :=
  run (.btest f) s fun s k t => afterEngines (.btest f) s k t (btestAct f)

/-- A barrier instruction of this clk, behind its engines' updates (19 R450). -/
def settleBar (s : State) (q : Nat × Instr) : State :=
  match thr s q.1 with
  | none => s
  | some t =>
    if t.run ≠ .ready then s
    else
      match q.2 with
      | .binit f => conclude s q.1 (wordsOf q.2) t (binitAct f s q.1 t)
      | .bwait f => conclude s q.1 (wordsOf q.2) t (bwaitAct f s q.1 t)
      | .bwaitArm f => conclude s q.1 (wordsOf q.2) t (bwaitArmAct f s q.1 t)
      | .bwaitDisarm f => conclude s q.1 (wordsOf q.2) t (bwaitDisarmAct f s q.1 t)
      | .btest f => conclude s q.1 (wordsOf q.2) t (btestAct f s q.1 t)
      | _ => s

/-- A phase has completed at the object at an address: those that await the new phase are released, those armed are told
(19 R452). -/
def barComplete (s : State) (addr loc : Nat) : State :=
  let s1 := (waiters s (fun _ _ w => w.kind == .barrier && w.key == loc && w.arg.toNat == barPhase s loc)).foldl (fun a q =>
    match thr a q.1 with
    | none => a
    | some t =>
      let fig := portFigure a q.1 (.scratch ((addr - 0x8000000000000) / 2 ^ 32) loc)
      let r := acquireAt a q.1 t 3
      finishWait r.1 q.1 [(q.2.dst, q.2.arg)] (a.clk + fig) (a.clk + fig + r.2)) s
  let s2 := s1.threads.foldl (fun a q =>
    if q.2.barArm = some (wd addr) then
      announce (modThr a q.1 (fun t => { t with barArm := none })) q.1 (uiWord 3 0) (wd addr)
    else a) s1
  s2.husks.foldl (fun a q =>
    if q.2.image.barArm = some (wd addr) then
      announceTo { a with husks := a.husks.modify q.1 (fun h => { h with image := { h.image with barArm := none } }) } (huskKey q.1)
        (uiWord 3 0) (wd addr)
    else a) s2

/-- Bytes of a chunk land at the object at an address of partition p: the engine's indivisible update (14 R329). -/
def barLand (s : State) (p chain view addr loc n : Nat) : State :=
  let e := barExpected s loc
  let landed := barLanded s loc + n
  if e = 0 then postView s p 0x3F 1 (0x8000 + chain) (wd addr) view
  else if landed < e then portWrote (wrMemN s (loc + 8) 8 (landed + barPhase s loc * 2 ^ 63)) p 0 (loc + 8) 8
  else
    let s1 := if e < landed then postView s p 0x56 1 (0x8000 + chain) (wd addr) view else s
    barComplete (portWrote (wrMemN s1 (loc + 8) 8 ((1 - barPhase s loc) * 2 ^ 63)) p 0 (loc + 8) 8) addr loc

/-! Chain sequences (19 R454). -/

def doneSeq (s : State) (n : Nat) : Nat := ctlF s (chainBase n + 0x10) 0 32
def kickSeq (s : State) (n : Nat) : Nat := ctlF s (chainBase n + 8) 32 32

/-- (x − y) mod 2^32. -/
def seqDiff (x y : Nat) : Nat := (x + 2 ^ 32 - y % 2 ^ 32) % 2 ^ 32

/-- Chain n has recorded sequence b. -/
def seqDone (s : State) (n b : Nat) : Bool := seqDiff (doneSeq s n) b < 2 ^ 31

/-- SEQWAIT (19 R454). -/
def execSeqwait (f : RForm) (s : State) : Host.Outcome State Fault Refusal :=
  run (.seqwait f) s fun s k t =>
    let i := readG s t f.a.toNat
    let b := opbReg s t f
    let n := i.toNat
    if 128 ≤ n ∨ 2 ^ 32 ≤ b.toNat then .trap s 0x07 i
    else if chainState s n = 0 then .trap s 0x52 i
    else if !t.host && chainPart s n != partOf t then .trap s 0x59 i
    else if seqDone s n b.toNat then
      let q := acquireAt s k t 3
      .next (holdUntil (scored q.1 k 24 f.d (wd (doneSeq s n))) k (s.clk + 24 + q.2))
    else .wait s { kind := .sequence, key := n, arg := b, cause := 0x3D }

end Sys2Proof.Machine
end

