-- ==== Sys2Proof/Machine/Groups.lean ====
section
/-! DEFINITION. Groups and their barriers (17 R403 to R405), twin buffers and publish (17 R409 to R411; 11 R261; 20 R471). -/

namespace Sys2Proof.Machine

/-! Groups. -/

/-- A group's phase is evaluated once, at the end of the clk (17 R405). -/
def groupTouch (s : State) (key : Nat) : State := { s with groupOps := key :: s.groupOps.filter (fun x => x != key) }

/-- Threads that wait in gbar of a group. -/
def groupWaiters (s : State) (key : Nat) : List (Nat × Wait) := waiters s (fun _ _ w => w.kind == .group && w.key == key)

/-- Every member of the new phase is counted. -/
def countMembers (s : State) (key : Nat) : State :=
  s.threads.foldl (fun a q =>
    if !q.2.host && partOf q.2 == key / 256 && (q.2.groups.get? (key % 256)).isSome then
      modThr a q.1 (fun t => { t with groups := t.groups.put (key % 256) true })
    else a)
    { s with husks := s.husks.map (fun q =>
        if partOf q.2.image == key / 256 && (q.2.image.groups.get? (key % 256)).isSome then
          (q.1, { q.2 with image := { q.2.image with groups := q.2.image.groups.put (key % 256) true } })
        else q) }

/-- The evaluation of a phase (17 R405): a released thread acquires and issues from 8 clk later. -/
def settleGroup (s : State) (key : Nat) : State :=
  let ws := groupWaiters s key
  if ws.isEmpty || groupArrived s key != groupCounted s key then s
  else
    let m := groupMembers s key
    let ph := (groupPhase s key + 1) % 2 ^ 32
    let s1 := countMembers (setGroup (wrCtl s (groupAt key + 8) (wd ph)) key m m 0) key
    ws.foldl (fun a q =>
      match thr a q.1 with
      | none => a
      | some t =>
        let r := acquireAt a q.1 t 3
        finishWait r.1 q.1 [(q.2.dst, wd ph)] (a.clk + 8) (a.clk + 8)) s1

def settleGroups (s : State) : State := { s.groupOps.foldl settleGroup s with groupOps := [] }

/-- Leaves a group: MEMBERS, COUNTED where it was counted, ARRIVED where it waited (17 R404). -/
def leaveGroup (s : State) (k : Nat) (t : Thread) (n : Nat) (waiting : Bool) : State :=
  match t.groups.get? n with
  | none => s
  | some counted =>
    let key := partOf t * 256 + n
    let c := if counted then 1 else 0
    let s1 := setGroup s key (groupMembers s key - 1) (groupCounted s key - c)
      (groupArrived s key - (if waiting then c else 0))
    groupTouch (modThr s1 k (fun u => { u with groups := u.groups.del n })) key

/-- A thread that ends leaves each of its groups. -/
def leaveGroups (s : State) (k : Nat) (t : Thread) : State :=
  t.groups.foldl (fun a q =>
    let waiting := match waitOf t with
      | some w => w.kind == .group && w.key == partOf t * 256 + q.1
      | none => false
    leaveGroup a k t q.1 waiting) s

/-- Carries on with the group number in gpr(A). -/
def withGroup (s : State) (t : Thread) (i : Instr) (f : Nat → Act) (v : Word) : Act :=
  if t.host then .trap s 0x07 (formInfo i) else if 256 ≤ v.toNat then .trap s 0x07 v else f v.toNat

/-- What gjoin does at the group port (17 R404): a member from the next phase on. The port applies the leaves of its clk first, so
one that finds the group full looks again at the clk's end (17 R405). -/
def joinAct (last : Bool) (f : RForm) (s : State) (k : Nat) (t : Thread) : Act :=
    let v := readG s t f.a.toNat
    withGroup s t (.gjoin f) (fun n =>
      let key := partOf t * 256 + n
      if (t.groups.get? n).isSome then .trap s 0x07 v
      else if 16 ≤ t.groups.length then .trap s 0x39 (wd (2 ^ 63 + n))
      else if groupMembers s key = 8192 then (if last then .trap s 0x39 v else .gone { s with barOps := s.barOps ++ [(k, .gjoin f)] })
      else
        let s1 := setGroup s key (groupMembers s key + 1) (groupCounted s key) (groupArrived s key)
        let s2 := groupTouch (modThr s1 k (fun u => { u with groups := u.groups.put n false })) key
        .next (holdUntil s2 k (s.clk + 24))) v

/-- GJOIN (17 R404). -/
def execGjoin (f : RForm) (s : State) : Host.Outcome State Fault Refusal :=
  run (.gjoin f) s fun s k t => joinAct (redundOf t != 0) f s k t

/-- The instructions of this clk that act at its end, in the order of their issue: joins behind leaves (17 R405), barrier
instructions behind the engines' updates (19 R450). -/
def settleLate (s : State) (q : Nat × Instr) : State :=
  match q.2 with
  | .gjoin f =>
    match thr s q.1 with
    | some t => if t.run = .ready then conclude s q.1 (wordsOf q.2) t (joinAct true f s q.1 t) else s
    | none => s
  | _ => settleBar s q

def settleBars (s : State) : State := { s.barOps.foldl settleLate s with barOps := [] }

/-- GLEAVE (17 R404). -/
def execGleave (f : RForm) (s : State) : Host.Outcome State Fault Refusal :=
  run (.gleave f) s fun s k t =>
    let v := readG s t f.a.toNat
    withGroup s t (.gleave f) (fun n =>
      if (t.groups.get? n).isNone then .trap s 0x38 v
      else .next (holdUntil (leaveGroup s k t n false) k (s.clk + 24))) v

/-- GBAR (17 R404): a release at device scope, the arrival, and the wait for the phase. -/
def execGbar (f : RForm) (s : State) : Host.Outcome State Fault Refusal :=
  run (.gbar f) s fun s k t =>
    let v := readG s t f.a.toNat
    withGroup s t (.gbar f) (fun n =>
      let key := partOf t * 256 + n
      if (t.groups.get? n).isNone then .trap s 0x38 v
      else
        wbAct (releaseAt s k t 3) fun s1 at_ =>
          let one := if t.groups.get? n = some true then 1 else 0
          let s2 := groupTouch (setGroup s1 key (groupMembers s1 key) (groupCounted s1 key) (groupArrived s1 key + one)) key
          .wait (holdUntil s2 k at_) { kind := .group, key := key, dst := f.d.toNat, cause := 0x36 }) v

/-! Twin buffers. -/

/-- The swap of an entry's selector, at one point in the device's order (11 R261; 17 R410). -/
def swapTwin (s : State) (p e : Nat) : State :=
  let a := twinEnt p e
  let s1 := setCtlF s (a + 0x10) 32 8 (1 - twinSel s p e % 2)
  setCtlF s1 (a + 0x18) 0 32 (ctlF s1 (a + 0x18) 0 32 + 1)

def pubCount (s : State) (p e : Nat) : Nat := ctlF s (twinEnt p e + 0x18) 0 32

/-- The device's role: 0 unpaired, 1 primary, 2 standby (20 R470). -/
def roleOf (s : State) : Nat := bits (s.dspr.getD rROLE 0) 0 2

/-- A published entry is replicated to the standby (20 R471): it is one device's, so of every partition's table only
partition 0's entry of that number is (Log 25). -/
def replicated (s : State) (p e : Nat) : Bool :=
  p == 0 && 2 ≤ e && e < 64 && ctlF s (testaBase + 0x20) e 1 == 1 && ctlF s testaBase 2 1 == 1 && roleOf s == 1

/-- A publish is performed: the swap, and the replication engine's send of the newly current buffer. -/
def doPublish (s : State) (p e : Nat) : State :=
  let s1 := swapTwin s p e
  if replicated s p e then
    sched { s1 with sending := s1.sending.put e (nowStamp s1, 0) } (s1.clk + 1) (.replicationSend e)
  else s1

/-- The clk a swap takes from a thread's core (17 R410). -/
def swapTime (s : State) (k e : Nat) : Nat := if e < 2 then portFigure s k (.pim 0) else 120

/-- PUBLISH (17 R410). -/
def execPublish (f : RForm) (s : State) : Host.Outcome State Fault Refusal :=
  run (.publish f) s fun s k t =>
    let v := readG s t f.a.toNat
    let e := v.toNat
    let p := if t.host then 0 else partOf t
    if 256 ≤ e ∨ twinValid s p e = false then .trap s 0x07 v
    else if e = 0 ∧ cycleEn s = true then .trap s 0x07 v
    else if e = 1 ∧ !t.host && partOf t != 0 then .trap s 0x07 v
    else if viewOf t ≠ 0 then
      if e = 1 then
        match holdOp s (partOf t) (viewOf t) ⟨2, e, 0, 0, 0, [], t.pc, k⟩ with
        | none => .trap s 0x42 0
        | some s1 => .next (scored s1 k 4 f.d (wd (twinSel s p e)))
      else .trap s 0x4B v
    else if (s.sending.get? e).isSome && p == 0 then .wait s { kind := .replication, key := e, cause := 0x57, info := v }
    else
      wbAct (releaseAt s k t 4) fun s1 at_ =>
        .wait { s1 with pubOps := s1.pubOps ++ [⟨k, p, e, at_ + swapTime s1 k e⟩] } { kind := .port, key := e, dst := f.d.toNat, info := v }

/-- A publish reaches its port (17 R410): PENDING is tested, the swap is made, D is written and the thread goes on. One that finds
the entry's last send under way waits by R471. -/
def publishAt (s : State) (o : PubOp) : State :=
  match (thr s o.who).bind waitOf with
  | none => s
  | some w =>
    if w.kind ≠ .port then s
    else if twinPending s o.part o.entry ≠ 0 then failWait s o.who w 0x57 w.info
    else if (s.sending.get? o.entry).isSome && o.part == 0 then modThr s o.who (fun t => { t with run := .ready })
    else
      let s1 := doPublish s o.part o.entry
      finishWait s1 o.who [(w.dst, wd (twinSel s1 o.part o.entry))] s1.clk s1.clk

/-- The publishes that reach their ports in this clk, host cores last. -/
def insPub (o : PubOp) : List PubOp → List PubOp
  | [] => [o]
  | x :: r => if x.who ≤ o.who then x :: insPub o r else o :: x :: r

def settlePubs (s : State) : State :=
  ((s.pubOps.filter (fun o => o.at_ ≤ s.clk)).foldl (fun l o => insPub o l) []).foldl publishAt
    { s with pubOps := s.pubOps.filter (fun o => s.clk < o.at_) }

end Sys2Proof.Machine
end

