-- ==== Sys2Proof/Machine/Queues.lean ====
section
/-! DEFINITION. Channels (13 R309 to R311; 17 R406), mailboxes, posts and fault replies (13 R312 to R316; 10 R236 to R239),
the watchdog (19 R457). -/

namespace Sys2Proof.Machine

/-! Channels, by key partition × 1024 + channel. -/

def chanKey (p c : Nat) : Nat := p * 1024 + c

/-- Node and TID of an endpoint. -/
def chanEnd (s : State) (p c : Nat) (reader : Bool) : Word × Nat :=
  let e := chanEnt p c
  if reader then (rdCtl s (e + 8), ctlF s (e + 0x10) 32 32) else (rdCtl s e, ctlF s (e + 0x10) 0 32)

def endMatches (p : Nat) (x : Word × Nat) (t : Thread) : Bool :=
  !t.host && partOf t == p && nodeAddr t == x.1 && bits (getSpr t rTID) 0 32 == x.2

/-- The endpoint of an enabled channel: the matching thread placed earliest, a husk included (17 R406), by key; a husk's key
is 2^20 and its address. -/
def chanEndpoint (s : State) (p c : Nat) (reader : Bool) : Option Nat :=
  if chanEn s p c = false then none
  else
    let x := chanEnd s p c reader
    let all := (s.threads.filter (fun q => endMatches p x q.2)).map (fun q => (q.2.placedAt, q.1)) ++
      (s.husks.filter (fun q => endMatches p x q.2.image)).map (fun q => (q.2.image.placedAt, 2 ^ 20 + q.1))
    (all.foldl (fun (b : Option (Nat × Nat)) q =>
      match b with
      | none => some q
      | some y => if q.1 < y.1 then some q else some y) none).map (fun q => q.2)

/-- The path between two endpoints' cores; a husk is on no core (Log 11). -/
def chanPath (a b : Nat) : Nat := if 2 ^ 20 ≤ a ∨ 2 ^ 20 ≤ b then 86 else coreFigure (coreOf a) (coreOf b)

def chanCredits (s : State) (key : Nat) : Nat := 16 - s.chanUsed.getD key 0
def chanWords (s : State) (key : Nat) : List Word := s.chanBuf.getD key []

/-- Carries on with the channel in gpr(A), used as an endpoint. -/
def withChannel (s : State) (k : Nat) (t : Thread) (v : Word) (ends : List Bool) (f : Nat → Act) : Act :=
  if t.host then .trap s 0x32 v
  else if viewOf t ≠ 0 then .trap s 0x4B v
  else if 1024 ≤ v.toNat then .trap s 0x07 v
  else if ends.any (fun r => chanEndpoint s (partOf t) v.toNat r == some k) then f (chanKey (partOf t) v.toNat)
  else .trap s 0x32 v

/-- CSEND (13 R310): a release at device scope; the word is on its way, or held until a reader is placed. -/
def execCsend (f : RForm) (s : State) : Host.Outcome State Fault Refusal :=
  run (.csend f) s fun s k t =>
    let v := readG s t f.a.toNat
    withChannel s k t v [false] fun key =>
      if chanCredits s key = 0 then .wait s { kind := .chanSend, key := key, cause := 0x30 }
      else
        wbAct (releaseAt s k t 3) fun s1 _ =>
          let s2 := { s1 with chanUsed := s1.chanUsed.put key (s1.chanUsed.getD key 0 + 1),
                              chanWay := s1.chanWay.put key (s1.chanWay.getD key [] ++ [(coreOf k, opbReg s t f)]) }
          .next (match chanEndpoint s2 (partOf t) v.toNat true with
            | some r => sched s2 (s.clk + chanPath k r) (.channelWordArrive (partOf t) v.toNat)
            | none => s2)

/-- CHANNEL_WORD_ARRIVE: the oldest word under way reaches the buffer (13 R310). -/
def execChannelWordArrive (part ch : Nat) (s : State) : Host.Outcome State Fault Refusal :=
  let key := chanKey part ch
  match s.chanWay.getD key [] with
  | [] => .next s
  | w :: r => .next { s with chanWay := s.chanWay.putD key [] r, chanBuf := s.chanBuf.put key (chanWords s key ++ [w.2]) }

/-- CRECV (13 R310): an acquire at device scope; the credit goes back. -/
def execCrecv (f : RForm) (s : State) : Host.Outcome State Fault Refusal :=
  run (.crecv f) s fun s k t =>
    let v := readG s t f.a.toNat
    withChannel s k t v [true] fun key =>
      match chanWords s key with
      | [] => .wait s { kind := .chanRecv, key := key, cause := 0x31 }
      | w :: r =>
        let s1 := { s with chanBuf := s.chanBuf.putD key [] r }
        let s2 := match chanEndpoint s1 (partOf t) v.toNat false with
          | some x => sched { s1 with chanBack := s1.chanBack.put key (s1.chanBack.getD key 0 + 1) } (s.clk + chanPath k x)
              (.channelCreditReturn (partOf t) v.toNat)
          | none => { s1 with chanUsed := s1.chanUsed.putD key 0 (s1.chanUsed.getD key 0 - 1) }
        let q := acquireAt s2 k t 3
        .next (holdUntil (scored q.1 k 10 f.d w) k (s.clk + q.2))

/-- CHANNEL_CREDIT_RETURN (13 R310). -/
def execChannelCreditReturn (part ch : Nat) (s : State) : Host.Outcome State Fault Refusal :=
  let key := chanKey part ch
  .next (if s.chanBack.getD key 0 = 0 then s
    else { s with chanBack := s.chanBack.putD key 0 (s.chanBack.getD key 0 - 1),
                  chanUsed := s.chanUsed.putD key 0 (s.chanUsed.getD key 0 - 1) })

/-- CPOLL (13 R311). -/
def execCpoll (f : RForm) (s : State) : Host.Outcome State Fault Refusal :=
  run (.cpoll f) s fun s k t =>
    let v := readG s t f.a.toNat
    withChannel s k t v [true, false] fun key =>
      if chanEndpoint s (partOf t) v.toNat true = some k then .next (scored s k 10 f.d (wd (chanWords s key).length))
      else .next (scored s k 4 f.d (wd (s.chanUsed.getD key 0)))

/-- Words held for a reader begin their way when it is placed (13 R310). -/
def channelsPlaced (s : State) (k : Nat) (t : Thread) : State :=
  let p := partOf t
  (s.chanWay.filter (fun q => q.1 / 1024 == p && 0 < chanHeld s p (q.1 % 1024))).foldl (fun a q =>
    if chanEndpoint a p (q.1 % 1024) true = some k then
      (q.2.drop (q.2.length - chanHeld a p (q.1 % 1024))).foldl (fun b w =>
        sched b (b.clk + coreFigure w.1 (coreOf k)) (.channelWordArrive p (q.1 % 1024))) a
    else a) s

/-! Mailboxes (13 R295, R312 to R316). -/

def mboxOf (s : State) (c : Nat) : Mailbox := s.mboxes.getD c ⟨[], 0, none⟩
def setMbox (s : State) (c : Nat) (m : Mailbox) : State := { s with mboxes := s.mboxes.putD c ⟨[], 0, none⟩ m }
def mboxFull (s : State) (c : Nat) : Bool := 16 ≤ (mboxOf s c).msgs.length + (mboxOf s c).reserved

/-- mbrecv's effect (13 R316): the oldest message leaves core c's mailbox and is written through ptr by plain stores. -/
def takeMessage (s : State) (k c : Nat) (t : Thread) (ptr : Word) (msg : List Byte) (rest : List (List Byte)) : Except Act State :=
  match ea t ptr 64 needW with
  | .error e => .error (.trap s e ptr)
  | .ok a =>
    match storeRange s k t ptr a msg with
    | .error e => .error (badAct e)
    | .ok g => .ok (noteStore (setMbox g.s c { mboxOf g.s c with msgs := rest }) k g)

/-- The receiver that waits first at core c: by the clk of its issue, then its context (13 R316). -/
def firstReceiver (s : State) (c : Nat) : Option (Nat × Wait) :=
  (waiters s (fun k _ w => w.kind == .mailRecv && !isHostKey k && coreOf k == c)).foldl
    (fun best q => match best with
      | none => some q
      | some b => if q.2.since < b.2.since ∨ (q.2.since = b.2.since ∧ q.1 < b.1) then some q else some b) none

/-- A waiting receiver takes the oldest message when it arrives: D is written 10 clk later. One whose stores meet a fault issues
its mbrecv again to take it. -/
def serveReceiver (s : State) (c : Nat) : State :=
  match firstReceiver s c, (mboxOf s c).msgs with
  | some (k, w), msg :: rest =>
    match thr s k with
    | none => s
    | some t =>
      match takeMessage s k c t w.arg msg rest with
      | .ok s1 => finishWait s1 k [(w.dst, wd rest.length)] (s.clk + 10) s.clk
      | .error _ => setThr s k { t with run := .ready, again := some w }
  | _, _ => s

/-- A message reaches core c's mailbox: its notifier is told, a waiting receiver takes it (13 R315, R316). -/
def mboxDeliver (s : State) (c : Nat) (msg : List Byte) : State :=
  let m := mboxOf s c
  let s1 := setMbox s c { m with msgs := m.msgs ++ [msg] }
  serveReceiver (match m.notifier with
  | some k => announceTo s1 k (uiWord 4 0) (wd (m.msgs.length + 1))
  | none => s1) c

/-- The messages that wait for core c's mailbox: service messages for the partitions whose service thread is on it. -/
def postsFor (s : State) (c : Nat) (h : Held) : Bool :=
  match h.part with
  | some p => (svcThread s p).map coreOf == some c
  | none => false

/-- The order of posts that a mailbox accepts in one clk: by cluster, a thread's message with that of its core; then the units of no
cluster; then the engines by chain (13 R315; 18 R420; Log 36). -/
def postRank (h : Held) : Nat :=
  let cause := fieldOf h.msg 0 1
  let src := fieldOf h.msg 1 1
  let c := fieldOf h.msg 4 2
  if cause = 0x24 ∨ cause = 0x25 ∨ cause = 0x53 ∨ cause = 0x54 then
    (if c < 128 then clusterOf c else if 0x8000 ≤ c ∧ c < 0xC000 then 17 + (c - 0x8000) else 16)
  else if src = 0 then clusterOf c
  else if src = 1 then 17 + (c - 0x8000)
  else if src ≤ 4 then c
  else 16

def insPost (h : Held) : List Held → List Held
  | [] => [h]
  | x :: r => if postRank h < postRank x then h :: x :: r else x :: insPost h r

def postOrder (l : List Held) : List Held := l.foldl (fun acc h => insPost h acc) []

/-- Mailbox c accepts what it can of the messages that a predicate picks, in order. -/
def acceptHeld (pick : State → Held → Bool) : List Held → State → Nat → State
  | [], s, _ => s
  | h :: r, s, c =>
    if pick s h && !mboxFull s c then acceptHeld pick r (mboxDeliver { s with posts := s.posts.erase h } c h.msg) c
    else acceptHeld pick r s c

/-- Held messages that a mailbox did not take at this try are repeated 256 clk later, each by its own count (13 R315; 10 R238). -/
def holdPosts (s : State) (pick : State → Held → Bool) (retry : Instr) : State :=
  let late (h : Held) : Bool := pick s h && decide (h.next ≤ s.clk)
  if s.posts.any late then
    sched { s with posts := s.posts.map (fun h => if late h then { h with next := s.clk + 256 } else h) } (s.clk + 256) retry
  else s

/-- POST_RETRY: the posts whose try is due are offered to the mailbox (13 R315). -/
def execPostRetry (core : Nat) (s : State) : Host.Outcome State Fault Refusal :=
  let pick (a : State) (h : Held) : Bool := postsFor a core h && decide (h.next ≤ a.clk)
  .next (holdPosts (acceptHeld pick (postOrder s.posts) s core) (fun a h => postsFor a core h) (.postRetry core))

/-- Kept messages of committed worlds for a core (16 R394). -/
def keptFor (c : Nat) (_ : State) (h : Held) : Bool := h.part == none && h.core == c

/-- HELD_MBSEND_RETRY: a committed mbsend that found its mailbox full is repeated every 256 clk (16 R394). -/
def execHeldMbsendRetry (core : Nat) (s : State) : Host.Outcome State Fault Refusal :=
  let pick (a : State) (h : Held) : Bool := keptFor core a h && decide (h.next ≤ a.clk)
  .next (holdPosts (acceptHeld pick s.posts s core) (keptFor core) (.heldMbsendRetry core))

/-- MAILBOX_ARRIVE: a message whose entry was reserved arrives (13 R313). -/
def execMailboxArrive (core _sender : Nat) (msg : List Byte) (s : State) : Host.Outcome State Fault Refusal :=
  let m := mboxOf s core
  .next (mboxDeliver (setMbox s core { m with reserved := m.reserved - 1 }) core msg)

/-- What is wrong with a destination word, in the order of R312's table. -/
def mbsendBad (s : State) (t : Thread) (i : Instr) (v : Word) : Option (Nat × Word) :=
  let target := bits v 0 16
  let port := bit v 16
  let range := target < 128 || (port && (inSpan target 0x8000 128 || inSpan target 0xC000 16))
  let sup := t.host || supOf t
  if bits v 17 47 ≠ 0 ∨ range = false then some (0x07, v)
  else if port && !sup then some (0x06, formInfo i)
  else if target < 128 && (gangOf s target == 0 || (partOfCore s target).isNone) then some (0x28, v)
  else if !sup && decide (target < 128) && !coreIn s (partOf t) target then some (0x06, v)
  else none

/-- A fault reply: its token, its action, and whether it is well formed (13 R314). -/
def replyOf (msg : List Byte) : Option (Word × Nat) :=
  let action := fieldOf msg 8 1
  if action ≤ 2 && allZero (msg.drop 9) then some (wd (fieldOf msg 0 8), action) else none

/-- Delivers a fault reply to a port (13 R314). -/
def sendReply (s : State) (at_ target : Nat) (msg : List Byte) : State :=
  match replyOf msg with
  | none => s
  | some (token, action) =>
    if 0xC000 ≤ target then sched s at_ (.dispatcherFaultReply (target - 0xC000) token action)
    else if 0x8000 ≤ target then sched s at_ (.chainFaultReply (target - 0x8000) token action)
    else sched s at_ (.faultReply target token action)

/-- The path from a sender to a core. -/
def mailFigure (k target : Nat) : Nat := if isHostKey k ∨ 128 ≤ target then 86 else coreFigure (coreOf k) target

/-- MBSEND (13 R312, R313; 16 R394). -/
def execMbsend (f : RForm) (s : State) : Host.Outcome State Fault Refusal :=
  run (.mbsend f) s fun s k t =>
    let v := readG s t f.a.toNat
    let ptr := readG s t f.b.toNat
    let target := bits v 0 16
    match mbsendBad s t (.mbsend f) v with
    | some e => .trap s e.1 e.2
    | none =>
      match ea t ptr 64 needR with
      | .error c => .trap s c ptr
      | .ok a =>
        if a % 8 ≠ 0 then .trap s 0x23 ptr
        else if viewOf t = 0 ∧ bit v 16 = false ∧ (mboxFull s target || s.posts.any (fun h => h.part == none && h.core == target && h.owner == k)) = true then
          .wait s { kind := .mailSend, key := target, cause := 0x3E, info := v }
        else
          match loadRange s k t ptr a 64 with
          | .error e => badAct e
          | .ok g =>
            if viewOf t ≠ 0 then
              match holdOp g.s (partOf t) (viewOf t) ⟨3, v.toNat, 64, 0, 0, g.bytes, t.pc, k⟩ with
              | none => .trap g.s 0x42 0
              | some s1 => .next s1
            else if bit v 16 then .next (sendReply g.s (s.clk + g.lat + mailFigure k target) target g.bytes)
            else
              let m := mboxOf g.s target
              let at_ := max (s.clk + g.lat + mailFigure k target) t.mailAt
              let s1 := modThr (setMbox g.s target { m with reserved := m.reserved + 1 }) k (fun u => { u with mailAt := at_ })
              .next (sched s1 at_ (.mailboxArrive target k g.bytes))

/-- The service thread's mbrecv restarts the watchdog (19 R457). -/
def petWatchdog (s : State) (k : Nat) (t : Thread) : State :=
  if svcThread s (partOf t) = some k ∧ (waitMark t).isNone then { s with wdog := s.wdog.put (partOf t) s.clk } else s

/-- MBRECV, MOD 0 (13 R316). -/
def execMbrecv (f : RForm) (s : State) : Host.Outcome State Fault Refusal :=
  run (.mbrecv f) s fun s k t =>
    let ptr := readG s t f.a.toNat
    if t.host then .trap s 0x07 (formInfo (.mbrecv f))
    else if viewOf t ≠ 0 then .trap s 0x43 ptr
    else
      match ea t ptr 64 needW with
      | .error c => .trap s c ptr
      | .ok a =>
        if a % 8 ≠ 0 then .trap s 0x23 ptr
        else
          let s0 := petWatchdog s k t
          match (mboxOf s0 (coreOf k)).msgs with
          | [] => .wait s0 { kind := .mailRecv, key := coreOf k, arg := ptr, dst := f.d.toNat, cause := 0x31 }
          | msg :: rest =>
            match takeMessage s0 k (coreOf k) t ptr msg rest with
            | .error a => a
            | .ok s1 => .next (scored s1 k 10 f.d (wd rest.length))

/-- The previous notifier's context, or 0xFFFF. -/
def notifierWord (m : Mailbox) : Word :=
  match m.notifier with
  | some k => wd (ctxOf k)
  | none => 0xFFFF

/-- Carries on with an arming or its end, which a host core and a world have not. -/
def withNotifier (s : State) (k : Nat) (t : Thread) (i : Instr) (d : BitVec 7) (f : Mailbox → Mailbox) : Act :=
  if t.host then .trap s 0x07 (formInfo i)
  else if viewOf t ≠ 0 then .trap s 0x43 0
  else
    let m := mboxOf s (coreOf k)
    .next (scored (setMbox s (coreOf k) (f m)) k 10 d (notifierWord m))

/-- MBRECV_ARM, MOD 1 (13 R316). -/
def execMbrecvArm (f : RForm) (s : State) : Host.Outcome State Fault Refusal :=
  run (.mbrecvArm f) s fun s k t => withNotifier s k t (.mbrecvArm f) f.d (fun m => { m with notifier := some k })

/-- MBRECV_DISARM, MOD 2 (13 R316). -/
def execMbrecvDisarm (f : RForm) (s : State) : Host.Outcome State Fault Refusal :=
  run (.mbrecvDisarm f) s fun s k t =>
    withNotifier s k t (.mbrecvDisarm f) f.d (fun m => if m.notifier = some k then { m with notifier := none } else m)

/-! Replies to translation faults (10 R236 to R239). -/

/-- A thread in a translation wait is ready to make its access again. -/
def wakeAccess (s : State) (k at_ : Nat) : State :=
  modThr s k (fun t => { t with run := .ready, again := waitOf t, earliest := max t.earliest at_ })

/-- TRANSLATION_WALK: a port's walk for a thread's access. An entry that grants the access is installed and the thread makes
its access; otherwise the fault goes by message and the thread waits for its reply (10 R236 to R238). -/
def execTranslationWalk (k : Nat) (va : Word) (kind : Nat) (s : State) : Host.Outcome State Fault Refusal :=
  match thr s k with
  | none => .next s
  | some t =>
    match waitOf t with
    | none => .next s
    | some w =>
      if w.kind ≠ .translation then .next s
      else
        match walkResult s (portOf k) (partOf t) va.toNat (kind % 8) with
        | .ok r => .next (wakeAccess r.2.2 k (s.clk + r.2.1))
        | .error e => .next (enterFault e.2.2 k w.words e.1 (kind % 8) (kind / 8) va.toNat e.2.1)

/-- FAULT_REPLY (10 R239): 0 the walk is repeated from the start, 1 the cause is taken as a trap, 2 the thread is killed; an unknown token is
discarded. -/
def execFaultReply (core : Nat) (token : Word) (action : Nat) (s : State) : Host.Outcome State Fault Refusal :=
  match s.tokens.get? token.toNat with
  | none => .next s
  | some (k, cause, addr) =>
    if 0x8000 ≤ k ∨ coreOf k ≠ core then .next s
    else
      let s1 := { s with tokens := s.tokens.del token.toNat }
      match (thr s1 k).bind (fun t => (waitOf t).map (fun w => (t, w))) with
      | none => .next s1
      | some (t, w) =>
        if w.kind ≠ .translation ∨ w.key ≠ token.toNat then .next s1
        else if action = 0 then
          let r := walkAgain s1 (portOf k) (partOf t) addr.toNat
          .next (sched r.1 (s1.clk + r.2) (.translationWalk k addr w.arg.toNat))
        else if action = 1 then .next (failWait s1 k w cause addr)
        else .next (killThread s1 k cause addr t.pc)

/-! The watchdog (19 R457; 18 R425). -/

/-- WATCHDOG_EXPIRY: when the count has reached WDOGLIM, the service thread takes 0x7E in its own slots, or is killed in its
handler; the count restarts. -/
def execWatchdogExpiry (part : Nat) (s : State) : Host.Outcome State Fault Refusal :=
  let lim := (sprPart s part rWDOGLIM).toNat
  let from_ := s.wdog.getD part 0
  if lim = 0 then .next s
  else if s.clk < from_ + lim then
    .next (sched (unsched s (fun i => i == .watchdogExpiry part)) (from_ + lim) (.watchdogExpiry part))
  else
    let s1 := sched { s with wdog := s.wdog.put part s.clk } (s.clk + lim) (.watchdogExpiry part)
    match svcThread s1 part with
    | none => .next s1
    | some k =>
      match thr s1 k with
      | none => .next s1
      | some t =>
        if thOf t then .next (killThread s1 k 0x7E t.pc t.pc)
        else .next (modThr s1 k (fun u => { u with deferred := u.deferred ++ [(0x7E, wd lim)] }))

end Sys2Proof.Machine
end

