-- ==== Sys2Proof/Machine/Slots.lean ====
section
/-! DEFINITION. Slot tables and slotw, the binding table and sbind, room for a thread on a core, parking (15 R339 to R345,
R351 to R359). -/

namespace Sys2Proof.Machine

/-! Cores under thermal pressure (15 R366 to R371). -/

def thermOn (s : State) : Bool := bit (thermmode s) 1
def packGate (s : State) : Bool := bit (thermmode s) 0

/-- A hot core under slot shedding; a scan partition is exempt (02 R49; 15 R371). -/
def coreSheds (s : State) (c : Nat) : Bool :=
  thermOn s && !packGate s && s.hot.getD c false && !(isScan s 0 && coreIn s 0 c)

def tempOf (s : State) (c : Nat) : Nat := ctlF s (tempBase + c / 8 * 8) (8 * (c % 8)) 8

/-- A gated core that nobody wakes yet. -/
def coreAsleep (s : State) (c : Nat) : Bool := s.gated.getD c false && (s.waking.get? c).isNone

/-! Slot tables (15 R351, R352). -/

def setSlot (s : State) (c i : Nat) (v : Word) : State := { s with slots := s.slots.putD (c * 16 + i) 0 v }

def slotKind (w : Word) : Nat := bits w 0 2
def slotCtx (w : Word) : Nat := bits w 2 6
def slotShare (w : Word) : Nat := bits w 8 4
def slotShedBit (w : Word) : Bool := bit w 15

/-- The fixed set of spacing 4 × 2^sp that starts at an entry. -/
def fixedSet (first sp : Nat) : List Nat :=
  if sp = 0 then [first, first + 4, first + 8, first + 12] else if sp = 1 then [first, first + 8] else [first]

def setMask (l : List Nat) : Nat := l.foldl (fun m i => m + 2 ^ i) 0

/-- Writes an entry and keeps its SHED. The tables of a scan partition are not written while the cycle domain runs (02 R49; Log 75). -/
def putSlot (s : State) (c i : Nat) (v : Word) : State :=
  if scanRuns s 0 && coreIn s 0 c then s
  else setSlot s c i (setBits v 15 1 (if slotShedBit (slotEntry s c i) then 1 else 0))

/-- A write of the dispatcher to a core's table takes effect at the next rotation index 0: until then the entries it changes act as
they stood (15 R355). -/
def dispSlots (s : State) (c : Nat) (f : State → State) : State :=
  let s1 := f s
  { s1 with slotNow := (upFrom 0 16).foldl (fun m i =>
      if slotEntry s c i = slotEntry s1 c i ∨ (m.get? (c * 16 + i)).isSome = true then m else m.put (c * 16 + i) (slotEntry s c i)) s1.slotNow }

/-- The entry that acts now. -/
def slotActs (s : State) (c i : Nat) : Word := (s.slotNow.get? (c * 16 + i)).getD (slotEntry s c i)

/-- The entries a context owns become empty, but for those of a set. -/
def emptySlots (s : State) (c x : Nat) (keep : List Nat) : State :=
  (upFrom 0 16).foldl (fun a i => if ownsSlot a c x i && !keep.contains i then putSlot a c i 0 else a) s

/-- A share's entries become empty. -/
def emptyShare (s : State) (c n : Nat) : State :=
  (upFrom 0 16).foldl (fun a i =>
    if slotKind (slotEntry a c i) == 2 && slotShare (slotEntry a c i) == n then putSlot a c i 0 else a) s

/-! Parking (15 R359; 06 R135; 08 R181). -/

/-- Parks a thread: its results are written first, a wait is withdrawn. -/
def parkThread (s : State) (k : Nat) (why : Park) : State :=
  modThr (withdrawWait s k) k fun t =>
    { settle t with run := .parked, again := none, park := why, earliest := max t.earliest (settleAt s t) }

/-- A parked thread resumes. -/
def resumeThread (s : State) (k at_ : Nat) : State :=
  modThr s k fun t => { t with run := .ready, park := .none, earliest := max t.earliest at_ }

/-- What a thread that lost an entry of its set, or that has one again, does (15 R352). -/
def settleSlots (s : State) (c x : Nat) : State :=
  let k := c * 64 + x
  match thr s k with
  | none => s
  | some t =>
    let own := slotMask s c x
    let whole := (upFrom 0 3).any (fun sp => (upFrom 0 (4 * 2 ^ sp)).any (fun i => setMask (fixedSet i sp) == own))
    if t.share.isSome then s
    else if whole then
      (if t.park = .noSlots then resumeThread s k s.clk else s)
    else
      let s1 := emptySlots s c x []
      if t.run = .ending ∨ t.run = .parked then s1 else parkThread s1 k .noSlots

/-- A slotw takes effect at a clk of rotation index 0, behind the dispatcher's writes (15 R354, R355): its result is the entry it found. SPACING follows the
set (02 R31). -/
def applySlotReq (s : State) (r : SlotReq) : State :=
  let old := slotEntry s r.core (r.set.headD 0)
  let before := (upFrom 0 64).filter (fun x => slotMask s r.core x != 0)
  let x := slotCtx r.value
  let s1 := if slotKind r.value = 1 then emptySlots s r.core x r.set else s
  let s2 := r.set.foldl (fun a i => putSlot a r.core i r.value) s1
  let s3 := if scanRuns s 0 && coreIn s 0 r.core then s
    else ((x :: before).eraseDups).foldl (fun a y => settleSlots a r.core y) s2
  let s4 := if slotKind r.value = 1 && !(scanRuns s 0 && coreIn s 0 r.core) then
      modThr s3 (r.core * 64 + x) (fun t => if t.share.isSome then t else setSpr t rSPACING (wd (16 / r.set.length)))
    else s3
  modThr s4 r.who fun t =>
    arrive { t with sb := t.sb.map (fun p => if p.id == r.id then { p with regs := p.regs.map (fun q => (q.1, old)) } else p) } r.id

/-- A rotation begins: the dispatcher's writes take effect, then those of slotw in the order of their arrival (15 R355). -/
def applySlotReqs (s : State) : State := { s.slotReq.foldl applySlotReq { s with slotNow := [] } with slotReq := [] }

/-- The partition whose rules bind a core's table. -/
def slotPart (s : State) (c : Nat) : Nat := (partOfCore s c).getD 0
/-- STATIC, which a scan partition has while the cycle domain runs (15 R353). -/
def slotStatic (s : State) (p : Nat) : Bool := bit (sprPart s p rSLOTBASE) 0 || scanRuns s p

/-- The slot spacing of a thread's node. -/
def nodeSpacing (s : State) (t : Thread) : Nat :=
  match t.node.bind (nodeOf s) with
  | some n => 4 * 2 ^ n.space
  | none => (getSpr t rSPACING).toNat

/-- The checks of slotw that both forms make (15 R354). -/
def slotBad (s : State) (t : Thread) (a : Word) (read : Bool) : Option (Nat × Word) :=
  if bit a 7 || bits a 14 50 != 0 || bits a 12 2 == 3 then some (0x07, a)
  else if !t.host && !coreIn s (partOf t) (bits a 0 7) then some (0x06, a)
  else if read && bits a 12 2 != 0 then some (0x07, a)
  else if !read && decide (4 * 2 ^ bits a 12 2 ≤ bits a 8 4) then some (0x07, a)
  else none

/-- The checks of the value a slotw writes. -/
def slotValueBad (s : State) (a v : Word) : Option (Nat × Word) :=
  let c := bits a 0 7
  let p := slotPart s c
  let x := slotCtx v
  let set := fixedSet (bits a 8 4) (bits a 12 2)
  if bits v 12 52 != 0 || slotKind v == 3 then some (0x07, v)
  else if scanRuns s p && coreIn s p c then some (0x1F, a)
  else if slotKind v == 2 && slotStatic s p then some (0x07, v)
  else if slotKind v == 1 && ((thr s (c * 64 + x)).map (fun t => decide (4 * 2 ^ bits a 12 2 < nodeSpacing s t))).getD false then
    some (0x07, v)
  else
    match svcThread s p with
    | some k =>
      if coreOf k == c && set.any (fun i => ownsSlot s c (ctxOf k) i) && !(slotKind v == 1 && x == ctxOf k) then some (0x07, v)
      else none
    | none => none

/-- SLOTW_WRITE (15 R354, R355): D arrives when the write takes effect. -/
def execSlotwWrite (f : RForm) (s : State) : Host.Outcome State Fault Refusal :=
  run (.slotwWrite f) s fun s k t =>
    let a := readG s t f.a.toNat
    let v := opbReg s t f
    match slotBad s t a false with
    | some e => .trap s e.1 e.2
    | none =>
      match slotValueBad s a v with
      | some e => .trap s e.1 e.2
      | none =>
        let c := bits a 0 7
        let set := fixedSet (bits a 8 4) (bits a 12 2)
        let id := s.nextId
        let regs := if f.d = 0 then [] else [(regId t f.d.toNat, slotEntry s c (bits a 8 4))]
        .next { modThr { s with nextId := id + 1 } k (fun u => { u with sb := u.sb ++ [⟨id, nextRot s.clk, regs, []⟩] }) with
                  slotReq := s.slotReq ++ [⟨c, set, v, k, id⟩] }

/-- SLOTW_READ, Q = 1 (15 R354). -/
def execSlotwRead (f : RForm) (s : State) : Host.Outcome State Fault Refusal :=
  run (.slotwRead f) s fun s k t =>
    let a := readG s t f.a.toNat
    match slotBad s t a true with
    | some e => .trap s e.1 e.2
    | none => .next (putScored s k (nextRot s.clk) [(f.d.toNat, slotActs s (bits a 0 7) (bits a 8 4))] [])

/-! The binding table (15 R339 to R345; 01 R11 to R15). -/

/-- The slabs that an entry's reference names. -/
def refSlabs (r : Nat × Nat) : List Nat := if r.1 = r.2 then [r.1] else [r.1, r.2]
def entrySlabs (w : Word) : List Nat := (slabRefs w).flatMap refSlabs

/-- A slab lies in the bond window of front end c (01 R12). -/
def inWindow (c slab : Nat) : Bool :=
  let row := slab / 18
  let col := slab % 18
  (row == c / 16 || row == Nat.xor (c / 16) 1) && c % 16 ≤ col && col ≤ c % 16 + 2

/-- References that are not empty come first. -/
def refsPacked (w : Word) : Bool :=
  (upFrom 0 4).all (fun k => (bits w (16 * k) 16 != 0xFFFF) == decide (k < (slabRefs w).length))

/-- Slabs bound across the device, a paired slab counting as one. -/
def boundSlabs (s : State) : Nat := s.binding.foldl (fun n q => n + (slabRefs q.2).length) 0

/-- What R341 asks of entry f. -/
def bindOk (s : State) (f : Nat) (v : Word) : Bool :=
  let refs := slabRefs v
  let slabs := entrySlabs v
  refsPacked v && [0, 1, 2, 4].contains refs.length &&
  refs.all (fun r => r.1 < 144 && r.2 < 144 &&
    (r.1 == r.2 || (r.1 / 18 == r.2 / 18 && (r.1 % 18 + 1 == r.2 % 18 || r.2 % 18 + 1 == r.1 % 18))) &&
    fuseGood s (2 * r.1) && fuseGood s (2 * r.2 + 1)) &&
  slabs.all (inWindow f) && slabs.eraseDups.length == slabs.length &&
  s.binding.all (fun q => q.1 == f || (entrySlabs q.2).all (fun x => !slabs.contains x)) &&
  (!bit (s.dspr.getD rBINDBASE 0) 1 || boundSlabs s - (slabRefs (bindEntry s f)).length + refs.length ≤ 32)

/-- A slab newly named reads as zero, with its bank registers and tags at reset (10 R217). -/
def resetSlab (s : State) (slab : Nat) : State :=
  let lo := 0x8000000000000 + slab * 524288
  let out (d k : Nat) : Bool := k < lo / d || (lo + 524288) / d ≤ k
  { s with mem := s.mem.filter (fun q => out 1 q.1), poison := s.poison.filter (fun q => out 32 q.1),
           badEcc := s.badEcc.filter (fun q => q.1 / 2 ^ 52 != 5 * 4096 + slab), fmtOld := s.fmtOld.filter (fun q => q.1 / 16 != slab),
           bankFmt := s.bankFmt.filter (fun q => q.1 / 16 != slab), tagTab := s.tagTab.filter (fun q => q.1 / 256 != slab) }

/-- SBIND_WRITE (15 R344, R345). -/
def execSbindWrite (f : RForm) (s : State) : Host.Outcome State Fault Refusal :=
  run (.sbindWrite f) s fun s k t =>
    let i := readG s t f.a.toNat
    let v := opbReg s t f
    let c := i.toNat
    let base := s.dspr.getD rBINDBASE 0
    if 128 ≤ c then .trap s 0x07 i
    else if bit base 0 then .trap s 0x06 i
    else if !t.host && partOf t != bits base 8 4 then .trap s 0x06 i
    else if bindOk s c v = false then .trap s 0x7A v
    else if s.threads.any (fun q => !q.2.host && coreOf q.1 == c) then .trap s 0x1F i
    else
      let old := bindEntry s c
      let fresh := (entrySlabs v).filter (fun x => !(entrySlabs old).contains x)
      let s1 := { s with binding := s.binding.putD c 0xFFFFFFFFFFFFFFFF v }
      let s2 := fresh.foldl resetSlab { s1 with dspr := s1.dspr.putD rBINDBASE 0 (setBits base 16 8 (boundSlabs s1)) }
      let lat := if fresh.isEmpty then 64 else 576
      .next (scored { s2 with bindBusy := s2.bindBusy.put c (s.clk + lat) } k lat f.d old)

/-- SBIND_READ, Q = 1 (15 R344). -/
def execSbindRead (f : RForm) (s : State) : Host.Outcome State Fault Refusal :=
  run (.sbindRead f) s fun s k t =>
    let i := readG s t f.a.toNat
    if 128 ≤ i.toNat then .trap s 0x07 i else .next (scored s k 64 f.d (bindEntry s i.toNat))

/-! Room for a thread (15 R357). -/

/-- The threads of a core. -/
def coreThreads (s : State) (c : Nat) : List (Nat × Thread) := s.threads.filter (fun q => !q.2.host && coreOf q.1 == c)

def ctxFree (s : State) (c x : Nat) : Bool := (thr s (c * 64 + x)).isNone

/-- A window of n of a core's places that overlaps none in use. -/
def windowFree (used : List (Nat × Nat)) (base n : Nat) : Bool :=
  used.all (fun u => u.2 = 0 || n = 0 || u.1 + u.2 ≤ base || base + n ≤ u.1)

/-- The lowest window of n of a core's places, in steps of a size, that overlaps none in use. -/
def carve (used : List (Nat × Nat)) (step total n : Nat) : Option Nat :=
  (firstFrom (fun i => i * step + n ≤ total && windowFree used (i * step) n) 0 (total / step + 1)).map (fun i => i * step)

def carveG (s : State) (c n : Nat) : Option Nat := carve ((coreThreads s c).map (fun q => (q.2.gbase, q.2.gsize))) 8 2048 n
def carveT (s : State) (c n : Nat) : Option Nat := carve ((coreThreads s c).map (fun q => (q.2.tbase, q.2.tcount))) 1 32 n

/-- An entry that is empty and not shed. -/
def slotFree (s : State) (c i : Nat) : Bool := bits (slotEntry s c i) 0 2 == 0 && !slotShedBit (slotEntry s c i)

def freeSet (s : State) (c sp : Nat) : Option Nat := firstFrom (fun i => (fixedSet i sp).all (slotFree s c)) 0 (4 * 2 ^ sp)

/-- Where a thread goes: context, windows, and its entries (none under STATIC, where it has them), or its share. -/
structure Room where
  ctx   : Nat
  gbase : Nat
  tbase : Nat
  set   : List Nat
  share : Option Nat
  deriving DecidableEq, Repr

/-- The share of a node on a core, by its members. -/
def nodeShare (s : State) (c node : Nat) : Option Nat :=
  ((coreThreads s c).find? (fun q => q.2.node == some node && q.2.share.isSome)).bind (fun q => q.2.share)

/-- The lowest share number that no thread of a core has; entries that slotw gave the number have waited for its share (15 R354,
R357). -/
def freeShare (s : State) (c : Nat) : Option Nat := firstFrom (fun n => (coreThreads s c).all (fun q => q.2.share != some n)) 0 16

/-- Slot entries for a thread of a node in a context: entries to write, and the share. -/
def findSlots (s : State) (c node share sp : Nat) : Option (List Nat × Option Nat) :=
  if share = 0 then (freeSet s c sp).map (fun i => (fixedSet i sp, none))
  else match nodeShare s c node with
    | some n => some ([], some n)
    | none =>
      let empty := (upFrom 0 16).filter (slotFree s c)
      match freeShare s c with
      | some n => if share ≤ empty.length then some (empty.take share, some n) else none
      | none => none

/-- Context x of a core owns a fixed set of a spacing code. -/
def ownsSet (s : State) (c x sp : Nat) : Bool := (upFrom 0 (4 * 2 ^ sp)).any (fun i => setMask (fixedSet i sp) == slotMask s c x)

/-- The entries of a thread in context x: none to write where slotw gave the context a set of its spacing, which waits for it (15
R354); a context that owns other entries, or shed ones, takes no thread, for a thread owns one set or no entry (15 R352; Log 80). -/
def ctxSlots (s : State) (c node share sp x : Nat) : Option (List Nat × Option Nat) :=
  if slotMask s c x = 0 then findSlots s c node share sp
  else if share = 0 ∧ ownsSet s c x sp = true ∧ (upFrom 0 16).all (fun i => !(ownsSlot s c x i && slotShedBit (slotEntry s c i))) = true then some ([], none)
  else none

/-- Room on core c for a thread with given windows, of a node with a share and a spacing code; want names a context. A core that
has no slab has no contexts (01 R13), and one that sheds slots takes no thread (15 R368). -/
def findRoom (s : State) (c p gsize tcount node share sp : Nat) (want : Option Nat) : Option Room :=
  let may (x : Nat) : Bool := ctxFree s c x && (want == none || want == some x) &&
    (if slotStatic s p then ownsSet s c x sp else (ctxSlots s c node share sp x).isSome)
  if gangOf s c = 0 ∨ coreSheds s c = true then none
  else
    match firstFrom may 0 64, carveG s c gsize, carveT s c tcount with
    | some x, some g, some t =>
      let q := if slotStatic s p then ([], none) else (ctxSlots s c node share sp x).getD ([], none)
      some ⟨x, g, t, q.1, q.2⟩
    | _, _, _ => none

/-- Writes the entries that a placement takes (15 R357). -/
def takeSlots (s : State) (c : Nat) (r : Room) : State :=
  let v : Word := match r.share with
    | some n => wd (2 + n * 256)
    | none => wd (1 + r.ctx * 4)
  if r.set.isEmpty then s else dispSlots s c (fun b => r.set.foldl (fun a i => putSlot a c i v) b)

/-- The entries of a thread that leaves its context go: its fixed ones unless STATIC holds, its share's with its last
member; the share's number keeps its last issuer (Log 80). -/
def leaveSlots (s : State) (k : Nat) (t : Thread) : State :=
  let c := coreOf k
  match t.share with
  | some n =>
    if (coreThreads s c).any (fun q => q.1 != k && q.2.share == some n) then s else dispSlots s c (fun a => emptyShare a c n)
  | none =>
    let svc := t.node.isNone
    if slotStatic s (partOf t) && !svc then s else dispSlots s c (fun a => emptySlots a c (ctxOf k) [])

/-! Segment values. -/

/-- A valid segment with base, limit and rights (R 1, W 2, X 4, A 8). -/
def mkSeg (base limit rights : Nat) : BitVec 128 := BitVec.ofNat 128 (base + 2 ^ 52 + limit * 2 ^ 64 + rights * 2 ^ 116)

/-- sg7 of a thread placed on core c (05 R118). -/
def windowSeg (s : State) (c : Nat) : BitVec 128 :=
  mkSeg (0x8000000000000 + c * 2 ^ 32) (524288 * gangOf s c - 1) 11

/-- A thread as placement leaves it (05 R113, R118, R123, R126). -/
def blankThread (s : State) (p c : Nat) (r : Room) (gsize tcount spacing : Nat) : Thread :=
  { host := false, pc := 0, gbase := r.gbase, gsize := gsize, tbase := r.tbase, tcount := tcount, gpr := [], tiles := [],
    segs := [], shadow := [],
    spr := Tab.putD (Tab.putD (Tab.putD (Tab.putD [] rCORE 0 (wd (logicalOf s p c))) rGANG 0 (wd (gangOf s c))) rSPACING 0
      (wd spacing)) rPARTITION 0 (wd p),
    uiq := [], uiAt := 0, uiNew := 0, again := none, trapDue := none, trapOld := none, run := .incoming, earliest := s.clk + 16, flight := [], sb := [], stamps := [], fpUntil := 0, mailAt := 0, stAccept := 0, stPerform := 0,
    groups := [], held := [], barArm := none, lastIssue := none, placedAt := s.clk, share := r.share, node := none, rival := 0,
    sprout := false, released := false, deferred := [], park := .none, auditSkip := false }

/-! A thread that moves (15 R361, R369): what names it follows it. -/

def renameThread (s : State) (a b : Nat) : State :=
  let f (x : Nat) : Nat := if x = a then b else x
  { s with objs := s.objs.map (fun q => (q.1, { q.2 with holders := q.2.holders.map f })),
           podOwner := s.podOwner.map (fun q => (q.1, f q.2)),
           tlNote := s.tlNote.map (fun q => (q.1, f q.2)),
           tokens := s.tokens.map (fun q => (q.1, (f q.2.1, q.2.2))),
           posts := s.posts.map (fun h => if h.part.isNone then { h with owner := f h.owner } else h),
           tlOps := s.tlOps.map (fun o => { o with who := o.who.map f }),
           pubOps := s.pubOps.map (fun o => { o with who := f o.who }),
           mboxes := s.mboxes.map (fun q => (q.1, { q.2 with notifier := q.2.notifier.map f })) }

/-- A context of a core becomes free; under pack and gate the core may be gated when it stays idle (15 R370). -/
def noteIdle (s : State) (c : Nat) : State :=
  let s1 := { s with idleAt := s.idleAt.put c s.clk }
  let w := thermmode s
  if bit w 0 && bit w 1 && (coreThreads s c).isEmpty then sched s1 (s.clk + bits w 32 16 * 256) (.coreGate c) else s1

/-- The dispatchers' next try: in this clk before any instruction issues, or in the next (15 R345: a placement comes before an
sbind of its clk). -/
def pokeDispatch (s : State) (p : Nat) : State :=
  if s.agenda.any (fun q => q.2 == .dispatchPlace p && q.1 ≤ s.clk) then s
  else sched (unsched s (fun i => i == .dispatchPlace p)) (if s.bpos = 0 then s.clk else s.clk + 1) (.dispatchPlace p)

end Sys2Proof.Machine
end

