-- ==== Sys2Proof/Machine/Worlds.lean ====
section
/-! DEFINITION. Worlds: forks, the ends of rivals, choices, commits with their outboxes, the background ends of views, shadow
frames, and the end of a thread by tend (16; 07 R161). -/

namespace Sys2Proof.Machine

/-! Pods (16 R375, R376). -/

def podCount (s : State) (p i : Nat) : Nat := ctlF s (podEnt p i) 24 8
def podEnded (s : State) (p i : Nat) : Nat := ctlF s (podEnt p i) 32 8
def podUns (s : State) (p i : Nat) : Bool := ctlF s (podEnt p i) 48 1 == 1
def podMask (s : State) (p i : Nat) : Word := rdCtl s (podEnt p i + 0x10)

/-- The index of a valid handle. -/
def podIndex (s : State) (p : Nat) (v : Word) : Option Nat :=
  let i := bits v 0 8
  if bits v 16 48 = 0 ∧ i ≠ 0 ∧ podState s p i ≠ 0 ∧ podHandle s p i = v.toNat then some i else none

def podOwnedBy (s : State) (p i k : Nat) : Bool := s.podOwner.getD (p * 256 + i) 0xFFFF == k

def viewPod (s : State) (p v : Nat) : Nat := ctlF s (viewEnt p v) 16 8
def viewRival (s : State) (p v : Nat) : Nat := ctlF s (viewEnt p v) 24 7
def viewScore (s : State) (p v : Nat) : Word := rdCtl s (viewEnt p v + 8)

/-- The view of rival j of a pod: a view that merges or is swept belongs to no pod any more. -/
def rivalView (s : State) (p i j : Nat) : Option Nat :=
  firstFrom (fun v => (viewState s p v == 1 || viewState s p v == 2) && viewKind s p v == 0 && viewPod s p v == i &&
    viewRival s p v == j) 1 1023

/-- The free view identifiers, lowest first. -/
def freeViews (s : State) (p : Nat) : List Nat := (upFrom 1 1023).filter (fun v => viewState s p v == 0)
def freePods (s : State) (p : Nat) : Option Nat := firstFrom (fun i => podState s p i == 0) 1 255

/-- Makes view v: PARENT, STATE 1, DEPTH, POD, RIVAL, KIND. -/
def openView (s : State) (p v parent depth pod rival kind : Nat) : State :=
  wrCtl (wrCtl s (viewEnt p v)
    (wd (parent + 2 ^ 10 + depth * 2 ^ 13 + pod * 2 ^ 16 + rival * 2 ^ 24 + kind * 2 ^ 32))) (viewEnt p v + 8) 0

/-- An identifier becomes free (16 R388, R393). -/
def closeView (s : State) (p v : Nat) : State :=
  let s1 := wrCtl (wrCtl s (viewEnt p v) 0) (viewEnt p v + 8) 0
  pokeDispatch { s1 with viewEnd := s1.viewEnd.del (p * 1024 + v), rwin := s1.rwin.del (p * 1024 + v),
                         viewPool := s1.viewPool.del (p * 1024 + v), viewFail := s1.viewFail.del (p * 1024 + v) } p

/-! fork (16 R377 to R380). -/

/-- A fork record's fields: ENTRY, WOFF, WSTRIDE, POOL, UNS, and whether it is well formed. -/
structure ForkRec where
  entry  : Nat
  woff   : Nat
  stride : Nat
  pool   : Nat
  uns    : Nat
  good   : Bool
  deriving DecidableEq, Repr

def forkRec (bs : List Byte) : ForkRec :=
  let pool := fieldOf bs 0x10 1
  let flags := fieldOf bs 0x11 1
  let stride := fieldOf bs 0x0C 4
  { entry := fieldOf bs 0 8, woff := fieldOf bs 8 4, stride := stride, pool := pool % 16, uns := flags % 2,
    good := decide (pool < 16) && decide (flags < 2) && allZero (bs.drop 0x12) && decide (fieldOf bs 0 8 < 2 ^ 52) &&
      stride % 64 == 0 }

/-- sg7 of a rival: its own part of the owner's window, or not valid. -/
def rivalSeg (t : Thread) (r : ForkRec) (j : Nat) : BitVec 128 :=
  if r.stride = 0 then 0
  else
    let g := segOf t 7
    BitVec.ofNat 128 (g.toNat / 2 ^ 116 * 2 ^ 116 + (r.stride - 1) * 2 ^ 64 + 2 ^ 52 +
      (segBase g + r.woff + (j - 1) * r.stride) % 2 ^ 52)

/-- The state rival j starts with (16 R380, 05 R126). -/
def rivalImage (t : Thread) (d words : Nat) (r : ForkRec) (handle view j : Nat) : Thread :=
  let u := setGpr (settle t) d (wd j)
  let u := setSpr (setSpr (setSpr u rVIEW (wd view)) rWDEPTH (wd (bits (getSpr t rWDEPTH) 0 3 + 1))) rPOD (wd handle)
  let u := setMode u 4 3 0
  { u with pc := if r.entry = 0 then pcAdd t.pc (4 * words) else wd r.entry,
           tiles := [], segs := u.segs.putD 7 0 (rivalSeg t r j), uiq := [], uiAt := 0, uiNew := 0, again := none, trapDue := none, trapOld := none, run := .incoming, flight := [], sb := [], stamps := [],
           fpUntil := 0, mailAt := 0, stAccept := 0, stPerform := 0, groups := [], held := [], barArm := none, lastIssue := none,
           rival := j, sprout := false, released := false, deferred := [], park := .none, auditSkip := false }

/-- The window a rival may reach (16 R381). -/
def rivalWindow (t : Thread) (r : ForkRec) (j : Nat) : Nat × Nat :=
  if r.stride = 0 then (0, 0) else (segBase (segOf t 7) + r.woff + (j - 1) * r.stride, r.stride)

/-- The pod and its views are made, and the rivals wait to be placed. -/
def forkPod (s : State) (k : Nat) (t : Thread) (d words : Nat) (r : ForkRec) (i : Nat) (vs : List Nat) : State × Nat :=
  let p := partOf t
  let gen := (podHandle s p i / 256 + 1) % 256
  let handle := i + gen * 256
  let depth := bits (getSpr t rWDEPTH) 0 3 + 1
  let s1 := wrCtl s (podEnt p i)
    (wd (handle + 2 ^ 16 + vs.length * 2 ^ 24 + r.pool * 2 ^ 40 + r.uns * 2 ^ 48))
  let s2 := wrCtl s1 (podEnt p i + 8) (wd (coreOf k + ctxOf k * 2 ^ 16 + viewOf t * 2 ^ 32))
  let s3 := wrCtl (wrCtl s2 (podEnt p i + 0x10) 0) (podEnt p i + 0x18) (nodeAddr t)
  let s4 := { s3 with podOwner := s3.podOwner.put (p * 256 + i) k }
  let node := t.node.getD 0
  let s5 := (vs.zip (upFrom 1 vs.length)).foldl (fun a q =>
    let b := openView a p q.1 (viewOf t) depth i q.2 0
    let w := rivalWindow t r q.2
    { b with rwin := b.rwin.put (p * 1024 + q.1) w, viewPool := b.viewPool.put (p * 1024 + q.1) r.pool,
             rivals := b.rivals ++ [⟨p, node, q.2, coreOf k, rivalImage t d words r handle q.1 q.2⟩] }) s4
  ({ s5 with nodes := s5.nodes.modify node (fun n => { n with live := n.live + vs.length }) }, handle)

/-- FORK (16 R379). -/
def execFork (f : RForm) (s : State) : Host.Outcome State Fault Refusal :=
  run (.fork f) s fun s k t =>
    let c := (readG s t f.a.toNat).toNat
    let ptr := readG s t f.b.toNat
    let p := partOf t
    if redundOf t ≠ 0 then .trap s 0x07 0
    else if c < 2 ∨ 64 < c then .trap s 0x49 (wd c)
    else
      match ea t ptr 32 needR with
      | .error e => .trap s e ptr
      | .ok a =>
        if a % 8 ≠ 0 then .trap s 0x23 ptr
        else
          match loadRange s k t ptr a 32 with
          | .error e => badAct e
          | .ok g =>
            let r := forkRec g.bytes
            let sg := segOf t 7
            if r.good = false then .trap g.s 0x07 ptr
            else if bits (getSpr t rWDEPTH) 0 3 = 4 then .trap g.s 0x44 (wd c)
            else if r.stride ≠ 0 ∧ (segValid sg = false ∨ segLimit sg + 1 < r.woff + c * r.stride) then .trap g.s 0x4A (wd c)
            else if poolEn g.s p r.pool = false then .trap g.s 0x41 (wd r.pool)
            else
              match freePods g.s p with
              | none => .trap g.s 0x40 (wd c)
              | some i =>
                let vs := freeViews g.s p
                if vs.length < c then .trap g.s 0x40 (wd c)
                else
                  wbAct (releaseAt g.s k t 3) fun s1 at_ =>
                    let q := forkPod s1 k t f.d.toNat (wordsOf (.fork f)) r i (vs.take c)
                    .next (sched (putScored q.1 k (at_ + 40) [(f.d.toNat, wd q.2)] []) at_ (.rivalPlace p))

/-! The end of a rival (16 R383). -/

/-- Some sprout of a view waits in a deque. -/
def sproutsOf (s : State) (p v : Nat) : Bool :=
  s.deques.any (fun q => q.2.any (fun x => x.view == v && ((nodeOf s x.node).map (fun n => n.part == p)).getD false))

/-- Some thread is in a view, on a core, as a husk, or waiting to be placed. -/
def threadsIn (s : State) (p v : Nat) : Bool :=
  s.threads.any (fun q => !q.2.host && partOf q.2 == p && viewOf q.2 == v) ||
  s.husks.any (fun q => partOf q.2.image == p && viewOf q.2.image == v) ||
  s.rivals.any (fun r => r.part == p && viewOf r.image == v)

/-- The rival thread of a view is gone by a kill: the threads still in the view, on a core or as husks, are killed. -/
def rivalKills (s : State) (p v : Nat) : State :=
  match s.viewEnd.get? (p * 1024 + v) with
  | some (_, true) =>
    let info := wd (podHandle s p (viewPod s p v))
    let mine (t : Thread) : Bool := !t.host && partOf t == p && viewOf t == v
    let s1 := s.threads.foldl (fun a q =>
      if mine q.2 && decide (q.2.run ≠ .ending) then killThread a q.1 0x4D info q.2.pc else a) s
    s1.husks.foldl (fun a q =>
      if mine q.2.image then
        killHusk (reportAway a p (rdMemN a (q.1 + 4) 2) (rdMemN a (q.1 + 6) 1) q.2.image info info false) q.1 q.2.image
      else a) s1
  | _ => s

/-- Whether a rival has ended; then its view is ended and its pod counts it. -/
def rivalCheck (s : State) (p v : Nat) : State :=
  if v = 0 ∨ viewKind s p v ≠ 0 ∨ viewState s p v ≠ 1 then s
  else
    match s.viewEnd.get? (p * 1024 + v) with
    | none => s
    | some (_, killed) =>
      if threadsIn s p v || sproutsOf s p v then s
      else
        let i := viewPod s p v
        let s1 := setCtlF (setViewState s p v 2) (podEnt p i) 32 8 (podEnded s p i + 1)
        if killed || viewFailed s p v then
          let s2 := setCtlF s1 (viewEnt p v) 31 1 1
          wrCtl s2 (podEnt p i + 0x10) (podMask s2 p i ||| wd (2 ^ (viewRival s p v - 1)))
        else s1

/-- Every chain entry kicked in a view has completed. -/
def chainsQuiet (s : State) (p v : Nat) : Bool :=
  (upFrom 0 128).all (fun n => !(chainState s n != 0 && chainPart s n == p && ctlF s (chainBase n + 0x18) 32 16 == v &&
    doneSeq s n != kickSeq s n))

/-- The rest of wend, and of a rival's tend: the score, the wait for the engines, the release, the end. -/
def wendAct (s : State) (k : Nat) (t : Thread) (score : Word) : Act :=
  let p := partOf t
  let s1 := wrCtl s (viewEnt p (viewOf t) + 8) score
  if chainsQuiet s1 p (viewOf t) then
    wbAct (releaseAt s1 k t 3) fun s2 at_ =>
      .gone (beginEnd (markRivalEnd (modThr s2 k (fun u => { u with stPerform := max u.stPerform at_ })) t false) k)
  else .wait s1 { kind := .wend, cause := 0x3D }

/-- WEND (16 R382). -/
def execWend (f : RForm) (s : State) : Host.Outcome State Fault Refusal :=
  run (.wend f) s fun s k t =>
    if podOf t = 0 ∨ t.rival = 0 then .trap s 0x48 0
    else if matBusy s k then .wait s { kind := .result, key := s.clk + 4 }
    else wendAct s k t (readG s t f.a.toNat)

/-- WJOIN (16 R384). -/
def execWjoin (f : RForm) (s : State) : Host.Outcome State Fault Refusal :=
  run (.wjoin f) s fun s k t =>
    let p := partOf t
    let h := readG s t f.a.toNat
    match podIndex s p h with
    | none => .trap s 0x07 h
    | some i =>
      if podOwnedBy s p i k = false then .trap s 0x45 h
      else if podEnded s p i < podCount s p i then
        .wait s { kind := .join, key := i, cause := 0x46, info := wd (2 ^ 63 + h.toNat) }
      else
        let s1 := setCtlF s (podEnt p i) 16 8 2
        let q := acquireAt s1 k t 3
        .next (holdUntil (scored q.1 k 8 f.d (podMask s1 p i)) k (s.clk + q.2))

/-! Outboxes (16 R394). -/

/-- A held operation is performed, as its owner's: the state, and the clk until it is accepted. A refusal drops it and is
posted. -/
def performOp (s : State) (k : Nat) (t : Thread) (op : OutOp) : State × Nat :=
  let u := { setSpr (setSpr t rVIEW 0) rPOD 0 with pc := op.pc }
  let refuse (cause : Nat) (info : Word) : State × Nat := (postThread s k u cause info op.pc, 0)
  let ptr := wd op.addr
  match op.kind with
  | 0 =>
    match storePiece s k u 0 ptr op.size op.addr op.msg with
    | .error (.trap _ c i) => refuse c i
    | .error (.msg _ c _ _ a _) => refuse c (wd a)
    | .ok g => (g.s, g.lat)
  | 1 =>
    match stampWrite s k u ptr (ofBytes op.msg) op.addr op.stamp op.data with
    | .bad (.trap _ c i) => refuse c i
    | .bad (.msg _ c _ _ a _) => refuse c (wd a)
    | .wb (.failed _ a) => refuse 0x2F (wd a)
    | .wb _ => (s, 0)
    | .behind _ h => refuse 0x6E (wd h)
    | .ok g => (g.s, g.lat)
  | 2 =>
    let e := op.addr
    let p := partOf t
    if twinPending s p e ≠ 0 then refuse 0x57 (wd e)
    else (doPublish s p e, swapTime s k e)
  | _ =>
    let target := bits ptr 0 16
    if bit ptr 16 then (sendReply s (s.clk + mailFigure k target) target op.msg, mailFigure k target)
    else if gangOf s target = 0 ∨ (partOfCore s target).isNone then refuse 0x28 ptr
    else if mboxFull s target || s.posts.any (fun h => h.part == none && h.core == target && h.owner == k) then
      (sched { s with posts := s.posts ++ [⟨target, none, k, op.msg, s.clk + 256⟩] } (s.clk + 256) (.heldMbsendRetry target), 0)
    else
      let m := mboxOf s target
      let at_ := max (s.clk + mailFigure k target) (((thr s k).map (fun x => x.mailAt)).getD 0)
      let s1 := modThr (setMbox s target { m with reserved := m.reserved + 1 }) k (fun x => { x with mailAt := at_ })
      (sched s1 at_ (.mailboxArrive target op.thread op.msg), at_ - s.clk)

/-- The entries of an outbox in order: the state, and the clk until the last is accepted. -/
def performOps (s : State) (k : Nat) (t : Thread) (ops : List OutOp) : State × Nat :=
  ops.foldl (fun acc op => let r := performOp acc.1 k t op; (r.1, max acc.2 r.2)) (s, 0)

/-! Commit (16 R386, R393, R394). -/

/-- Errors that the merge engine of the owner's cluster finds in a view's lines: the sectors of a line with an uncorrectable one
take poison along, and 0x4E is posted (16 R393). -/
def foldErrors (s : State) (k p v : Nat) : State :=
  if s.badEcc.isEmpty then s
  else (linesOf s p v).foldl (fun a pl =>
    let r := if pl < dramTop then readSectors a none p v 4 (sliceOf pl) (sectorsOf pl 64) else readSectors a none p v 6 0 (sectorsOf pl 64)
    if r.2.isEmpty then r.1
    else
      let b := (sectorsOf pl 64).foldl (fun (m : State) q => { m with poison := m.poison.put (sectorKey p v (q * 32)) true }) r.1
      postUnit b p 0x4E 3 (clusterOf (coreOf k)) (wd pl)) s

/-- View v becomes its parent's, at one point; its outbox goes to the parent's, or is performed as thread k's operations. The
answer holds the clk until those are accepted. -/
def commitView (s : State) (k : Nat) (t : Thread) (p v : Nat) : State × Nat :=
  let u := viewParent s p v
  let ops := s.outbox.getD (p * 1024 + v) []
  let s1 := foldLines (foldErrors s k p v) p v u
  let s2 := setViewState { s1 with outbox := s1.outbox.del (p * 1024 + v) } p v 3
  let s3 := sched s2 (s2.clk + sweepTime) (.viewFold p v)
  if u = 0 then performOps s3 k t ops
  else if ops.isEmpty then (s3, 0)
  else ({ s3 with outbox := s3.outbox.put (p * 1024 + u) (s3.outbox.getD (p * 1024 + u) [] ++ ops) }, 0)

/-- VIEW_FOLD: the fold of a committed view is done and its identifier is free (16 R393). -/
def execViewFold (part view : Nat) (s : State) : Host.Outcome State Fault Refusal :=
  .next (if viewState s part view = 3 then closeView s part view else s)

/-- VIEW_SWEEP: the sweep of a discarded view is done: its lines and shadow frames are gone (16 R388). -/
def execViewSweep (part view : Nat) (s : State) : Host.Outcome State Fault Refusal :=
  .next (if viewState s part view = 4 then closeView (dropLines (freeFrames s part view) part view) part view else s)

/-! choose (16 R385). -/

/-- Rivals of a pod that have not failed. -/
def soundRivals (s : State) (p i : Nat) : List (Nat × Nat) :=
  (upFrom 1 (podCount s p i)).filterMap (fun j =>
    match rivalView s p i j with
    | some v => if viewFailed s p v then none else some (j, v)
    | none => none)

/-- Rival a comes before rival b: the lesser score, then the lesser tie hash (04 R110). -/
def rivalBefore (s : State) (p : Nat) (uns : Bool) (seed : Word) (a b : Nat × Nat) : Bool :=
  let x := viewScore s p a.2
  let y := viewScore s p b.2
  if x = y then (tieHash seed (wd a.1)).toNat < (tieHash seed (wd b.1)).toNat
  else if uns then x.toNat < y.toNat else sgn x < sgn y

/-- The best rival, 0 when every one failed. -/
def bestRival (s : State) (p i : Nat) (seed : Word) : Nat :=
  match soundRivals s p i with
  | [] => 0
  | r :: rs => (rs.foldl (fun best x => if rivalBefore s p (podUns s p i) seed x best then x else best) r).1

/-- Commits rival j, or none, of pod i, and discards the others. -/
def chooseAct (s : State) (k : Nat) (t : Thread) (d : BitVec 7) (h : Word) (i j : Nat) : Act :=
  let p := partOf t
  let count := podCount s p i
  let view := if j = 0 then none else rivalView s p i j
  let out (v : Nat) : Nat := (s.outbox.getD (p * 1024 + v) []).length
  if viewOf t ≠ 0 ∧ 32 < out (viewOf t) + (view.map out).getD 0 ∧ view.isSome then .trap s 0x42 h
  else
    wbAct (releaseAt s k t 3) fun s1 at_ =>
      let q := match view with
        | some v => commitView s1 k t p v
        | none => (s1, 0)
      let s2 := (upFrom 1 count).foldl (fun a n =>
        match rivalView a p i n with
        | some v => discardView a p v h false
        | none => a) q.1
      let s3 := (acquireAt s2 k t 3).1
      let s4 := modThr (freePod s3 p i) k (fun u => setGpr u d.toNat (wd j))
      .next (holdUntil s4 k (at_ + max (40 + 2 * count) q.2))

/-- The checks both forms make. -/
def withPod (s : State) (k : Nat) (t : Thread) (h : Word) (f : Nat → Act) : Act :=
  let p := partOf t
  match podIndex s p h with
  | none => .trap s 0x07 h
  | some i =>
    if podOwnedBy s p i k = false then .trap s 0x45 h
    else if podState s p i ≠ 2 then .trap s 0x46 h
    else f i

/-- CHOOSE: Q = 0 (16 R385). -/
def execChoose (f : RForm) (s : State) : Host.Outcome State Fault Refusal :=
  run (.choose f) s fun s k t =>
    let h := readG s t f.a.toNat
    withPod s k t h fun i =>
      let b := opbReg s t f
      let p := partOf t
      if sgn b = -1 then chooseAct s k t f.d h i 0
      else if sgn b < 1 ∨ (podCount s p i : Int) < sgn b ∨ (soundRivals s p i).all (fun r => r.1 != b.toNat) = true then .trap s 0x47 b
      else chooseAct s k t f.d h i b.toNat

/-- CHOOSE_MIN: Q = 1 (16 R385). -/
def execChooseMin (f : RForm) (s : State) : Host.Outcome State Fault Refusal :=
  run (.chooseMin f) s fun s k t =>
    let h := readG s t f.a.toNat
    withPod s k t h fun i => chooseAct s k t f.d h i (bestRival s (partOf t) i (getSpr t rTIESEED))

/-! tend (07 R161). -/

/-- The comparisons of a pair that are still to be made. -/
def pairOpen (s : State) (k : Nat) (t : Thread) : Bool := (redQueue s.scb (coreOf k)).any (fun e => e.pair == pairOf t)

/-- TEND (07 R161; 16 R382, R401). Its wait for matrix work (09 R210) is bounded as a result's is (Log 61). -/
def execTend (f : ZForm) (s : State) : Host.Outcome State Fault Refusal :=
  run (.tend f) s fun s k t =>
    if !t.host && svcThread s (partOf t) == some k then .trap s 0x07 (formInfo (.tend f))
    else if matBusy s k then .wait s { kind := .result, key := s.clk + 4 }
    else if t.rival ≠ 0 then wendAct s k t (wd (2 ^ 63 - 1))
    else if redundOf t = 1 ∧ pairAlive s k t = true then redWait s 5 0
    else if redundOf t ≠ 0 ∧ pairOpen s k t = true then redMismatch s t
    else .gone (beginEnd s k)

/-! Shadow frames (16 R390 to R392). -/

/-- The lowest data frame of a pool that no map entry names. -/
def freeFrame (s : State) (p i : Nat) : Option Nat :=
  let m := poolMap s p i
  let used := (upFrom 0 (m * 128)).filterMap (fun j =>
    let e := poolBase s p i + 32 * j
    if rdMemN s e 8 / 2 ^ 63 = 1 then some (rdMemN s (e + 0x10) 4) else none)
  firstFrom (fun f => !used.contains f) m (poolFrames s p i - m)

/-- Drops one line version of a view. -/
def dropLine (s : State) (p v line : Nat) : State :=
  let inLine (d key : Nat) : Bool := verKey p v line / d ≤ key && key < (verKey p v line + 64) / d
  { s with vmem := s.vmem.filter (fun q => !inLine 1 q.1) }

/-- Moves one line of a view into the frame of a map entry. -/
def frameLine (s : State) (p v line e : Nat) : State :=
  let at_ := poolBase s p (rdMemN s (e + 0x14) 1 % 16) + rdMemN s (e + 0x10) 4 * 4096 + line % 4096
  let bytes := (upFrom line 64).map (ownByte s p v)
  let s1 := wrMemBytes (dropLine s p v line) at_ bytes
  let lines := rdMemN s1 (e + 8) 8
  let j := line / 64 % 64
  wrMemN s1 (e + 8) 8 (if lines / 2 ^ j % 2 = 1 then lines else lines + 2 ^ j)

/-- SHADOW_FRAME_WRITEOUT: a line of a view leaves L2: it is written to a shadow frame, or is lost with its view. -/
def execShadowFrameWriteout (part view line : Nat) (s : State) : Host.Outcome State Fault Refusal :=
  let pl := lineOf line
  if view = 0 ∨ (s.vmem.get? (verKey part view pl)).isNone then .next s
  else
    match shadowFind s part view (pl / 4096) with
    | some e => .next (frameLine s part view pl e)
    | none =>
      let i := poolOf s part view
      let lost := failView (dropLine s part view pl) part view (pl / 4096)
      if poolEn s part i = false ∨ poolMap s part i = 0 then .next lost
      else
        let b := shadowBucket s part i view (pl / 4096)
        match firstFrom (fun j => rdMemN s (b + 32 * j) 8 / 2 ^ 63 == 0) 0 8, freeFrame s part i with
        | some j, some fr =>
          let e := b + 32 * j
          let s1 := wrMemN (wrMemN (wrMemN s (e + 8) 8 0) (e + 0x10) 4 fr) (e + 0x14) 12 i
          let s2 := wrMemN s1 e 8 (pl / 4096 % 2 ^ 40 + view * 2 ^ 40 + 2 ^ 63)
          let s3 := setCtlF s2 (poolEnt part i + 8) 32 32 (ctlF s2 (poolEnt part i + 8) 32 32 - 1)
          .next (frameLine s3 part view pl e)
        | _, _ => .next lost

end Sys2Proof.Machine
end

