-- ==== Sys2Proof/Machine/Loader.lean ====
section
/-! DEFINITION. The loader (03 R82 to R84; 04 R111, R112; 02 R54): a kernel note's checks, and the promise computed from the
kernel's words. -/

namespace Sys2Proof.Machine

/-! The kernel note (03 R82). -/

def kernelGprs8 (q : Kernel) : Nat := fieldOf q.note 4 1
def kernelTiles (q : Kernel) : Nat := fieldOf q.note 5 1
def kernelSpace (q : Kernel) : Nat := fieldOf q.note 6 1
def kernelPromise (q : Kernel) : Nat := fieldOf q.note 3 1
def kernelCodelen (q : Kernel) : Nat := fieldOf q.note 0x18 4

/-- The address of a kernel's first instruction: ENTRY in its object's code section, as placed. -/
def kernelEntry (q : Kernel) : Word := q.base + wd (fieldOf q.note 0x10 8)

/-! The promise (04 R111, R112). -/

/-- An atomic whose returned old value depends on the order of arrival. -/
def rateOld (f : RForm) : Nat := if f.d = 0 then 2 else 0

/-- The rating of an instruction, by its words alone (04 R111). -/
def rateInstr (i : Instr) : Nat :=
  match i with
  | .vred f => if f.q = false ∧ tailMod f.t % 4 = 0 then 1 else 2
  | .faddaU _ => 0
  | .tscaddU _ => 0
  | .amoadd f => rateOld f
  | .amobit f => rateOld f
  | .amomin f => rateOld f
  | .amomax f => rateOld f
  | .fmaxa f => rateOld f
  | .amoswap _ => 0
  | .cas _ => 0
  | .btest _ => 0
  | .cpoll _ => 0
  | .fechk _ => 0
  | .rdptp _ => 0
  | .rdcyc _ => 0
  | .spawn _ => 0
  | .take _ => 0
  | _ => 2

/-- The instruction whose word 0 is w, as its words alone give it. -/
def rateWord (w : IWord) (ws : List IWord) : Nat :=
  let tail := ((tailOf (w.extractLsb' 0 2) ws).map (fun q => q.1)).getD .none
  ((build (opOf w) (bodyOf w) tail).map rateInstr).getD 2

/-- The lowest rating of the instructions of a code, one after another: each word 0 is followed as far as its LEN says, a reserved one
too (Log 74). -/
def rateCode : Nat → List IWord → Nat
  | 0, _ => 2
  | _, [] => 2
  | n + 1, w :: ws => min (rateWord w ws) (rateCode n (ws.drop (lenWords w - 1)))

/-- A kernel's computed promise. -/
def promiseOf (q : Kernel) : Nat := rateCode q.code.length q.code

/-! The checks (03 R84). -/

/-- The enabled cores of a partition, each once, in ascending order. -/
def enabledCores (s : State) (p : Nat) : List Nat :=
  (upFrom 0 128).filter (fun c => coreIn s p c && gangOf s c != 0)

/-- A kernel for the host profile, whose cores belong to no partition (20 R458). -/
def kernelHost (q : Kernel) : Bool := q.part == 16

/-- A FEAT bit names no feature, or one that the target profile lacks: the host's lacks bits 0 to 5 (03 R83). -/
def featLacks (q : Kernel) : Bool := decide (256 ≤ fieldOf q.note 8 8) || (kernelHost q && fieldOf q.note 8 8 % 64 != 0)

/-- The first status that applies: the fields, ISA, FEAT, the windows a core of the partition can carve, the spacing it can honour, and
the promise; a host core has its registers, no tiles and no slot table. A code that is not the CODELEN bytes from ENTRY is malformed
(Log 74). -/
def loaderStatus (s : State) (q : Kernel) : Nat :=
  if q.note.length ≠ 32 ∨ 1 < fieldOf q.note 2 1 ∨ fieldOf q.note 7 1 ≠ 0 ∨ fieldOf q.note 0x1C 4 ≠ 0 ∨ fieldOf q.note 0 1 = 0 ∨
      2 < kernelPromise q ∨ kernelGprs8 q = 0 ∨ 16 < kernelGprs8 q ∨ 32 < kernelTiles q ∨ 2 < kernelSpace q ∨
      q.length < fieldOf q.note 0x10 8 + kernelCodelen q ∨ 4 * q.code.length ≠ kernelCodelen q then 0x06
  else if 1 < fieldOf q.note 0 1 ∧ fieldOf q.note 2 1 = 0 then 0x01
  else if featLacks q = true then 0x02
  else if (if kernelHost q then kernelTiles q != 0 else (enabledCores s q.part).isEmpty) = true then 0x03
  else if kernelHost q = false ∧ slotStatic s q.part = true ∧ (enabledCores s q.part).any (fun c =>
      (upFrom 0 16).any (fun e => slotKind (slotEntry s c e) == 2) ||
        (upFrom 0 64).any (fun x => (upFrom (kernelSpace q) (3 - kernelSpace q)).any (fun sp => ownsSet s c x sp))) = false then 0x04
  else if promiseOf q < kernelPromise q then 0x05
  else 0

/-- The kernel whose entry a record names, among those that the loader accepts into the partition. -/
def kernelOf (s : State) (p : Nat) (entry : Word) : Option Kernel :=
  s.kernels.find? (fun q => q.part == p && kernelEntry q == entry && loaderStatus s q == 0)

end Sys2Proof.Machine
end

