-- ==== Sys2Proof/Machine/Nodes.lean ====
section
/-! DEFINITION. Node records and launch (13 R298 to R301), completion and successors (R302, R304), sprouts and deques (R305 to
R308; 02 R45, R46), and the end of a thread (02 R29). -/

namespace Sys2Proof.Machine

/-! launch (13 R301). -/

/-- A node record's fields as 128 bytes hold them; what launch takes into the device's own copy. -/
def nodeFrom (bs : List Byte) (vaddr : Word) : Node :=
  { vaddr := vaddr, part := fieldOf bs 0x40 1 % 16, entry := wd (fieldOf bs 0 8), args := wd (fieldOf bs 8 8),
    count := fieldOf bs 0x10 4, shapex := fieldOf bs 0x14 2, shapey := fieldOf bs 0x16 2, pri := fieldOf bs 0x18 1,
    flags := fieldOf bs 0x19 1, gprs8 := fieldOf bs 0x1A 1, tiles := fieldOf bs 0x1B 1, share := fieldOf bs 0x1C 1,
    space := fieldOf bs 0x1D 1, budget := fieldOf bs 0x1E 2, preds := fieldOf bs 0x20 4, succs := fieldOf bs 0x24 4,
    succlist := wd (fieldOf bs 0x28 8), stamp := fieldOf bs 0x30 6, tline := fieldOf bs 0x38 4 % 4096,
    tinc := fieldOf bs 0x3C 4, origin := fieldOf bs 0x42 2, deadline := fieldOf bs 0x48 4, state := fieldOf bs 0x50 1,
    lastst := 0, started := 0, ended := 0, sprouts := 0, first := 0, qclk := 0, nextTid := 0, inCycle := 0,
    stampin := fieldOf bs 0x30 6, view := 0, rollbacks := 0, held61 := false, missed := false, no40 := false, no7A := false,
    hint := 0, hintCore := 0, segs := [], promise := 0, live := 0, firstSet := false }

/-- The fields marked zero are zero. -/
def nodeZeros (bs : List Byte) : Bool :=
  decide (fieldOf bs 0 8 < 2 ^ 52) && decide (fieldOf bs 0x19 1 < 32) && fieldOf bs 0x36 2 == 0 &&
  decide (fieldOf bs 0x38 4 < 4096) && decide (fieldOf bs 0x40 1 < 16) && fieldOf bs 0x41 1 == 0 &&
  fieldOf bs 0x44 4 == 0 && fieldOf bs 0x4C 4 == 0

def nodeStagedFlag (n : Node) : Bool := n.flags % 2 == 1
def nodeRedundant (n : Node) : Bool := n.flags / 2 % 2 == 1
def nodeDeterministic (n : Node) : Bool := n.flags / 4 % 2 == 1
def nodeCycleBound (n : Node) : Bool := n.flags / 8 % 2 == 1
def nodeGang (n : Node) : Bool := n.flags / 16 % 2 == 1

/-- The tile tasks of a node that one core can ever hold at once (02 R41). -/
def coreCapacity (s : State) (n : Node) (c : Nat) : Nat :=
  let ctxs := if slotStatic s n.part then ((upFrom 0 64).filter (fun x => ownsSet s c x n.space)).length
    else if n.share = 0 then 4 * 2 ^ n.space else 64
  let each := min ctxs (min (256 / n.gprs8) (if n.tiles = 0 then 64 else 32 / n.tiles))
  if nodeRedundant n then each / 2 else each

def gangCapacity (s : State) (n : Node) : Nat :=
  [1, 2, 4].foldl (fun m g =>
    max m (((enabledCores s n.part).filter (fun c => gangOf s c == g)).foldl (fun a c => a + coreCapacity s n c) 0)) 0

/-- The first status that applies (13 R301). own: the partition that a device thread in user mode is held to; known: the STATE
the device or the record holds. -/
def launchStatus (s : State) (own : Option Nat) (bs : List Byte) (known : Nat) : Nat :=
  let n := nodeFrom bs 0
  let kn := kernelOf s n.part n.entry
  let below (f : Kernel → Bool) : Bool := (kn.map f).getD false
  let l := logicals s n.part
  if nodeZeros bs = false ∨ 7 < n.pri ∨ 16 < n.share then 0x01
  else if n.count = 0 ∨ n.count ≠ (if n.shapey = 0 then n.shapex else n.shapex * n.shapey) then 0x02
  else if 2 < n.space ∨ below (fun q => decide (n.space < kernelSpace q)) = true then 0x03
  else if n.gprs8 = 0 ∨ 16 < n.gprs8 ∨ 32 < n.tiles ∨ below (fun q => decide (n.gprs8 < kernelGprs8 q ∨ n.tiles < kernelTiles q)) = true ∨
      (l ≠ 0 ∧ enabledCores s n.part = []) then 0x04
  else if l = 0 ∨ (own.map (fun p => p != n.part)).getD false = true then 0x05
  else if nodeGang n = true ∧ gangCapacity s n < n.count then 0x06
  else if kn.isNone then 0x07
  else if ((n.budget ≠ 0 ∨ n.deadline ≠ 0) ∧ nodeCycleBound n = false) ∨ (nodeCycleBound n = true ∧ cycPeriodReg s = 0) then 0x08
  else if n.flags % 4 = 3 then 0x09
  else if l ≤ n.origin then 0x0A
  else if 1 ≤ known ∧ known ≤ 3 then 0x0B
  else if 4096 < n.succs ∨ n.succlist.toNat % 8 ≠ 0 ∨ 0x8000000000000 ≤ n.succlist.toNat ∨ 0x8000000000000 < n.succlist.toNat + 8 * n.succs then 0x0C
  else 0

/-- The record's location: the physical address found, or its place behind a port. -/
def recordLoc (s : State) (k : Nat) (t : Thread) (ptr : Word) (a : Nat) : Option Nat :=
  match place s t ptr 0 a 128 with
  | .ok (.dram va) => translateAny s (portOf k) (partOf t) va
  | .ok (.scratch _ loc) => some loc
  | .ok (.pim loc) => some loc
  | .ok (.pinned loc) => some loc
  | _ => none

/-- sg1 to sg6 of a partition's service thread, or what it would start with (05 R118; Log 26); a value that no segment register
takes is no segment (05 R115; Log 75). -/
def serviceSegs (s : State) (p : Nat) : Tab (BitVec 128) :=
  let live := (svcThread s p).bind (thr s)
  (upFrom 1 6).foldl (fun a i =>
    let g := match live with
      | some t => segOf t i
      | none =>
        let g := BitVec.ofNat 128 ((rdCtl s (partBase p + 0x200 + 16 * i)).toNat + (rdCtl s (partBase p + 0x208 + 16 * i)).toNat * 2 ^ 64)
        if segBad g then 0 else g
    a.putD i 0 g) []

/-- The placement preference of a launch (03 R70): the value, and the core it starts from. -/
def launchHint (k : Nat) (t : Thread) (hb : Nat) (a : Nat) : Nat × Nat :=
  match hb with
  | 1 => if t.host then (0, 0) else (1, coreOf k)
  | 2 => if t.host then (0, 0) else (2, coreOf k)
  | 3 => (3, 0)
  | 4 => if 0x8000000000000 ≤ a ∧ a < 0x9000000000000 then (1, (a - 0x8000000000000) / 2 ^ 32) else (0, 0)
  | _ => (0, 0)

/-- An accepted record becomes a node. -/
def acceptNode (s : State) (key : Nat) (bs : List Byte) (vaddr : Word) (hint : Nat × Nat) : State :=
  let n := nodeFrom bs vaddr
  let kn := kernelOf s n.part n.entry
  let seg0 := (kn.map (fun q => BitVec.ofNat 128 (q.base.toNat + 2 ^ 52 + (q.length - 1) * 2 ^ 64 + 5 * 2 ^ 116))).getD 0
  let m := { n with state := if n.preds = 0 then 2 else 1, qclk := if n.preds = 0 then s.clk else 0, hint := hint.1, hintCore := hint.2,
                    segs := (serviceSegs s n.part).putD 0 0 seg0, promise := (kn.map promiseOf).getD 0 }
  pokeDispatch (nodeReport { s with nodes := s.nodes.put key m } key) n.part

/-- LAUNCH (13 R301): the release of the launch edge, then the checks. -/
def execLaunch (f : RForm) (s : State) : Host.Outcome State Fault Refusal :=
  run (.launch f) s fun s k t =>
    let ptr := readG s t f.a.toNat
    if viewOf t ≠ 0 then .trap s 0x4B ptr
    else
      match ea t ptr 128 needRW with
      | .error c => .trap s c ptr
      | .ok a =>
        if a % 128 ≠ 0 then .trap s 0x23 ptr
        else
          match loadRange s k t ptr a 128 with
          | .error e => badAct e
          | .ok g =>
            wbAct (releaseAt g.s k t 3) fun s1 at_ =>
              match recordLoc s1 k t ptr a with
              | none => .blocked s1 0x24 0 128 a 0
              | some key =>
                let bs := (upFrom key 128).map (rdMem s1)
                let known := match nodeOf s1 key with
                  | some n => if 1 ≤ n.state ∧ n.state ≤ 3 then n.state else fieldOf bs 0x50 1
                  | none => fieldOf bs 0x50 1
                let own := if t.host || supOf t then none else some (partOf t)
                let st := launchStatus s1 own bs known
                let hb := ((tailExt f.t).map (fun e => e.hb.toNat)).getD 0
                let s2 := if st = 0 then acceptNode s1 key bs (wd a) (launchHint k t hb a)
                  else { wrMem s1 (key + 0x51) (BitVec.ofNat 8 st) with
                           nodes := s1.nodes.modify key (fun n => { n with lastst := st }) }
                .next (holdUntil (putScored s2 k (s.clk + g.lat + 24) [(f.d.toNat, wd st)] []) k at_)

/-! Completion (13 R302, R304; 02 R40). -/

/-- A fault on a successor's read, with its cause, goes by message once the walk has ended, and the rest of the list waits for the reply. -/
def succFault (p key : Nat) (addrs : List Word) (size addr : Nat) (e : Nat × Nat × State) : State :=
  let cause := e.1
  let s := e.2.2
  let token := s.nextId
  let msg := faultMessage cause 4 size (0xC000 + p) 0xFF addr token 0 0
  postLate { s with nextId := token + 1, tokens := s.tokens.put token (0xC000 + p, cause, wd addr),
                    succWait := s.succWait ++ [(p, key, addrs, token)] } p msg e.2.1

/-- What a completed predecessor does to the record at a location. -/
def succStep (s : State) (loc : Nat) : State :=
  match nodeOf s loc with
  | some m =>
    if m.state = 1 then
      if m.preds ≤ 1 then
        pokeDispatch (modNode s loc (fun n => { n with preds := 0, state := 2, qclk := s.clk })) m.part
      else modNode s loc (fun n => { n with preds := n.preds - 1 })
    else if m.state = 2 ∨ m.state = 3 then s
    else wrMemN s (loc + 0x20) 4 (rdMemN s (loc + 0x20) 4 - 1)
  | none => wrMemN s (loc + 0x20) 4 (rdMemN s (loc + 0x20) 4 - 1)

/-- Processes the list's addresses in order, until a read faults. -/
def runSuccs (p key : Nat) : List Word → State → State
  | [], s => s
  | a :: r, s =>
    match translate s 0 p a.toNat 0 with
    | .error e => succFault p key (a :: r) 8 a.toNat e
    | .ok (pa, _, s1) =>
      let v := ofBytes ((upFrom pa 8).map (rdMem s1)) % 2 ^ 52
      match translate s1 0 p v 0 with
      | .error e => succFault p key (a :: r) 4 v e
      | .ok (loc, _, s2) => runSuccs p key r (succStep s2 loc)

/-- The addresses of a node's successor list. -/
def succAddrs (n : Node) : List Word := (upFrom 0 n.succs).map (fun i => wd (n.succlist.toNat + 8 * i))

/-- Completion of a node whose work is all done: a staged node's view is committed first; then its timeline, then its
successors. k is the thread that ended last. -/
def nodeDone (s : State) (key k : Nat) (t : Thread) : State :=
  match nodeOf s key with
  | none => s
  | some n =>
    if n.state ≠ 3 ∨ n.nextTid < n.count ∨ n.live ≠ 0 ∨ n.sprouts ≠ 0 then s
    else
      let s1 := if nodeStaged n && n.view != 0 then (commitView s k t n.part n.view).1 else s
      let s2 := modNode s1 key (fun m => { m with state := 4, view := 0 })
      let s3 := if n.tinc = 0 then s2 else timelineCount s2 (n.part * 4096 + n.tline) 3 n.vaddr.toNat (wd n.tinc)
      pokeDispatch (runSuccs n.part key (succAddrs n) s3) n.part

/-- DISPATCHER_FAULT_REPLY (13 R302): 0 repeats the read, 1 and 2 end the processing; an unknown token is discarded. -/
def execDispatcherFaultReply (part : Nat) (token : Word) (action : Nat) (s : State) : Host.Outcome State Fault Refusal :=
  match s.succWait.find? (fun q => q.1 == part && q.2.2.2 == token.toNat) with
  | none => .next s
  | some (p, key, addrs, tk) =>
    let s1 := { s with succWait := s.succWait.filter (fun q => q.2.2.2 != tk), tokens := s.tokens.del tk }
    let s2 := match s.tokens.get? tk with
      | some x => (walkAgain s1 0 p x.2.2.toNat).1
      | none => s1
    .next (if action = 0 then runSuccs p key addrs s2 else s1)

/-! Sprouts (13 R305 to R308). -/

def dequeOf (s : State) (c : Nat) : List Sprout := s.deques.getD c []

/-- The next clk, from now on, whose count is a multiple of 64. -/
def next64 (n : Nat) : Nat := (n + 63) / 64 * 64

/-- Makes the local start of a core's deque due, and then the attempts of the other cores of its partition. -/
def armSprouts (s : State) (p c : Nat) : State :=
  let one (a : State) (i : Instr) : State := if a.agenda.any (fun q => q.2 == i) then a else sched a (next64 a.clk) i
  (enabledCores s p).foldl (fun a x => if x = c then a else one a (.sproutSteal x)) (one s (.sproutLocalStart c))

/-- SPAWN (13 R306). -/
def execSpawn (f : RForm) (s : State) : Host.Outcome State Fault Refusal :=
  run (.spawn f) s fun s k t =>
    match t.node with
    | none => .trap s 0x07 0
    | some key =>
      let ptr := readG s t f.a.toNat
      match ea t ptr 32 needR with
      | .error c => .trap s c ptr
      | .ok a =>
        if a % 8 ≠ 0 then .trap s 0x23 ptr
        else
          match loadRange s k t ptr a 32 with
          | .error e => badAct e
          | .ok g =>
            let pod := fieldOf g.bytes 0x18 2
            let c := coreOf k
            if allZero (g.bytes.drop 0x1A) = false ∨ 2 ^ 52 ≤ fieldOf g.bytes 0 8 then .trap g.s 0x07 (wd a)
            else if pod ≠ podOf t then .trap g.s 0x4C (wd pod)
            else if 64 ≤ (dequeOf g.s c).length then .trap g.s 0x37 0
            else
              let d := dequeOf g.s c ++ [⟨g.bytes, key, viewOf t, bits (getSpr t rWDEPTH) 0 3, podOf t⟩]
              let s1 := modNode { g.s with deques := g.s.deques.put c d } key (fun n => { n with sprouts := n.sprouts + 1 })
              .next (scored (armSprouts s1 (partOf t) c) k (g.lat + 4) f.d (wd d.length))

/-- TAKE (13 R307): the newest sprout of the core's deque. -/
def execTake (f : RForm) (s : State) : Host.Outcome State Fault Refusal :=
  run (.take f) s fun s k t =>
    let ptr := readG s t f.a.toNat
    if t.host then .trap s 0x07 (formInfo (.take f))
    else
      match ea t ptr 32 needW with
      | .error c => .trap s c ptr
      | .ok a =>
        if a % 8 ≠ 0 then .trap s 0x23 ptr
        else
          match (dequeOf s (coreOf k)).getLast? with
          | none => .next (scored s k 10 f.d 0)
          | some x =>
            match storeRange s k t ptr a x.bytes with
            | .error e => badAct e
            | .ok g =>
              let s1 := { g.s with deques := g.s.deques.put (coreOf k) (dequeOf g.s (coreOf k)).dropLast }
              let s2 := modNode (noteStore s1 k g) x.node (fun n => { n with sprouts := n.sprouts - 1 })
              let s3 := rivalCheck (nodeDone s2 x.node k t) (partOf t) x.view
              .next (scored s3 k 10 f.d 1)

/-- Puts a thread of a node in a room: the windows, what placement writes (05 R113, R118, R126), and the edge by which it sees
what was released before (11 R248). -/
def putThread (s : State) (c : Nat) (r : Room) (key : Nat) (n : Node) (pc g2 : Word) (tid tcoord : Nat) (f : Thread → Thread) : State :=
  let k := c * 64 + r.ctx
  let t := blankThread s n.part c r (n.gprs8 * 8) n.tiles (4 * 2 ^ n.space)
  let u := setSpr (setSpr (setSpr (setSpr t rTID (wd tid)) rTCOORD (wd tcoord)) rNODE n.vaddr) rPROMISE (wd n.promise)
  let u := { setGpr u 2 g2 with pc := pc, node := some key, segs := n.segs.putD 7 0 (windowSeg s c) }
  let u := f u
  let s1 := setThr (takeSlots s c r) k u
  channelsPlaced (acquireAt s1 k u 3).1 k u

/-- A sprout starts as a new thread on core c, if the core has room. -/
def startSprout (s : State) (c : Nat) (x : Sprout) : Option State :=
  match nodeOf s x.node with
  | none => none
  | some n =>
    match findRoom s c n.part (n.gprs8 * 8) n.tiles x.node n.share n.space none with
    | none => none
    | some r =>
      let s1 := putThread s c r x.node n (wd (fieldOf x.bytes 0 8)) (wd (fieldOf x.bytes 8 8)) (fieldOf x.bytes 0x10 4)
        (fieldOf x.bytes 0x14 4) (fun t =>
          { setSpr (setSpr (setSpr t rVIEW (wd x.view)) rWDEPTH (wd x.depth)) rPOD (wd x.pod) with sprout := true })
      some (modNode s1 x.node (fun m => { m with sprouts := m.sprouts - 1, started := m.started + 1, live := m.live + 1 }))

/-- SPROUT_LOCAL_START (13 R308): a core starts its own oldest sprout. -/
def execSproutLocalStart (core : Nat) (s : State) : Host.Outcome State Fault Refusal :=
  match dequeOf s core with
  | [] => .next s
  | x :: r =>
    let s1 := match startSprout s core x with
      | some a => { a with deques := a.deques.put core r }
      | none => s
    .next (if (dequeOf s1 core).isEmpty then s1 else sched s1 (s1.clk / 64 * 64 + 64) (.sproutLocalStart core))

/-- Whose deque a core tries: the next logical cores in order, first one whose oldest sprout may be stolen (02 R42, R46). One
attempt is one pass over all of them (Log 81). -/
def stealFrom (s : State) (p core : Nat) : Option Nat :=
  let l := logicals s p
  let i := logicalOf s p core
  ((upFrom 1 (l - 1)).map (fun j => physOf s p ((i + j) % l))).find? (fun c =>
    match dequeOf s c with
    | [] => false
    | x :: _ => c != core && !((nodeOf s x.node).map nodeDeterministic).getD true)

/-- SPROUT_STEAL (02 R46): a core with a free context and no ready thread takes another core's oldest sprout. -/
def execSproutSteal (core : Nat) (s : State) : Host.Outcome State Fault Refusal :=
  match partOfCore s core with
  | none => .next s
  | some p =>
    let idle := (coreThreads s core).all (fun q => !isReady s q.2) && (upFrom 0 64).any (ctxFree s core)
    let starts := s.agenda.any (fun q => match q.2 with
      | .sproutLocalStart _ => decide (q.1 ≤ s.clk)
      | _ => false)
    if starts then .next (sched s s.clk (.sproutSteal core))
    else
      let s1 := match (if idle then stealFrom s p core else none) with
        | none => s
        | some v =>
          match dequeOf s v with
          | [] => s
          | x :: r =>
            match startSprout s core x with
            | some a => perfBump { a with deques := a.deques.put v r } p 0x0A
            | none => s
      .next (if (coreList s1 p).any (fun c => !(dequeOf s1 c).isEmpty) then sched s1 (s1.clk / 64 * 64 + 64) (.sproutSteal core) else s1)

/-! The end of a thread (02 R29). -/

/-- What a thread that is gone leaves behind for its node: ENDED, its completion, the end of its rival. A redundant pair
counts as one. -/
def leaveNode (s : State) (k : Nat) (t : Thread) : State :=
  let p := partOf t
  let s0 := if redundOf t = 1 then
      { s with lvq := s.lvq.modify (coreOf k) (fun q => q.filter (fun x => x.pair != pairOf t)),
               scb := s.scb.modify (coreOf k) (fun q => q.filter (fun x => x.pair != pairOf t)) }
    else s
  let s1 := rivalCheck (rivalKills s0 p (viewOf t)) p (viewOf t)
  match t.node with
  | none => s1
  | some key =>
    let one := if redundOf t = 2 then 0 else 1
    nodeDone (modNode s1 key (fun n => { n with ended := n.ended + one, live := n.live - 1 })) key k t

/-- Releases what a thread holds, in the order of the objects' locations (11 R252). -/
def releaseHeld (s : State) (k : Nat) (t : Thread) : WbRes :=
  t.held.foldl (fun acc q =>
    match acc with
    | .done a at_ =>
      match (releaseObject a k t q.1).1 with
      | .done b bt => .done b (max at_ bt)
      | r => r
    | r => r) (.done s s.clk)

/-- The service thread is gone (15 R349). -/
def leaveService (s : State) (k : Nat) (t : Thread) : State :=
  let p := partOf t
  if svcThread s p = some k then
    setCtlF (setSprPart s p rSVCTHREAD (setBits (sprPart s p rSVCTHREAD) 14 1 0)) (partBase p) 2 1 0
  else s

/-- THREAD_END: the thread's outstanding work has completed; its context becomes free. -/
def execThreadEnd (k : Nat) (s : State) : Host.Outcome State Fault Refusal :=
  match thr s k with
  | none => .next s
  | some t =>
    if t.run ≠ .ending then .next s
    else
      match releaseAt s k t 3 with
      | .done s1 _ =>
        match releaseHeld s1 k t with
        | .done s2 _ =>
          let s3 := if matBusy s2 k then killMatrix s2 k else s2
          let s4 := disarmTimelines (leaveGroups s3 k t) k
          let s5 := { s4 with mboxes := s4.mboxes.map (fun q =>
            (q.1, if q.2.notifier = some k then { q.2 with notifier := none } else q.2)) }
          let s6 := (ownedPods s5 (partOf t) k).foldl (fun a i => discardPod a (partOf t) i) s5
          let s7 := leaveService (leaveSlots s6 k t) k t
          let s8 := { s7 with threads := s7.threads.del k }
          let s9 := if isHuskKey k then s8 else noteIdle s8 (coreOf k)
          .next (if t.host then s8 else pokeDispatch (leaveNode s9 k t) (partOf t))
        | _ => .next (sched s1 (s1.clk + 64) (.threadEnd k))
      | _ => .next (sched s (s.clk + 64) (.threadEnd k))

end Sys2Proof.Machine
end

