-- ==== Sys2Proof/Machine/Place.lean ====
section
/-! DEFINITION. The dispatcher: the order of queued nodes, candidate cores and placement (13 R303; 15 R347, R356 to R358;
02 R51), rivals (16 R380), and the start of a service thread (15 R349). -/

namespace Sys2Proof.Machine

/-! Candidate cores (15 R356). -/

/-- Rank of a core: its place in the thermal ranking (15 R366). -/
def rankOf (s : State) (c : Nat) : Nat :=
  (firstFrom (fun r => bits (ctlRead s (rankBase + 8 * (r / 8))) (8 * (r % 8)) 8 == c) 0 128).getD 127

/-- Orders numbers by a key, then by themselves. -/
def insBy (f : Nat → Nat) (x : Nat) : List Nat → List Nat
  | [] => [x]
  | y :: r => if f x < f y || (f x == f y && decide (x < y)) then x :: y :: r else y :: insBy f x r

def sortBy (f : Nat → Nat) (l : List Nat) : List Nat := l.foldl (fun acc x => insBy f x acc) []

/-- The order HB gives (03 R70). -/
def hintKey (s : State) (n : Node) (c : Nat) : Nat :=
  match n.hint with
  | 1 => if c = n.hintCore then 0 else 1
  | 2 => if sameCluster c n.hintCore then 0 else 1
  | 3 =>
    match s.lastPut.get? n.part with
    | some last => (clusterOf c + 31 - last) % 16
    | none => clusterOf c
  | _ => 0

/-- The core of a task under deterministic placement (15 R347). -/
def fixedCore (s : State) (n : Node) (tid : Nat) : Nat := physOf s n.part ((n.origin + tid) % logicals s n.part)

/-- The candidates of a task in order: awake cores, then gated ones from the coolest (15 R370). -/
def candidates (s : State) (n : Node) (tid : Nat) : List Nat :=
  if nodeDeterministic n then
    (let c := fixedCore s n tid
     if gangOf s c = 0 ∨ coreSheds s c then [] else [c])
  else
    let all := (enabledCores s n.part).filter (fun c => !coreSheds s c)
    sortBy (hintKey s n) (all.filter (fun c => !coreAsleep s c)) ++ sortBy (tempOf s) (all.filter (coreAsleep s))

/-- A core that is needed is woken: it serves 4,200 clk later (15 R370). The answer holds that clk. -/
def wakeCore (s : State) (c : Nat) : State × Nat :=
  if coreAsleep s c then
    (sched { s with waking := s.waking.put c (s.clk + 4200) } (s.clk + 4200) (.coreWake c), s.clk + 4200)
  else (s, s.waking.getD c s.clk)

/-! Placing a task. -/

/-- One thread of a task. -/
def taskThread (s : State) (key : Nat) (n : Node) (tid c redund : Nat) : Option State :=
  match findRoom s c n.part (n.gprs8 * 8) n.tiles key n.share n.space none with
  | none => none
  | some r =>
    let w := wakeCore s c
    let core := if nodeDeterministic n then (n.origin + tid) % logicals s n.part else logicalOf s n.part c
    some (putThread w.1 c r key n n.entry n.args tid (tid % n.shapex + tid / n.shapex * 2 ^ 16) (fun t =>
      let u := setSpr (setSpr t rCORE (wd core)) rREDUND (wd redund)
      let u := if n.view = 0 then u else setSpr (setSpr u rVIEW (wd n.view)) rWDEPTH 1
      { u with earliest := w.2 + 16 }))

/-- A task on core c: one thread, or a redundant pair in one clk (16 R400). -/
def taskOn (s : State) (key : Nat) (n : Node) (tid c : Nat) : Option State :=
  if nodeRedundant n then (taskThread s key n tid c 1).bind (fun a => taskThread a key n tid c 2)
  else taskThread s key n tid c 0

/-- What the placement of a task changes in its node; the first start, or the first after a rollback (Log 79), fixes
FIRST and a job stamp of its own (13 R298; 02 R51; 19 R437). -/
def countTask (s : State) (key c : Nat) : State :=
  let s1 := modNode s key (fun n =>
    let m := if n.firstSet then n
      else { n with firstSet := true, first := nowStamp s,
                    stampin := if nodeCycleBound n && n.stamp == 2 ^ 48 - 1 then nowStamp s else n.stamp }
    { m with state := 3, started := m.started + 1, nextTid := m.nextTid + 1, inCycle := m.inCycle + 1,
             live := m.live + (if nodeRedundant n then 2 else 1) })
  { s1 with lastPut := s1.lastPut.put (((nodeOf s1 key).map (fun n => n.part)).getD 0) (clusterOf c) }

/-- A task on the first core of a list that can take it. -/
def taskFirst (s : State) (key : Nat) (n : Node) (tid : Nat) : List Nat → Option State
  | [] => none
  | c :: r => (match taskOn s key n tid c with
    | some a => some (countTask a key c)
    | none => taskFirst s key n tid r)

/-- Every task of a gang on cores of width g, or none. -/
def gangOn (s : State) (key : Nat) (n : Node) (g : Nat) : Option State :=
  (upFrom n.nextTid (n.count - n.nextTid)).foldl (fun acc tid =>
    acc.bind (fun a => taskFirst a key n tid ((candidates a n tid).filter (fun c => gangOf a c == g)))) (some s)

/-- The next task of a node, or the whole gang (02 R41). -/
def placeNode (s : State) (key : Nat) (n : Node) : Option State :=
  if nodeGang n then
    (((candidates s n 0).map (gangOf s)).eraseDups).findSome? (fun g => gangOn s key n g)
  else taskFirst s key n n.nextTid (candidates s n n.nextTid)

/-! The order of nodes (13 R303). -/

def effPriority (s : State) (n : Node) : Nat := min 7 (n.pri + (s.clk - n.qclk) / 4096)

def nodeBefore (s : State) (a b : Nat × Node) : Bool :=
  let x := effPriority s a.2
  let y := effPriority s b.2
  decide (y < x) || (x == y && (decide (a.2.qclk < b.2.qclk) ||
    (a.2.qclk == b.2.qclk && decide (a.2.vaddr.toNat < b.2.vaddr.toNat))))

def insNode (s : State) (x : Nat × Node) : List (Nat × Node) → List (Nat × Node)
  | [] => [x]
  | y :: r => if nodeBefore s x y then x :: y :: r else y :: insNode s x r

/-- The partition's nodes with tasks still to place, in dispatch order. -/
def queued (s : State) (p : Nat) : List (Nat × Node) :=
  (s.nodes.filter (fun q => q.2.part == p && (q.2.state == 2 || q.2.state == 3) && decide (q.2.nextTid < q.2.count))).foldl
    (fun acc q => insNode s q acc) []

/-- The budget holds back the node's next start (02 R51). -/
def budgetHeld (n : Node) : Bool := nodeCycleBound n && n.budget != 0 && decide (n.budget ≤ n.inCycle)

/-- Its next task has no core that could ever take it (15 R347). -/
def coreGone (s : State) (n : Node) : Bool :=
  nodeDeterministic n &&
    (upFrom n.nextTid (if nodeGang n then n.count - n.nextTid else 1)).any (fun i => gangOf s (fixedCore s n i) == 0)

/-- What one try of the dispatcher gave. -/
inductive Tried where
  /-- A view is to be made for a node, which waits for the forks of the clk (16 R396). -/
  | forks (s : State)
  | placed (s : State)
  | blocked (s : State) (key : Nat) (n : Node)
  | idle (s : State)
  deriving DecidableEq, Repr

/-- The view of a staged or redundant node, made at its first placement (16 R397). -/
def stageNode (s : State) (key : Nat) (n : Node) : Option (State × Node) :=
  if nodeStaged n && n.view == 0 then
    match freeViews s n.part with
    | [] => none
    | v :: _ =>
      let m := { n with view := v }
      some ({ openView s n.part v 0 1 0 0 (if nodeStagedFlag n then 1 else 2) with nodes := s.nodes.put key m }, m)
  else some (s, n)

/-- Tries the nodes in order: those passed over say so once. late: the clk's forks have been made. -/
def tryNodes (late : Bool) : List (Nat × Node) → State → Tried
  | [], s => .idle s
  | (key, n) :: r, s =>
    if budgetHeld n then
      if n.held61 then tryNodes late r s
      else tryNodes late r { logEvent (perfBump s n.part 7) n.part 0x61 9 n.part 0xFF n.vaddr with nodes := s.nodes.put key { n with held61 := true } }
    else if coreGone s n then
      if n.no7A then tryNodes late r s
      else tryNodes late r { postRaw s n.part (svcMessage s 0x7A 9 n.part 0xFF n.vaddr 0 n.vaddr 0) with
                          nodes := s.nodes.put key { n with no7A := true } }
    else if nodeStaged n && n.view == 0 && !late then .forks s
    else
      match stageNode s key n with
      | none =>
        if n.no40 then tryNodes late r s
        else tryNodes late r { logEvent s n.part 0x40 9 n.part 0xFF n.vaddr with nodes := s.nodes.put key { n with no40 := true } }
      | some (s1, m) =>
        match placeNode s1 key m with
        | some s2 => .placed s2
        | none => .blocked s key n

/-- The first node that waits for room, if any. -/
def waitingNode (s : State) (p : Nat) : Option (Nat × Node) :=
  match tryNodes true (queued s p) s with
  | .blocked _ key n => some (key, n)
  | _ => none

/-! Rivals (16 R380). -/

/-- Room for a rival, and the rival in it. -/
def putRival (s : State) (r : RivalReq) (c : Nat) : Option State :=
  let t := r.image
  let n := nodeOf s r.node
  let sp := (n.map (fun m => m.space)).getD (bits (getSpr t rSPACING) 0 5 / 8)
  match findRoom s c r.part t.gsize t.tcount r.node ((n.map (fun m => m.share)).getD 0) sp none with
  | none => none
  | some room =>
    let w := wakeCore s c
    let k := c * 64 + room.ctx
    let u := setSpr (setSpr t rGANG (wd (gangOf s c))) rSPACING (wd (4 * 2 ^ sp))
    let u := { u with gbase := room.gbase, tbase := room.tbase, share := room.share, placedAt := s.clk, earliest := w.2 + 16 }
    let s1 := setThr (takeSlots w.1 c room) k u
    let s2 := channelsPlaced (acquireAt s1 k u 3).1 k u
    some (if t.node.isSome then modNode s2 r.node (fun m => { m with started := m.started + 1 }) else s2)

/-- The cores a rival may go to, in the order of its node's tasks (15 R356). -/
def rivalCores (s : State) (r : RivalReq) : List Nat :=
  match nodeOf s r.node with
  | none => []
  | some n => if nodeDeterministic n then [r.core] else candidates s n 0

def partRivals (s : State) (p : Nat) : List RivalReq := s.rivals.filter (fun r => r.part == p)

/-- RIVAL_PLACE: the next rival of the partition is placed where there is room, ahead of every task; one per clk. -/
def execRivalPlace (part : Nat) (s : State) : Host.Outcome State Fault Refusal :=
  let s0 := unsched s (fun i => i == .rivalPlace part)
  match partRivals s0 part with
  | [] => .next (pokeDispatch s0 part)
  | r :: _ =>
    if s0.clk < s0.tried.getD part 0 then .next (sched s0 (s0.tried.getD part 0) (.rivalPlace part)) else
    match (rivalCores s0 r).findSome? (putRival s0 r) with
    | none => .next (sched s0 (s0.clk + 64) (.rivalPlace part))
    | some s1 =>
      let s2 := { s1 with rivals := s1.rivals.erase r, tried := s1.tried.put part (s1.clk + 1) }
      .next (if (partRivals s2 part).isEmpty then sched (unsched s2 (fun i => i == .dispatchPlace part)) (s2.clk + 1) (.dispatchPlace part)
        else sched s2 (s2.clk + 1) (.rivalPlace part))

/-! The service thread (15 R349). -/

/-- Segment i of SVCSG. -/
def svcSeg (s : State) (p i : Nat) : BitVec 128 :=
  BitVec.ofNat 128 ((rdCtl s (partBase p + 0x200 + 16 * i)).toNat + (rdCtl s (partBase p + 0x208 + 16 * i)).toNat * 2 ^ 64)

/-- The status of a START, 0 when it may be done: a core that sheds slots has none to give (15 R368; Log 99). -/
def startStatus (s : State) (p : Nat) : Nat :=
  let w := rdCtl s (partBase p + 0x18)
  let c := bits w 0 7
  let sp := bits w 20 2
  let g8 := bits w 24 5
  let tiles := bits w 32 6
  if ctlF s (partBase p) 2 1 = 1 then 1
  else if 2 ^ 52 ≤ (rdCtl s (partBase p + 8)).toNat ∨ g8 = 0 ∨ 16 < g8 ∨ 32 < tiles ∨ sp = 3 ∨ 4 * 2 ^ sp ≤ bits w 16 4 ∨
      (upFrom 0 8).any (fun i => segBad (svcSeg s p i)) = true ∨ segValid (svcSeg s p 0) = false ∨
      segX (svcSeg s p 0) = false then 2
  else if coreIn s p c = false ∨ gangOf s c = 0 then 3
  else if ctxFree s c (bits w 8 6) = false ∨ (carveG s c (g8 * 8)).isNone ∨ (carveT s c tiles).isNone ∨
      (fixedSet (bits w 16 4) sp).any (fun i => !slotFree s c i) = true ∨ coreSheds s c = true ∨ scanRuns s p = true then 4
  else 0

/-- SERVICE_THREAD_START. -/
def execServiceThreadStart (part : Nat) (s : State) : Host.Outcome State Fault Refusal :=
  let st := startStatus s part
  let s0 := setCtlF s (partBase part) 4 4 st
  if st ≠ 0 then .next s0
  else
    let w := rdCtl s (partBase part + 0x18)
    let c := bits w 0 7
    let x := bits w 8 6
    let sp := bits w 20 2
    let room : Room := ⟨x, (carveG s c (bits w 24 5 * 8)).getD 0, (carveT s c (bits w 32 6)).getD 0, fixedSet (bits w 16 4) sp, none⟩
    let t := setSpr (setGpr (blankThread s part c room (bits w 24 5 * 8) (bits w 32 6) (4 * 2 ^ sp)) 2 (rdCtl s (partBase part + 0x10)))
      rMODE 1
    let u := { t with pc := rdCtl s (partBase part + 8), segs := (upFrom 0 8).foldl (fun a i => a.putD i 0 (svcSeg s part i)) [] }
    let k := c * 64 + x
    let s1 := setThr (takeSlots (dispSlots s0 c (fun a => emptySlots a c x [])) c room) k u
    let s2 := setCtlF (setSprPart s1 part rSVCTHREAD (wd (c + x * 2 ^ 8 + 2 ^ 14))) (partBase part) 2 1 1
    let s3 := channelsPlaced (acquireAt s2 k u 3).1 k u
    .next (sched s3 s3.clk (.postRetry c))

end Sys2Proof.Machine
end

