-- ==== Sys2Proof/Machine/Husks.lean ====
section
/-! DEFINITION. Pre-emption, husks and the engines that spill and fill them (15 R359 to R365), and one try of the dispatcher
(13 R303; 15 R364). -/

namespace Sys2Proof.Machine

/-! The husk area (15 R360, R361). -/

def huskReg (s : State) (p : Nat) : Word := sprPart s p rHUSKBASE
def huskEn (s : State) (p : Nat) : Bool := bit (huskReg s p) 52
def huskCount (s : State) (p : Nat) : Nat := bits (huskReg s p) 0 16
def huskSlot (s : State) (p i : Nat) : Nat := bits (huskReg s p) 16 36 * 65536 + i * 0x41000

/-- The lowest slot whose STATE is 0. -/
def freeHusk (s : State) (p : Nat) : Option Nat :=
  if huskEn s p then firstFrom (fun i => rdMem s (huskSlot s p i) == 0) 0 (huskCount s p) else none

/-- Bytes the spill engine moves (64 each clk): the slot's first 4 KiB and the window's tiles. -/
def huskTime (t : Thread) : Nat := (0x1000 + t.tcount * bits (getSpr t rGANG) 0 3 * 2048 + 63) / 64

def spacingCode (t : Thread) : Nat := bits (getSpr t rSPACING) 0 5 / 8

/-- The first 4 KiB of a husk whose spill began at a clk, STATE 0 (15 R361). -/
def huskBytes (s : State) (k : Nat) (t : Thread) (begin_ : Nat) : List Byte :=
  let held := (upFrom 0 8).flatMap (fun i => toBytes 8 ((((t.held.drop i).head?).map (fun q => q.1)).getD 0))
  let uiq := (upFrom 0 4).flatMap (fun i =>
    let q := (t.uiq.drop i).headD (0, 0)
    toBytes 8 q.1.toNat ++ toBytes 8 q.2.toNat)
  toBytes 1 0 ++ toBytes 1 (gangWidth t) ++ toBytes 1 (t.gsize / 8) ++ toBytes 1 t.tcount ++ toBytes 2 (coreOf k) ++
  toBytes 1 (ctxOf k) ++ toBytes 1 (t.share.getD 0xFF) ++ toBytes 8 (nodeAddr t).toNat ++
  toBytes 2 (slotMask s (coreOf k) (ctxOf k)) ++ toBytes 6 0 ++ toBytes 8 begin_ ++ toBytes 32 0 ++
  (upFrom 0 64).flatMap (fun i => toBytes 8 (if i ≤ 0x2B then (sprRead s k t i).toNat else 0)) ++
  (upFrom 0 8).flatMap (fun i => toBytes 16 (segOf t i).toNat) ++
  (upFrom 0 4).flatMap (fun i => toBytes 8 (t.shadow.getD i 0).toNat) ++ toBytes 32 0 ++
  (upFrom 0 32).flatMap (fun i => toBytes 8 (((t.tiles.get? i).map (fun x => x.cfg.toNat)).getD 0)) ++
  (upFrom 0 128).flatMap (fun i => toBytes 8 (if i < t.gsize then (t.gpr.getD i 0).toNat else 0)) ++ held ++ uiq ++ toBytes 1920 0

/-- A tile in a husk: its rows one after another, each as in memory, and zeros to the end of its 2g KiB (15 R361; 08 R174; Log 27). -/
def tileBytes (g : Nat) (x : Tile) : List Byte :=
  let e := elemBits (tileFmt x)
  let n := (rowLen g x * e + 7) / 8
  let bs := (upFrom 0 (if x.cfg = 0 then 0 else tileRows x)).flatMap (fun r =>
    toBytes n (packRow e ((upFrom (r * rowLen g x) (rowLen g x)).map (elemAt x))))
  (bs ++ List.replicate (2048 * g - bs.length) 0).take (2048 * g)

/-- The tile of a configuration as a husk holds it at an address. -/
def tileFrom (s : State) (g : Nat) (cfg : Word) (a : Nat) : Tile :=
  let x : Tile := ⟨cfg, []⟩
  let e := elemBits (tileFmt x)
  let n := (rowLen g x * e + 7) / 8
  if cfg = 0 then x
  else
    (upFrom 0 (tileRows x)).foldl (fun t r =>
      let row := rdMemN s (a + r * n) n
      setElems t ((upFrom 0 (rowLen g x)).map (fun i => (r * rowLen g x + i, row / 2 ^ (e * i) % 2 ^ e)))) x

/-- The bytes of the window's tiles, each with its address. -/
def huskTiles (slot : Nat) (t : Thread) : List (Nat × List Byte) :=
  (upFrom 0 t.tcount).map (fun i => (slot + 0x1000 + i * 0x2000, tileBytes (gangWidth t) (tileOf t i)))

/-- The sectors of a husk: the slot's first 4 KiB, and each tile of the window at its place (15 R361). -/
def huskSectors (slot : Nat) (t : Thread) : List Nat :=
  sectorsOf slot 0x1000 ++ (upFrom 0 t.tcount).flatMap (fun i => sectorsOf (slot + 0x1000 + i * 0x2000) (gangWidth t * 2048))

/-- Uncorrectable errors of sectors in DRAM, by physical address; corrected ones are logged (10 R228, R233). -/
def huskErrors (s : State) (qs : List Nat) : State × Bool :=
  if s.badEcc.isEmpty then (s, false)
  else qs.foldl (fun acc q =>
    let r := readSector acc.1 none 0 0 8 (channelOf (q * 32)) q
    (r.1, acc.2 || r.2)) (s, false)

/-- A restore's read of a husk: whether some sector is poisoned or uncorrectable (15 R365). -/
def huskRead (s : State) (slot : Nat) (t : Thread) : State × Bool :=
  let r := huskErrors s (huskSectors slot t)
  (r.1, r.2 || (huskSectors slot t).any (fun q => poisonedAt r.1 0 0 (q * 32)))

/-- The place of a context's register in a core's register file (10 R240; 18 R428, cause 0x72). -/
def regPlace (k n : Nat) : Nat := n + 1024 * ctxOf k

/-- Errors of a context's registers and tiles that a save of it finds (15 R365). -/
def contextErrors (s : State) (k : Nat) (t : Thread) : State × Bool :=
  if s.badEcc.isEmpty then (s, false)
  else
    let c := coreOf k
    ((upFrom 0 t.gsize).map (fun n => (0, c, regPlace k n)) ++
      (upFrom 0 (gangWidth t)).flatMap (fun j => (upFrom t.tbase t.tcount).map (fun n => (1, (slabRef s c j).1, n)))).foldl
      (fun (acc : State × Bool) (q : Nat × Nat × Nat) =>
        match findEcc acc.1 q.1 q.2.1 q.2.2 with
        | none => acc
        | some (s1, ue) => (logError s1 q.1 q.2.1 (q.2.2 % 1024) ue (errContext (some k)), acc.2 || ue)) (s, false)

/-- Whether a save of thread k into a slot meets an uncorrectable error, in the context or in the sectors it writes (15 R365). -/
def saveCheck (s : State) (k slot : Nat) (t : Thread) : State × Bool :=
  let a := contextErrors s k t
  let b := huskErrors a.1 (huskSectors slot t)
  (b.1, a.2 || b.2)

/-- A save writes its sectors whole: their poison goes (10 R229). -/
def huskWrote (s : State) (slot : Nat) (t : Thread) : State :=
  (huskSectors slot t).foldl (fun a q => writeArray (clearPoison a 0 0 (q * 32) 32) 8 (channelOf (q * 32)) (q * 32) 32) s

/-- A thread without a context ends: what it held is released, what it owned goes (02 R29; 15 R365). -/
def endHusk (s : State) (key : Nat) (t : Thread) : State :=
  let s1 := match releaseHeld s key t with
    | .done a _ => a
    | _ => s
  let s2 := disarmTimelines (leaveGroups s1 key t) key
  let s3 := (ownedPods s2 (partOf t) key).foldl (fun a i => discardPod a (partOf t) i) s2
  leaveNode (markRivalEnd s3 t true) key t

/-- What becomes of a thread whose save or restore failed (15 R365): it ends, and its node is rolled back, or it is reported. -/
def huskFailed (s : State) (p cause slotNo key core ctx : Nat) (t : Thread) : State :=
  let info := wd (slotNo + core * 2 ^ 16 + ctx * 2 ^ 24)
  match stagedNode s t with
  | some node => endHusk (rollback s node cause info) key { t with node := none }
  | none =>
    endHusk (postRaw s p (svcMessage s cause 4 (clusterOf core) ctx info t.pc (nodeAddr t) (viewOf t))) key t

/-- Spills thread k into a slot, from a clk on: its lines are written back, its context, windows and fixed entries are free, those of a
static table too (15 R362). -/
def spillThread (s : State) (k slot begin_ : Nat) : State :=
  match thr s k with
  | none => s
  | some t =>
    let s1 := match releaseAt s k t 3 with
      | .done a _ => a
      | _ => s
    let s2 := (huskTiles slot t).foldl (fun a q => wrMemBytes a q.1 q.2) (wrMemBytes (huskWrote s1 slot t) slot (huskBytes s1 k t begin_))
    let s2 := { wrMem s2 slot 1 with husks := s2.husks.put slot ⟨t⟩ }
    let s3 := leaveSlots (dispSlots s2 (coreOf k) (fun a => emptySlots a (coreOf k) (ctxOf k) [])) k t
    let s4 := renameThread (noteIdle { s3 with threads := s3.threads.del k } (coreOf k)) k (huskKey slot)
    pokeDispatch s4 (partOf t)

/-- The save of thread k into slot i of partition p, or its failure: then 0x77, and the slot stays free (15 R365). The answer
tells whether it was done. -/
def spillOr (s : State) (p i k begin_ : Nat) (t : Thread) : State × Bool :=
  let r := saveCheck s k (huskSlot s p i) t
  if r.2 then
    let s1 := leaveSlots r.1 k t
    let s2 := noteIdle { s1 with threads := s1.threads.del k } (coreOf k)
    (pokeDispatch (huskFailed s2 p 0x77 i k (coreOf k) (ctxOf k) t) p, false)
  else (spillThread r.1 k (huskSlot s p i) begin_, true)

/-! Filling (15 R363). -/

/-- What State keeps of the husk in a slot, or nothing, where software has written the slot itself. -/
def huskImage (s : State) (p slot : Nat) : Thread :=
  ((s.husks.get? slot).map (fun h => h.image)).getD (blankThread s p 0 ⟨0, 0, 0, [], none⟩ 8 0 4)

/-- The node whose record an address names in a partition. -/
def nodeKey (s : State) (p : Nat) (t : Thread) (a : Nat) : Option Nat :=
  if a = (nodeAddr t).toNat then t.node else if a = 0 then none else translateAny s 0 p a

/-- A thread as its husk holds it: what the slot lays out is read back from it (15 R361, R363). -/
def huskThread (s : State) (p slot : Nat) : Thread :=
  let t := huskImage s p slot
  let at_ (o n : Nat) : Nat := rdMemN s (slot + o) n
  let g := at_ 1 1
  let tcount := at_ 3 1
  let gsize := at_ 2 1 * 8
  let spr := (upFrom 0 0x2C).foldl (fun (a : Tab Word) i =>
    if i = rPC ∨ i = rPCORE ∨ i = rGWIN ∨ i = rTWIN ∨ i = rUISTAT ∨ i = rSTAMPIN ∨ i = rSLOTS ∨ i = rCYCPERIOD ∨ i = rROLE then a
    else a.putD i 0 (wd (at_ (0x40 + 8 * i) 8))) t.spr
  let share := at_ 7 1
  let held := ((upFrom 0 8).map (fun i => at_ (0x800 + 8 * i) 8)).filter (fun a => a != 0)
  { t with pc := wd (at_ 0x40 8), spr := (spr.putD rGANG 0 (wd g)).putD rNODE 0 (wd (at_ 8 8)),
           gbase := at_ (0x40 + 8 * rGWIN) 1 * 8, gsize := gsize, tbase := at_ (0x40 + 8 * rTWIN) 1 % 32, tcount := tcount,
           share := if share = 0xFF then none else some share, node := nodeKey s p t (at_ 8 8),
           segs := (upFrom 0 8).foldl (fun a i => a.putD i 0 (BitVec.ofNat 128 (at_ (0x240 + 16 * i) 16))) [],
           shadow := (upFrom 0 4).foldl (fun a i => a.putD i 0 (wd (at_ (0x2C0 + 8 * i) 8))) [],
           tiles := (upFrom 0 tcount).foldl (fun (a : Tab Tile) i =>
             a.putD i ⟨0, []⟩ (tileFrom s g (wd (at_ (0x300 + 8 * i) 8)) (slot + 0x1000 + i * 0x2000))) [],
           gpr := (upFrom 1 (gsize - 1)).foldl (fun a i => a.putD i 0 (wd (at_ (0x400 + 8 * i) 8))) [],
           held := held.foldl (fun (a : Tab Nat) x => a.put x (t.held.getD x 0)) [],
           uiq := (upFrom 0 (min 4 (at_ (0x40 + 8 * rUISTAT) 8))).map (fun i => (wd (at_ (0x840 + 16 * i) 8), wd (at_ (0x848 + 16 * i) 8))) }

/-- A free context on core c where the windows the thread has, by GWIN and TWIN, are free: their bases never change while the
thread lives (05 R124, R126; Log 67). A core that sheds slots has none (15 R368; Log 99). -/
def roomFor (s : State) (c : Nat) (t : Thread) (want : Option Nat) : Option (Nat × Nat × Nat) :=
  if coreSheds s c then none else
  match firstFrom (fun x => ctxFree s c x && (want == none || want == some x)) 0 64 with
  | some x =>
    if windowFree ((coreThreads s c).map (fun q => (q.2.gbase, q.2.gsize))) t.gbase t.gsize &&
        windowFree ((coreThreads s c).map (fun q => (q.2.tbase, q.2.tcount))) t.tbase t.tcount then some (x, t.gbase, t.tbase)
    else none
  | none => none

/-- Gives a parked thread without entries a fixed set of its spacing, or finds that its context owns one; it then resumes. -/
def entriesFor (s : State) (k : Nat) : State :=
  match thr s k with
  | none => s
  | some t =>
    let c := coreOf k
    let sp := spacingCode t
    if t.share.isSome ∨ ownsSet s c (ctxOf k) sp = true then resumeThread s k s.clk
    else if slotStatic s (partOf t) || coreSheds s c then s
    else
      match freeSet s c sp with
      | some i => resumeThread (takeSlots s c ⟨ctxOf k, t.gbase, t.tbase, fixedSet i sp, none⟩) k s.clk
      | none => s

/-- The restore of a husk into a context; the thread is parked and resumes in a fixed set or its share. It counts as placed when it first
was (17 R406). -/
def restore (s : State) (p slot c : Nat) (r : Nat × Nat × Nat) (share : Option Nat) : State :=
  let t := huskThread s p slot
  let k := c * 64 + r.1
  let u := { t with gbase := r.2.1, tbase := r.2.2, share := share, run := .parked, park := .filled, earliest := s.clk + huskTime t,
                    lastIssue := none, auditSkip := false }
  let s1 := wrMem { s with husks := s.husks.del slot } slot 0
  let s2 := renameThread (setThr s1 k u) (huskKey slot) k
  channelsPlaced (entriesFor (acquireAt s2 k u 3).1 k) k u

/-- The restore, or its failure by an error in the slot: then 0x78. The answer tells whether it was done. -/
def restoreOr (s : State) (p slotNo c : Nat) (r : Nat × Nat × Nat) (share : Option Nat) : State × Bool :=
  let slot := huskSlot s p slotNo
  let t := huskThread s p slot
  let e := huskRead s slot t
  if e.2 then
    (huskFailed (wrMem { e.1 with husks := e.1.husks.del slot } slot 0) p 0x78 slotNo (huskKey slot) c r.1 t, false)
  else (restore e.1 p slot c r share, true)

/-- The share on core c that a thread of a husk joins. -/
def huskShare (s : State) (c : Nat) (t : Thread) : Option Nat := t.share.bind (fun _ => nodeShare s c (t.node.getD 0))

/-- The core a deterministic node's thread belongs on (15 R347). -/
def homeOf (s : State) (t : Thread) : Option Nat :=
  (t.node.bind (nodeOf s)).bind (fun n => if nodeDeterministic n then some (fixedCore s n (bits (getSpr t rTID) 0 32)) else none)

/-- Status of a fill of slot i into core c, 0 when it may go on (15 R363). -/
def fillStatus (s : State) (p i c : Nat) (want : Option Nat) : Nat :=
  let t := huskThread s p (huskSlot s p i)
  if rdMem s (huskSlot s p i) ≠ 1 then 1
  else if gangOf s c ≠ gangWidth t then 2
  else if (roomFor s c t want).isNone then 3
  else if coreIn s p c = false ∨ ((homeOf s t).map (fun x => x != c)).getD false = true then 4
  else if t.share.isSome ∧ (nodeShare s c (t.node.getD 0)).isNone then 5
  else 0

/-- FILL (15 R363). -/
def execFill (f : RForm) (s : State) : Host.Outcome State Fault Refusal :=
  run (.fill f) s fun s k t =>
    let i := (readG s t f.a.toNat)
    let v := opbReg s t f
    let p := if t.host then 0 else partOf t
    let want := if bit v 15 then none else some (bits v 8 6)
    let c := bits v 0 7
    if bits v 7 1 ≠ 0 ∨ bits v 14 1 ≠ 0 ∨ bits v 16 48 ≠ 0 then .trap s 0x07 v
    else if huskEn s p = false ∨ huskCount s p ≤ i.toNat then .trap s 0x07 i
    else
      let x := huskThread s p (huskSlot s p i.toNat)
      let st := fillStatus s p i.toNat c want
      let no (a : State) (n : Nat) : Act := .next (scored a k 1 f.d (wd (2 ^ 63 + n)))
      if st ≠ 0 then no s st
      else
        match roomFor s c x want with
        | none => no s 3
        | some r =>
          let q := restoreOr s p i.toNat c r (huskShare s c x)
          if q.2 then .next (scored q.1 k (huskTime x) f.d (wd r.1)) else no q.1 6

/-- SPILL (15 R362): the thread is parked, its results are written and its matrix entries complete (06 R135; 09 R210), then its husk is
written. One that is not issuing yet, or is filled still, gets status 2. The spec states no value of D where the save fails (Log 27). -/
def execSpill (f : RForm) (s : State) : Host.Outcome State Fault Refusal :=
  run (.spill f) s fun s k t =>
    let v := readG s t f.a.toNat
    let c := bits v 0 7
    let key := c * 64 + bits v 8 6
    let p := if t.host then (partOfCore s c).getD 0 else partOf t
    let again := waitMark t |>.map (fun w => w.kind == .result && w.arg == wd (key + 1))
    if bits v 7 1 ≠ 0 ∨ bits v 14 50 ≠ 0 ∨ coreIn s p c = false ∨ key = k ∨ svcThread s p = some key ∨ scanRuns s p = true then .trap s 0x07 v
    else
      match freeHusk s p with
      | none => .next (scored s k 1 f.d (wd (2 ^ 63 + 1)))
      | some i =>
        match thr s key with
        | none => .next (scored s k 1 f.d (wd (2 ^ 63 + 2)))
        | some x =>
          let mine := again = some true ∧ x.park = .spilling
          if (x.run = .incoming ∨ x.run = .ending ∨ x.park = .spilling ∨ (x.park = .filled ∧ s.clk < x.earliest)) ∧ ¬ mine then .next (scored s k 1 f.d (wd (2 ^ 63 + 2)))
          else
            let s1 := if mine then s else parkThread s key .spilling
            let u := (thr s1 key).getD x
            if matBusy s1 key then .wait s1 { kind := .result, key := s1.clk + 4, arg := wd (key + 1) }
            else if s1.clk < u.earliest then .wait s1 { kind := .result, key := u.earliest, arg := wd (key + 1) }
            else
              let q := spillOr s1 p i key s1.clk u
              .next (scored q.1 k (huskTime u + 56) f.d (if q.2 then wd i else Config.freeWord (4 * s.free + 2)))

/-! Filling by the allocator (15 R364). -/

def huskClk (s : State) (slot : Nat) : Nat := rdMemN s (slot + 0x18) 8
def huskPri (s : State) (t : Thread) : Nat := ((t.node.bind (nodeOf s)).map (fun n => n.pri)).getD 0

/-- The husks of a partition in the order of their spill: slot numbers. -/
def husksOf (s : State) (p : Nat) : List Nat :=
  if huskEn s p then
    sortBy (fun i => huskClk s (huskSlot s p i)) ((upFrom 0 (huskCount s p)).filter (fun i => rdMem s (huskSlot s p i) == 1))
  else []

/-- A core on which a husk can be restored with its entries. -/
def huskCore (s : State) (p i : Nat) : Option Nat :=
  let t := huskThread s p (huskSlot s p i)
  ((enabledCores s p).filter (fun c => !coreSheds s c && !coreAsleep s c)).find? (fun c =>
    fillStatus s p i c none == 0 && (t.share.isSome || slotStatic s p || (freeSet s c (spacingCode t)).isSome))

/-- The husk to fill next: ahead of a waiting task whose node's effective priority does not exceed its own node's PRI. -/
def nextHusk (s : State) (p : Nat) : Option (Nat × Nat) :=
  let bar := match waitingNode s p with
    | some (_, n) => effPriority s n
    | none => match (queued s p).filter (fun q => !budgetHeld q.2) with
      | [] => 0
      | q :: _ => effPriority s q.2
  (husksOf s p).findSome? (fun i =>
    if bar ≤ huskPri s (huskThread s p (huskSlot s p i)) then (huskCore s p i).map (fun c => (i, c)) else none)

/-- HUSK_AUTO_FILL: the allocator fills the husk that comes first, where it can. -/
def execHuskAutoFill (part : Nat) (s : State) : Host.Outcome State Fault Refusal :=
  match nextHusk s part with
  | none => .next s
  | some (i, c) =>
    let t := huskThread s part (huskSlot s part i)
    match roomFor s c t none with
    | none => .next s
    | some r => .next (restoreOr s part i c r (huskShare s c t)).1

/-! Pre-emption (15 R359). -/

/-- A thread that may be pre-empted for a waiting node. -/
def victim (s : State) (key : Nat) (ep : Nat) (q : Nat × Thread) : Bool :=
  match q.2.node.bind (fun x => (nodeOf s x).map (fun n => (x, n))) with
  | none => false
  | some (x, n) =>
    x != key && decide (n.pri < ep) && !nodeGang n && !nodeRedundant n && !isScan s n.part && q.2.run != .ending

/-- PRI of a thread's node. -/
def threadPri (s : State) (t : Thread) : Nat := ((t.node.bind (nodeOf s)).map (fun n => n.pri)).getD 0

/-- Victims of a core in the order they are taken. -/
def victims (s : State) (key ep c : Nat) : List Nat :=
  let vs := (coreThreads s c).filter (victim s key ep)
  let rank (k : Nat) : Nat :=
    match thr s k with
    | none => 0
    | some t => threadPri s t * 2 ^ 80 + (2 ^ 72 - 1 - t.placedAt) * 64 + (63 - ctxOf k)
  sortBy rank (vs.map (fun q => q.1))

/-- The state without some threads and their entries. -/
def without (s : State) (ks : List Nat) : State :=
  ks.foldl (fun a k => match thr a k with
    | none => a
    | some t => { leaveSlots a k t with threads := (leaveSlots a k t).threads.del k }) s

/-- The fewest victims of a core, in order, whose removal lets the node's next task be placed there. -/
def victimsNeeded (s : State) (key : Nat) (n : Node) (c : Nat) : Option (List Nat) :=
  let vs := victims s key (effPriority s n) c
  (upFrom 1 vs.length).findSome? (fun m =>
    if (placeNode (without s (vs.take m)) key n).isSome then some (vs.take m) else none)

/-- The first candidate core on which victims make room, and the victims. -/
def preemption (s : State) (key : Nat) (n : Node) : Option (List Nat) :=
  (candidates s n n.nextTid).findSome? (victimsNeeded s key n)

/-- The clk at which a cluster's spill engine is free: behind the husks it writes and those that wait for it. -/
def engineFree (s : State) (cluster : Nat) : Nat :=
  s.agenda.foldl (fun m q => match q.2 with
    | .huskSpill x =>
      if clusterOf (coreOf x) = cluster then
        (match thr s x with
         | some t => max m (if t.park = .spilling then q.1 else max m q.1 + huskTime t)
         | none => m)
      else m
    | _ => m) s.clk

/-- PREEMPT_PARK: one victim is parked for the node that waits, and its spill is asked for; one per clk. -/
def execPreemptPark (part : Nat) (s : State) : Host.Outcome State Fault Refusal :=
  match waitingNode s part with
  | none => .next s
  | some (key, n) =>
    match (if (freeHusk s part).isNone then none else preemption s key n) with
    | none => .next s
    | some ks =>
      match ks.find? (fun k => ((thr s k).map (fun t => t.park != .preempted && t.park != .spilling)).getD false) with
      | none => .next s
      | some k =>
        let s1 := unsched (parkThread s k .preempted) (fun i => i == .huskSpill k)
        .next (sched (sched s1 (max (engineFree s1 (clusterOf (coreOf k))) (((thr s1 k).map (fun t => t.earliest)).getD 0)) (.huskSpill k))
          (s1.clk + 1) (.preemptPark part))

/-- HUSK_SPILL: the spill engine is about to start a pre-empted thread's husk, and lets it go on where no task waits for its room any
more; else it writes the husk, and ends when the bytes have moved. -/
def execHuskSpill (k : Nat) (s : State) : Host.Outcome State Fault Refusal :=
  match thr s k with
  | none => .next s
  | some t =>
    let p := partOf t
    if t.run ≠ .parked then .next s
    else if t.park = .spilling then
      match freeHusk s p with
      | none => .next (resumeThread s k s.clk)
      | some i => .next (spillOr s p i k (s.clk - huskTime t) t).1
    else if t.park ≠ .preempted then .next s
    else if matBusy s k then .next (sched s (s.clk + 16) (.huskSpill k))
    else
      let wanted := match waitingNode s p with
        | some (key, n) => victim s key (effPriority s n) (k, t)
        | none => false
      if wanted && (freeHusk s p).isSome then
        .next (sched (setThr s k { t with park := .spilling }) (s.clk + huskTime t) (.huskSpill k))
      else .next (resumeThread s k s.clk)

/-! The dispatcher (13 R303). -/

/-- Threads restored without entries take a set that has become free (15 R363). -/
def resumeFilled (s : State) (p : Nat) : State :=
  s.threads.foldl (fun a q =>
    if !q.2.host && partOf q.2 == p && q.2.park == .filled && decide (q.2.run = .parked) then entriesFor a q.1 else a) s

/-- Anything left for the allocator of a partition to do. -/
def dispatchLeft (s : State) (p : Nat) : Bool :=
  !(queued s p).isEmpty || !(husksOf s p).isEmpty ||
  s.threads.any (fun q => !q.2.host && partOf q.2 == p && q.2.park == .filled)

/-- One try of a partition's dispatcher. Rivals and husks go first; at most one task, or one gang, is placed in a clk (13 R303); a node
that waits for room may pre-empt; one that needs a view waits for the forks of the clk (16 R396). It tries again when something
changes, and every 256 clk meanwhile (Log 11). -/
def dispatchTry (s : State) (part : Nat) (late : Bool) : State :=
  let s0 := resumeFilled (unsched s (fun i => i == .dispatchPlace part)) part
  let later (a : State) (n : Nat) : State := if dispatchLeft a part then sched a (a.clk + n) (.dispatchPlace part) else a
  if s0.clk < s0.tried.getD part 0 then sched s0 (s0.tried.getD part 0) (.dispatchPlace part)
  else if !(partRivals s0 part).isEmpty then later s0 1
  else if (nextHusk s0 part).isSome then sched (sched s0 s0.clk (.huskAutoFill part)) (s0.clk + 1) (.dispatchPlace part)
  else
    match tryNodes late (queued s0 part) s0 with
    | .forks s1 => { s1 with lateDisp := s1.lateDisp ++ [part] }
    | .placed s1 => later { s1 with tried := s1.tried.put part (s1.clk + 1) } 1
    | .idle s1 => later s1 256
    | .blocked s1 _ _ => sched (later s1 256) s1.clk (.preemptPark part)

/-- DISPATCH_PLACE. -/
def execDispatchPlace (part : Nat) (s : State) : Host.Outcome State Fault Refusal := .next (dispatchTry s part false)

/-- The dispatchers that make views at the end of a clk (16 R396). -/
def settleDispatch (s : State) : State := s.lateDisp.foldl (fun a p => dispatchTry a p true) { s with lateDisp := [] }

end Sys2Proof.Machine
end

