-- ==== Sys2Proof/Machine/Thermal.lean ====
section
/-! DEFINITION. Thermal control: temperatures and ranking, slot shedding, displacement, pack and gate (15 R366 to R371; 20
R479). -/

namespace Sys2Proof.Machine

def thermHot (s : State) : Nat := bits (thermmode s) 8 8
def thermCool (s : State) : Nat := bits (thermmode s) 16 8
def gateIdle (s : State) : Nat := bits (thermmode s) 32 16 * 256

/-- A core that thermal control leaves alone: of a scan partition, or holding a service thread (15 R371). -/
def thermExempt (s : State) (c : Nat) : Bool :=
  match partOfCore s c with
  | none => false
  | some p => isScan s p || ((svcThread s p).map (fun k => coreOf k == c)).getD false

/-- Writes the ranking: enabled, ungated cores by temperature and number, then the others in the same order (15 R366). -/
def rankCores (s : State) : State :=
  let all := upFrom 0 128
  let last (c : Nat) : Bool := gangOf s c == 0 || s.gated.getD c false
  let order := sortBy (tempOf s) (all.filter (fun c => !last c)) ++ sortBy (tempOf s) (all.filter last)
  (upFrom 0 16).foldl (fun a w =>
    let v := wd (ofBytes (((order.drop (8 * w)).take 8).map (fun c => BitVec.ofNat 8 c)))
    wrCtl a (rankBase + 8 * w) (v ^^^ rankIdentity w)) s

/-- Empties SHED of a core's entries. -/
def clearShed (s : State) (c : Nat) : State :=
  (upFrom 0 16).foldl (fun a i => setSlot a c i (setBits (slotEntry a c i) 15 1 0)) s

/-- A core's state follows its temperature (15 R367, R368): one that becomes hot sheds from the next clk of rotation index 0;
one no longer hot has its SHED bits cleared. -/
def watchCore (s : State) (c : Nat) : State :=
  if thermOn s = false then s
  else
    let was := s.hot.getD c false
    if !was && decide (thermHot s ≤ tempOf s c) then
      let s1 := { s with hot := s.hot.put c true }
      if packGate s then s1 else sched s1 (if s.clk % 16 = 0 then s.clk else nextRot s.clk) (.slotShed c)
    else if was && decide (tempOf s c < thermCool s) then
      sched { s with hot := s.hot.del c } (if s.clk % 16 = 0 then s.clk else nextRot s.clk) (.shedClear c)
    else s

/-- A core with nothing on it for GATEIDLE is gated (15 R370). -/
def mayGate (s : State) (c : Nat) : Bool :=
  thermOn s && packGate s && gangOf s c != 0 && !thermExempt s c && !s.gated.getD c false &&
  (coreThreads s c).isEmpty && decide (s.idleAt.getD c 0 + gateIdle s ≤ s.clk)

/-- THERMAL_RANKING_UPDATE: new temperatures, one byte for each core; hot cores, idle cores and displaced threads are looked at
again. -/
def execThermalRankingUpdate (temps : List Byte) (s : State) : Host.Outcome State Fault Refusal :=
  let s1 := (upFrom 0 128).foldl (fun a c =>
    setCtlF a (tempBase + c / 8 * 8) (8 * (c % 8)) 8 ((temps.drop c).headD (BitVec.ofNat 8 (tempOf s c))).toNat) s
  let s2 := (upFrom 0 128).foldl watchCore (rankCores s1)
  let s3 := (upFrom 0 128).foldl (fun a c => if mayGate a c then sched a a.clk (.coreGate c) else a) s2
  .next (s3.threads.foldl (fun a q => if q.2.park = .displaced then sched a a.clk (.thermalDisplacement q.1) else a) s3)

/-- The entry to shed next: the highest that is neither empty, shed nor the service thread's (15 R368). -/
def shedNext (s : State) (c : Nat) : Option Nat :=
  let svc (i : Nat) : Bool := (upFrom 0 16).any (fun p => ((svcThread s p).map (fun k => coreOf k == c && ownsSlot s c (ctxOf k) i)).getD false)
  ((upFrom 0 16).reverse).find? (fun i => slotKind (slotEntry s c i) != 0 && !slotShedBit (slotEntry s c i) && !svc i)

/-- SLOT_SHED: one entry is shed, and keeps what it holds; a fixed entry's owner loses its other entries and is displaced. -/
def execSlotShed (core : Nat) (s : State) : Host.Outcome State Fault Refusal :=
  if thermOn s = false ∨ packGate s = true ∨ s.hot.getD core false = false ∨ thermExempt s core = true then .next s
  else
    let again := sched s (s.clk + 65536) (.slotShed core)
    match shedNext s core with
    | none => .next again
    | some i =>
      let w := slotEntry s core i
      let s1 := setSlot again core i (setBits w 15 1 1)
      if slotKind w ≠ 1 then .next s1
      else
        let k := core * 64 + slotCtx w
        let s2 := emptySlots s1 core (slotCtx w) [i]
        match thr s2 k with
        | none => .next s2
        | some t =>
          if t.run = .ending then .next s2
          else .next (sched (parkThread s2 k .displaced) s2.clk (.thermalDisplacement k))

/-- SHED_CLEAR: every SHED bit of a core that is no longer hot is cleared. -/
def execShedClear (core : Nat) (s : State) : Host.Outcome State Fault Refusal :=
  .next (if s.hot.getD core false then s else (match partOfCore s core with
    | some p => pokeDispatch (clearShed s core) p
    | none => clearShed s core))

/-- The first core in rank order that can take a displaced thread, and its room (15 R369). -/
def displaceTo (s : State) (k : Nat) (t : Thread) : Option (Nat × (Nat × Nat × Nat) × Nat) :=
  ((upFrom 0 128).map (fun r => bits (ctlRead s (rankBase + 8 * (r / 8))) (8 * (r % 8)) 8)).findSome? (fun c =>
    if c = coreOf k ∨ coreIn s (partOf t) c = false ∨ s.hot.getD c false = true ∨ gangOf s c ≠ gangWidth t then none
    else match roomFor s c t none, freeSet s c (spacingCode t) with
      | some r, some i => some (c, r, i)
      | _, _ => none)

/-- Bytes of a displaced context, as the copy's clk (15 R369). -/
def copyTime (t : Thread) : Nat := 64 + (8 * t.gsize + 2048 * gangWidth t * t.tcount + 1024 + 63) / 64

/-- THERMAL_DISPLACEMENT: a displaced thread moves to its target, after its results are written and its matrix entries complete (06 R135;
09 R210); it issues there when the copy is done, and 0x79 is logged then. -/
def execThermalDisplacement (k : Nat) (s : State) : Host.Outcome State Fault Refusal :=
  match thr s k with
  | none => .next s
  | some t =>
    match t.park with
    | .moved old =>
      if t.run ≠ .incoming ∨ s.clk < t.earliest then .next s
      else
        .next (logEvent (setThr s k { t with park := .none }) (partOf t) 0x79 0 (coreOf k) (ctxOf k)
          (wd (old + coreOf k * 2 ^ 8 + ctxOf k * 2 ^ 16)))
    | _ =>
    if t.park ≠ .displaced ∨ t.run ≠ .parked then .next s
    else if s.clk < t.earliest then .next (sched s t.earliest (.thermalDisplacement k))
    else if matBusy s k then .next (sched s (s.clk + 16) (.thermalDisplacement k))
    else
      match displaceTo s k t with
      | none => .next s
      | some (c, r, i) =>
        let s0 := match releaseAt s k t 3 with
          | .done a _ => a
          | _ => s
        let w := wakeCore s0 c
        let k2 := c * 64 + r.1
        let u := { t with gbase := r.2.1, tbase := r.2.2, run := .incoming, park := .moved (coreOf k),
                          earliest := max w.2 (s.clk + copyTime t) }
        let s1 := takeSlots (setThr { w.1 with threads := w.1.threads.del k } k2 u) c ⟨r.1, r.2.1, r.2.2, fixedSet i (spacingCode t), none⟩
        let s2 := renameThread s1 k k2
        let s3 := if svcThread s2 (partOf t) = some k then setSprPart s2 (partOf t) rSVCTHREAD (wd (c + r.1 * 2 ^ 8 + 2 ^ 14)) else s2
        let s4 := { noteIdle s3 (coreOf k) with
                            agenda := s3.agenda.map (fun q => match q.2 with
                              | .scoreboardResultArrival x id => if x = k then (q.1, .scoreboardResultArrival k2 id) else q
                              | _ => q) }
        .next (pokeDispatch (sched (acquireAt s4 k2 u 3).1 u.earliest (.thermalDisplacement k2)) (partOf t))

/-- CORE_GATE: an idle core is gated, if it is idle still. -/
def execCoreGate (core : Nat) (s : State) : Host.Outcome State Fault Refusal :=
  .next (if mayGate s core then { s with gated := s.gated.put core true } else s)

/-- CORE_WAKE: a core that was woken serves; one that stays without a thread may be gated again (15 R370). -/
def execCoreWake (core : Nat) (s : State) : Host.Outcome State Fault Refusal :=
  let s1 := noteIdle { s with gated := s.gated.del core, waking := s.waking.del core } core
  .next (match partOfCore s1 core with
    | some p => pokeDispatch s1 p
    | none => s1)

end Sys2Proof.Machine
end

