-- ==== Sys2Proof/Machine/Engines.lean ====
section
/-! DEFINITION. Command chains and copy engines: kicks, the reading of entries, chunks, completions, faults and stops,
multicast and follow-on work (14). -/

namespace Sys2Proof.Machine

/-! Entries (14 R320 to R322). -/

def deSeq (d : List Byte) : Nat := fieldOf d 0 4
def deOp (d : List Byte) : Nat := fieldOf d 4 1
def deFlag (d : List Byte) (i : Nat) : Bool := fieldOf d 5 1 / 2 ^ i % 2 == 1
def deNotify (d : List Byte) : Nat := fieldOf d 6 2
def deNext (d : List Byte) : Nat := fieldOf d 8 8
def deSrc (d : List Byte) : Nat := fieldOf d 0x10 8
def deDst (d : List Byte) : Nat := fieldOf d 0x18 8
def deLen (d : List Byte) : Nat := fieldOf d 0x20 4
def deStride (d : List Byte) : Nat := fieldOf d 0x24 4
def deAux (d : List Byte) : Nat := fieldOf d 0x28 8
def deFollow (d : List Byte) : Nat := fieldOf d 0x30 8
def deTline (d : List Byte) : Nat := fieldOf d 0x38 4
def deTinc (d : List Byte) : Nat := fieldOf d 0x3C 4

/-- Source bytes of a row, and the number of rows or elements. -/
def deRow (d : List Byte) : Nat := if deOp d = 2 then deLen d % 2 ^ 20 else deLen d
def deRows (d : List Byte) : Nat :=
  if deOp d = 2 then deLen d / 2 ^ 20 + 1 else if deOp d = 3 ∨ deOp d = 4 then deStride d else 1

def deIndexed (d : List Byte) : Bool := deOp d == 3 || deOp d == 4
def deSigned (d : List Byte) : Int := sextInt (deStride d) 32

/-- Element sizes of a conversion. -/
def fmtBytes (f : Nat) : Nat := elemBits f / 8

/-- Destination bytes of a row, and of the whole entry. -/
def entryRow (e : ChainEntry) : Nat :=
  if e.convert then deRow e.desc / fmtBytes e.srcFmt * fmtBytes e.dstFmt else deRow e.desc
def entryTotal (e : ChainEntry) : Nat := entryRow e * deRows e.desc

/-! What an engine may reach (14 R325). -/

/-- Why an engine's access is not made: a failure of translation or protection, at a byte, known after some clk; a cause that stops
the chain; or a page walk, a waking core or a changing binding that it waits for until a clk. Each with the state that finding it
leaves. -/
inductive EngBad where
  | fault (s : State) (addr late : Nat)
  | stop (s : State) (cause : Nat) (info : Word)
  | wait (s : State) (until_ : Nat)
  deriving DecidableEq, Repr

/-- A physical address lies in a husk area (10 R233). -/
def inHusks (s : State) (pa : Nat) : Bool :=
  (upFrom 0 16).any (fun q => huskEn s q && decide (huskSlot s q 0 ≤ pa) && decide (pa < huskSlot s q (huskCount s q)))

/-- The location and view of len bytes of one line at address a, for chain n of partition p in view v. -/
def engAt (s : State) (n p v a len : Nat) (write : Bool) : Except EngBad (State × Nat × Nat) :=
  if a < 0x8000000000000 then
    match translate s (n / 8) p a (if write then 1 else 0) with
    | .error e => .error (.fault e.2.2 a e.2.1)
    | .ok (pa, w, s1) =>
      if w ≠ 0 then .error (.wait s1 (s1.clk + w))
      else if inHusks s1 pa then .error (.stop s1 0x59 (wd a))
      else .ok (s1, pa, v)
  else if a < 0x9000000000000 then
    let c := (a - 0x8000000000000) / 2 ^ 32
    let o := a % 2 ^ 32
    let w := s.rwin.getD (p * 1024 + v) (0, 0)
    if 128 ≤ c ∨ coreIn s p c = false ∨ 524288 * gangOf s c < o + len then .error (.stop s 0x59 (wd a))
    else if write ∧ v ≠ 0 ∧ viewKind s p v = 0 ∧ ¬ (w.1 ≤ a ∧ a + len ≤ w.1 + w.2) then .error (.stop s 0x4A (wd a))
    else
      let q := windowWake s c
      if q.2 ≠ 0 then .error (.wait q.1 (q.1.clk + q.2)) else .ok (q.1, scratchLoc s c o, 0)
  else if a < 0x9000001000000 then .ok (s, a, v)
  else if 0xA000000000000 ≤ a ∧ a < 0xA020000000000 then
    let e := (a - 0xA000000000000) / 2 ^ 33
    let o := a % 2 ^ 32
    if twinValid s p e = false ∨ (twinBases s p e).2.2 < o + len then .error (.fault s a 0)
    else .ok (s, twinBuffer s p e (a / 2 ^ 32 % 2 == 1) + o, if e < 2 then v else 0)
  else .error (.stop s 0x59 (wd a))

/-- The clk that the repeat of a transfer from an engine's cluster adds: its path's latency (10 R230, R241; Log 85). -/
def engPath (s : State) (n loc : Nat) : Nat :=
  if loc < dramTop then l2Figure (n / 8) loc
  else portFigure s (n / 8 * 8 * 64) (if loc < 0x9000000000000 then .scratch (n / 8 * 8) loc else .pim loc)

/-- The next chunk of chain n, or of its read of an entry, is not before a clk. -/
def engHold (s : State) (n until_ : Nat) : State := { s with engLate := s.engLate.put n (max until_ (s.engLate.getD n 0)) }

/-- Reads len bytes of one line at a location, with those that lie in poisoned sectors: poison is told, not raised (14 R326); a
transfer that fails twice is 0x2F (10 R230). -/
def engLine (n p v a loc len : Nat) (s : State) : Except EngBad (State × List Byte × List Bool) :=
  let g := memRead s none (n / 8) p v loc len true
  let s1 := if g.again = 0 then g.s else engHold g.s n (g.s.clk + 1 + engPath g.s n loc)
  if g.failed then .error (.stop s1 0x2F (wd (a / 32 * 32)))
  else
    let bad := (sectorsOf loc len).filter (fun q => poisonedAt s1 p v (q * 32))
    .ok (s1, (upFrom loc len).map (portByte s1 p v), (upFrom loc len).map (fun x => bad.contains (x / 32)))

/-- Reads n bytes at their ports, line by line. -/
def engRead (n p v : Nat) : List (Nat × Nat) → State → Except EngBad (State × List Byte × List Bool)
  | [], s => .ok (s, [], [])
  | (a, len) :: r, s =>
    match engAt s n p v a len false with
    | .error e => .error e
    | .ok (s1, loc, w) =>
      match engLine n p w a loc len s1 with
      | .error e => .error e
      | .ok (s2, bs, bad) =>
        match engRead n p v r s2 with
        | .error e => .error e
        | .ok (s3, cs, b) => .ok (s3, bs ++ cs, bad ++ b)

/-- Writes the bytes of one line at its port; a sector that takes a byte from a poisoned sector is poisoned (10 R229). -/
def engPut (s : State) (p v va loc : Nat) (bs : List Byte) (bad : List Bool) : State :=
  let s1 := portWrote (wrVersionBytes (makeVersion s none p v va loc) p v loc bs) p v loc bs.length
  ((sectorsOf loc bs.length).filter (fun q => (upFrom 0 bs.length).any (fun i => (loc + i) / 32 == q && bad.getD i false))).foldl
    (fun x q => { x with poison := x.poison.put (sectorKey p v (q * 32)) true }) s1

/-! Conversion (14 R327; 10 R219). -/

/-- One element, to nearest even, saturating, without flags. -/
def engCvt (from_ into x : Nat) : Nat :=
  if isIntFmt from_ then
    let v := intVal from_ x
    if isIntFmt into then intCode into (clampInt (intLo into) (intHi into) v)
    else if isFp8Fmt into then (fpRound8 (fpOf into) 0 true (decide (v < 0)) v.natAbs 1).code
    else (fpOfInt (fpOf into) 0 v).code
  else
    let v := fpDecode (fpOf from_) x
    if isIntFmt into then intCode into (fpToInt 0 (intLo into) (intHi into) v).1
    else if isFp8Fmt into then (fpTo8 (fpOf into) 0 true v).code
    else (fpConvert (fpOf into) 0 v).code

/-- The format register of the bank at a local-window address. -/
def bankAt (s : State) (a : Nat) : Option Word :=
  if 0x8000000000000 ≤ a ∧ a < 0x9000000000000 then
    let c := (a - 0x8000000000000) / 2 ^ 32
    let o := a % 2 ^ 32
    if 128 ≤ c ∨ 524288 * gangOf s c ≤ o then none else some (bankNow s (bankKey s c (o / 32768)))
  else none

def noCvtFmt (f : Nat) : Bool := f == 5 || f == 12 || f == 13

/-- The formats between which two banks convert, where both are typed and differ. -/
def bankFmts (s : State) (src dst : Nat) : Option (Nat × Nat) :=
  match bankAt s src, bankAt s dst with
  | some x, some y => if bit x 4 && bit y 4 && bits x 0 4 != bits y 0 4 then some (bits x 0 4, bits y 0 4) else none
  | _, _ => none

/-- The formats a chunk converts under: those that hold now, where the banks are still typed and different and their element
sizes are those fixed at the start; else those fixed at the start. -/
def chunkFmts (s : State) (e : ChainEntry) (src dst : Nat) : Nat × Nat :=
  match bankFmts s src dst with
  | some (x, y) =>
    if noCvtFmt x || noCvtFmt y || fmtBytes x != fmtBytes e.srcFmt || fmtBytes y != fmtBytes e.dstFmt then (e.srcFmt, e.dstFmt)
    else (x, y)
  | none => (e.srcFmt, e.dstFmt)

/-! Chains. -/

def noChain : Chain := ⟨[], [], none, false, none, none, false⟩
def chainAt (s : State) (n : Nat) : Chain := s.chains.getD n noChain
def setChain (s : State) (n : Nat) (c : Chain) : State := { s with chains := s.chains.putD n noChain c }
def chainHead (s : State) (n : Nat) : Nat := (rdCtl s (chainBase n)).toNat
def chainExp (s : State) (n : Nat) : Nat := ctlF s (chainBase n + 8) 0 32
def chainView (s : State) (n : Nat) : Nat := ctlF s (chainBase n + 0x18) 32 16

/-- Changes the entry of a sequence. -/
def modEntry (s : State) (n seq : Nat) (f : ChainEntry → ChainEntry) : State :=
  let c := chainAt s n
  setChain s n { c with entries := c.entries.map (fun e => if e.seq = seq then f e else e) }

/-- A post of an engine: SRC 1, CORE 0x8000 + chain, with the view it concerns. -/
def postChain (s : State) (n cause : Nat) (info : Word) (view : Nat) : State :=
  postView s (chainPart s n) cause 1 (0x8000 + n) info view

/-- The next entry may be read: the chain runs, something kicked is not started, fewer than four are in flight. -/
def mayRead (s : State) (n : Nat) : Bool :=
  let c := chainAt s n
  chainState s n == 2 && seqDiff (kickSeq s n + 1) (chainExp s n) != 0 && decide (c.entries.length < 4) && !c.reading &&
  c.token.isNone && c.hold.isNone && decide (seqDiff (kickSeq s n + 1) (chainExp s n) < 2 ^ 31)

/-- Makes the read of the next entry due. -/
def wantEntry (s : State) (n after : Nat) : State :=
  if mayRead s n then sched (setChain s n { chainAt s n with reading := true }) (s.clk + after) (.chainEntryRead n) else s

/-- An entry moves its own chunks. -/
def canMove (e : ChainEntry) : Bool := e.phase == 1 && e.token.isNone && e.lead.isNone

/-- Some entry of an engine has a chunk to move. -/
def hasChunk (c : Chain) : Bool := c.entries.any canMove

/-- The clk of an engine's next chunk, if some entry of its chains has one: a chain that waits holds back no other (14 R317). -/
def engNext (s : State) (eng : Nat) : Option Nat :=
  (upFrom (4 * eng) 4).foldl (fun a n =>
    if hasChunk (chainAt s n) then
      let c := max (s.clk + 1) (s.engLate.getD n 0)
      some ((a.map (fun b => min b c)).getD c)
    else a) none

/-- Makes an engine's next chunk due. -/
def runEngine (s : State) (eng : Nat) : State :=
  match engNext s eng with
  | none => s
  | some c =>
    if s.agenda.any (fun q => q.2 == .engineChunk eng && decide (q.1 ≤ c)) then s
    else sched (unsched s (fun i => i == .engineChunk eng)) c (.engineChunk eng)

/-- PENDING of the twin entry that a SHADOW entry writes (17 R409), when it starts and when it is gone. -/
def shadowPending (s : State) (n : Nat) (e : ChainEntry) (up : Bool) : State :=
  if deFlag e.desc 3 then
    let a := twinEnt (chainPart s n) (deDst e.desc % 256) + 0x10
    setCtlF s a 48 16 (if up then ctlF s a 48 16 + 1 else ctlF s a 48 16 - 1)
  else s

/-- The entries of a group whose source another reads no more read it themselves (14 R332). -/
def freeFollowers (s : State) (n seq : Nat) : State :=
  s.chains.foldl (fun a q =>
    if q.2.entries.any (fun e => e.lead == some (n, seq)) then
      runEngine (setChain a q.1 { chainAt a q.1 with entries := (chainAt a q.1).entries.map (fun e =>
        if e.lead = some (n, seq) then { e with lead := none } else e) }) (q.1 / 4)
    else a) s

/-- Entries leave a chain without completing. -/
def dropEntries (s : State) (n : Nat) (gone : ChainEntry → Bool) : State :=
  let c := chainAt s n
  let out := c.entries.filter gone
  let s1 := out.foldl (fun a e => shadowPending a n e false) (dropFollowLocks s n out)
  let s2 := setChain s1 n { c with entries := c.entries.filter (fun e => !gone e) }
  out.foldl (fun a e => freeFollowers a n e.seq)
    { s2 with offers := s2.offers.filter (fun o => !(o.chain == n && out.any (fun e => e.seq == o.seq))) }

/-- Nothing of the read at HEAD is pending any more: HEAD is set anew. -/
def dropHead (s : State) (n : Nat) : State := setChain s n { chainAt s n with token := none, hold := none, wait := none }

/-- A cause stops a chain at an entry: that entry and those after it are abandoned, HEAD and EXPSEQ name it (14 R331). -/
def stopAt (s : State) (n cause : Nat) (e : ChainEntry) : State :=
  let s1 := dropHead (dropEntries s n (fun x => decide (seqDiff x.seq e.seq < 2 ^ 31))) n
  let s2 := setCtlF (wrCtl s1 (chainBase n) (wd e.addr)) (chainBase n + 8) 0 32 e.seq
  setChainState s2 n 4 cause

/-- A failure of translation or protection: the message of 10 R238, and the entry stalls; a stopped chain stays so (14 R319,
R330). -/
def stallAt (s : State) (n : Nat) (e : ChainEntry) (write : Bool) (addr off size late : Nat) : State :=
  let token := s.nextId
  let cause := if write then 0x54 else 0x53
  let msg := faultMessage cause (if write then 5 else 4) size (0x8000 + n) 0xFF addr token 0 e.view
  let s1 := postLate { s with nextId := token + 1, tokens := s.tokens.put token (0x8000 + n, cause, wd addr) } (chainPart s n) msg late
  let s2 := modEntry s1 n e.seq (fun x => { x with token := some token, cause := cause, faultAt := off })
  if chainState s2 n = 4 then s2 else setFaultOff (setChainState s2 n 3 cause) n off

/-! kick (14 R335 to R337). -/

/-- KICK. -/
def execKick (f : RForm) (s : State) : Host.Outcome State Fault Refusal :=
  run (.kick f) s fun s k t =>
    let n := (readG s t f.a.toNat).toNat
    let v := opbReg s t f
    let d := seqDiff v.toNat (kickSeq s n)
    if 128 ≤ n ∨ 2 ^ 32 ≤ v.toNat then .trap s 0x07 v
    else if chainState s n = 0 then .trap s 0x52 (wd n)
    else if !t.host && chainPart s n != partOf t then .trap s 0x59 (wd n)
    else if 2 ^ 31 ≤ d then .trap s 0x5F v
    else if d ≠ 0 ∧ kickSeq s n ≠ doneSeq s n ∧ chainView s n ≠ viewOf t then
      .wait s { kind := .kick, key := n, cause := 0x3D }
    else
      wbAct (releaseAt s k t 3) fun s1 at_ =>
        if d = 0 then .next (holdUntil s1 k (at_ + 16))
        else .wait (sched s1 (at_ + 16) (.kickApply n v (viewOf t) k)) { kind := .port, key := n, cause := 0x3D, info := v }

/-- A kick at the engine: its chain is on and of the kicker's partition still (14 R336, R337; Log 84). -/
def kickGood (s : State) (chain kicker : Nat) : Bool :=
  chainState s chain != 0 && ((thr s kicker).map (fun t => t.host || chainPart s chain == partOf t)).getD true

/-- Kicker k has performed its kick: it goes on in its next slot (14 R337). -/
def kickDone (s : State) (k : Nat) : State := finishWait s k [] s.clk s.clk

/-- KICK_APPLY: the chain takes the tail, compared again at the engine (14 R337). Pending entries of another view make the kick wait
for them there too, a wait that WAITLIM bounds; it is made anew when they have completed (14 R336; Log 84). -/
def execKickApply (chain : Nat) (tail : Word) (view kicker : Nat) (s : State) : Host.Outcome State Fault Refusal :=
  let d := seqDiff tail.toNat (kickSeq s chain)
  if d = 0 ∨ 2 ^ 31 ≤ d ∨ kickGood s chain kicker = false then .next (kickDone s kicker)
  else if kickSeq s chain ≠ doneSeq s chain ∧ chainView s chain ≠ view then
    .next (match (thr s kicker).bind waitOf with
      | some w => enterWait s kicker w.words { kind := .kick, key := chain, cause := 0x3D }
      | none => s)
  else
    let a := chainBase chain
    let c := chainAt s chain
    let s1 := setCtlF (setCtlF s (a + 8) 32 32 tail.toNat) (a + 0x18) 32 16 view
    let s2 := setChain s1 chain { c with kicks := c.kicks ++ [(tail.toNat, kicker)], gone := c.gone && kickSeq s chain != doneSeq s chain }
    .next (kickDone (wantEntry (if chainState s2 chain = 1 then setChainState s2 chain 2 0 else s2) chain 8) kicker)

/-- The thread whose kick handed an entry over: the first of those pending whose tail reaches it (14 R332). -/
def kickerOf (c : Chain) (seq : Nat) : Nat := ((c.kicks.find? (fun q => decide (seqDiff q.1 seq < 2 ^ 31))).map Prod.snd).getD 0

/-! Starting entries (14 R323, R324, R334). -/

/-- The offsets an entry writes, from its destination: lowest, and one past the highest. -/
def entrySpan (e : ChainEntry) : Int × Int :=
  if deOp e.desc = 2 ∧ deFlag e.desc 5 = true then
    let last : Int := (deRows e.desc - 1 : Nat) * deSigned e.desc
    (min 0 last, max 0 last + (entryRow e : Int))
  else (0, (entryTotal e : Int))

/-- The destination range of a SHADOW entry lies in its buffer. -/
def shadowGood (s : State) (p : Nat) (e : ChainEntry) : Bool :=
  let d := deDst e.desc
  let off : Int := (d / 256 % 2 ^ 32 : Nat)
  let size : Int := (twinBases s p (d % 256)).2.2
  let sp := entrySpan e
  decide (d < 2 ^ 40) && twinValid s p (d % 256) && decide (off < size) && decide (0 ≤ off + sp.1) && decide (off + sp.2 ≤ size)

/-- An entry is malformed (14 R323). -/
def entryBad (s : State) (p : Nat) (e : ChainEntry) : Bool :=
  let d := e.desc
  let op := deOp d
  let addrBad (x : Nat) : Bool := decide (2 ^ 52 ≤ x)
  decide (64 ≤ fieldOf d 5 1) || decide (2 ^ 14 ≤ deNotify d) || decide (4096 ≤ deTline d) || decide (op = 0) || decide (5 < op) ||
  addrBad (deNext d) || (op != 5 && addrBad (deSrc d)) || (!deFlag d 3 && addrBad (deDst d)) || addrBad (deAux d) ||
  (if deFlag d 2 then decide (2 ^ 35 ≤ deFollow d) else deFollow d != 0) ||
  ((op == 1 || op == 5) && deStride d != 0) || (op == 2 && deRow d == 0) ||
  (deIndexed d && (deLen d == 0 || decide (2048 < deLen d) || deStride d == 0 || decide (2 ^ 24 < deStride d) || deAux d % 4 != 0)) ||
  (!deIndexed d && deAux d != 0 && (deAux d % 16 != 0 || !(decide (0x8000000000000 ≤ deAux d) && decide (deAux d < 0x9000000000000)))) ||
  (deFlag d 1 && op != 1) || (deFlag d 3 && op != 1 && op != 2 && op != 5) ||
  (e.convert && (noCvtFmt e.srcFmt || noCvtFmt e.dstFmt || deRow d % fmtBytes e.srcFmt != 0)) ||
  (deFlag d 3 && !shadowGood s p e)

/-- An MCAST destination lies in the local window of the core of the thread that kicked the entry (14 R332; 10 R215). -/
def mcastGood (s : State) (e : ChainEntry) : Bool :=
  let d := deDst e.desc
  !isHostKey e.kicker && decide (0x8000000000000 ≤ d) && decide (d < 0x9000000000000) &&
  (d - 0x8000000000000) / 2 ^ 32 == coreOf e.kicker && decide (d % 2 ^ 32 < 524288 * gangOf s (coreOf e.kicker)) && !deFlag e.desc 3

/-- An entry read from HEAD, with what its start fixes. -/
def entryFrom (s : State) (n : Nat) (bs : List Byte) : ChainEntry :=
  let p := chainPart s n
  let op := deOp bs
  let cv := if (op = 1 ∨ op = 2) ∧ deFlag bs 3 = false then bankFmts s (deSrc bs) (deDst bs) else none
  let buf := if deFlag bs 3 then twinBuffer s p (deDst bs % 256) true + deDst bs / 256 % 2 ^ 32 else 0
  { addr := chainHead s n, seq := deSeq bs, desc := bs, view := chainView s n, kicker := kickerOf (chainAt s n) (deSeq bs), moved := 0,
    token := none, cause := 0, phase := 1, buffer := buf, srcFmt := (cv.map Prod.fst).getD 0, dstFmt := (cv.map Prod.snd).getD 0,
    convert := cv.isSome, faultAt := 0, lead := none }

/-- Two offers join: OP, SRC, LEN and the offset in the window, from the root view (14 R332). -/
def offersMatch (a b : ChainEntry) : Bool :=
  deOp a.desc == deOp b.desc && deSrc a.desc == deSrc b.desc && deLen a.desc == deLen b.desc &&
  deDst a.desc % 2 ^ 32 == deDst b.desc % 2 ^ 32 && a.view == 0 && b.view == 0

def entryOf (s : State) (n seq : Nat) : Option ChainEntry := (chainAt s n).entries.find? (fun e => e.seq == seq)

/-- Offers an MCAST entry to its cluster's combining node. -/
def offerEntry (s : State) (n : Nat) (e : ChainEntry) : State :=
  match s.offers.find? (fun o => o.chain / 8 == n / 8 && ((entryOf s o.chain o.seq).map (offersMatch e)).getD false) with
  | some o => { s with offers := s.offers ++ [⟨n, e.seq, o.group⟩] }
  | none =>
    sched { s with offers := s.offers ++ [⟨n, e.seq, s.nextId⟩], nextId := s.nextId + 1 } (s.clk + 256) (.mcastGroupClose s.nextId)

/-- What follows the last byte of an entry: its follow-on work, or its completion. -/
def landed (s : State) (n seq : Nat) (follow : Bool) : State :=
  if follow then sched (modEntry s n seq (fun e => { e with phase := 2 })) s.clk (.followOnMma n)
  else sched (modEntry s n seq (fun e => { e with phase := 4 })) s.clk (.entryCompletion n)

/-- Stops a chain whose entry at HEAD cannot start: HEAD and EXPSEQ name it already. -/
def refuseEntry (s : State) (n cause : Nat) (info : Word) : State :=
  setChainState (postChain s n cause info (chainView s n)) n 4 cause

/-- Starts an entry that is well formed; one of a view that was discarded completes at once with cause 0x76 (14 R331). -/
def startChainEntry (s : State) (n : Nat) (e : ChainEntry) : State :=
  let a := chainBase n
  let mc := deFlag e.desc 1
  let c := chainAt s n
  let e0 := if c.gone then { e with phase := 4, cause := 0x76 } else if mc then { e with phase := 0 } else e
  let s1 := setChain s n { c with entries := c.entries ++ [e0] }
  let s2 := setCtlF (wrCtl s1 a (wd (deNext e.desc))) (a + 8) 0 32 (e.seq + 1)
  let s3 := shadowPending s2 n e true
  let s4 := if c.gone then sched s3 s3.clk (.entryCompletion n)
    else if mc then offerEntry s3 n e
    else if entryTotal e = 0 then landed s3 n e.seq (deFlag e.desc 2)
    else runEngine s3 (n / 4)
  wantEntry s4 n 1

/-- An entry that is well formed and need wait for no other: refused, or started. -/
def startGood (s : State) (n : Nat) (e : ChainEntry) : State :=
  let d := e.desc
  if deTinc d ≠ 0 ∧ e.view ≠ 0 then refuseEntry s n 0x4B (wd (fieldOf d 0x38 8))
  else if deFlag d 3 ∧ deDst d % 256 = 1 ∧ e.view ≠ 0 then refuseEntry s n 0x43 (wd (deDst d))
  else if deFlag d 1 ∧ mcastGood s e = false then refuseEntry s n 0x5A (wd e.addr)
  else startChainEntry s n e

/-- Every entry before the one expected has completed (14 R324). -/
def allBefore (s : State) (n : Nat) : Bool := seqDiff (chainExp s n) 1 == doneSeq s n

/-- A chain's read of the entry at HEAD: started, waited for, held for those before it, or refused. -/
def readEntry (s : State) (n : Nat) : State :=
  let c := chainAt s n
  let s0 := setChain s n { c with reading := false }
  if mayRead s0 n = false then s0
  else
    let p := chainPart s n
    let h := chainHead s n
    if h % 64 ≠ 0 ∨ 0x8000000000000 ≤ h then refuseEntry s0 n 0x52 (wd h)
    else
      match engRead n p (chainView s n) [(h, 64)] s0 with
      | .error (.wait s1 c) => sched (setChain s1 n { chainAt s1 n with reading := true }) c (.chainEntryRead n)
      | .error (.stop s1 cause info) => refuseEntry s1 n cause info
      | .error (.fault sf _ late) =>
        let token := sf.nextId
        let msg := faultMessage 0x53 4 64 (0x8000 + n) 0xFF h token 0 (chainView s n)
        let s1 := postLate { sf with nextId := token + 1, tokens := sf.tokens.put token (0x8000 + n, 0x53, wd h) } p msg late
        setFaultOff (setChainState (setChain s1 n { chainAt s1 n with token := some token }) n 3 0x53) n 0
      | .ok (s1, bs, _) =>
        let e := entryFrom s1 n bs
        if e.seq ≠ chainExp s1 n then
          let from_ := c.wait.getD s1.clk
          let s2 := setChain s1 n { chainAt s1 n with wait := some from_, reading := true }
          if from_ + 4096 ≤ s1.clk then sched s2 s2.clk (.chainEntryNotReady n) else sched s2 (s2.clk + 64) (.chainEntryReread n)
        else
          let s2 := setChain s1 n { chainAt s1 n with wait := none }
          if entryBad s2 p e then refuseEntry s2 n 0x51 (wd h)
          else if deNext bs % 64 ≠ 0 ∨ 0x8000000000000 ≤ deNext bs then refuseEntry s2 n 0x52 (wd h)
          else if deFlag bs 4 ∧ allBefore s2 n = false then setChain s2 n { chainAt s2 n with hold := some bs }
          else startGood s2 n e

/-- An entry held by its ORDER starts once those before it have completed, with the formats that hold then: they may make it
malformed (14 R324, R327). -/
def startHeld (s : State) (n : Nat) : State :=
  match (chainAt s n).hold with
  | none => s
  | some bs =>
    if chainState s n = 2 ∧ allBefore s n = true then
      let s1 := setChain s n { chainAt s n with hold := none }
      let e := entryFrom s1 n bs
      if entryBad s1 (chainPart s1 n) e then refuseEntry s1 n 0x51 (wd e.addr) else startGood s1 n e
    else s

/-- CHAIN_ENTRY_READ (14 R324). -/
def execChainEntryRead (chain : Nat) (s : State) : Host.Outcome State Fault Refusal := .next (readEntry s chain)

/-- CHAIN_ENTRY_REREAD: the entry did not match; it is read again after 64 clk (14 R324). -/
def execChainEntryReread (chain : Nat) (s : State) : Host.Outcome State Fault Refusal := .next (readEntry s chain)

/-- CHAIN_ENTRY_NOT_READY: no match within 4,096 clk (14 R324). -/
def execChainEntryNotReady (chain : Nat) (s : State) : Host.Outcome State Fault Refusal :=
  if chainState s chain ≠ 2 then .next s
  else
    let s1 := setChain s chain { chainAt s chain with wait := none, reading := false }
    .next (refuseEntry s1 chain 0x50 (wd (chainHead s chain)))

/-! Chunks (14 R322, R324, R326). -/

/-- The class of an address among the ranges of 10 R212. -/
def rangeOf (a : Int) : Int :=
  if a < 0 then -1
  else if a < 0x8000000000000 then 0
  else if a < 0x9000000000000 then 3
  else if a < 0x9000001000000 then 1
  else if 0xA000000000000 ≤ a ∧ a < 0xA020000000000 then 2
  else -1

/-- One past the last address of the range that an address lies in. -/
def rangeTop (a : Nat) : Nat :=
  if a < 0x8000000000000 then 0x8000000000000
  else if a < 0x9000000000000 then 0x9000000000000
  else if a < 0x9000001000000 then 0x9000001000000
  else 0xA020000000000

/-- A source that leaves the range it starts in is refused at its first byte outside (10 R214; 14 R325). -/
def srcRead (n p v src len : Nat) (s : State) : Except EngBad (State × List Byte × List Bool) :=
  if src < rangeTop src ∧ rangeTop src < src + len then .error (.stop s 0x59 (wd (rangeTop src))) else engRead n p v (cut src len) s

/-- What a chunk's plan gives: source parts, destination, bytes, first byte wanted of those converted; or why not. -/
structure Chunk where
  s     : State
  src   : Nat
  dst   : Nat
  len   : Nat
  row   : Nat
  off   : Nat
  deriving DecidableEq, Repr

/-- Where an engine's entry moves next, after e.moved destination bytes. An address below 0 is outside every range (14 R325). -/
def planChunk (s : State) (n : Nat) (e : ChainEntry) : Except EngBad Chunk :=
  let d := e.desc
  let p := chainPart s n
  let rowD := entryRow e
  let r := e.moved / rowD
  let o := e.moved % rowD
  let so := if e.convert then o / fmtBytes e.dstFmt * fmtBytes e.srcFmt else o
  let base : Int := if deFlag d 3 then (e.buffer : Int) else (deDst d : Int)
  let finish (a : State) (src dst : Int) : Except EngBad Chunk :=
    if src < 0 ∨ dst < 0 then .error (.stop a 0x59 (wdi (if src < 0 then src else dst)))
    else .ok ⟨a, src.toNat, dst.toNat, min (rowD - o) (64 - dst.toNat % 64), r, o⟩
  match deOp d with
  | 1 => finish s ((deSrc d : Int) + so) (base + o)
  | 2 =>
    let st := (r : Int) * deSigned d
    if deFlag d 5 then finish s ((deSrc d : Int) + r * deRow d + so) (base + st + o)
    else finish s ((deSrc d : Int) + st + so) (base + r * rowD + o)
  | 5 => finish s 0 (base + o)
  | op =>
    match engRead n p e.view (cut (deAux d + 4 * r) 4) s with
    | .error b => .error b
    | .ok (s1, bs, _) =>
      let k := sextInt (ofBytes bs) 32
      let len : Int := (deLen d : Nat)
      let origin : Int := if op = 3 then (deSrc d : Int) else base
      let first := origin + k * len
      if k < 0 ∨ rangeOf first ≠ rangeOf origin ∨ rangeOf (first + len - 1) ≠ rangeOf origin then
        .error (.stop s1 (if op = 3 then 0x5B else 0x5C) (wd e.addr))
      else if op = 3 then finish s1 (first + o) (base + r * len + o)
      else finish s1 ((deSrc d : Int) + r * len + o) (first + o)

/-- The bytes a chunk writes, and which of them come from poisoned sectors. -/
def chunkBytes (n : Nat) (e : ChainEntry) (c : Chunk) : Except EngBad (State × List Byte × List Bool) :=
  let p := chainPart c.s n
  if deOp e.desc = 5 then .ok (c.s, (upFrom c.dst c.len).map (fun x => BitVec.ofNat 8 (deSrc e.desc / 2 ^ (8 * (x % 8)) % 256)), [])
  else if e.convert then
    let f := chunkFmts c.s e c.src c.dst
    let es := fmtBytes e.srcFmt
    let ed := fmtBytes e.dstFmt
    let i0 := c.off / ed
    let i1 := (c.off + c.len - 1) / ed
    match srcRead n p e.view c.src ((i1 + 1 - i0) * es) c.s with
    | .error b => .error b
    | .ok (s1, bs, bad) =>
      let js := upFrom 0 (i1 + 1 - i0)
      let out := js.flatMap (fun j => toBytes ed (engCvt f.1 f.2 (fieldOf bs (j * es) es)))
      let lost := js.flatMap (fun j => List.replicate ed (((bad.drop (j * es)).take es).any (fun b => b)))
      .ok (s1, (out.drop (c.off - i0 * ed)).take c.len, (lost.drop (c.off - i0 * ed)).take c.len)
  else srcRead n p e.view c.src c.len c.s

/-- The view in which a SHADOW entry's buffer is accessed: pinned buffers hold no versions (17 R409; 10 R233). -/
def shadowView (e : ChainEntry) : Nat := if deDst e.desc % 256 < 2 then e.view else 0

/-- The location and view a chunk is written at. -/
def chunkPlace (n : Nat) (e : ChainEntry) (s : State) (c : Chunk) : Except EngBad (State × Nat × Nat) :=
  if deFlag e.desc 3 then .ok (s, c.dst, shadowView e) else engAt s n (chainPart s n) e.view c.dst c.len true

/-- The location of the barrier object that counts an entry's bytes, if it has one (14 R329): an engine that may not reach it stops
(14 R325; 16 R381). -/
def barPlace (n : Nat) (e : ChainEntry) (s : State) : Except EngBad (State × Option Nat) :=
  if deIndexed e.desc ∨ deAux e.desc = 0 then .ok (s, none)
  else (engAt s n (chainPart s n) e.view (deAux e.desc) 16 true).map (fun q => (q.1, some q.2.1))

/-- A cause stops a chain at an entry that is in flight. -/
def stopChain (s : State) (n cause : Nat) (info : Word) (e : ChainEntry) : State :=
  stopAt (postChain s n cause info e.view) n cause e

/-- A refused access as the chain takes it. -/
def chunkBad (n : Nat) (e : ChainEntry) (b : EngBad) (write : Bool) (start len : Nat) : State :=
  match b with
  | .fault s a late => stallAt s n e write a (e.moved + (a - start)) len late
  | .stop s cause info => stopChain s n cause info e
  | .wait s c => engHold s n c

/-- Writes a chunk's bytes at their port and counts them: by the barrier object, in the entry; the last byte has landed. The write
is a transfer too (10 R230). -/
def landChunk (s : State) (n : Nat) (e : ChainEntry) (va loc v : Nat) (bar : Option Nat) (bs : List Byte) (bad : List Bool) : State :=
  let x := crcCheck s loc
  let s0 := if x.2.1 = 0 then x.1 else engHold x.1 n (x.1.clk + 1 + engPath x.1 n loc)
  if x.2.2 then stopChain s0 n 0x2F (wd (va / 32 * 32)) e
  else
    let p := chainPart s n
    let s3 := perfBump (engPut s0 p v va loc bs bad) p 8
    let s4 := match bar with
      | some b => barLand s3 p n e.view (deAux e.desc) b bs.length
      | none => s3
    let m := e.moved + bs.length
    let s5 := modEntry s4 n e.seq (fun x => { x with moved := m })
    if entryTotal e ≤ m then landed s5 n e.seq (deFlag e.desc 2) else s5

/-- The bytes of a chunk, read, go to an entry's own destination: its place and its barrier object's are found first. -/
def putChunk (s : State) (n : Nat) (e : ChainEntry) (c : Chunk) (bs : List Byte) (bad : List Bool) : State :=
  match chunkPlace n e s c with
  | .error b => chunkBad n e b true c.dst c.len
  | .ok (s1, loc, v) =>
    match barPlace n e s1 with
    | .error b => chunkBad n e b true c.dst c.len
    | .ok (s2, bar) => landChunk s2 n e c.dst loc v bar bs bad

/-- The chunk of an entry's own plan, read and written. -/
def ownChunk (n : Nat) (e : ChainEntry) (c : Chunk) : State :=
  match chunkBytes n e c with
  | .error b => chunkBad n e b false c.src c.len
  | .ok (s1, bs, bad) => putChunk s1 n e c bs bad

/-- The entries of a multicast group that take the chunks of the one that reads (14 R332). -/
def followers (s : State) (n seq : Nat) : List (Nat × ChainEntry) :=
  s.chains.flatMap (fun q => (q.2.entries.filter (fun f => f.lead == some (n, seq) && f.phase == 1)).map (fun f => (q.1, f)))

/-- Source bytes that some destination bytes of an entry stand for. -/
def srcDone (e : ChainEntry) (m : Nat) : Nat := if e.convert then m / fmtBytes e.dstFmt * fmtBytes e.srcFmt else m

/-- Source bytes that an entry has read once a chunk is moved. -/
def srcNeed (e : ChainEntry) (c : Chunk) : Nat :=
  if e.convert then ((e.moved + c.len - 1) / fmtBytes e.dstFmt + 1) * fmtBytes e.srcFmt else e.moved + c.len

/-- A member of a group takes what the reader has read so far, in the same clk, as chunks of its own window. One that cannot reads for
itself from there on (14 R332; Log 57). -/
def catchUp : Nat → State → Nat → Nat → Nat → State
  | 0, s, _, _, _ => s
  | fuel + 1, s, n, seq, upTo =>
    match entryOf s n seq with
    | none => s
    | some e =>
      if e.phase ≠ 1 ∨ e.lead.isNone then s
      else
        match planChunk s n e with
        | .error _ => runEngine (modEntry s n seq (fun x => { x with lead := none })) (n / 4)
        | .ok c =>
          if upTo < srcNeed e c then s
          else
            let s1 := ownChunk n e c
            if (entryOf s1 n seq).all (fun x => decide (e.moved < x.moved)) then catchUp fuel s1 n seq upTo
            else runEngine (modEntry s1 n seq (fun x => { x with lead := none })) (n / 4)

/-- Entries whose chunks are converted alike, or not at all, take the very bytes of one read (14 R332; Log 57). -/
def sameRead (a b : ChainEntry) : Bool := a.convert == b.convert && a.srcFmt == b.srcFmt && a.dstFmt == b.dstFmt

/-- A chunk read for the group goes to another requester's window, as that member's conversion makes it. -/
def followChunk (s : State) (n : Nat) (f e : ChainEntry) (c : Chunk) (bs : List Byte) (bad : List Bool) : State :=
  if sameRead e f ∧ f.moved = e.moved then
    let s1 := putChunk s n f { c with dst := deDst f.desc + f.moved } bs bad
    if (entryOf s1 n f.seq).all (fun x => decide (f.moved < x.moved)) then s1
    else runEngine (modEntry s1 n f.seq (fun x => { x with lead := none })) (n / 4)
  else catchUp 64 s n f.seq (if entryTotal e ≤ e.moved + c.len then deLen e.desc else srcDone e (e.moved + c.len))

/-- Windows that a chunk must wait for: of cores being woken, or whose binding changes (15 R345, R370): the state with them woken,
and the clk it waits. -/
def wakeWindows (s : State) (as : List Nat) : State × Nat :=
  as.foldl (fun acc a =>
    if 0x8000000000000 ≤ a ∧ a < 0x9000000000000 then
      let w := windowWake acc.1 ((a - 0x8000000000000) / 2 ^ 32)
      (w.1, max acc.2 w.2)
    else acc) (s, 0)

/-- Moves one chunk of an entry, and of those that share its read. -/
def moveChunk (s : State) (n : Nat) (e : ChainEntry) : State :=
  match planChunk s n e with
  | .error b => chunkBad n e b false (match b with
      | .fault _ a _ => a
      | _ => 0) 4
  | .ok c =>
    let w := wakeWindows c.s ((if deOp e.desc = 5 then [] else [c.src]) ++ (if deFlag e.desc 3 then [] else [c.dst]) ++
      (followers s n e.seq).map (fun q => deDst q.2.desc))
    if w.2 ≠ 0 then engHold w.1 n (w.1.clk + w.2)
    else if (s.engErr.get? (n / 4)).isSome then stopChain { s with engErr := s.engErr.del (n / 4) } n 0x5D (wd c.dst) e
    else
      match chunkBytes n e c with
      | .error b => chunkBad n e b false c.src c.len
      | .ok (s1, bs, bad) =>
        let s2 := putChunk s1 n e c bs bad
        if (entryOf s2 n e.seq).all (fun x => decide (e.moved < x.moved)) then
          (followers s n e.seq).foldl (fun a q => followChunk a q.1 q.2 e c bs bad) s2
        else s2

/-- ENGINE_CHUNK: one chunk of the engine's next chain in rotation (14 R317); of its entries, the oldest that can move
(Log 16; Log 77). -/
def execEngineChunk (engine : Nat) (s : State) : Host.Outcome State Fault Refusal :=
  let s0 := unsched s (fun i => i == .engineChunk engine)
  let last := s0.engRot.getD engine 0
  match ((upFrom 1 4).map (fun j => 4 * engine + (last + j) % 4)).find?
      (fun n => hasChunk (chainAt s0 n) && decide (s0.engLate.getD n 0 ≤ s0.clk)) with
  | none => .next (runEngine s0 engine)
  | some n =>
    let s1 := { s0 with engRot := s0.engRot.put engine (n % 4), engLate := s0.engLate.del n }
    match (chainAt s1 n).entries.find? canMove with
    | none => .next s1
    | some e => .next (runEngine (moveChunk s1 n e) engine)

/-! Completion (14 R328). -/

/-- Where the report word of an entry is written: nowhere, where REPORT names no place, or where it faults or is refused (14 R328). -/
def reportPlace (s : State) (n : Nat) (e : ChainEntry) : Except EngBad (State × Option (Nat × Nat × Nat)) :=
  let a := (rdCtl s (chainBase n + 0x20)).toNat
  if a = 0 ∨ a % 8 ≠ 0 then .ok (s, none)
  else
    match engAt s n (chainPart s n) e.view a 8 true with
    | .error (.wait s1 c) => .error (.wait s1 c)
    | .error (.fault s1 _ _) => .ok (s1, none)
    | .error (.stop s1 _ _) => .ok (s1, none)
    | .ok (s1, loc, v) => .ok (s1, some (a, loc, v))

/-- Records the completion of a chain's oldest entry, whose report word's place is known. -/
def recordEntry (s : State) (n : Nat) (e : ChainEntry) (place : Option (Nat × Nat × Nat)) : State :=
  let p := chainPart s n
  let s1 := setCtlF s (chainBase n + 0x10) 0 32 e.seq
  let s2 := match place with
    | some q => engPut s1 p q.2.2 q.1 q.2.1 (toBytes 8 (e.seq + e.cause * 2 ^ 32)) []
    | none => s1
  let s3 := if deTinc e.desc = 0 then s2 else timelineCount s2 (p * 4096 + deTline e.desc) 2 n (wd (deTinc e.desc))
  let k := deNotify e.desc % 256 * 64 + deNotify e.desc / 256 % 64
  let s4 := if deFlag e.desc 0 && ((thr s3 k).map (fun t => partOf t == p && !t.host)).getD false
    then announce s3 k (uiWord 1 n) (wd e.seq) else s3
  let s5 := dropEntries s4 n (fun x => x.seq == e.seq)
  setChain s5 n { chainAt s5 n with kicks := (chainAt s5 n).kicks.filter (fun q => decide (seqDiff q.1 (e.seq + 1) < 2 ^ 31)) }

/-- Follow-on work of an entry has ended. -/
def followDone (s : State) (n : Nat) (e : ChainEntry) : Bool :=
  e.phase == 3 && s.matops.all (fun q => q.2.chain != some (entryName n e.seq))

/-- Records completions in order, as far as they go; a report word whose page is being walked is waited for. -/
def recordGo : Nat → State → Nat → State
  | 0, s, _ => s
  | fuel + 1, s, n =>
    match (chainAt s n).entries with
    | [] => s
    | e :: _ =>
      if e.phase = 4 ∨ followDone s n e = true then
        match reportPlace s n e with
        | .error (.wait s1 c) => sched s1 c (.entryCompletion n)
        | .error _ => s
        | .ok (s1, place) => recordGo fuel (recordEntry s1 n e place) n
      else s

/-- ENTRY_COMPLETION: completions are recorded strictly in order; a chain with nothing left to do is idle. -/
def execEntryCompletion (chain : Nat) (s : State) : Host.Outcome State Fault Refusal :=
  let s1 := recordGo 4 s chain
  let s2 := if chainState s1 chain = 2 ∧ kickSeq s1 chain = doneSeq s1 chain then setChainState s1 chain 1 0 else s1
  .next (wantEntry (startHeld s2 chain) chain 1)

/-! Replies and commands (14 R319, R330). -/

/-- A stalled chain runs on, unless another of its entries, or its read at HEAD, is stalled too. -/
def unstall (s : State) (n : Nat) : State :=
  if chainState s n ≠ 3 then s
  else
    match (chainAt s n).entries.find? (fun e => e.token.isSome) with
    | some e => setFaultOff (setChainState s n 3 e.cause) n e.faultAt
    | none =>
      if (chainAt s n).token.isSome then setFaultOff (setChainState s n 3 0x53) n 0
      else setFaultOff (setChainState s n (if kickSeq s n = doneSeq s n then 1 else 2) 0) n 0

/-- CHAIN_FAULT_REPLY: 0 retries from the faulting byte; 1 abandons the entry and the chain goes on; 2 stops the chain. A read of
HEAD that faulted is repeated by 0, and stops the chain otherwise; an unknown token is discarded. -/
def execChainFaultReply (chain : Nat) (token : Word) (action : Nat) (s : State) : Host.Outcome State Fault Refusal :=
  let c := chainAt s chain
  let sf := match (if action = 0 then s.tokens.get? token.toNat else none) with
    | some x => (walkAgain s (chain / 8) (chainPart s chain) x.2.2.toNat).1
    | none => s
  let s0 := { sf with tokens := sf.tokens.del token.toNat }
  if c.token = some token.toNat then
    let s1 := setChain s0 chain { c with token := none }
    if chainState s1 chain ≠ 3 then .next s1
    else if action = 0 then .next (wantEntry (unstall s1 chain) chain 8)
    else .next (setChainState s1 chain 4 0x53)
  else
    match c.entries.find? (fun e => e.token == some token.toNat) with
    | none => .next s
    | some e =>
      if action = 0 then
        let s1 := modEntry s0 chain e.seq (fun x => { x with token := none, cause := 0 })
        .next (wantEntry (runEngine (unstall s1 chain) (chain / 4)) chain 1)
      else if action = 1 then
        let s1 := unstall (modEntry s0 chain e.seq (fun x => { x with token := none, phase := 4 })) chain
        .next (sched (freeFollowers s1 chain e.seq) s1.clk (.entryCompletion chain))
      else .next (stopAt s0 chain e.cause e)

/-- CHAIN_START: CTL 1 (14 R319). -/
def execChainStart (chain : Nat) (s : State) : Host.Outcome State Fault Refusal :=
  if chainState s chain ≠ 0 ∧ chainState s chain ≠ 4 then .next s
  else
    let s1 := setChain s chain { chainAt s chain with reading := false, wait := none, token := none, hold := none }
    let s2 := unsched s1 (fun i => i == .chainEntryRead chain || i == .chainEntryReread chain || i == .chainEntryNotReady chain)
    .next (wantEntry (setChainState s2 chain (if kickSeq s2 chain = doneSeq s2 chain then 1 else 2) 0) chain 8)

/-- CHAIN_STOP: CTL 2. -/
def execChainStop (chain : Nat) (s : State) : Host.Outcome State Fault Refusal :=
  if chainState s chain = 0 ∨ 4 ≤ chainState s chain then .next s
  else
    match (chainAt s chain).entries with
    | [] => .next (setChainState (dropHead s chain) chain 4 0)
    | e :: _ => .next (stopAt s chain 0 e)

/-- CHAIN_RESYNC: CTL 3. -/
def execChainResync (chain : Nat) (s : State) : Host.Outcome State Fault Refusal :=
  if chainState s chain ≠ 0 ∧ chainState s chain ≠ 4 then .next s
  else
    let v := chainExp s chain + 2 ^ 32 - 1
    let s1 := setChain s chain { chainAt s chain with kicks := [] }
    .next (setCtlF (setCtlF s1 (chainBase chain + 0x10) 0 32 v) (chainBase chain + 8) 32 32 v)

/-! Multicast and follow-on work (14 R332, R333). -/

/-- MCAST_GROUP_CLOSE: the entries of a group are moved: the first reads the source, once for all, and each window is written. -/
def execMcastGroupClose (group : Nat) (s : State) : Host.Outcome State Fault Refusal :=
  let mine := s.offers.filter (fun o => o.group == group)
  let s1 := { s with offers := s.offers.filter (fun o => o.group != group) }
  let ready := mine.filterMap (fun o => ((entryOf s1 o.chain o.seq).filter (fun e => e.phase == 0)).map (fun e => (o.chain, e)))
  .next (ready.foldl (fun a q =>
    if entryTotal q.2 = 0 then landed a q.1 q.2.seq (deFlag q.2.desc 2)
    else
      let lead := match ready.head? with
        | some x => if x.1 = q.1 ∧ x.2.seq = q.2.seq then none else some (x.1, x.2.seq)
        | none => none
      runEngine (modEntry a q.1 q.2.seq (fun x => { x with phase := 1, lead := lead })) (q.1 / 4)) s1)

/-- One row of a tile, read where the entry's destination holds it. -/
def followRow (s : State) (n : Nat) (e : ChainEntry) (a len : Nat) : Except EngBad (State × List Byte × List Bool) :=
  if deFlag e.desc 3 then engLine n (chainPart s n) (shadowView e) a a len s else engRead n (chainPart s n) e.view (cut a len) s

/-- The rows of a tile as bytes at the entry's destination hold them: none where a read is refused or poisoned, or where it waits, the
state and the clk. -/
def followRows (s : State) (n : Nat) (e : ChainEntry) (len : Nat) : Nat → Nat → Except (Option (State × Nat)) (State × List (List Byte))
  | _, 0 => .ok (s, [])
  | a, rows + 1 =>
    match followRow s n e a len with
    | .error (.wait s1 c) => .error (some (s1, c))
    | .error _ => .error none
    | .ok (s1, bs, bad) =>
      if bad.any (fun b => b) then .error none
      else (followRows s1 n e len (a + len) rows).map (fun r => (r.1, bs :: r.2))

/-- The follow-on of an entry is invalid: 0x55, and the entry completes without it. -/
def followBad (s : State) (n : Nat) (e : ChainEntry) : State := landed (postChain s n 0x55 (wd e.addr) e.view) n e.seq false

/-- The engine's lock on the tile it has loaded is gone. -/
def dropFollowLock (s : State) (n : Nat) (e : ChainEntry) : State :=
  { s with matops := s.matops.filter (fun q => q.2.chain != some (entryName n e.seq)) }

/-- With the tile loaded, the operation enters the matrix queues as if the thread had issued it; or the engine waits, the tile
locked, for the other tiles and for room, without a limit (14 R333). -/
def followEnter (s : State) (n : Nat) (e : ChainEntry) (k : Nat) (t : Thread) : State :=
  let w := wd (deFollow e.desc)
  let td := bits w 14 5
  let ta := bits w 19 5
  let tb := bits w 24 5
  let ld := if bit w 34 then tb else ta
  let s0 := dropFollowLock s n e
  if (lockWait s0 k t ([(td, true), (ta, false), (tb, false)] ++ matExtra t ta tb (bit w 33))).isSome ∨ matFull s0 (coreOf k) = true then
    let lock : MatOp := ⟨k, ld, [ld], 1, 0, [], [], some (entryName n e.seq)⟩
    let s1 := { s0 with nextId := s0.nextId + 1, matops := s0.matops.put s0.nextId lock }
    sched (modEntry s1 n e.seq (fun y => { y with phase := 5 })) (s1.clk + 1) (.followOnMma n)
  else if (firstBad (matChecks t td ta tb (bit w 33))).isSome then followBad s0 n e
  else
    let s3 := enterMatrix s0 k t td ta tb (bits w 29 3) (bit w 33) (bit w 32) (some (entryName n e.seq))
    modEntry s3 n e.seq (fun y => { y with phase := 3 })

/-- What follows the last byte of an entry: the tile that LB selects is locked and loaded, and the operation enters; or the engine
waits for the lock; or the follow-on is invalid. -/
def followStep (s : State) (n : Nat) (e : ChainEntry) : State :=
  let w := wd (deFollow e.desc)
  let k := bits w 0 8 * 64 + bits w 8 6
  let td := bits w 14 5
  let ta := bits w 19 5
  let tb := bits w 24 5
  let ld := if bit w 34 then tb else ta
  match thr s k with
  | none => followBad s n e
  | some t =>
    if t.host ∨ partOf t ≠ chainPart s n ∨ t.run = .ending ∨ t.tcount ≤ td ∨ t.tcount ≤ ta ∨ t.tcount ≤ tb then followBad (dropFollowLock s n e) n e
    else if e.phase = 5 then followEnter s n e k t
    else if (lockWait s k t [(ld, true)]).isSome then sched s (s.clk + 1) (.followOnMma n)
    else
      let x := tileOf t ld
      let eb := elemBits (tileFmt x)
      let len := rowLen (gangWidth t) x * eb / 8
      let a := if deFlag e.desc 3 then e.buffer else deDst e.desc
      if x.cfg = 0 ∨ a % max 1 (eb / 8) ≠ 0 ∨ len = 0 ∨ (upFrom 0 (tileRows x)).any (fun r => bankMismatch s (tileFmt x) (a + r * len) len) = true then
        followBad s n e
      else
        match followRows s n e len a (tileRows x) with
        | .error (some (s1, c)) => sched s1 c (.followOnMma n)
        | .error none => followBad s n e
        | .ok (s1, rows) =>
          let cols := rowLen (gangWidth t) x
          let vs := (rows.zip (upFrom 0 rows.length)).flatMap (fun q =>
            (upFrom 0 cols).map (fun i => (q.2 * cols + i, ofBytes q.1 / 2 ^ (eb * i) % 2 ^ eb)))
          let u := { t with tiles := t.tiles.put ld (setElems x vs) }
          followEnter (injectTile (setThr s1 k u) k u ld) n e k u

/-- FOLLOW_ON_MMA (14 R333). -/
def execFollowOnMma (chain : Nat) (s : State) : Host.Outcome State Fault Refusal :=
  match (chainAt s chain).entries.find? (fun e => e.phase == 2 || e.phase == 5) with
  | none => .next s
  | some e => .next (followStep s chain e)

end Sys2Proof.Machine
end

