-- ==== Sys2Proof/Machine/Ports.lean ====
section
/-! DEFINITION. The Ethernet ports: stream filters, gates, meters and latch maps, the receive and transmit rings, gate control
lists and the egress of the output image (17 R412 to R417; 20 R461 to R467). A frame is its bytes with the FCS, the first of
the wire first; the first byte of an address is bits [47:40] of its field (Log 28). -/

namespace Sys2Proof.Machine

/-! Frames (20 R461; 17 R412). -/

def crcBits : Nat → Nat → Nat
  | 0, c => c
  | n + 1, c => crcBits n (if c % 2 = 1 then c / 2 ^^^ 0xEDB88320 else c / 2)

/-- The FCS of a frame's other bytes (Log 28). -/
def fcsOf (bs : List Byte) : Nat := (bs.foldl (fun c b => crcBits 8 (c ^^^ b.toNat)) 0xFFFFFFFF) ^^^ 0xFFFFFFFF

def withFcs (bs : List Byte) : List Byte := bs ++ toBytes 4 (fcsOf bs)

def fcsGood (bs : List Byte) : Bool := bs == withFcs (bs.take (bs.length - 4))

/-- n bytes of a frame at an offset, the first the most significant. -/
def beField (bs : List Byte) (off n : Nat) : Nat := ((bs.drop off).take n).foldl (fun a b => a * 256 + b.toNat) 0

def beBytes (n v : Nat) : List Byte := (toBytes n v).reverse

/-- What stream identification reads of a C-tagged frame of VID 1 to 4,094 (17 R412): addresses, VID, PCP, and the payload after tag
and EtherType. -/
structure RxFrame where
  dst     : Nat
  src     : Nat
  vid     : Nat
  pcp     : Nat
  payload : List Byte
  deriving DecidableEq, Repr

def rxParse (bs : List Byte) : Option RxFrame :=
  if beField bs 12 2 ≠ 0x8100 ∨ beField bs 14 2 % 4096 = 0 ∨ beField bs 14 2 % 4096 = 4095 then none
  else some ⟨beField bs 0 6, beField bs 6 6, beField bs 14 2 % 4096, beField bs 14 2 / 8192,
    (bs.take (bs.length - 4)).drop 18⟩

/-! A port's control block (20 R462). -/

def portEn (s : State) (port : Nat) : Bool := ctlF s (portBase port) 2 1 == 1
def portUp (s : State) (port : Nat) : Bool := portEn s port && ctlF s (portBase port) 4 1 == 1
def portJumbo (s : State) (port : Nat) : Bool := ctlF s (portBase port) 3 1 == 1
def portMac (s : State) (port : Nat) : Nat := ctlF s (portBase port + 8) 0 48

/-- One more in a HW counter. -/
def countUp (s : State) (a : Nat) : State := wrCtl s a (rdCtl s a + 1)

/-- A port's write to physical memory at system scope, through the home slices (10 R225, R229); one that leaves DRAM reaches
nothing (Log 28). -/
def macWrite (s : State) (a : Nat) (bs : List Byte) : State :=
  if dramTop < a + bs.length then s
  else (cut a bs.length).foldl (fun m q => portWrote m 16 0 q.1 q.2) (wrMemBytes s a bs)

/-! Rings (20 R463 to R465). -/

/-- Advances HEAD of the ring whose control is at c, and its timeline; ord is its place in the order of R449 (Log 28). -/
def ringDone (s : State) (port c ord : Nat) : State :=
  let w := rdCtl s c
  let s1 := setCtlF s c 16 16 ((bits w 16 16 + 1) % bits w 0 16)
  if bit w 60 then timelineCount s1 (ctlF s (portBase port) 8 4 * 4096 + bits w 48 12) 2 (128 + 2 * port + ord) 1 else s1

/-- The address of the descriptor at HEAD, where the ring has one for the port. -/
def ringHeadAt (s : State) (base c : Nat) : Option Nat :=
  let w := rdCtl s c
  let d := (rdCtl s base).toNat + 32 * bits w 16 16
  if bits w 0 16 = 0 ∨ bits w 16 16 = bits w 32 16 ∨ dramTop < d + 32 then none else some d

/-- Delivers a frame to the receive ring. -/
def rxDeliver (s : State) (port : Nat) (bs : List Byte) (filter ts : Nat) : State :=
  let b := portBase port
  match ringHeadAt s (b + 0x10) (b + 0x18) with
  | none => countUp s (b + 0x38)
  | some d =>
    let len := rdMemN s (d + 0x0A) 2
    let flags := rdMemN s (d + 0x0D) 1
    let err := if len < bs.length then 4 else 0
    let s1 := macWrite s (rdMemN s d 8) (bs.take len)
    let s2 := macWrite (macWrite (macWrite s1 (d + 8) (toBytes 2 bs.length)) (d + 0x0E) (toBytes 2 filter)) (d + 0x10) (toBytes 8 ts)
    ringDone (macWrite s2 (d + 0x0D) (toBytes 1 (flags / 2 % 2 * 2 + err + 1))) port (b + 0x18) 0

/-! Stream filters, gates and meters (17 R414, R415). -/

def filterAt (i : Nat) : Nat := streamBase + 64 * i
def gateAddr (i : Nat) : Nat := streamBase + 0x10000 + 16 * i
def meterAddr (i : Nat) : Nat := streamBase + 0x12000 + 32 * i
def latchMap (i j : Nat) : Nat := streamBase + 0x20000 + 32 * i + 8 * j

def filterMatches (s : State) (port : Nat) (f : RxFrame) (i : Nat) : Bool :=
  let m := rdCtl s (filterAt i)
  let x := rdCtl s (filterAt i + 8)
  ctlF s (filterAt i + 0x10) 48 1 == 1 && bit x (56 + port) && bits m 0 48 == f.dst && bits m 48 12 == f.vid &&
    (!bit m 63 || bits m 60 3 == f.pcp) && (!bit x 48 || bits x 0 48 == f.src)

/-- A stream gate is open at a PTP time: at times from OPENOFF to CLOSEOFF after each tick that has been (17 R415). -/
def gateOpen (s : State) (i ts : Nat) : Bool :=
  let a := gateAddr i
  let open_ : Int := ctlF s a 0 32
  let close : Int := ctlF s a 32 32
  ctlF s (a + 8) 1 1 == 1 || s.ticks.any (fun x => decide (open_ ≤ ts - x) && decide (ts - x < close))

/-- Tokens of a meter at a PTP time: committed, excess, in 10^-6 bits (Log 28). -/
def meterTokens (s : State) (i ts : Nat) : Nat × Nat :=
  let a := meterAddr i
  let cap := ctlF s a 32 32 * 8000000
  let ecap := ctlF s (a + 8) 32 32 * 8000000
  match s.meters.get? i with
  | none => (cap, ecap)
  | some (c, e, t) =>
    let c1 := c + (ts - t) * ctlF s a 0 32
    let spill := if ctlF s (a + 0x10) 1 1 = 1 then c1 - cap else 0
    (min cap c1, min ecap (e + (ts - t) * ctlF s (a + 8) 0 32 + spill))

/-- A frame of n bytes through a meter, colour-blind: whether it is dropped, and the meter after it (17 R415; R416 step 4). -/
def meterPass (s : State) (i n ts : Nat) : State × Bool :=
  let a := meterAddr i + 0x10
  let need := n * 8000000
  let r := meterTokens s i ts
  if ctlF s a 4 1 = 1 then (s, true)
  else if need ≤ r.1 then ({ s with meters := s.meters.put i (r.1 - need, r.2, ts) }, false)
  else if need ≤ r.2 then ({ s with meters := s.meters.put i (r.1, r.2 - need, ts) }, ctlF s a 2 1 == 1)
  else
    let s1 := { s with meters := s.meters.put i (r.1, r.2, ts) }
    (if ctlF s a 3 1 = 1 then setCtlF s1 a 4 1 1 else s1, true)

/-- Logs a drop in partition 0's ring, by the port that made it. -/
def portLog (s : State) (port cause : Nat) (info : Word) : State := logEvent s 0 cause 6 port 0xFF info

/-- A matched frame later than its latch point (17 R416 step 5). -/
def frameLate (s : State) (i ts : Nat) : Bool :=
  s.cycOn && decide (s.cycDue - (ctlF s (filterAt i + 0x18) 0 32 : Int) < ts)

/-- A segment of a filter's latch map that lies wholly in the payload: its bytes, and where they go (17 R415, R416). -/
def latchSegment (s : State) (i j : Nat) (payload : List Byte) : Option (Nat × List Byte) :=
  let w := rdCtl s (latchMap i j)
  let off := bits w 0 11
  let len := bits w 11 11
  if len = 0 ∨ payload.length < off + len then none else some (bits w 22 22, (payload.drop off).take len)

/-- One latch write: at the tick that closes the cycle, or at once where no cycle runs. -/
def latchWrite (s : State) (l : Latch) : State :=
  if s.cycOn then { s with latches := s.latches ++ [l] } else wrMemBytes s (twinBuffer s 0 0 true + l.off) l.bytes

/-- The segments of a frame that its filter latches. -/
def latchFrame (s : State) (port i ts : Nat) (held : Bool) (payload : List Byte) : State :=
  ((upFrom 0 4).filterMap (fun j => latchSegment s i j payload)).foldl
    (fun a q => latchWrite a ⟨ts, port, q.1, q.2, held⟩) s

/-- A frame that filter i has matched: the state after steps 2 to 6, and whether the frame passed (17 R416). -/
def frameSteps (s : State) (port i n ts : Nat) (f : RxFrame) : State × Bool :=
  let w := rdCtl s (filterAt i + 0x10)
  let gate := bits w 0 16
  let meter := bits w 16 16
  if bits w 32 16 ≠ 0 ∧ bits w 32 16 < f.payload.length then (s, false)
  else if gate < 512 ∧ ctlF s (gateAddr gate + 8) 0 1 = 1 ∧ gateOpen s gate ts = false then (portLog s port 0x66 (wd i), false)
  else
    let r := if meter < 512 ∧ ctlF s (meterAddr meter + 0x10) 0 1 = 1 then meterPass s meter n ts else (s, false)
    if r.2 then (portLog r.1 port 0x67 (wd i), false)
    else
      let late := frameLate r.1 i ts
      let held := late && bit w 50
      let s1 := if late then portLog r.1 port 0x68 (wd (i + if held then 2 ^ 63 else 0)) else r.1
      if late && !held then (s1, false)
      else (if bit w 49 then latchFrame s1 port i ts held f.payload else s1, true)

/-- FRAME_RECEIVED (20 R461, R465; 17 R416). -/
def execFrameReceived (port : Nat) (frame : List Byte) (ts : Nat) (s : State) : Host.Outcome State Fault Refusal :=
  let b := portBase port
  if 8 ≤ port ∨ portEn s port = false then .next s
  else if frame.length < 64 ∨ (if portJumbo s port then 9022 else 1522) < frame.length ∨ fcsGood frame = false then
    .next (countUp s (b + 0x38))
  else
    let s1 := countUp s (b + 0x30)
    match (rxParse frame).bind (fun f => (firstFrom (filterMatches s1 port f) 0 1024).map (fun i => (f, i))) with
    | none => .next (rxDeliver s1 port frame 0xFFFF ts)
    | some (f, i) =>
      let r := frameSteps (countUp s1 (filterAt i + 0x20)) port i frame.length ts f
      if r.2 then
        let s2 := countUp r.1 (filterAt i + 0x28)
        .next (if ctlF s (filterAt i + 0x10) 51 1 = 1 then rxDeliver s2 port frame i ts else s2)
      else .next (countUp r.1 (filterAt i + 0x30))

/-- LINK_CHANGE (20 R462). -/
def execLinkChange (port : Nat) (up : Bool) (s : State) : Host.Outcome State Fault Refusal :=
  if 8 ≤ port then .next s
  else .next (sched (setCtlF s (portBase port) 4 1 (if up then 1 else 0)) s.clk (.txFrameSend port))

/-! Gate control lists (17 R417). -/

def gateBlock (port : Nat) : Nat := streamBase + 0x40000 + 0x4000 * port
def gateEntry (s : State) (port i : Nat) : Word := rdCtl s (gateBlock port + 0x2000 + 8 * i)

/-- The gate states of a port now; every gate open while its list is off. -/
def gatesNow (s : State) (port : Nat) : Nat := s.gateOn.getD port 0xFF

/-- The clk by which ns nanoseconds of PTP time have passed, rounded up; while the PTP clock does not run forward, those of the
nominal rate (19 R438; 20 R468; Log 28). -/
def nsClk (s : State) (ns : Nat) : Nat :=
  if ptpPerClk s ≤ 0 then (ns * 21 + 9) / 10 else (ceilInt (ns * nsUnit) (ptpPerClk s)).toNat

/-- What follows of a list from its i-th entry, which begins at ns after the tick: states, and the clk they last. Each entry ends
where the sum of the intervals lies, so that no rounding adds up (01 R24). -/
def listAt (s : State) : Nat → List Word → List (Nat × Nat)
  | _, [] => []
  | ns, e :: r => (bits e 0 8, nsClk s (ns + bits e 32 32) - nsClk s ns) :: listAt s (ns + bits e 32 32) r

/-- The entries of a list from its i-th, those of INTERVAL 0 skipped. -/
def listFrom (s : State) (port : Nat) (w : Word) (i ns : Nat) : List (Nat × Nat) :=
  if bit w 21 then
    listAt s ns (((upFrom i (bits w 10 11 - i)).map (fun j => gateEntry s port (bits w 0 10 + j))).filter (fun e => bits e 32 32 != 0))
  else []

/-- When an event of a port's list is due. -/
def nextEntryDue (s : State) (port : Nat) : Option Nat := (s.agenda.find? (fun q => q.2 == .gateListEntry port)).map (fun q => q.1)
def tickDue (s : State) : Option Nat := (s.agenda.find? (fun q => q.2 == .boundaryTick)).map (fun q => q.1)

/-- Cuts a list of states and durations at a duration; the last state holds until there. -/
def cutAt : Nat → Nat → List (Nat × Nat) → List (Nat × Nat)
  | total, st, [] => [(st, total)]
  | total, _, (x, d) :: r => if d < total then (x, d) :: cutAt (total - d) x r else [(x, total)]

/-- The gate states of a port from now on: to the next tick, and after it as the list then in force begins. The flag is true
where the last state holds with no end that the list gives. -/
def gatesAhead (s : State) (port : Nat) : List (Nat × Nat) × List (Nat × Nat) :=
  let st := gatesNow s port
  let rest := match nextEntryDue s port with
    | none => []
    | some d => (st, d - s.clk) :: listFrom s port (gateOper s port) (s.gateAt.getD port 0) (s.gateNs.getD port 0)
  match tickDue s with
  | none => (rest ++ [((rest.getLast?.getD (st, 0)).1, 2 ^ 40)], [])
  | some d =>
    let now := cutAt (d - s.clk) st rest
    let w := if ctlF s (gateBlock port) 22 1 = 1 then rdCtl s (gateBlock port) else gateOper s port
    let hold := (now.getLast?.getD (st, 0)).1
    let next := if bit w 21 && bits w 10 11 != 0 then (hold, nsClk s (bits w 32 32)) :: listFrom s port w 0 (bits w 32 32) else []
    (now, next ++ [((next.getLast?.getD (0xFF, 0)).1, 2 ^ 40)])

/-- For how long a class stays open from the start of a list of states. -/
def openLead (tc : Nat) : List (Nat × Nat) → Nat
  | [] => 0
  | (x, d) :: r => if x / 2 ^ tc % 2 = 1 then d + openLead tc r else 0

/-- Some window of a class in a list of states lasts n clk; one that reaches the list's end does. -/
def windowFits (tc n : Nat) : List (Nat × Nat) → Bool
  | [] => false
  | (x, d) :: r =>
    (x / 2 ^ tc % 2 == 1 && (decide (n ≤ openLead tc ((x, d) :: r)) || r.all (fun y => y.1 / 2 ^ tc % 2 == 1))) ||
      windowFits tc n r

/-- Hundredths of a clk per byte at a port's rate: 1, 2.5 or 10 Gb/s (20 R461, R462). -/
def byteTime (s : State) (port : Nat) : Nat :=
  match ctlF s (portBase port) 0 2 with
  | 0 => 1680
  | 1 => 672
  | _ => 168

/-- The clk that a frame of n bytes without FCS takes on the wire, from its start-of-frame delimiter. -/
def frameTime (s : State) (port n : Nat) : Nat := ((n + 5) * byteTime s port + 99) / 100

/-- The clk for which a port is taken by it, preamble and gap included (Log 28). -/
def wireTime (s : State) (port n : Nat) : Nat := ((n + 24) * byteTime s port + 99) / 100

/-- A port's wire. Every class is express until it is made preemptable (Log 100). -/
def noWire : Wire := ⟨0, 0, false, none, none⟩
def wireOf (s : State) (port : Nat) : Wire := s.wires.getD port noWire
def modWire (s : State) (port : Nat) (f : Wire → Wire) : State := { s with wires := s.wires.putD port noWire (f (wireOf s port)) }

/-- A traffic class of a port is preemptable (17 R412; Log 100). -/
def preemptable (s : State) (port tc : Nat) : Bool := (wireOf s port).classes / 2 ^ tc % 2 == 1

/-- Drops the queued egress frames of express classes that cannot complete before their gates close in this cycle (20 R467). -/
def egressCull (s : State) (port : Nat) : State :=
  let now := (gatesAhead s port).1
  let misses (f : Frame) : Bool := f.port == port && !preemptable s port f.tc && !windowFits f.tc (frameTime s port f.bytes.length) now
  (s.frames.filter misses).foldl (fun a f => portLog a port 0x69 (wd (port + 256 * f.tc)))
    { s with frames := s.frames.filter (fun f => !misses f) }

/-- GATE_LIST_CONTROL_STORE (17 R417): pending until the next tick. -/
def execGateListControlStore (port : Nat) (v : Word) (s : State) : Host.Outcome State Fault Refusal :=
  .next (wrCtl s (gateBlock port) (setBits v 22 1 1))

/-- The first entry of a list from its i-th that has an interval. -/
def liveEntry (s : State) (port : Nat) (w : Word) (i : Nat) : Option Nat :=
  firstFrom (fun j => bits (gateEntry s port (bits w 0 10 + j)) 32 32 != 0) i (bits w 10 11 - i)

/-- GATE_LIST_ENTRY (17 R417): the interval of the next entry begins, and its operation holds or releases the preemptable classes
(R412); the one after it is due at its place after the tick (01 R24). -/
def execGateListEntry (port : Nat) (s : State) : Host.Outcome State Fault Refusal :=
  let w := gateOper s port
  match (if bit w 21 then liveEntry s port w (s.gateAt.getD port 0) else none) with
  | none => .next s
  | some j =>
    let e := gateEntry s port (bits w 0 10 + j)
    let ends := s.gateNs.getD port 0 + bits e 32 32
    let s0 := match bits e 8 2 with
      | 1 => modWire s port (fun x => { x with held := true })
      | 2 => modWire s port (fun x => { x with held := false })
      | _ => s
    let s1 := { s0 with gateOn := s.gateOn.putD port 0xFF (bits e 0 8), gateAt := s.gateAt.put port (j + 1),
                        gateNs := s.gateNs.put port ends }
    let s2 := match liveEntry s port w (j + 1) with
      | none => s1
      | some _ => sched s1 (clkAtUnits s (s.gateTick + ends * nsUnit)) (.gateListEntry port)
    .next (sched (egressCull s2 port) s.clk (.txFrameSend port))

/-- A tick: the pending control takes effect, and the list starts again (17 R417). -/
def restartGates (s : State) (port : Nat) : State :=
  let a := gateBlock port
  let s1 := if ctlF s a 22 1 = 1 then setCtlF (wrCtl s (a + 8) (setBits (rdCtl s a) 22 1 0)) a 22 1 0 else s
  let w := gateOper s1 port
  let s2 := { unsched s1 (fun i => i == .gateListEntry port) with
    gateAt := s1.gateAt.put port 0, gateNs := s1.gateNs.put port (bits w 32 32), gateTick := ptpUnits s }
  if bit w 21 && bits w 10 11 != 0 then sched s2 (s.clk + nsClk s (bits w 32 32)) (.gateListEntry port)
  else sched (modWire { s2 with gateOn := s2.gateOn.del port } port (fun x => { x with held := false })) s.clk (.txFrameSend port)

/-! Transmission (20 R465, R467). -/

/-- A frame may start now: its class's gate is open, and of an express class stays so until the frame has completed; a preemptable one
is not held, and none is interrupted before it (17 R412, R417; Log 100). -/
def mayStart (s : State) (port : Nat) (f : Frame) : Bool :=
  if preemptable s port f.tc then
    gatesNow s port / 2 ^ f.tc % 2 == 1 && !(wireOf s port).held && (wireOf s port).rest.isNone
  else
    let g := gatesAhead s port
    decide (frameTime s port f.bytes.length ≤ openLead f.tc (g.1 ++ g.2))

/-- The frame at HEAD of the transmit ring, the port's MAC its source (20 R462; Log 28). -/
def txRingFrame (s : State) (port : Nat) : Option Frame :=
  let b := portBase port
  (ringHeadAt s (b + 0x20) (b + 0x28)).map (fun d =>
    let a := rdMemN s d 8
    let bs := (upFrom a (rdMemN s (d + 8) 2)).map (rdMem s)
    ⟨port, rdMemN s (d + 0x0C) 1 % 8, bs.take 6 ++ beBytes 6 (portMac s port) ++ bs.drop 12, 0, some d⟩)

/-- Of some frames the one that goes next: of the highest class; of one class the output image's first (Log 28). -/
def topFrame (l : List Frame) : Option Frame :=
  (firstFrom (fun c => l.any (fun f => f.tc == 7 - c)) 0 8).bind (fun c => l.find? (fun f => f.tc == 7 - c))

/-- The frames that may start. -/
def readyFrames (s : State) (port : Nat) : List Frame :=
  ((s.frames.filter (fun f => f.port == port)) ++ (txRingFrame s port).toList).filter (mayStart s port)

/-- The frame that goes next: express classes before preemptable ones (Log 100). -/
def pickFrame (s : State) (port : Nat) : Option Frame :=
  let ready := readyFrames s port
  (topFrame (ready.filter (fun f => !preemptable s port f.tc))).or (topFrame ready)

/-- Where the preemptable frame on a port's wire is interrupted, for an express frame or by a hold: the bytes its fragment has and the
bytes left, where neither is too short (17 R412; Log 100). -/
def txCut (s : State) (port : Nat) : Option (Nat × Nat × Nat) :=
  match (wireOf s port).sending with
  | none => none
  | some (from_, n) =>
    if (wireOf s port).held || (readyFrames s port).any (fun f => !preemptable s port f.tc) then
      let gone := ((s.clk - from_) * 100 / byteTime s port) - 8
      let cut := max gone (64 * (1 + (wireOf s port).addFrag) - 4)
      if cut + 60 ≤ n then some (from_, cut, n - cut) else none
    else none

/-- The transmit descriptor of a sent frame completes (20 R465). -/
def txComplete (s : State) (port d ts : Nat) : State :=
  let flags := rdMemN s (d + 0x0D) 1
  let s1 := if flags / 2 % 2 = 1 then macWrite s (d + 0x10) (toBytes 8 ts) else s
  ringDone (macWrite s1 (d + 0x0D) (toBytes 1 (flags / 2 * 2 + 1))) port (portBase port + 0x28) 1

/-- A port's wire is free: the frame that goes next starts, or an interrupted one goes on. -/
def txNext (s : State) (port : Nat) : State :=
  let again (x : State) : State := sched (egressCull x port) (x.sendAt.getD port 0) (.txFrameSend port)
  match pickFrame s port with
  | some f =>
    let ts := (ptpNs s).toNat
    let on := if preemptable s port f.tc then some (s.clk, f.bytes.length) else none
    let s0 := if (wireOf s port).sending = on then s else modWire s port (fun x => { x with sending := on })
    let s1 := { s0 with frames := s.frames.erase f, sendAt := s.sendAt.put port (s.clk + wireTime s port f.bytes.length),
                        sent := if roleOf s = 2 then s.sent else s.sent ++ [{ f with bytes := withFcs f.bytes, at_ := ts }] }
    again (match f.desc with
      | none => s1
      | some d => txComplete s1 port d ts)
  | none =>
    match (if (wireOf s port).held then none else (wireOf s port).rest) with
    | some n => again (modWire { s with sendAt := s.sendAt.put port (s.clk + wireTime s port n) } port
        (fun x => { x with rest := none, sending := some (s.clk, n) }))
    | none => if (wireOf s port).sending.isNone then s else modWire s port (fun x => { x with sending := none })

/-- TX_FRAME_SEND (20 R465, R467): a standby reads its frames and transmits none. -/
def execTxFrameSend (port : Nat) (s : State) : Host.Outcome State Fault Refusal :=
  if 8 ≤ port ∨ portUp s port = false then .next s
  else if s.clk < s.sendAt.getD port 0 then
    let s1 := match txCut s port with
      | some (from_, cut, rest) =>
        modWire { s with sendAt := s.sendAt.put port (from_ + wireTime s port cut) } port
          (fun x => { x with sending := none, rest := some rest })
      | none => s
    .next (sched (unsched s1 (fun i => i == .txFrameSend port)) (s1.sendAt.getD port 0) (.txFrameSend port))
  else .next (txNext s port)

/-- EGRESS_FRAME_BUILD (20 R466, R467). -/
def execEgressFrameBuild (port entry : Nat) (s : State) : Host.Outcome State Fault Refusal :=
  let a := egressBase port + 32 * entry
  let d := rdCtl s a
  let off := ctlF s (a + 0x18) 0 32
  let len := ctlF s (a + 0x18) 32 16
  if portEn s port = false ∨ bit d 63 = false then .next s
  else if 4 * 2 ^ 20 < off + len then .next (postUnit s 0 0x6D 6 port (wd off))
  else
    let img := (upFrom (twinBuffer s 0 1 false + off) len).map (rdMem s)
    let bs := beBytes 6 (bits d 0 48) ++ beBytes 6 (portMac s port) ++ beBytes 2 0x8100 ++
      beBytes 2 (bits d 48 12 + bits d 60 3 * 8192) ++ beBytes 2 (ctlF s (a + 8) 0 16) ++ img
    let s1 := { s with frames := s.frames ++ [⟨port, ctlF s (a + 0x10) 32 8 % 8, bs, 0, none⟩] }
    .next (sched (egressCull s1 port) s.clk (.txFrameSend port))

/-- A tick: every valid egress entry becomes due at its offset, those of one ns in order of port and number (20 R467). -/
def placeEgress (s : State) : State :=
  (upFrom 0 8).foldl (fun a p =>
    (upFrom 0 64).foldl (fun b i =>
      if bit (rdCtl b (egressBase p + 32 * i)) 63 then
        sched b (b.clk + nsClk b (ctlF b (egressBase p + 32 * i + 0x10) 0 32)) (.egressFrameBuild p i) else b) a) s

end Sys2Proof.Machine
end

