-- ==== Sys2Proof/Machine/Cycle.lean ====
section
/-! DEFINITION. The boundary tick and what happens at it (19 R433 to R437, R442; 02 R51; 17 R411, R417), and the testa link:
replication, heartbeats and roles (20 R470 to R473). -/

namespace Sys2Proof.Machine

/-! The testa link's block (20 R470). -/

def linkEn (s : State) : Bool := ctlF s testaBase 2 1 == 1
def linkLanes (s : State) : Nat := ((upFrom 0 4).filter (fun i => ctlF s testaBase (4 + i) 1 == 1)).length
def txSeq (s : State) : Nat := ctlF s (testaBase + 8) 0 32
def ackSeq (s : State) : Nat := ctlF s (testaBase + 8) 32 32
def rxSeq (s : State) : Nat := ctlF s (testaBase + 0x10) 0 32
def promoOf (s : State) : Nat := ctlF s (testaBase + 0x18) 0 48

def setRole (s : State) (r : Nat) : State := { s with dspr := s.dspr.putD rROLE 0 (wd r) }

/-- A message of the testa link to partition 0's service thread. -/
def linkPost (s : State) (cause : Nat) (info : Word) : State := postUnit s 0 cause 7 0 info

/-- A new role, reported (20 R473). -/
def takeRole (s : State) (r : Nat) (stamp : Nat) : State :=
  linkPost (setRole (if r = 1 then setCtlF s (testaBase + 0x18) 0 48 stamp else s) r) 0x6B (wd r)

/-! Replication (20 R471, R472). -/

/-- The clk that a record of n bytes takes: 24 GB/s over four lanes, in proportion (20 R470). -/
def recordTime (s : State) (n : Nat) : Nat := ((n + 32) * 21 * 4 + 240 * linkLanes s - 1) / (240 * linkLanes s)

/-- A record (20 R471). -/
def recordOf (s : State) (e stamp off n : Nat) (last : Bool) : List Byte :=
  toBytes 4 (txSeq s + 1) ++ toBytes 1 e ++ toBytes 1 (if last then 1 else 0) ++ toBytes 6 stamp ++ toBytes 4 off ++ toBytes 2 n ++
    toBytes 14 0 ++ (upFrom (twinBuffer s 0 e false + off) n).map (rdMem s)

/-- REPLICATION_SEND: the next record of an entry's publish; the send is over when its last record has gone. -/
def execReplicationSend (entry : Nat) (s : State) : Host.Outcome State Fault Refusal :=
  match s.sending.get? entry with
  | none => .next s
  | some (stamp, off) =>
    if linkLanes s = 0 ∨ linkEn s = false then .next s
    else
      let size := (twinBases s 0 entry).2.2
      if size ≤ off then .next { s with sending := s.sending.del entry } else
      let n := min 4096 (size - off)
      let last := decide (size ≤ off + n)
      let r := recordOf s entry stamp off n last
      let seq := (txSeq s + 1) % 2 ^ 32
      let s1 := setCtlF { s with sentRecs := s.sentRecs ++ [(seq, r)], unacked := s.unacked ++ [(seq, r)] } (testaBase + 8) 0 32 seq
      .next (sched { s1 with sending := s1.sending.put entry (stamp, off + n) } (s.clk + recordTime s n) (.replicationSend entry))

/-- REPLICATION_ACK: what the peer has acknowledged, and the sequence from which the sender repeats. -/
def execReplicationAck (ack : Nat) (missing : Option Nat) (s : State) : Host.Outcome State Fault Refusal :=
  let a := ack % 2 ^ 32
  let s1 := if seqDiff a (ackSeq s) < 2 ^ 31 then
    { setCtlF s (testaBase + 8) 32 32 a with unacked := s.unacked.filter (fun r => decide (0 < seqDiff r.1 a) && decide (seqDiff r.1 a < 2 ^ 31)) }
    else s
  .next (match missing with
    | none => s1
    | some m => { s1 with sentRecs := s1.sentRecs ++ s1.unacked.filter (fun r => seqDiff r.1 m < 2 ^ 31) })

/-- Data placed at an offset of a staging copy. -/
def stageBytes (old : List Byte) (off : Nat) (data : List Byte) : List Byte :=
  (old ++ List.replicate (off - old.length) 0).take off ++ data ++ old.drop (off + data.length)

/-- An accepted record goes into the staging copy of its entry and publish (20 R472). -/
def stageRecord (s : State) (r : List Byte) : State :=
  let e := fieldOf r 4 1
  let stamp := fieldOf r 6 6
  let data := (r.drop 0x20).take (fieldOf r 0x10 2)
  let mine (c : Staging) : Bool := c.entry == e && c.stamp == stamp && !c.whole
  let old := ((s.staging.find? mine).map (fun c => c.bytes)).getD []
  { s with staging := s.staging.filter (fun c => !mine c) ++
      [⟨e, stamp, stageBytes old (fieldOf r 0xC 4) data, fieldOf r 5 1 % 2 == 1⟩] }

/-- REPLICATION_RECORD_RECEIVE: only the next sequence is accepted. -/
def execReplicationRecordReceive (rec_ : List Byte) (s : State) : Host.Outcome State Fault Refusal :=
  if linkEn s = false then .next s
  else
    let seq := fieldOf rec_ 0 4
    let want := (rxSeq s + 1) % 2 ^ 32
    let d := seqDiff seq (rxSeq s)
    if seq = want then
      let s1 := setCtlF (stageRecord s rec_) (testaBase + 0x10) 0 32 seq
      .next { s1 with acks := s1.acks ++ [(seq, none)] }
    else if 1 < d ∧ d < 2 ^ 31 then .next (linkPost { s with acks := s.acks ++ [(rxSeq s, some want)] } 0x6C (wd want))
    else .next s

/-- The newest whole copy of an entry with a stamp later than that of the copy last applied. -/
def newestCopy (s : State) (e : Nat) : Option Staging :=
  (s.staging.filter (fun c => c.whole && c.entry == e)).foldl (fun (b : Option Staging) c =>
    match b with
    | none => if ((s.applied.get? e).map (fun x => decide (x < c.stamp))).getD true then some c else none
    | some x => if x.stamp < c.stamp then some c else b) none

/-- One entry's application at a standby's tick. -/
def applyCopy (s : State) (e : Nat) : State :=
  match newestCopy s e with
  | none => s
  | some c =>
    { wrMemBytes s (twinBuffer s 0 e false) (c.bytes.take (twinBases s 0 e).2.2) with
      applied := s.applied.put e c.stamp,
      staging := s.staging.filter (fun x => !(x.whole && x.entry == e && decide (x.stamp ≤ c.stamp))) }

def applyCopies (s : State) : State :=
  if roleOf s = 2 && linkEn s then
    ((upFrom 2 62).filter (fun e => ctlF s (testaBase + 0x20) e 1 == 1)).foldl applyCopy s
  else s

/-- LANE_LOSS: a change of the lanes that are up; the argument is the mask of those lost (20 R470). -/
def execLaneLoss (lanes : Nat) (s : State) : Host.Outcome State Fault Refusal :=
  let lost := lanes % 16
  if ctlF s testaBase 4 4 = 15 - lost then .next s
  else
    let s1 := linkPost (setCtlF s testaBase 4 4 (15 - lost)) 0x6A (wd lost)
    .next (s1.sending.foldl (fun a q =>
      if a.agenda.any (fun x => x.2 == .replicationSend q.1) then a else sched a a.clk (.replicationSend q.1)) s1)

/-! Heartbeats (20 R473). -/

/-- The fields of a heartbeat, which 20 R473 names without a layout, in 64 bytes (Log 29). -/
def heartbeat (s : State) : List Byte :=
  toBytes 6 (nowStamp s) ++ toBytes 2 (roleOf s) ++ toBytes 8 (promoOf s) ++ toBytes 8 (rxSeq s) ++ toBytes 8 Config.serialNumber ++ toBytes 32 0

/-- HEARTBEAT_RECEIVE: two primaries, and two standbys at their first, settle who changes at its next tick (20 R470, R473). -/
def execHeartbeatReceive (stamp : Word) (role : Nat) (promo : Word) (_rxseq serial : Nat) (s : State) : Host.Outcome State Fault Refusal :=
  if linkEn s = false then .next s
  else
    let mine := promoOf s
    let theirs := bits promo 0 48
    let demotes := decide (theirs < mine) || (theirs == mine && decide (serial < Config.serialNumber))
    let promotes := decide (s.lastBeat = none) && decide (Config.serialNumber < serial)
    let due := if roleOf s = 1 ∧ role = 1 ∧ demotes = true then 2
      else if roleOf s = 2 ∧ role = 2 ∧ promotes = true then 1 else s.roleDue
    .next { s with lastBeat := some (bits stamp 0 48), roleDue := due }

/-- A heartbeat has been found missed at the tick of a stamp. -/
def missBeat (s : State) (stamp : Nat) : State :=
  let s1 := { s with missed := s.missed + 1 }
  if s1.missed ≠ 2 then s1
  else if roleOf s = 2 then takeRole { s1 with staging := s1.staging.filter (fun c => c.whole) } 1 stamp
  else if roleOf s = 1 then
    let s2 := linkPost s1 0x6A (wd (15 - ctlF s testaBase 4 4))
    if ctlF s testaBase 3 1 = 1 then setRole s2 2 else s2
  else s1

/-- HEARTBEAT_MISSED. -/
def execHeartbeatMissed (stamp : Word) (s : State) : Host.Outcome State Fault Refusal := .next (missBeat s (bits stamp 0 48))

/-- The link's part of a tick whose stamp follows prev: copies applied, roles changed, heartbeats counted and sent. -/
def linkTick (s : State) (prev : Option Nat) : State :=
  let s1 := applyCopies s
  let s2 := if s1.roleDue = 0 then s1 else takeRole { s1 with roleDue := 0 } s1.roleDue (nowStamp s1)
  if linkEn s2 then
    let s3 := match prev with
      | none => s2
      | some x => if s2.lastBeat = some x ∨ s2.lastBeat = some (nowStamp s2) then { s2 with missed := 0 } else missBeat s2 (nowStamp s2)
    if linkLanes s3 = 0 then s3 else { s3 with outHb := s3.outHb ++ [heartbeat s3] }
  else s2

/-! The tick (19 R435). -/

/-- The latch writes of the closing cycle, by ingress timestamp and then port (17 R416). -/
def insLatch (x : Latch) : List Latch → List Latch
  | [] => [x]
  | y :: r => if x.ts < y.ts || (x.ts == y.ts && decide (x.port < y.port)) then x :: y :: r else y :: insLatch x r

def performLatches (s : State) : State :=
  let due := (s.latches.filter (fun l => !l.held)).foldl (fun acc l => insLatch l acc) []
  let base := twinBuffer s 0 0 true
  let s1 := due.foldl (fun a l => wrMemBytes a (base + l.off) l.bytes) s
  { s1 with latches := (s.latches.filter (fun l => l.held)).map (fun l => { l with held := false }) }

/-- A cycle-bound node has missed its deadline at the tick of the stamp now (02 R51). -/
def deadlineMissed (s : State) (n : Node) : Bool :=
  n.flags / 8 % 2 == 1 && n.deadline != 0 && n.firstSet && !n.missed && decide (1 ≤ n.state) && decide (n.state ≤ 3) &&
    decide (n.first + n.deadline ≤ nowStamp s)

/-- JOB_DEADLINE_MISS: posted once. -/
def execJobDeadlineMiss (node : Nat) (s : State) : Host.Outcome State Fault Refusal :=
  match s.nodes.get? node with
  | none => .next s
  | some n =>
    if n.missed then .next s
    else
      let s1 := { s with nodes := s.nodes.put node { n with missed := true } }
      .next (postRaw s1 n.part (svcMessage s1 0x6F 9 n.part 0xFF n.vaddr 0 n.vaddr 0))

/-- Budget counts restart, and deadlines are looked at (02 R51; 19 R435). -/
def nodesTick (s : State) : State :=
  let s1 := { s with nodes := s.nodes.map (fun (q : Nat × Node) => (q.1, { q.2 with inCycle := 0, held61 := false })) }
  let s2 := s1.nodes.foldl (fun a q => if deadlineMissed a q.2 then sched a a.clk (.jobDeadlineMiss q.1) else a) s1
  ((s2.nodes.map (fun q => q.2.part)).eraseDups).foldl pokeDispatch s2

/-- Scan threads released at the last tick that have issued no cwait since (19 R442). -/
def scanOverruns (s : State) : State :=
  s.threads.foldl (fun a q =>
    if q.2.released && !q.2.host && isScan a (partOf q.2) && decide (q.2.run ≠ .ending) then
      postUnit (modThr a q.1 (fun t => { t with released := false })) 0 0x62 5 0 (wd (coreOf q.1 + ctxOf q.1 * 256))
    else a) s

/-- The stamp of a due time, modulo 2^48 (19 R433). -/
def stampOf (s : State) (due : Int) : Nat :=
  let p : Int := max 1 (cyclePeriod s)
  (((due - cycOrigin s) / p) % 2 ^ 48).toNat

/-- BOUNDARY_TICK (19 R433 to R435). SLIP is that of the tick, but that of a tick which discipline moved stands as R434 recorded it
(Log 95). -/
def execBoundaryTick (s : State) : Host.Outcome State Fault Refusal :=
  if s.cycOn = false then .next s
  else
    let prev := if s.cycTick then some (nowStamp s) else none
    let s1 := swapTwin (performLatches s) 0 0
    let now := ptpNs s1
    let stamp := stampOf s1 s1.cycDue
    let s1b := wrCtl (wrCtl s1 (cycleBase + 0x18) (wd stamp)) (cycleBase + 0x20) (wdi now)
    let s2 := { (if s1b.slipKept then s1b else wrCtl s1b (cycleBase + 0x28) (wdi (now - s1.cycDue))) with
      slipKept := false, ticks := now :: s1b.ticks.filter (fun x => decide (now - x < 2 ^ 32)) }
    let s3 := scanOverruns (nodesTick s2)
    let s4 := placeEgress ((upFrom 0 8).foldl restartGates s3)
    let s5 := if egressOff s4 = 0 then s4 else sched s4 (s4.clk + nsClk s4 (egressOff s4)) (.egressCheck (pubCount s4 0 1))
    let s6 := sched (markCycle (linkTick s5 prev) (wd stamp)) (s5.clk + 42) .scanRelease
    .next (placeTick { s6 with cycTick := true, cycDue := s6.cycDue + cyclePeriod s6, cycHold := s6.cycHold + 21 * cyclePeriod s6 })

/-- EGRESS_CHECK: nothing has been published in twin entry 1 since the tick (19 R435). -/
def execEgressCheck (pubcount : Nat) (s : State) : Host.Outcome State Fault Refusal :=
  .next (if pubCount s 0 1 = pubcount then postUnit s 0 0x60 5 0 (wd (nowStamp s)) else s)

end Sys2Proof.Machine
end

