-- ==== Sys2Proof/Machine/Events.lean ====
section
/-! DEFINITION. What ends waits and interrupts threads: results that arrive, wait limits, traps and user interrupts as events
(02 R28, R35, R56; 07 R162, R167, R168); errors of the memories, the failure of units and the thermal trip (10 R228, R229; 11
R257; 15 R339; 18 R430; 20 R474, R479). -/

namespace Sys2Proof.Machine

/-! Waits. -/

/-- What a waiting thread waited for has come about: it is ready and issues its instruction again (02 R28). A wait that an event
ends is not looked at here. -/
def waitDone (s : State) (k : Nat) (t : Thread) (w : Wait) : Bool :=
  match w.kind with
  | .result | .release => decide (w.key ≤ s.clk)
  | .tileLock => !mustWait (locksOf s k t) w.key (w.arg == 1)
  | .chanSend => decide (0 < chanCredits s w.key)
  | .chanRecv => !(chanWords s w.key).isEmpty
  | .sequence => seqDone s w.key w.arg.toNat
  | .mailSend => !(mboxFull s w.key || s.posts.any (fun h => h.part == none && h.core == w.key && h.owner == k))
  | .matrix => !matFull s (coreOf k)
  | .join => decide (podCount s (partOf t) w.key ≤ podEnded s (partOf t) w.key)
  | .wend => chainsQuiet s (partOf t) (viewOf t)
  | .replication => (s.sending.get? w.key).isNone
  | .kick => decide (kickSeq s w.key = doneSeq s w.key) || chainView s w.key == viewOf t
  | .trace => !s.heldWbs.any (fun key => l1Core key == coreOf k)
  | .redundant => redReady s k t w
  | _ => false

/-- The cause that a wait's limit raises (18 R423, R424): that of what the thread waits on. The spec names none for the wait of a
scoreboarded result or of a unit's answer, and the value is free there (Log 61). -/
def limitCause (s : State) (w : Wait) : Nat :=
  if w.kind = .result ∨ w.kind = .unit then bits (Config.freeWord (s.free * 4 + 2)) 0 7 else w.cause

/-- Registers of thread k have been written: their old errors are gone, and an armed injection into one of them is made (10 R240; 18
R431). -/
def regWritten (s : State) (k : Nat) (ids : List Nat) : State :=
  let w := s.dspr.getD rERRINJ 0
  if isHostKey k || ids.isEmpty || (s.badEcc.isEmpty && !bit w 12) then s
  else
    match thr s k with
    | none => s
    | some t =>
      let ns := (upFrom 1 (t.gsize - 1)).filter (fun n => ids.contains (regId t n))
      let s1 := { s with badEcc := ns.foldl (fun b n => b.del (eccKey 0 (coreOf k) (regPlace k n))) s.badEcc }
      if bit w 12 && bits w 0 4 == 0 && bits w 4 8 == coreOf k && ns.contains (bits w 16 7) then
        { s1 with dspr := s.dspr.put rERRINJ (setBits w 12 1 0),
                  badEcc := s1.badEcc.put (eccKey 0 (coreOf k) (regPlace k (bits w 16 7))) (bit w 13) }
      else s1

/-- SCOREBOARD_RESULT_ARRIVAL (02 R35): the registers are written, the tiles unlock. -/
def execScoreboardResultArrival (k id : Nat) (s : State) : Host.Outcome State Fault Refusal :=
  .next (regWritten (modThr s k (fun t => arrive t id)) k
    ((((thr s k).bind (fun t => findPending t id)).map (fun p => p.regs.map (fun r => r.1))).getD []))

/-- LOAD_VALUE_QUEUE_STUCK (16 R401): the node is rolled back. -/
def execLoadValueQueueStuck (k : Nat) (s : State) : Host.Outcome State Fault Refusal :=
  match (thr s k).bind (fun t => t.node) with
  | some key => .next (rollback s key 0x71 (((thr s k).map nodeAddr).getD 0))
  | none => .next s

/-- WAIT_LIMIT_EXPIRY (02 R28, R56; 18 R426): the thread is ready to take, in its own next slot, the cause of what it waits on,
unless the event has come in this clk. -/
def execWaitLimitExpiry (k : Nat) (s : State) : Host.Outcome State Fault Refusal :=
  match thr s k with
  | none => .next s
  | some t =>
    match waitOf t with
    | none => .next s
    | some w =>
      if (w.deadline.map (fun d => decide (s.clk < d))).getD true || waitDone s k t w then .next s
      else
        let s1 := perfBump s (partOf t) 9
        if w.kind = .redundant then execLoadValueQueueStuck k s1
        else .next (failWait { withdrawWait s1 k with free := s1.free + 1 } k w (limitCause s1 w) w.info)

/-! Traps and user interrupts. -/

/-- TRAP_ENTRY (07 R162, R163). -/
def execTrapEntry (k cause : Nat) (info tpc : Word) (s : State) : Host.Outcome State Fault Refusal :=
  .next (raise s k cause info tpc)

/-- A completion may be delivered to a thread at a slot (05 R127): one that arrived in an earlier clk, so that an mts of the clk
of its arrival takes effect first. -/
def uiDue (s : State) (t : Thread) : Bool :=
  uienOf t && !thOf t && !uihOf t && !t.uiq.isEmpty && (t.uiAt != s.clk || decide (t.uiNew < t.uiq.length))

/-- UI_DELIVERY (07 R167, R168): an acquire at device scope; with UIVEC = 0 the completion is removed and 0x5E is raised.
The handler issues 4 clk on, or when the acquire is done, whichever is later (Log 102). -/
def execUiDelivery (k : Nat) (s : State) : Host.Outcome State Fault Refusal :=
  match thr s k with
  | none => .next s
  | some t =>
    match t.uiq with
    | [] => .next s
    | (h0, h1) :: rest =>
      if uiDue s t = false then .next s
      else if getSpr t rUIVEC = 0 then .next (raise (setThr s k { t with uiq := rest }) k 0x5E h0 t.pc)
      else
        let u := setMode (setSpr t rUIPC t.pc) 2 1 1
        let q := acquireAt s k t 3
        .next (setThr q.1 k { u with uiq := rest, again := none, shadow := (u.shadow.putD 0 0 h0).putD 1 0 h1,
                                     pc := wd (bits (getSpr t rUIVEC) 0 52), earliest := max u.earliest (s.clk + max 4 q.2) })

/-! Device control space (10 R234). -/

/-- CONTROL_SPACE_STORE. -/
def execControlSpaceStore (addr : Nat) (v : Word) (s : State) : Host.Outcome State Fault Refusal :=
  .next (if ctlDefined addr && addr % 8 == 0 then ctlStore s addr v else s)

/-! Errors found outside a demand access. -/

/-- PATROL_SCRUB (10 R228): one sector of DRAM is read and corrected. -/
def execPatrolScrub (sector : Nat) (s : State) : Host.Outcome State Fault Refusal :=
  if dramTop ≤ sector * 32 then .next s
  else .next (readSector s none 16 0 8 (channelOf (sector * 32)) sector).1

/-- DIRTY_LINE_UNOWNED (10 R229): a dirty L1D line found uncorrectable at its eviction is written back, each of its sectors with
dirty bytes poisoned, and leaves the cache. -/
def execDirtyLineUnowned (core view : Nat) (line : Word) (s : State) : Host.Outcome State Fault Refusal :=
  match partOfCore s core with
  | none => .next s
  | some p =>
    let va := lineOf line.toNat
    let key := l1Key core p view va
    match wbBad s key 0 (((dirtyBytes s key).map (fun i => va / 32 + i / 32)).eraseDups) with
    | (.go s1, _) => .next (if (dirtyBytes s key).isEmpty || !(dirtyBytes s1 key).isEmpty then s1 else l1Drop s1 key)
    | _ => .next s

/-- TRACE_CONFLICT_LOG (11 R257, R258): a slice looks again at the write-backs it holds, in order; those it lets go are
performed and logged, or matched. -/
def execTraceConflictLog (slice : Nat) (s : State) : Host.Outcome State Fault Refusal :=
  .next ((s.heldWbs.filter (fun key => wbSlice s key == slice)).foldl (fun a key =>
    match wbLine a key 0 with
    | (.go b, _) => { b with heldWbs := b.heldWbs.filter (fun x => x != key) }
    | _ => a) s)

/-! Failing units. -/

/-- Threads that wait at a unit: in the queues of a failing MSU, or for its answer (18 R430; Log 53). -/
def waitsOnUnit (unit inst : Nat) (w : Wait) : Bool :=
  unit == 0 && (((w.kind == .feLoad || w.kind == .feStore || w.kind == .object) && sliceOf (w.key % 2 ^ 52) == inst) ||
    (w.kind == .unit && w.key == inst))

/-- SRC of a unit's message (18 R420). -/
def unitSrc (unit : Nat) : Nat := if unit = 0 then 2 else if unit = 1 then 8 else 9

/-- The machine fate (18 R430). -/
def machineFate (s : State) (cause unit inst : Nat) : State :=
  let a := machineBase
  let s1 := wrCtl (wrCtl (wrCtl (wrCtl s a (rdCtl s a + 1)) (a + 8) (wd (cause + unit * 256 + inst * 65536)))
    (a + 0x10) (wd s.clk)) (a + 0x18) (wd (nowStamp s))
  let s2 := { s1 with offline := s1.offline.put (unit * 65536 + inst) true }
  let info := wd (if cause = 0x7F then unit else inst)
  let s3 := (s2.threads.filter (fun q => ((waitOf q.2).map (waitsOnUnit unit inst)).getD false)).foldl
    (fun b q => killThread b q.1 cause info q.2.pc) s2
  let s4 := ((upFrom 0 16).filter (fun p => logicals s3 p != 0)).foldl (fun b p => postUnit b p cause (unitSrc unit) inst info) s3
  match thr s4 8192 with
  | none => s4
  | some _ => dueTrap (withdrawWait s4 8192) 8192 cause (wd machineBase)

/-- MACHINE_CHECK. -/
def execMachineCheck (cause unit inst : Nat) (s : State) : Host.Outcome State Fault Refusal := .next (machineFate s cause unit inst)

/-- DRAM_CHANNEL_FAILURE (20 R474). -/
def execDramChannelFailure (channel : Nat) (s : State) : Host.Outcome State Fault Refusal := .next (machineFate s 0x7D 1 channel)

/-- Core c uses half-slab h (15 R339, R340). -/
def coreUsesHalf (s : State) (c h : Nat) : Bool :=
  (slabRefs (bindEntry s c)).any (fun r => 2 * r.1 == h || 2 * r.2 + 1 == h)

/-- SLAB_HARD_FAULT (15 R339): the fuse bit clears, every thread that uses the slab is killed. -/
def execSlabHardFault (half : Nat) (s : State) : Host.Outcome State Fault Refusal :=
  if 288 ≤ half then .next s
  else
    let info := wd (half / 2)
    let s1 := setCtlF s (fuseBase + 8 * (half / 64)) (half % 64) 1 1
    let cores := (upFrom 0 128).filter (fun c => coreUsesHalf s c half)
    let s2 := ((cores.filterMap (partOfCore s1)).eraseDups).foldl (fun a p => postUnit a p 0x7B 9 p info) s1
    .next ((s2.threads.filter (fun q => !q.2.host && cores.contains (coreOf q.1))).foldl (fun a q => killThread a q.1 0x7B info q.2.pc) s2)

/-- THERMAL_TRIP (20 R479): every clock stops, nothing is kept but what no power-down loses, and TRIP stands for the next
boot. -/
def execThermalTrip (s : State) : Host.Outcome State Fault Refusal :=
  .next (setCtlF { State.reset with agenda := [], flash := s.flash, rollback := s.rollback, faultLow := true, tripped := true }
    (bootBlock + 0x28) 2 1 1)

end Sys2Proof.Machine
end

