-- ==== Sys2Proof/Machine/Boot.lean ====
section
/-! DEFINITION. Boot and attestation (20 R475 to R477). -/

namespace Sys2Proof.Machine

/-- Bytes of the boot flash. -/
def flashBytes (s : State) (a n : Nat) : List Byte := (upFrom a n).map (fun i => s.flash.getD i 0)

/-- The header is 0x1560 bytes; both signatures cover its first 0x830. -/
def headerLen : Nat := 0x1560

/-- The image at a flash offset is accepted (20 R476). -/
def imageGood (s : State) (at_ : Nat) : Bool :=
  let h := flashBytes s at_ headerLen
  let edPub := (h.drop 0x70).take 32
  let mlPub := (h.drop 0x90).take 1952
  let signed := h.take 0x830
  fieldOf h 0 4 == 0x4B525A01 && fieldOf h 4 4 == headerLen && allZero ((h.drop 0x29).take 23) && allZero (h.drop 0x155D) &&
    ofBytes (sha384 (edPub ++ mlPub)) == Config.fusedKeyDigest &&
    Config.verifyEd25519 edPub ((h.drop 0x830).take 64) signed && Config.verifyMlDsa65 mlPub ((h.drop 0x870).take 3309) signed &&
    (h.drop 0x40).take 48 == sha384 (flashBytes s (at_ + headerLen) (fieldOf h 0x20 8)) && decide (s.rollback ≤ fieldOf h 8 8)

/-- Host core n as it starts at an address in supervisor mode, its segments over the whole address space (Log 31). -/
def hostThread (s : State) (entry : Word) : Thread :=
  { host := true, pc := entry, gbase := 0, gsize := 128, tbase := 0, tcount := 0, gpr := [], tiles := [],
    segs := (upFrom 0 8).map (fun i => (i, mkSeg 0 (2 ^ 52 - 1) 63)), shadow := [], spr := [(rMODE, 1)],
    uiq := [], uiAt := 0, uiNew := 0, again := none, trapDue := none, trapOld := none, run := .ready, earliest := s.clk, flight := [], sb := [], stamps := [], fpUntil := 0, mailAt := 0, stAccept := 0, stPerform := 0,
    groups := [], held := [], barArm := none, lastIssue := none, placedAt := s.clk, share := none, node := none, rival := 0,
    sprout := false, released := false, deferred := [], park := .none, auditSkip := false }

/-- Host cores 1 to 7 leave reset with host core 0: each stands at its reset values, and starts in supervisor mode at a free
address or never (Config.hostStart; Log 19). -/
def startHosts (s : State) : State :=
  (upFrom 1 7).foldl (fun a n => setThr a (8192 + n) (match Config.hostStart n with
    | some pc => hostThread s pc
    | none => { hostThread s 0 with run := .parked })) s

/-- Loads an accepted image: PROFILE, the measurement, the payload, host core 0 at ENTRY, and the other host cores (20 R476). -/
def loadImage (s : State) (at_ : Nat) : State :=
  let h := flashBytes s at_ headerLen
  let digest := (h.drop 0x40).take 48
  let profile := fieldOf h 0x28 1
  let s1 := { s with imgVersion := fieldOf h 8 8, imgProfile := profile,
                     dspr := s.dspr.putD rBINDBASE 0 (setBits (s.dspr.getD rBINDBASE 0) 1 1 (if profile = 1 then 1 else 0)) }
  let s2 := (upFrom 0 6).foldl (fun a i => wrCtl a (bootBlock + 0x30 + 8 * i) (wd (fieldOf digest (8 * i) 8))) s1
  let s3 := macWrite s2 (fieldOf h 0x10 8) (flashBytes s (at_ + headerLen) (fieldOf h 0x20 8))
  startHosts (setThr s3 8192 (hostThread s3 (wd (fieldOf h 0x18 8 % 2 ^ 52))))

/-- BOOT (20 R475): the image at offset 0, else the alternate; with both refused, FAULT_N is driven low. -/
def execBoot (s : State) : Host.Outcome State Fault Refusal :=
  if imageGood s 0 then .next (loadImage s 0)
  else if imageGood s 0x1000000 then .next (loadImage s 0x1000000)
  else .next { s with faultLow := true }

/-- ATTESTATION_REQUEST: a store of REQ; one while BUSY is discarded, and one that is not aligned (Log 32). -/
def execAttestationRequest (v : Word) (s : State) : Host.Outcome State Fault Refusal :=
  if ctlF s (bootBlock + 0x28) 1 1 = 1 ∨ bits v 0 3 ≠ 0 then .next s
  else
    let s1 := setCtlF (wrCtl s (bootBlock + 0x20) v) (bootBlock + 0x28) 0 2 2
    .next (sched s1 (s1.clk + 1) .attestationDone)

/-- The bytes of the report that its signatures cover (20 R477). -/
def reportBody (s : State) : List Byte :=
  let words (a n : Nat) : List Byte := (upFrom 0 n).flatMap (fun i => toBytes 8 (rdCtl s (a + 8 * i)).toNat)
  let fuses := (upFrom 0 5).flatMap (fun i => toBytes 8 (ctlRead s (fuseBase + 8 * i)).toNat)
  toBytes 4 0x4B525A02 ++ toBytes 4 0x0E10 ++ toBytes 8 0 ++ (Config.deviceIdentity ++ List.replicate 16 0).take 16 ++
    words bootBlock 4 ++ words (bootBlock + 0x30) 6 ++ toBytes 8 s.imgVersion ++ toBytes 1 s.imgProfile ++ toBytes 7 0 ++
    sha384 fuses ++ toBytes 1 (boundSlabs s) ++ toBytes 1 0 ++ toBytes 6 (nowStamp s) ++ toBytes 8 0

/-- The report: 3,600 bytes. -/
def reportBytes (s : State) : List Byte :=
  let b := reportBody s
  b ++ (Config.signEd25519 b ++ List.replicate 64 0).take 64 ++ (Config.signMlDsa65 b ++ List.replicate 3309 0).take 3309 ++ toBytes 35 0

/-- ATTESTATION_DONE: the report is written and DONE set. -/
def execAttestationDone (s : State) : Host.Outcome State Fault Refusal :=
  if ctlF s (bootBlock + 0x28) 1 1 = 0 then .next s
  else .next (setCtlF (macWrite s (rdCtl s (bootBlock + 0x20)).toNat (reportBytes s)) (bootBlock + 0x28) 0 2 1)

end Sys2Proof.Machine
end

