-- ==== Sys2Proof/Machine/Dispatch.lean ====
section
/-! DEFINITION. The dispatch: one arm per instruction, each a direct call of that instruction's meaning. -/

namespace Sys2Proof.Machine

def exec (i : Instr) (s : State) : Host.Outcome State Fault Refusal :=
  match i with
  | .add f => Sys2Proof.Machine.execAdd f s
  | .sub f => Sys2Proof.Machine.execSub f s
  | .mul f => Sys2Proof.Machine.execMul f s
  | .mulh f => Sys2Proof.Machine.execMulh f s
  | .div f => Sys2Proof.Machine.execDiv f s
  | .rem f => Sys2Proof.Machine.execRem f s
  | .and f => Sys2Proof.Machine.execAnd f s
  | .or f => Sys2Proof.Machine.execOr f s
  | .xor f => Sys2Proof.Machine.execXor f s
  | .shl f => Sys2Proof.Machine.execShl f s
  | .shr f => Sys2Proof.Machine.execShr f s
  | .sar f => Sys2Proof.Machine.execSar f s
  | .min f => Sys2Proof.Machine.execMin f s
  | .max f => Sys2Proof.Machine.execMax f s
  | .slt f => Sys2Proof.Machine.execSlt f s
  | .sel f => Sys2Proof.Machine.execSel f s
  | .addsat f => Sys2Proof.Machine.execAddsat f s
  | .subsat f => Sys2Proof.Machine.execSubsat f s
  | .clz f => Sys2Proof.Machine.execClz f s
  | .bext f => Sys2Proof.Machine.execBext f s
  | .bins f => Sys2Proof.Machine.execBins f s
  | .lea f => Sys2Proof.Machine.execLea f s
  | .li f => Sys2Proof.Machine.execLi f s
  | .fadd f => Sys2Proof.Machine.execFadd f s
  | .fsub f => Sys2Proof.Machine.execFsub f s
  | .fmul f => Sys2Proof.Machine.execFmul f s
  | .ffma f => Sys2Proof.Machine.execFfma f s
  | .fdiv f => Sys2Proof.Machine.execFdiv f s
  | .fsqrt f => Sys2Proof.Machine.execFsqrt f s
  | .fmin f => Sys2Proof.Machine.execFmin f s
  | .fmax f => Sys2Proof.Machine.execFmax f s
  | .flt f => Sys2Proof.Machine.execFlt f s
  | .fcvt f => Sys2Proof.Machine.execFcvt f s
  | .beq f => Sys2Proof.Machine.execBeq f s
  | .bne f => Sys2Proof.Machine.execBne f s
  | .blt f => Sys2Proof.Machine.execBlt f s
  | .bge f => Sys2Proof.Machine.execBge f s
  | .jmp f => Sys2Proof.Machine.execJmp f s
  | .jal f => Sys2Proof.Machine.execJal f s
  | .jr f => Sys2Proof.Machine.execJr f s
  | .jrLink f => Sys2Proof.Machine.execJrLink f s
  | .loop f => Sys2Proof.Machine.execLoop f s
  | .nop f => Sys2Proof.Machine.execNop f s
  | .tend f => Sys2Proof.Machine.execTend f s
  | .trap f => Sys2Proof.Machine.execTrap f s
  | .brk f => Sys2Proof.Machine.execBrk f s
  | .eret f => Sys2Proof.Machine.execEret f s
  | .uiret f => Sys2Proof.Machine.execUiret f s
  | .ld8 f => Sys2Proof.Machine.execLd8 f s
  | .ld16 f => Sys2Proof.Machine.execLd16 f s
  | .ld32 f => Sys2Proof.Machine.execLd32 f s
  | .ld64 f => Sys2Proof.Machine.execLd64 f s
  | .st8 f => Sys2Proof.Machine.execSt8 f s
  | .st16 f => Sys2Proof.Machine.execSt16 f s
  | .st32 f => Sys2Proof.Machine.execSt32 f s
  | .st64 f => Sys2Proof.Machine.execSt64 f s
  | .ldacq f => Sys2Proof.Machine.execLdacq f s
  | .strel f => Sys2Proof.Machine.execStrel f s
  | .ldfe f => Sys2Proof.Machine.execLdfe f s
  | .stfe f => Sys2Proof.Machine.execStfe f s
  | .fechk f => Sys2Proof.Machine.execFechk f s
  | .fence f => Sys2Proof.Machine.execFence f s
  | .cachectl f => Sys2Proof.Machine.execCachectl f s
  | .amoadd f => Sys2Proof.Machine.execAmoadd f s
  | .amobit f => Sys2Proof.Machine.execAmobit f s
  | .amomin f => Sys2Proof.Machine.execAmomin f s
  | .amomax f => Sys2Proof.Machine.execAmomax f s
  | .amoswap f => Sys2Proof.Machine.execAmoswap f s
  | .cas f => Sys2Proof.Machine.execCas f s
  | .faddaU f => Sys2Proof.Machine.execFaddaU f s
  | .faddaO f => Sys2Proof.Machine.execFaddaO f s
  | .fmaxa f => Sys2Proof.Machine.execFmaxa f s
  | .acq f => Sys2Proof.Machine.execAcq f s
  | .acqSh f => Sys2Proof.Machine.execAcqSh f s
  | .acqGrant part obj => Sys2Proof.Machine.execAcqGrant part obj s
  | .rel f => Sys2Proof.Machine.execRel f s
  | .bmove f => Sys2Proof.Machine.execBmove f s
  | .bfill f => Sys2Proof.Machine.execBfill f s
  | .tcfgWrite f => Sys2Proof.Machine.execTcfgWrite f s
  | .tcfgRead f => Sys2Proof.Machine.execTcfgRead f s
  | .tld f => Sys2Proof.Machine.execTld f s
  | .tst f => Sys2Proof.Machine.execTst f s
  | .tgather f => Sys2Proof.Machine.execTgather f s
  | .tscatter f => Sys2Proof.Machine.execTscatter f s
  | .tscaddU f => Sys2Proof.Machine.execTscaddU f s
  | .tscaddO f => Sys2Proof.Machine.execTscaddO f s
  | .tmovr f => Sys2Proof.Machine.execTmovr f s
  | .tmovs f => Sys2Proof.Machine.execTmovs f s
  | .tbcast f => Sys2Proof.Machine.execTbcast f s
  | .vadd f => Sys2Proof.Machine.execVadd f s
  | .vsub f => Sys2Proof.Machine.execVsub f s
  | .vmul f => Sys2Proof.Machine.execVmul f s
  | .vfma f => Sys2Proof.Machine.execVfma f s
  | .vmin f => Sys2Proof.Machine.execVmin f s
  | .vmax f => Sys2Proof.Machine.execVmax f s
  | .vlog f => Sys2Proof.Machine.execVlog f s
  | .vshr f => Sys2Proof.Machine.execVshr f s
  | .vcmp f => Sys2Proof.Machine.execVcmp f s
  | .vsel f => Sys2Proof.Machine.execVsel f s
  | .vcvt f => Sys2Proof.Machine.execVcvt f s
  | .vrecip f => Sys2Proof.Machine.execVrecip f s
  | .vrsqrt f => Sys2Proof.Machine.execVrsqrt f s
  | .vexp2 f => Sys2Proof.Machine.execVexp2 f s
  | .vred f => Sys2Proof.Machine.execVred f s
  | .vargmax f => Sys2Proof.Machine.execVargmax f s
  | .vquant f => Sys2Proof.Machine.execVquant f s
  | .vdeq f => Sys2Proof.Machine.execVdeq f s
  | .bqadd f => Sys2Proof.Machine.execBqadd f s
  | .mma f => Sys2Proof.Machine.execMma f s
  | .mmasp f => Sys2Proof.Machine.execMmasp f s
  | .matrixEntryStart slab => Sys2Proof.Machine.execMatrixEntryStart slab s
  | .matrixKstepBoundary slab => Sys2Proof.Machine.execMatrixKstepBoundary slab s
  | .matrixEntryComplete slab => Sys2Proof.Machine.execMatrixEntryComplete slab s
  | .tlook f => Sys2Proof.Machine.execTlook f s
  | .tset f => Sys2Proof.Machine.execTset f s
  | .tsetInvalidate f => Sys2Proof.Machine.execTsetInvalidate f s
  | .bfmt f => Sys2Proof.Machine.execBfmt f s
  | .bfmtRead f => Sys2Proof.Machine.execBfmtRead f s
  | .sgset f => Sys2Proof.Machine.execSgset f s
  | .probe f => Sys2Proof.Machine.execProbe f s
  | .spawn f => Sys2Proof.Machine.execSpawn f s
  | .take f => Sys2Proof.Machine.execTake f s
  | .gjoin f => Sys2Proof.Machine.execGjoin f s
  | .gleave f => Sys2Proof.Machine.execGleave f s
  | .gbar f => Sys2Proof.Machine.execGbar f s
  | .tcadd f => Sys2Proof.Machine.execTcadd f s
  | .tcwait f => Sys2Proof.Machine.execTcwait f s
  | .tcwaitArm f => Sys2Proof.Machine.execTcwaitArm f s
  | .tcwaitDisarm f => Sys2Proof.Machine.execTcwaitDisarm f s
  | .tcset f => Sys2Proof.Machine.execTcset f s
  | .csend f => Sys2Proof.Machine.execCsend f s
  | .channelWordArrive part ch => Sys2Proof.Machine.execChannelWordArrive part ch s
  | .crecv f => Sys2Proof.Machine.execCrecv f s
  | .channelCreditReturn part ch => Sys2Proof.Machine.execChannelCreditReturn part ch s
  | .cpoll f => Sys2Proof.Machine.execCpoll f s
  | .launch f => Sys2Proof.Machine.execLaunch f s
  | .fork f => Sys2Proof.Machine.execFork f s
  | .choose f => Sys2Proof.Machine.execChoose f s
  | .chooseMin f => Sys2Proof.Machine.execChooseMin f s
  | .wend f => Sys2Proof.Machine.execWend f s
  | .wjoin f => Sys2Proof.Machine.execWjoin f s
  | .kick f => Sys2Proof.Machine.execKick f s
  | .kickApply chain tail view kicker => Sys2Proof.Machine.execKickApply chain tail view kicker s
  | .binit f => Sys2Proof.Machine.execBinit f s
  | .bwait f => Sys2Proof.Machine.execBwait f s
  | .bwaitArm f => Sys2Proof.Machine.execBwaitArm f s
  | .bwaitDisarm f => Sys2Proof.Machine.execBwaitDisarm f s
  | .btest f => Sys2Proof.Machine.execBtest f s
  | .seqwait f => Sys2Proof.Machine.execSeqwait f s
  | .publish f => Sys2Proof.Machine.execPublish f s
  | .sread f => Sys2Proof.Machine.execSread f s
  | .sreadStatus f => Sys2Proof.Machine.execSreadStatus f s
  | .swrite f => Sys2Proof.Machine.execSwrite f s
  | .cwait f => Sys2Proof.Machine.execCwait f s
  | .rdptp f => Sys2Proof.Machine.execRdptp f s
  | .rdcyc f => Sys2Proof.Machine.execRdcyc f s
  | .mfs f => Sys2Proof.Machine.execMfs f s
  | .mts f => Sys2Proof.Machine.execMts f s
  | .sbindWrite f => Sys2Proof.Machine.execSbindWrite f s
  | .sbindRead f => Sys2Proof.Machine.execSbindRead f s
  | .slotwWrite f => Sys2Proof.Machine.execSlotwWrite f s
  | .slotwRead f => Sys2Proof.Machine.execSlotwRead f s
  | .ptinv f => Sys2Proof.Machine.execPtinv f s
  | .ptinvAll f => Sys2Proof.Machine.execPtinvAll f s
  | .mbsend f => Sys2Proof.Machine.execMbsend f s
  | .mailboxArrive core sender msg => Sys2Proof.Machine.execMailboxArrive core sender msg s
  | .mbrecv f => Sys2Proof.Machine.execMbrecv f s
  | .mbrecvArm f => Sys2Proof.Machine.execMbrecvArm f s
  | .mbrecvDisarm f => Sys2Proof.Machine.execMbrecvDisarm f s
  | .spill f => Sys2Proof.Machine.execSpill f s
  | .fill f => Sys2Proof.Machine.execFill f s
  | .trapEntry k cause info tpc => Sys2Proof.Machine.execTrapEntry k cause info tpc s
  | .uiDelivery k => Sys2Proof.Machine.execUiDelivery k s
  | .waitLimitExpiry k => Sys2Proof.Machine.execWaitLimitExpiry k s
  | .threadEnd k => Sys2Proof.Machine.execThreadEnd k s
  | .dispatcherFaultReply part token action => Sys2Proof.Machine.execDispatcherFaultReply part token action s
  | .dispatchPlace part => Sys2Proof.Machine.execDispatchPlace part s
  | .rivalPlace part => Sys2Proof.Machine.execRivalPlace part s
  | .preemptPark part => Sys2Proof.Machine.execPreemptPark part s
  | .huskSpill k => Sys2Proof.Machine.execHuskSpill k s
  | .huskAutoFill part => Sys2Proof.Machine.execHuskAutoFill part s
  | .sproutLocalStart core => Sys2Proof.Machine.execSproutLocalStart core s
  | .sproutSteal core => Sys2Proof.Machine.execSproutSteal core s
  | .translationWalk k va kind => Sys2Proof.Machine.execTranslationWalk k va kind s
  | .faultReply core token action => Sys2Proof.Machine.execFaultReply core token action s
  | .postRetry core => Sys2Proof.Machine.execPostRetry core s
  | .loadValueQueueStuck k => Sys2Proof.Machine.execLoadValueQueueStuck k s
  | .chainEntryRead chain => Sys2Proof.Machine.execChainEntryRead chain s
  | .chainEntryReread chain => Sys2Proof.Machine.execChainEntryReread chain s
  | .chainEntryNotReady chain => Sys2Proof.Machine.execChainEntryNotReady chain s
  | .engineChunk engine => Sys2Proof.Machine.execEngineChunk engine s
  | .chainFaultReply chain token action => Sys2Proof.Machine.execChainFaultReply chain token action s
  | .entryCompletion chain => Sys2Proof.Machine.execEntryCompletion chain s
  | .followOnMma chain => Sys2Proof.Machine.execFollowOnMma chain s
  | .mcastGroupClose group => Sys2Proof.Machine.execMcastGroupClose group s
  | .chainStart chain => Sys2Proof.Machine.execChainStart chain s
  | .chainStop chain => Sys2Proof.Machine.execChainStop chain s
  | .chainResync chain => Sys2Proof.Machine.execChainResync chain s
  | .egressCheck pubcount => Sys2Proof.Machine.execEgressCheck pubcount s
  | .jobDeadlineMiss node => Sys2Proof.Machine.execJobDeadlineMiss node s
  | .ptpStep v => Sys2Proof.Machine.execPtpStep v s
  | .ptpAdjust v => Sys2Proof.Machine.execPtpAdjust v s
  | .gateListControlStore port v => Sys2Proof.Machine.execGateListControlStore port v s
  | .gateListEntry port => Sys2Proof.Machine.execGateListEntry port s
  | .frameReceived port frame ts => Sys2Proof.Machine.execFrameReceived port frame ts s
  | .txFrameSend port => Sys2Proof.Machine.execTxFrameSend port s
  | .egressFrameBuild port entry => Sys2Proof.Machine.execEgressFrameBuild port entry s
  | .linkChange port up => Sys2Proof.Machine.execLinkChange port up s
  | .laneLoss lanes => Sys2Proof.Machine.execLaneLoss lanes s
  | .replicationSend entry => Sys2Proof.Machine.execReplicationSend entry s
  | .replicationRecordReceive rec_ => Sys2Proof.Machine.execReplicationRecordReceive rec_ s
  | .heartbeatReceive stamp role promo rxseq serial => Sys2Proof.Machine.execHeartbeatReceive stamp role promo rxseq serial s
  | .heartbeatMissed stamp => Sys2Proof.Machine.execHeartbeatMissed stamp s
  | .slotShed core => Sys2Proof.Machine.execSlotShed core s
  | .shedClear core => Sys2Proof.Machine.execShedClear core s
  | .thermalRankingUpdate temps => Sys2Proof.Machine.execThermalRankingUpdate temps s
  | .thermalDisplacement k => Sys2Proof.Machine.execThermalDisplacement k s
  | .coreGate core => Sys2Proof.Machine.execCoreGate core s
  | .coreWake core => Sys2Proof.Machine.execCoreWake core s
  | .thermmodeWrite v => Sys2Proof.Machine.execThermmodeWrite v s
  | .viewSweep part view => Sys2Proof.Machine.execViewSweep part view s
  | .viewFold part view => Sys2Proof.Machine.execViewFold part view s
  | .shadowFrameWriteout part view line => Sys2Proof.Machine.execShadowFrameWriteout part view line s
  | .heldMbsendRetry core => Sys2Proof.Machine.execHeldMbsendRetry core s
  | .patrolScrub sector => Sys2Proof.Machine.execPatrolScrub sector s
  | .dirtyLineUnowned core view line => Sys2Proof.Machine.execDirtyLineUnowned core view line s
  | .traceConflictLog slice => Sys2Proof.Machine.execTraceConflictLog slice s
  | .tracectlWrite v => Sys2Proof.Machine.execTracectlWrite v s
  | .slabHardFault half => Sys2Proof.Machine.execSlabHardFault half s
  | .machineCheck cause unit inst => Sys2Proof.Machine.execMachineCheck cause unit inst s
  | .dramChannelFailure channel => Sys2Proof.Machine.execDramChannelFailure channel s
  | .watchdogExpiry part => Sys2Proof.Machine.execWatchdogExpiry part s
  | .wdoglimWrite part v => Sys2Proof.Machine.execWdoglimWrite part v s
  | .perfselWrite part v => Sys2Proof.Machine.execPerfselWrite part v s
  | .auditWrite part v => Sys2Proof.Machine.execAuditWrite part v s
  | .errinjWrite v => Sys2Proof.Machine.execErrinjWrite v s
  | .eventRingReadAdvance part v => Sys2Proof.Machine.execEventRingReadAdvance part v s
  | .serviceThreadStart part => Sys2Proof.Machine.execServiceThreadStart part s
  | .controlSpaceStore addr v => Sys2Proof.Machine.execControlSpaceStore addr v s
  | .attestationRequest v => Sys2Proof.Machine.execAttestationRequest v s
  | .scoreboardResultArrival k id => Sys2Proof.Machine.execScoreboardResultArrival k id s
  | .replicationAck ack missing => Sys2Proof.Machine.execReplicationAck ack missing s
  | .boundaryTick => Sys2Proof.Machine.execBoundaryTick s
  | .scanRelease => Sys2Proof.Machine.execScanRelease s
  | .cycleDomainStart => Sys2Proof.Machine.execCycleDomainStart s
  | .cycleDomainStop => Sys2Proof.Machine.execCycleDomainStop s
  | .ptpDisciplineLost => Sys2Proof.Machine.execPtpDisciplineLost s
  | .ptpDisciplineRestored => Sys2Proof.Machine.execPtpDisciplineRestored s
  | .boot => Sys2Proof.Machine.execBoot s
  | .attestationDone => Sys2Proof.Machine.execAttestationDone s
  | .thermalTrip => Sys2Proof.Machine.execThermalTrip s
  | .errlogClear => Sys2Proof.Machine.execErrlogClear s

end Sys2Proof.Machine
end

