-- ==== Sys2Proof/Machine/Issue.lean ====
section
/-! DEFINITION. Instruction fetch (03 R73, R76; 10 R238) and the barrel (02 R28 to R37; 05 R127; 07 R152, R167, R173): which
thread a core issues in a clk, and what its slot does. -/

namespace Sys2Proof.Machine

/-! Fetch. -/

inductive Fetched where
  /-- The words of the instruction, those past the limit of sg0 left out, and the state after their lines' use. -/
  | words (s : State) (ws : List IWord)
  /-- A line missed in L1I: the state with it filled, and the clk that the fill takes. -/
  | fill (s : State) (lat : Nat)
  /-- A translation fault, with the clk until its message, and a trap found before decode. -/
  | msg (s : State) (cause addr late : Nat)
  | trap (s : State) (cause : Nat) (info : Word)
  deriving DecidableEq, Repr

/-! L1I (10 R222, R240; 03 R76; 20 R458). A host core's has the organisation of a front end's (Log 33). -/

/-- The L1I of a thread's core: host core n has number 128 + n. -/
def iCore (k : Nat) : Nat := if isHostKey k then 128 + (k - 8192) else coreOf k

def l1iKey (c a : Nat) : Nat := c * 2 ^ 52 + a
def l1iSet (c a : Nat) : Nat := c * 256 + a / 64 % 256

/-- The lines of the set of an address that L1I still holds, the most recently used first. -/
def l1iWays (s : State) (c a : Nat) : List Nat :=
  (s.l1iSets.getD (l1iSet c a) []).filter (fun x => (upFrom x 64).any (fun b => (s.l1i.get? b).isSome))

/-- The line of an address is used: of more than four in its set, the least recently used leaves. -/
def l1iUse (s : State) (c a : Nat) : State :=
  let name := l1iKey c (lineOf a)
  if (s.l1iSets.getD (l1iSet c a) []).head? = some name then s
  else
    let rest := (l1iWays s c a).filter (fun x => x != name)
    { s with l1iSets := s.l1iSets.put (l1iSet c a) (name :: rest.take 3),
             l1i := if rest.length < 4 then s.l1i else s.l1i.filter (fun q => !(rest.drop 3).contains (q.1 / 64 * 64)) }

/-- The line of an address leaves L1I. -/
def l1iDrop (s : State) (c a : Nat) : State := { s with l1i := s.l1i.filter (fun q => q.1 / 64 * 64 != l1iKey c (lineOf a)) }

/-- Fills an L1I with the line of an address, as its owning port holds it in the root, but for poisoned sectors (03 R76; 10
R229). -/
def l1iFill (s : State) (c a loc : Nat) : State :=
  let s1 := (upFrom 0 64).foldl (fun m i =>
    if poisonedAt m 0 0 (lineOf loc + i) then m
    else { m with l1i := m.l1i.put (l1iKey c (lineOf a + i)) (portByte m 0 0 (lineOf loc + i)) }) (l1iDrop s c a)
  l1iUse (writeArray s1 3 c (lineOf a) 64) c a

/-- A parity error of the line of an address: it is invalidated, to be fetched again, and logged (10 R240). -/
def l1iParity (s : State) (k : Nat) (a : Nat) : Option State :=
  (findEcc s 3 (iCore k) (a / 32)).map (fun r => logError (l1iDrop r.1 (iCore k) a) 3 (iCore k) (lineOf a) true (errContext (some k)))

/-- What a fetch that misses L1I finds at a: the state, the location and the path's clk, or the reason it may not (10 R238,
R241). -/
def fetchLine (s : State) (k : Nat) (t : Thread) (a : Nat) : Except Fetched (State × Nat × Nat) :=
  match translate s (portOf k) (partOf t) a 3 with
  | .error e => .error (.msg e.2.2 e.1 a e.2.1)
  | .ok (loc, w, s1) =>
    match demandRange s1 (some k) none (portOf k) 0 (partOf t) 0 a loc 4 with
    | .ok (s2, lat) => .ok (s2, loc, lat + w)
    | .error (.trap s2 c i) => .error (.trap s2 c i)
    | .error (.msg s2 c _ _ x late) => .error (.msg s2 c x late)

/-- The word at a as its owning port holds it now, where its location needs no walk that fails. -/
def wordNow (s : State) (k : Nat) (t : Thread) (a : Nat) : Option Nat :=
  (translateAny s (portOf k) (partOf t) a).map (fun l => ofBytes ((upFrom l 4).map (portByte s 0 0)))

/-- The word at a, through L1I: where the port holds another by now, the old or the new one (03 R76). -/
def fetchWord (s : State) (k : Nat) (t : Thread) (a : Nat) : Except Fetched (State × IWord) :=
  let miss (x : State) : Except Fetched (State × IWord) :=
    match fetchLine x k t a with
    | .error e => .error e
    | .ok (s1, loc, lat) => .error (.fill (l1iFill s1 (iCore k) a loc) lat)
  let cached := (upFrom a 4).filterMap (fun x => s.l1i.get? (l1iKey (iCore k) x))
  if cached.length ≠ 4 then miss s
  else
    match l1iParity s k a with
    | some s1 => miss s1
    | none =>
      .ok (l1iUse s (iCore k) a, BitVec.ofNat 32 (match wordNow s k t a with
        | some w => if w ≠ ofBytes cached ∧ Config.newWord s.clk a = true then w else ofBytes cached
        | none => ofBytes cached))

/-- n words from a. -/
def fetchWords (k : Nat) (t : Thread) : Nat → State → Nat → Except Fetched (State × List IWord)
  | 0, s, _ => .ok (s, [])
  | n + 1, s, a =>
    match fetchWord s k t a with
    | .error f => .error f
    | .ok (s1, w) => (fetchWords k t n s1 (a + 4)).map (fun r => (r.1, w :: r.2))

/-- TINFO of a trap for PC[1:0]: word 0, which was not read (03 R73; Log 33). -/
def noWord (s : State) : Word := wd (bits (Config.freeWord (s.free * 4 + 3)) 0 32)

/-- The address of the n bytes at PC: PC is an address, and these bytes lie in sg0, which must have X (03 R73, 05 R116, R118;
Log 34). -/
def fetchEa (t : Thread) (n : Nat) : Except Nat Nat :=
  let pc := t.pc.toNat % 2 ^ 52
  let base := segBase (segOf t 0)
  if pc < base then (match ea t 0 1 { x := true } with
    | .error c => .error c
    | .ok _ => .error 0x20)
  else ea t (wd (pc - base)) n { x := true }

/-- The rest of an instruction whose word 0 is w: an opcode that step 3 refuses needs none of it; of one that runs past the limit
of sg0 (step 4) nothing more is read than the trap counts (03 R73). A word outside translated DRAM is not fetched (10 R213). -/
def fetchRest (s : State) (k : Nat) (t : Thread) (a : Nat) (w : IWord) : Fetched :=
  let room := (segLimit (segOf t 0) + segBase (segOf t 0) - t.pc.toNat % 2 ^ 52 - 3) / 4
  if badOp t.host w then .words s [w]
  else if room < lenWords w - 1 then .words s (w :: List.replicate room 0)
  else if 0x8000000000000 < a + 4 * lenWords w then .trap s 0x21 t.pc
  else
    match fetchWords k t (lenWords w - 1) s (a + 4) with
    | .error f => f
    | .ok (s1, ws) => .words s1 (w :: ws)

/-- Steps 1 and 2 of 03 R73, and the words of the instruction. The information of step 2's traps is the pointer, PC (18 R423);
outside translated DRAM there is no fetch (10 R213). -/
def fetch (s : State) (k : Nat) (t : Thread) : Fetched :=
  if t.pc.toNat % 4 ≠ 0 then .trap { s with free := s.free + 1 } 0x05 (noWord s)
  else
    match fetchEa t 4 with
    | .error c => .trap s c t.pc
    | .ok a =>
      if 0x8000000000000 ≤ a then .trap s 0x21 t.pc
      else
        match fetchWord s k t a with
        | .error f => f
        | .ok (s1, w) => fetchRest s1 k t a w

/-! Checks at a slot that no instruction makes. -/

/-- A register operand of an instruction that the register file holds with an error (10 R240). -/
def regError (s : State) (k : Nat) (i : Instr) : Option Nat :=
  if s.badEcc.isEmpty || isHostKey k then none
  else ((((enc i).map regsIn).getD []).find? (fun n => (s.badEcc.get? (eccKey 0 (coreOf k) (regPlace k n))).isSome))

/-- A corrected error is logged; an uncorrectable one kills the thread. -/
def takeRegError (s : State) (k n : Nat) : State × Bool :=
  match findEcc s 0 (coreOf k) (regPlace k n) with
  | none => (s, false)
  | some (s1, ue) =>
    let s2 := logError s1 0 (coreOf k) n ue (errContext (some k))
    if ue then (killThread s2 k 0x72 (wd n) (((thr s2 k).map (fun t => t.pc)).getD 0), true) else (s2, false)

/-- Thread u, which was t, after an instruction: the registers it wrote with a fixed latency; a scoreboarded result writes when it
arrives. -/
def fixedOut (t u : Thread) : List Nat := (u.flight.filter (fun x => !t.flight.contains x)).map (fun x => x.reg)

/-- After an instruction of thread k in state s0: what its writes leave of errors in the register file (18 R431). -/
def afterIssue (s0 : State) (k : Nat) (s : State) : State :=
  match thr s0 k, thr s k with
  | some t, some u => regWritten s k (fixedOut t u)
  | _, _ => s

/-! Which thread issues. -/

/-- A thread may use a slot now: it is ready, and a delivery that is due waits for no result of the thread (06 R135, 08 R181). -/
def canIssue (s : State) (t : Thread) : Bool :=
  decide (t.earliest ≤ s.clk) && isReady s t && (!uiDue s t || t.trapDue.isSome || decide (settleAt s t ≤ s.clk))

/-- A share thread's slot spacing has passed since its last issue (02 R32). -/
def shareDue (s : State) (t : Thread) : Bool :=
  (t.lastIssue.map (fun c => decide (c + bits (getSpr t rSPACING) 0 5 ≤ s.clk))).getD true

/-- The share's thread that issues: ascending context after the one that last issued, wrapping round (02 R32). -/
def shareThread (s : State) (c n : Nat) : Option Nat :=
  let last := s.shares.getD (c * 16 + n) 63
  ((upFrom 1 64).map (fun j => c * 64 + (last + j) % 64)).find? (fun k =>
    match thr s k with
    | some t => t.share == some n && canIssue s t && shareDue s t
    | none => false)

/-- The thread of core c that has the slot of this clk and can issue, by the table in effect (02 R30 to R32; 15 R355, R368). -/
def slotThread (s : State) (c : Nat) : Option Nat :=
  let e := slotActs s c (s.clk % 16)
  if slotShedBit (slotEntry s c (s.clk % 16)) then none
  else if slotKind e = 1 then
    let k := c * 64 + slotCtx e
    match thr s k with
    | some t => if canIssue s t then some k else none
    | none => none
  else if slotKind e = 2 && !(scanRuns s 0 && coreIn s 0 c) then shareThread s c (slotShare e)
  else none

/-- A host core that has been taken offline with its part of the host complex: it stops. Host core 0 goes on, for it takes the machine
cause (18 R418, R430; Log 53). -/
def hostDown (s : State) (n : Nat) : Bool := n != 0 && s.offline.getD (4 * 65536 + n) false

/-- A host core issues in every fourth clk (Log 19). -/
def hostSlot (s : State) (n : Nat) : Option Nat :=
  let k := 8192 + n
  match thr s k with
  | some t => if s.clk % 4 = 0 && canIssue s t && !hostDown s n then some k else none
  | none => none

/-- The issuer at place i of a clk: cores 0 to 127, then the host cores (Log 10). -/
def placeThread (s : State) (i : Nat) : Option Nat := if i < 128 then slotThread s i else hostSlot s (i - 128)

/-- Places of a clk; a clk whose slots have all been used stands at the last. -/
def placesEnd : Nat := 136

/-- The cores and hosts that hold threads, at or after a place, in order. -/
def livePlaces (s : State) (from_ : Nat) : List Nat :=
  ((s.threads.map (fun q => if isHostKey q.1 then 128 + (q.1 - 8192) else coreOf q.1)).eraseDups).filter (fun i => from_ ≤ i && i < placesEnd)

/-- The next slot of this clk that is used: its place and thread. -/
def nextSlot (s : State) : Option (Nat × Nat) :=
  (livePlaces s s.bpos).findSome? (fun i => (placeThread s i).map (fun k => (i, k)))

/-! A slot. -/

/-- The slot is used: by an instruction, a trap's entry, a delivery, or a pass under audit. In a share the scan goes on after
the thread, and its spacing counts from here (02 R32, R37; 07 R152). -/
def noteSlot (s : State) (k : Nat) (t : Thread) : State :=
  let s1 := setThr s k { t with lastIssue := some s.clk }
  match t.share with
  | none => s1
  | some n => { s1 with shares := s1.shares.put (coreOf k * 16 + n) (ctxOf k) }

/-- An instruction issues in it: by the audit's rule the thread passes over its next one (07 R173; 02 R37). -/
def noteIssue (s : State) (k : Nat) (t : Thread) : State :=
  let s1 := noteSlot s k { t with auditSkip := audited s k t }
  if t.host then s1 else perfBump s1 (partOf t) 1

/-- HA of an instruction: 0 without a hint word, and 8 to 15 act as 0 (03 R70). -/
def hintOf (i : Instr) : Nat := ((enc i).bind (fun e => tailExt e.tail)).elim 0 (fun x => if x.ha.toNat < 8 then x.ha.toNat else 0)

/-- Instruction i of thread k: exec of it with the thread issuing. -/
def issueInstr (s : State) (k : Nat) (t : Thread) (i : Instr) : Host.Outcome State Fault Refusal :=
  match exec i { noteIssue s k t with cur := some k, hint := hintOf i } with
  | .next s1 => .next (afterIssue s k s1)
  | .fault f => .fault f
  | .refused r => .refused r

/-- A slot used for a trap's entry; s1 is the state that finding it left. -/
def slotTrap (s1 : State) (k cause : Nat) (info : Word) (t : Thread) : Host.Outcome State Fault Refusal :=
  exec (.trapEntry k cause info t.pc) (noteSlot s1 k t)

/-- Steps 3 to 7 of 03 R73 on the words fetched, and the instruction. -/
def issueWords (s : State) (k : Nat) (t : Thread) (ws : List IWord) : Host.Outcome State Fault Refusal :=
  let w0 := (ws.headD 0).toNat
  match decode t.host ws with
  | .ok i =>
    match regError s k i with
    | some n =>
      let r := takeRegError s k n
      if r.2 then .next r.1 else issueInstr r.1 k t i
    | none => issueInstr s k t i
  | .bad c w b => slotTrap s k c (decodeInfo w0 w b) t
  | .short n => slotTrap s k 0x04 (wd (w0 + n * 2 ^ 32)) t

/-- What thread k does with its slot: a failed view ends it (16 R392), an audited thread passes (07 R173), a trap that arose
since its last slot is taken (02 R58; 18 R425), a completion is delivered (07 R167), or an instruction issues. A delivery
between a wait and the retry of its instruction saves that instruction's PC (Log 66). -/
def useSlot (s : State) (k : Nat) (t : Thread) : Host.Outcome State Fault Refusal :=
  if viewOf t ≠ 0 ∧ viewFailed s (partOf t) (viewOf t) = true then .next (killThread s k 0x41 (s.viewFail.getD (partOf t * 1024 + viewOf t) (wd (viewOf t))) t.pc)
  else if t.auditSkip then .next (noteSlot s k { t with auditSkip := false })
  else
    match t.trapDue with
    | some d => slotTrap s k d.1 d.2 { t with trapDue := none }
    | none =>
      match (if thOf t then none else t.deferred.head?) with
      | some d => slotTrap s k d.1 d.2 { t with deferred := t.deferred.drop 1 }
      | none =>
        if uiDue s t then exec (.uiDelivery k) (noteSlot s k t)
        else
          match fetch s k t with
          | .trap s1 c i => slotTrap s1 k c i t
          | .msg s1 c a late => .next (enterFault s1 k 1 c 3 4 a late)
          | .fill s1 lat => .next (holdUntil s1 k (s1.clk + lat))
          | .words s1 ws => issueWords s1 k t ws

/-! The clk. -/

/-- The changes of this clk to groups, timelines and control blocks have been settled. -/
def settled (s : State) : Bool :=
  s.groupOps.isEmpty && (dueTlOps s).isEmpty && s.chainOps.isEmpty && s.barOps.isEmpty && s.lateDisp.isEmpty

/-- The event that is due: one of phase 1 waits for the end of a clk's slots, one of phase 2 for what the clk's end settles (Ops,
the agenda). -/
def dueEvent (s : State) : Option (Instr × State) :=
  match s.agenda with
  | [] => none
  | p :: r =>
    if p.1 ≤ s.clk && (eventPhase p.2 == 0 || (s.bpos == placesEnd && (eventPhase p.2 == 1 || settled s)))
    then some (p.2, { s with agenda := r }) else none

/-- Barrier instructions act behind the engines' updates, groups and timelines that changed in this clk are settled, and stores to
control blocks applied, at its end; the dispatchers' views come behind the clk's forks (14 R319; 16 R396; 17 R405; 19 R449, R450). -/
def settleClk (s : State) : State :=
  let z := if s.barOps.isEmpty then s else settleBars s
  let a := if z.groupOps.isEmpty then z else settleGroups z
  let b := if (dueTlOps a).isEmpty then a else settleTimelines a
  let c := if b.chainOps.isEmpty then b else settleChains b
  if c.lateDisp.isEmpty then c else settleDispatch c

/-- The temperatures that the device measures now (15 R366; Log 99). -/
def coreTemps (s : State) : List Byte := (upFrom 0 128).map (fun c => Config.coreTemp s.clk c)

/-- The next clk begins: publishes that reach their ports are performed (17 R410), and every 65,536 clk the ranking is rewritten (15
R366). -/
def nextClk (s : State) : State :=
  let s1 := { s with clk := s.clk + 1, bpos := 0 }
  let s2 := if s1.pubOps.any (fun o => decide (o.at_ ≤ s1.clk)) then settlePubs s1 else s1
  if s2.clk % 65536 = 0 then sched s2 s2.clk (.thermalRankingUpdate (coreTemps s2)) else s2

/-- What is left of a clk whose slots have been used: its engines and other events, then what it settles, then its events and errors
are written (18 R421, R429), then the next clk. -/
def endOfClk (s : State) : State :=
  if s.bpos ≠ placesEnd then { s with bpos := placesEnd }
  else if settled s then nextClk (lowerAll (writeErrors (writeEvents s))) else settleClk s

/-- Threads whose awaited event has come are ready (02 R28). -/
def wakeThreads (s : State) : State :=
  s.threads.foldl (fun a q =>
    match waitOf q.2 with
    | some w => if waitDone s q.1 q.2 w then setThr a q.1 { q.2 with run := .ready, again := some w } else a
    | none => a) s

/-- The state whose slots a clk's first step after its events looks at: at rotation index 0 the slot tables change, the dispatcher's
writes first (15 R355). -/
def atSlots (s : State) : State :=
  if s.bpos = 0 then
    let s1 := if s.clk % 16 = 0 && !(s.slotReq.isEmpty && s.slotNow.isEmpty) then applySlotReqs s else s
    wakeThreads s1
  else s

/-- A slot of this clk, or what ends the clk. -/
def slotStep (s : State) : Host.Outcome State Fault Refusal :=
  match nextSlot s with
  | some (p, k) =>
    match thr s k with
    | some t => useSlot { s with bpos := p + 1 } k t
    | none => .next { s with bpos := p + 1 }
  | none => .next (endOfClk s)

/-- One step of the machine: an event that is due, a slot, or the end of the clk; a tripped device stands still (20 R479). -/
def stepOnce (s : State) : Host.Outcome State Fault Refusal :=
  if s.tripped then .next s
  else
    match dueEvent s with
    | some (i, s1) => exec i s1
    | none => slotStep (atSlots s)

/-! Placing an instruction (Log 20). -/

/-- The thread whose slot the next step uses for an instruction, if any. -/
def nextIssuer (s : State) : Option Nat :=
  if s.tripped || (dueEvent s).isSome then none
  else
    match nextSlot (atSlots s) with
    | none => none
    | some (_, k) =>
      match thr (atSlots s) k with
      | none => none
      | some t =>
        if (viewOf t != 0 && viewFailed s (partOf t) (viewOf t)) || t.auditSkip || t.trapDue.isSome || (!thOf t && !t.deferred.isEmpty) ||
            uiDue s t || t.pc.toNat % 4 != 0 then none
        else
          match fetchEa t 20 with
          | .error _ => none
          | .ok a => if a + 20 ≤ 0x8000000000000 then some k else none

/-- Writes instruction bytes where thread k fetches them: its core's L1I. -/
def placeBytes (s : State) (k : Nat) (t : Thread) (bs : List Byte) : State :=
  match fetchEa t 20 with
  | .error _ => s
  | .ok a =>
    { s with l1i := (upFrom 0 bs.length).foldl (fun m i => m.put (l1iKey (iCore k) (a + i)) ((bs.drop i).headD 0)) s.l1i }

/-- A supervisor thread in context 0 of core 0, alone on its core, that has the slot of this clk (Log 20). -/
def loaderThread (s : State) : Thread :=
  let t := blankThread s 0 0 ⟨0, 0, 0, [], none⟩ 128 32 4
  { setSpr t rMODE 1 with run := .ready, earliest := 0, segs := [(0, mkSeg 0 (2 ^ 20 - 1) 5)] }

/-- The machine with that thread in place and nothing else due. -/
def withLoader (s : State) : State :=
  let s0 := { s with agenda := [], tlOps := [], groupOps := [], barOps := [], chainOps := [], pubOps := [], lateDisp := [],
                     slotReq := [], slotNow := [], bpos := 0, tripped := false, cur := none,
                     binding := s.binding.put 0 (wd (2 ^ 64 - 2 ^ 16)), threads := [],
                     slots := (upFrom 0 4).foldl (fun m j => m.put (s.clk % 4 + 4 * j) 1) s.slots }
  setThr (wrCtl s0 (remapHdr 0) 1) 0 (loaderThread s0)

/-- The machine with the bytes of an instruction where the next step fetches. -/
def placeInstr (s : State) (bs : List Byte) : State :=
  match (nextIssuer s).bind (fun k => (thr s k).map (fun t => (k, t))) with
  | some (k, t) => placeBytes s k t bs
  | none => placeBytes (withLoader s) 0 (loaderThread (withLoader s)) bs

end Sys2Proof.Machine
end

