-- ==== Sys2Proof/Machine/Step.lean ====
section
/-! DEFINITION. The step, and an instruction placed where the next step fetches it. -/

namespace Sys2Proof.Machine

/-- One step. -/
def step (s : State) : Host.Outcome State Fault Refusal := stepOnce s

/-- s with an instruction, numbered as spec/opcode_table.json numbers its bits, where step fetches next. -/
def State.withFetchWord (s : State) (nbits w : Nat) : State := placeInstr s (toBytes 20 (w % 2 ^ nbits))

end Sys2Proof.Machine
end

