-- ==== Sys2Proof/Safety.lean ====
section
/-! DEFINITION. The terms in which statements are made: when a thread issues an instruction with nothing in its way, what a
completed instruction leaves, what an instruction leaves alone, and what the machine keeps in every step. -/

namespace Sys2Proof.Machine

/-! Issue. -/

/-- Thread k, in state t, issues instruction i: it is the issuing thread, every check that precedes the instruction's own
effect lets it pass (03 R73 steps 8 to 10, the latency audit, pending results, tile locks), and it is no thread of a redundant
pair. These are conditions on the state and the operands alone. -/
def issues (i : Instr) (s : State) (k : Nat) (t : Thread) : Bool :=
  s.cur == some k && thr s k == some t && (gate i s k t).isNone && redundOf t == 0

/-- What completing does around an effect that left s1: the next PC follows the instruction, unless a loop body ends there
(07 R158), and a single step traps (07 R165). -/
def finish (i : Instr) (s1 : State) (k : Nat) (t : Thread) : State := tick (retire s1 k (wordsOf i) (stepDue t) none)

/-- The same for an instruction that transfers to a target; ends tells whether reaching it may end a loop body. -/
def leap (i : Instr) (s1 : State) (k : Nat) (t : Thread) (target : Word) (ends : Bool) : State :=
  tick (retire s1 k (wordsOf i) (stepDue t) (some (target, ends)))

/-- Instruction i of thread k has the effect s1 and completes. -/
def Does (i : Instr) (s : State) (k : Nat) (t : Thread) (s1 : State) : Prop := exec i s = .next (finish i s1 k t)

/-- It has the effect s1 and the next PC is the target. -/
def Goes (i : Instr) (s : State) (k : Nat) (t : Thread) (s1 : State) (target : Word) (ends : Bool) : Prop :=
  exec i s = .next (leap i s1 k t target ends)

/-- It traps with a cause, TINFO and TPC; s1 is the state the trap finds. -/
def Traps (i : Instr) (s s1 : State) (k cause : Nat) (info tpc : Word) : Prop :=
  exec i s = .next (tick (raise s1 k cause info tpc))

/-- No single step is due and the thread is in no loop: the next PC of a completed instruction is the address after it. -/
def straight (t : Thread) : Bool := !stepDue t && ldepthOf t == 0

/-! Frames. -/

/-- u differs from t in general or shadow register d alone, apart from the PC, the flight of its result and its readiness. -/
def OnlyReg (t u : Thread) (d : Nat) : Prop :=
  (∀ n, n ≠ d → gprOf u n = gprOf t n) ∧
  u = { t with gpr := u.gpr, shadow := u.shadow, flight := u.flight, pc := u.pc,
               run := u.run, earliest := u.earliest, again := u.again }

/-- s1 differs from s in thread k alone, apart from the model's own counter of free values and the issuing thread. -/
def OnlyThread (s s1 : State) (k : Nat) : Prop :=
  (∀ j, j ≠ k → thr s1 j = thr s j) ∧ s1 = { s with threads := s1.threads, free := s1.free, cur := s1.cur }

/-- Every byte of memory, in every view, and every full/empty tag reads as before. -/
def SameMemory (s s1 : State) : Prop := s1.mem = s.mem ∧ s1.vmem = s.vmem ∧ s1.tags = s.tags ∧ s1.l1d = s.l1d

/-- The state after a fixed-latency instruction of n words whose result v goes to register d (02 R34): the result, the next PC,
and nothing else of the thread or of the machine. -/
def FixedResult (i : Instr) (s : State) (k : Nat) (t : Thread) (d lat : Nat) (v : Word) : Prop :=
  ∃ s1 u, exec i s = .next s1 ∧ thr s1 k = some u ∧ OnlyThread s s1 k ∧ OnlyReg t u d ∧
    gprOf u d = (if d = 0 then 0 else v) ∧ u.pc = pcAdd t.pc (4 * wordsOf i) ∧
    (d ≠ 0 → ⟨regId t d, gprOf t d, s.clk + lat⟩ ∈ u.flight)

/-- The state after a tile instruction that writes tile d: its elements are val's, its configuration and every other tile,
register and byte of memory are as before, and the tile stays locked until lat clk have passed (08 R179, R180). -/
def TileResult (i : Instr) (s : State) (k : Nat) (t : Thread) (d lat : Nat) (val : Nat → Nat) : Prop :=
  ∃ s1 u, exec i s = .next s1 ∧ thr s1 k = some u ∧ (∀ n, elemAt (tileOf u d) n = val n) ∧ (tileOf u d).cfg = (tileOf t d).cfg ∧
    (∀ m, m ≠ d → tileOf u m = tileOf t m) ∧ (∀ r, gprOf u r = gprOf t r) ∧ u.pc = pcAdd t.pc (4 * wordsOf i) ∧ SameMemory s s1 ∧
    (∀ j, j ≠ k → thr s1 j = thr s j) ∧ ∃ p ∈ u.sb, p.due = s.clk + lat ∧ d ∈ p.tiles

/-! What every step keeps. -/

/-- The memory's canonical form: addresses strictly rise, and no entry holds what an unlisted byte reads as. -/
abbrev Memory.wf (m : Tab Byte) : Bool := Tab.wf 0 m

/-- The invariant of the machine that statements use. -/
def Inv (s : State) : Prop := Memory.wf s.mem = true

end Sys2Proof.Machine
end

