-- ==== Sys2Proof/Certificates/Slice0/Obligations.lean ====
section
/-! DEFINITION. The statements about the machine, one definition each; docstrings name the rules of spec/ they formalise by
file and number. -/

open Sys2Proof Sys2Proof.Machine

/-! Integer, address and constant opcodes (06). -/

/-- 06 R136, R137, R139, R144: the operation of each fixed-latency integer opcode, for every form and every pair of operands,
with its frame. Shift amounts are below 64, as R137 asks. 06 R139: the upper 64 bits of the exact product, as MOD reads the
operands. -/
def Obligations.IntegerResults : Prop :=
  (∀ (f : RForm) (g : LForm) (s : State) (k : Nat) (t : Thread), straight t = true →
      let d := f.d.toNat
      let a := readG s t f.a.toNat
      let b := opbAlu s t f true
      let c := opbAlu s t f false
      let u := tailMod f.t % 2 == 1
      (issues (.add f) s k t = true → FixedResult (.add f) s k t d 4 (a + b)) ∧
      (issues (.sub f) s k t = true → FixedResult (.sub f) s k t d 4 (a - b)) ∧
      (issues (.and f) s k t = true → FixedResult (.and f) s k t d 4 (a &&& c)) ∧
      (issues (.or f) s k t = true → FixedResult (.or f) s k t d 4 (a ||| c)) ∧
      (issues (.xor f) s k t = true → FixedResult (.xor f) s k t d 4 (a ^^^ c)) ∧
      (issues (.shl f) s k t = true → c.toNat < 64 → FixedResult (.shl f) s k t d 4 (a <<< c.toNat)) ∧
      (issues (.shr f) s k t = true → c.toNat < 64 → FixedResult (.shr f) s k t d 4 (a >>> c.toNat)) ∧
      (issues (.sar f) s k t = true → c.toNat < 64 → FixedResult (.sar f) s k t d 4 (a.sshiftRight c.toNat)) ∧
      (issues (.min f) s k t = true → FixedResult (.min f) s k t d 4 (if (if u then b.ult a else b.slt a) then b else a)) ∧
      (issues (.max f) s k t = true → FixedResult (.max f) s k t d 4 (if (if u then a.ult b else a.slt b) then b else a)) ∧
      (issues (.slt f) s k t = true → FixedResult (.slt f) s k t d 4 (if (if u then a.ult b else a.slt b) then 1 else 0)) ∧
      (issues (.mul f) s k t = true → FixedResult (.mul f) s k t d 8 (a * opbReg s t f)) ∧
      (issues (.li g) s k t = true → FixedResult (.li g) s k t g.d.toNat 4 (liValue g))) ∧
  (∀ (f : RForm) (s : State) (k : Nat) (t : Thread), straight t = true → issues (.mulh f) s k t = true →
      let a := readG s t f.a.toNat
      let b := opbReg s t f
      (tailMod f.t = 0 → FixedResult (.mulh f) s k t f.d.toNat 8 ((a.signExtend 128 * b.signExtend 128).extractLsb' 64 64)) ∧
      (tailMod f.t = 1 → FixedResult (.mulh f) s k t f.d.toNat 8 ((a.zeroExtend 128 * b.zeroExtend 128).extractLsb' 64 64)) ∧
      (tailMod f.t = 2 → FixedResult (.mulh f) s k t f.d.toNat 8 ((a.signExtend 128 * b.zeroExtend 128).extractLsb' 64 64)))

/-- 06 R138: addsat and subsat clamp the exact sum and difference to the range of the form and leave no trace: every form
completes, and nothing but D and the PC changes. -/
def Obligations.SaturatingArithmetic : Prop :=
  ∀ (f : RForm) (s : State) (k : Nat) (t : Thread), straight t = true →
    let a := readG s t f.a.toNat
    let b := opbAlu s t f true
    let signed (z : Int) : Word := BitVec.ofInt 64 (max (-(2 ^ 63)) (min (2 ^ 63 - 1) z))
    let unsigned (z : Int) : Word := BitVec.ofInt 64 (max 0 (min (2 ^ 64 - 1) z))
    (issues (.addsat f) s k t = true → FixedResult (.addsat f) s k t f.d.toNat 4
      (if tailMod f.t % 2 = 1 then unsigned (a.toNat + b.toNat) else signed (a.toInt + b.toInt))) ∧
    (issues (.subsat f) s k t = true → FixedResult (.subsat f) s k t f.d.toNat 4
      (if tailMod f.t % 2 = 1 then unsigned ((a.toNat : Int) - b.toNat) else signed (a.toInt - b.toInt)))

/-- 06 R141: clz counts the leading zero bits, 64 of them in 0, and MOD must be 0. -/
def Obligations.LeadingZeros : Prop :=
  ∀ (f : RForm) (s : State) (k : Nat) (t : Thread),
    (straight t = true → issues (.clz f) s k t = true → ∃ n : Nat, n ≤ 64 ∧ FixedResult (.clz f) s k t f.d.toNat 4 (BitVec.ofNat 64 n) ∧
      (readG s t f.a.toNat = 0 ↔ n = 64) ∧ (∀ i, i < n → (readG s t f.a.toNat).getMsbD i = false) ∧
      (n < 64 → (readG s t f.a.toNat).getMsbD n = true)) ∧
    (tailMod f.t ≠ 0 → WellFormed (.clz f) = false)

/-- 06 R142, R143: the fields that bext and bins take and place, and the sum of lea. -/
def Obligations.FieldsAndAddresses : Prop :=
  ∀ (f : RForm) (s : State) (k : Nat) (t : Thread), straight t = true →
    let a := readG s t f.a.toNat
    let c := opbImm s t f
    let p := c.toNat % 64
    let w := c.toNat / 256 % 128
    let disp : Word := if (tailLit f.t).isSome then 0 else (tailImm f.t).signExtend 64
    (issues (.bext f) s k t = true → fieldBad c = false → ∃ v : Word, FixedResult (.bext f) s k t f.d.toNat 4 v ∧
      ∀ i, i < 64 → v.getLsbD i = if i < w then a.getLsbD (p + i) else f.q && a.getLsbD (p + w - 1)) ∧
    (issues (.bins f) s k t = true → fieldBad c = false → ∃ v : Word, FixedResult (.bins f) s k t f.d.toNat 4 v ∧
      ∀ i, i < 64 → v.getLsbD i = if p ≤ i ∧ i < p + w then a.getLsbD (i - p) else (readG s t f.d.toNat).getLsbD i) ∧
    (issues (.lea f) s k t = true →
      FixedResult (.lea f) s k t f.d.toNat 4 (a + opbReg s t f * BitVec.ofNat 64 (2 ^ (tailMod f.t % 4)) + disp))

/-- 06 R145: sel. -/
def Obligations.SelectResult : Prop :=
  ∀ (f : RForm) (s : State) (k : Nat) (t : Thread),
    (straight t = true → issues (.sel f) s k t = true →
      FixedResult (.sel f) s k t f.d.toNat 4 (if readG s t f.d.toNat = 0 then opbReg s t f else readG s t f.a.toNat) ∧
      (f.d = 0 → readG s t f.d.toNat = 0)) ∧
    (tailMod f.t ≠ 0 → WellFormed (.sel f) = false)

/-- 06 R137, R140, R142: where integer opcodes trap on their operands. 06 R140, R133: quotient toward zero and its remainder,
in a scoreboarded result; −2^63 by −1 wraps. -/
def Obligations.IntegerTrapsAndDivision : Prop :=
  (∀ (f : RForm) (s : State) (k : Nat) (t : Thread),
      let n := opbAlu s t f false
      let c := opbImm s t f
      (issues (.shl f) s k t = true → 64 ≤ n.toNat → Traps (.shl f) s s k 0x07 n t.pc) ∧
      (issues (.shr f) s k t = true → 64 ≤ n.toNat → Traps (.shr f) s s k 0x07 n t.pc) ∧
      (issues (.sar f) s k t = true → 64 ≤ n.toNat → Traps (.sar f) s s k 0x07 n t.pc) ∧
      (issues (.div f) s k t = true → opbReg s t f = 0 → Traps (.div f) s s k 0x0D 0 t.pc) ∧
      (issues (.rem f) s k t = true → opbReg s t f = 0 → Traps (.rem f) s s k 0x0D 0 t.pc) ∧
      (issues (.bext f) s k t = true → fieldBad c = true → Traps (.bext f) s s k 0x1E c t.pc) ∧
      (issues (.bins f) s k t = true → fieldBad c = true → Traps (.bins f) s s k 0x1E c t.pc)) ∧
  (∀ (f : RForm) (s : State) (k : Nat) (t : Thread), opbReg s t f ≠ 0 →
      let u := tailMod f.t % 2 == 1
      let a := readG s t f.a.toNat
      let b := opbReg s t f
      let due := s.clk + divLat u a
      (issues (.div f) s k t = true →
        Does (.div f) s k t (putScored s k due [(f.d.toNat, if u then a.udiv b else a.sdiv b)] [])) ∧
      (issues (.rem f) s k t = true →
        Does (.rem f) s k t (putScored s k due [(f.d.toNat, if u then a.umod b else a.srem b)] [])))

/-! Scalar floating opcodes (06; 04). -/

/-- What a scalar floating operation leaves when no enabled exception is raised: flags accumulate, and the result reaches D
after its latency; with a trap enabled the thread issues nothing before. -/
def floatDone (s : State) (k : Nat) (t : Thread) (d lat : Nat) (r : FpRes) : State :=
  putFixed (modThr s k (fun u =>
    { setSpr u rFPFLAGS (getSpr u rFPFLAGS ||| r.flags.setWidth 64) with
      fpUntil := max u.fpUntil (s.clk + lat),
      earliest := if fpTrapsOn (fpctlOf t) then max u.earliest (s.clk + lat) else u.earliest })) k lat d (wd r.code)

/-- 06 R146 to R151: the results, flags and latencies of the scalar floating opcodes where no enabled exception is raised. 04
R96: an enabled exception traps, invalid operation before divide by zero and overflow, with the flags accumulated and no
result written. OF in the conversion to BF16 and the infinities of FP8 are the model's reading (Logs 23, 38). -/
def Obligations.FloatResults : Prop :=
  (∀ (f : RForm) (s : State) (k : Nat) (t : Thread),
      let m := if f.q then fp32 else fp64
      let w := if f.q then 2 ^ 32 else 2 ^ 64
      let rm := bits (fpctlOf t) 0 2
      let a := (readG s t f.a.toNat).toNat % w
      let b := (opbReg s t f).toNat % w
      let quiet (r : FpRes) : Prop := fpCause (fpctlOf t) r.flags = none
      let done (lat : Nat) (i : Instr) (r : FpRes) : Prop :=
        issues i s k t = true → quiet r → Does i s k t (floatDone s k t f.d.toNat lat r)
      done 8 (.fadd f) (fpAdd m rm a b) ∧ done 8 (.fsub f) (fpSub m rm a b) ∧ done 8 (.fmul f) (fpMul m rm a b) ∧
      done 8 (.ffma f) (fpFma m rm a b ((readG s t f.d.toNat).toNat % w)) ∧
      done (if f.q then 24 else 32) (.fdiv f) (fpDiv m rm a b) ∧ done (if f.q then 28 else 40) (.fsqrt f) (fpSqrt m rm a) ∧
      done 8 (.fmin f) (fpMinMax m false a b) ∧ done 8 (.fmax f) (fpMinMax m true a b) ∧
      done 8 (.flt f) ⟨if (fpCompare m (tailMod f.t) a b).1 then 1 else 0, (fpCompare m (tailMod f.t) a b).2⟩ ∧
      (let c := fcvtVal f.b.toNat (if tailMod f.t = 0 then rm else tailMod f.t % 4) (bit (fpctlOf t) 6) (readG s t f.a.toNat)
       issues (.fcvt f) s k t = true → fpCause (fpctlOf t) c.2 = none →
         Does (.fcvt f) s k t (floatDone s k t f.d.toNat 8 ⟨c.1.toNat, c.2⟩))) ∧
  (∀ (f : RForm) (s : State) (k : Nat) (t : Thread) (cause : Nat),
      let m := if f.q then fp32 else fp64
      let w := if f.q then 2 ^ 32 else 2 ^ 64
      let r := fpAdd m (bits (fpctlOf t) 0 2) ((readG s t f.a.toNat).toNat % w) ((opbReg s t f).toNat % w)
      issues (.fadd f) s k t = true → fpCause (fpctlOf t) r.flags = some cause →
        (cause = 0x1C ↔ bit (fpctlOf t) 2 = true ∧ r.flags &&& flagNV ≠ 0) ∧
        ∃ s1 u, exec (.fadd f) s = .next s1 ∧ thr s1 k = some u ∧ (∀ n, gprOf u n = gprOf t n) ∧
          getSpr u rFPFLAGS = getSpr t rFPFLAGS ||| r.flags.setWidth 64 ∧ s.clk + 8 ≤ u.earliest ∧
          (s.clk + 8, .trapEntry k cause 0 t.pc) ∈ s1.agenda ∧ (∀ j, j ≠ k → thr s1 j = thr s j) ∧ SameMemory s s1) ∧
  (∀ (s : State) (k cause : Nat) (info tpc : Word), cause ≠ 0x26 →
      exec (.trapEntry k cause info tpc) s = .next (takeTrap s k cause info tpc))

/-! Control flow (07). -/

/-- 07 R153 to R156, R160: branches, jumps, links and nop. -/
def Obligations.ControlTransfers : Prop :=
  ∀ (f : BForm) (j : JForm) (r : RForm) (z : ZForm) (s : State) (k : Nat) (t : Thread),
    let a := readG s t f.a.toNat
    let b := readG s t f.b.toNat
    let target := pcAdd t.pc (4 * offB f)
    let less := if tailMod f.t % 2 = 1 then a.ult b else a.slt b
    let branch (i : Instr) (taken : Bool) : Prop :=
      issues i s k t = true → if taken then Goes i s k t s target false else Does i s k t s
    let x := readG s t r.a.toNat
    let link (i : Instr) : Word := pcAdd t.pc (4 * wordsOf i)
    branch (.beq f) (a == b) ∧ branch (.bne f) (a != b) ∧ branch (.blt f) less ∧ branch (.bge f) (!less) ∧
    (issues (.jmp j) s k t = true → Goes (.jmp j) s k t s (pcAdd t.pc (4 * offJ j)) false) ∧
    (issues (.jal j) s k t = true →
      Goes (.jal j) s k t (putFixed s k 4 1 (link (.jal j))) (pcAdd t.pc (4 * offJ j)) false) ∧
    (issues (.jr r) s k t = true → x.toNat < 2 ^ 52 → Goes (.jr r) s k t s x false) ∧
    (issues (.jrLink r) s k t = true → x.toNat < 2 ^ 52 →
      Goes (.jrLink r) s k t (putFixed s k 4 r.d.toNat (link (.jrLink r))) x false) ∧
    (issues (.jr r) s k t = true → 2 ^ 52 ≤ x.toNat → Traps (.jr r) s s k 0x22 x t.pc) ∧
    (issues (.jrLink r) s k t = true → 2 ^ 52 ≤ x.toNat → Traps (.jrLink r) s s k 0x22 x t.pc) ∧
    (issues (.nop z) s k t = true → Does (.nop z) s k t s)

/-- 07 R157: loop pushes a level, or skips its body where the count is 0, or traps. 07 R158, R152: the end of a body: a count
above 1 is lowered and the body runs again from LOOPTOP, 4 clk later at the earliest; the last one clears the count and pops
the level. -/
def Obligations.HardwareLoops : Prop :=
  (∀ (f : MForm) (s : State) (k : Nat) (t : Thread), issues (.loop f) s k t = true →
      let c := readG s t f.a.toNat
      let top : Int := (t.pc.toNat : Int) + 4 * wordsOf (.loop f)
      let exit_ : Int := (t.pc.toNat : Int) + loopExit f
      let n := ldepthOf t
      (2 ^ 32 ≤ c.toNat → Traps (.loop f) s s k 0x0C c t.pc) ∧
      (c.toNat < 2 ^ 32 → exit_ ≤ top ∨ exit_ % 4 ≠ 0 → Traps (.loop f) s s k 0x0C (BitVec.ofInt 64 exit_) t.pc) ∧
      (c.toNat < 2 ^ 32 → top < exit_ → exit_ % 4 = 0 →
        (c = 0 → Goes (.loop f) s k t s (BitVec.ofInt 64 (exit_ % 2 ^ 52)) false) ∧
        (c ≠ 0 → 4 ≤ n → Traps (.loop f) s s k 0x0B c t.pc) ∧
        (c ≠ 0 → n < 4 → ∃ s1 u, Does (.loop f) s k t s1 ∧ thr s1 k = some u ∧ ldepthOf u = n + 1 ∧
          getSpr u (rLOOPCNT + n) = c ∧ getSpr u (rLOOPTOP + n) = BitVec.ofInt 64 (top % 2 ^ 52) ∧
          getSpr u (rLOOPEND + n) = BitVec.ofInt 64 ((exit_ - 4) % 2 ^ 52) ∧
          (∀ m, gprOf u m = gprOf t m) ∧ OnlyThread s s1 k))) ∧
  (∀ (s : State) (k : Nat) (t : Thread) (words n : Nat),
      let next := pcAdd t.pc (4 * words)
      thr s k = some t → ldepthOf t = n + 1 → n < 4 → next = pcAdd (getSpr t (rLOOPEND + n)) 4 →
      (1 < (getSpr t (rLOOPCNT + n)).toNat → ∃ u, thr (retire s k words false none) k = some u ∧
        u.pc = getSpr t (rLOOPTOP + n) ∧ getSpr u (rLOOPCNT + n) = getSpr t (rLOOPCNT + n) - 1 ∧ ldepthOf u = n + 1 ∧
        s.clk + 4 ≤ u.earliest ∧ ∀ m, gprOf u m = gprOf t m) ∧
      ((getSpr t (rLOOPCNT + n)).toNat ≤ 1 → n = 0 → ∃ u, thr (retire s k words false none) k = some u ∧
        u.pc = next ∧ getSpr u (rLOOPCNT + n) = 0 ∧ ldepthOf u = 0 ∧ ∀ m, gprOf u m = gprOf t m))

/-! Traps and returns (07, 18). -/

/-- 07 R162, R152: entering a handler writes TCAUSE, TPC and TINFO, sets TH, and goes on at TVEC; privilege and every register
that no result was due in stay as they are. 07 R163: a trap with TH set, or with TVEC 0, enters no handler: the thread ends as
one killed, and its registers stay. -/
def Obligations.TrapEntry : Prop :=
  (∀ (s : State) (k cause : Nat) (info tpc : Word) (t : Thread), thr s k = some t → thOf t = false → getSpr t rTVEC ≠ 0 →
      t.run ≠ .ending → t.run ≠ .parked → t.run ≠ .incoming →
      ∃ u, thr (takeTrap s k cause info tpc) k = some u ∧ getSpr u rTCAUSE = BitVec.ofNat 64 cause ∧ getSpr u rTPC = tpc ∧
        getSpr u rTINFO = info ∧ thOf u = true ∧ supOf u = supOf t ∧ uihOf u = uihOf t ∧ uienOf u = uienOf t ∧
        ldepthOf u = ldepthOf t ∧ u.pc.toNat = (getSpr t rTVEC).toNat % 2 ^ 52 ∧ u.run = .ready ∧ s.clk + 4 ≤ u.earliest ∧
        u.sb = [] ∧ u.flight = [] ∧ (t.sb = [] → ∀ n, gprOf u n = gprOf t n) ∧
        (∀ i, i ≠ rTCAUSE → i ≠ rTPC → i ≠ rTINFO → i ≠ rMODE → getSpr u i = getSpr t i) ∧
        u.tiles = t.tiles ∧ u.segs = t.segs ∧ OnlyThread s (takeTrap s k cause info tpc) k) ∧
  (∀ (s : State) (k cause : Nat) (info tpc : Word) (t : Thread), thr s k = some t → thOf t = true ∨ getSpr t rTVEC = 0 →
      t.host = false → t.run ≠ .ending → t.rival = 0 → t.trapOld = none →
      ∃ u, thr (takeTrap s k cause info tpc) k = some u ∧ u = { t with run := .ending, park := .none } ∧
        ∃ msg, (takeTrap s k cause info tpc).posts = s.posts ++ [msg] ∧ msg.part = some (partOf t) ∧
          fieldOf msg.msg 0 1 = cause % 256 ∧ fieldOf msg.msg 4 2 = coreOf k % 65536 ∧ fieldOf msg.msg 6 1 = ctxOf k)

/-- 07 R164: trap and brk raise causes 0x08 and 0x09 with TPC past the instruction and TINFO the sign-extended information. 07
R166, R169: eret and uiret clear their handler's bit and go on at TPC and UIPC; outside their handler they raise 0x0F. -/
def Obligations.SoftwareTrapsAndReturns : Prop :=
  (∀ (f : MForm) (s : State) (k : Nat) (t : Thread),
      (issues (.trap f) s k t = true → Traps (.trap f) s s k 0x08 (trapInfo f) (pcAdd t.pc (4 * wordsOf (.trap f)))) ∧
      (issues (.brk f) s k t = true → Traps (.brk f) s s k 0x09 (trapInfo f) (pcAdd t.pc (4 * wordsOf (.brk f)))) ∧
      (f.t = .none → trapInfo f = f.disp.signExtend 64)) ∧
  (∀ (z : ZForm) (s : State) (k : Nat) (t : Thread),
      (issues (.eret z) s k t = true → thOf t = true → ∃ u, thOf u = false ∧ uihOf u = uihOf t ∧ supOf u = supOf t ∧
        (∀ n, n < 124 → gprOf u n = gprOf t n) ∧ Goes (.eret z) s k t (setThr s k u) (getSpr t rTPC) true) ∧
      (issues (.eret z) s k t = true → thOf t = false → Traps (.eret z) s s k 0x0F 0 t.pc) ∧
      (issues (.uiret z) s k t = true → uihOf t = true → thOf t = false → ∃ u, uihOf u = false ∧ thOf u = thOf t ∧
        supOf u = supOf t ∧ Goes (.uiret z) s k t (setThr s k u) (getSpr t rUIPC) true) ∧
      (issues (.uiret z) s k t = true → uihOf t = false ∨ thOf t = true → Traps (.uiret z) s s k 0x0F 0 t.pc))

/-! Special registers (05, 07). -/

/-- 07 R170, 05 R123: mfs reads every listed register, in its order of checks: an unlisted index traps with 0x17, a privileged
register in user mode with 0x18, and FPFLAGS waits for floating work in flight. 05 R123, R124, R122; 20 R459: what the
registers that are views of other state read as. -/
def Obligations.SpecialReads : Prop :=
  (∀ (f : XForm) (s : State) (k : Nat) (t : Thread), issues (.mfs f) s k t = true →
      let i := f.index.toNat
      let listed := i ≤ 0x2B ∨ (0x80 ≤ i ∧ i ≤ 0x8D)
      (¬ listed → Traps (.mfs f) s s k 0x17 (BitVec.ofNat 64 i) t.pc) ∧
      (listed → 0x80 ≤ i → supOf t = false → Traps (.mfs f) s s k 0x18 (BitVec.ofNat 64 i) t.pc) ∧
      (listed → (i < 0x80 ∨ supOf t = true) →
        (i ≠ 0x22 → Does (.mfs f) s k t (putFixed s k 4 f.d.toNat (sprRead s k t i))) ∧
        (i = 0x22 → flagsDue s k t = false →
          Does (.mfs f) s k t (putScored s k (s.clk + 4) [(f.d.toNat, getSpr t rFPFLAGS)] [])))) ∧
  (∀ (s : State) (k : Nat) (t : Thread),
      sprRead s k t 0x00 = t.pc ∧ sprRead s k t 0x0F = BitVec.ofNat 64 t.uiq.length ∧
      (t.host = false → sprRead s k t 0x04 = BitVec.ofNat 64 (k / 64) ∧
        sprRead s k t 0x06 = BitVec.ofNat 64 (t.gbase / 8 + t.gsize / 8 * 256) ∧
        sprRead s k t 0x07 = BitVec.ofNat 64 (t.tbase + t.tcount * 256) ∧
        sprRead s k t 0x08 = getSpr t 0x08 ∧ sprRead s k t 0x2B = getSpr t 0x2B) ∧
      (t.host = true → sprRead s k t 0x04 = BitVec.ofNat 64 (0x80 + (k - 8192)) ∧
        ∀ i, i ∈ [0x01, 0x02, 0x03, 0x05, 0x06, 0x07, 0x1D, 0x1E, 0x1F, 0x23, 0x24, 0x25, 0x26, 0x27, 0x28, 0x2B] → sprRead s k t i = 0))

/-- 07 R170, 05 R123, R125: mts refuses unlisted, privileged, hardware-written and badly formed writes by name, and writes the
register otherwise; a write of a thread-scoped register is read back and touches nothing else of the thread. 05 R125: which
values MODE takes from mts: TH, SUP and UIH are not software's, LDEPTH is at most 4, the rest is zero. -/
def Obligations.SpecialWrites : Prop :=
  (∀ (f : XForm) (s : State) (k : Nat) (t : Thread), issues (.mts f) s k t = true →
      let i := f.index.toNat
      let v := readG s t f.a.toNat
      let listed := i ≤ 0x2B ∨ (0x80 ≤ i ∧ i ≤ 0x8D)
      (¬ listed → Traps (.mts f) s s k 0x17 (BitVec.ofNat 64 i) t.pc) ∧
      (listed → ((0x80 ≤ i ∧ supOf t = false) ∨ sprHw i = true ∨ sprRefuses s t i v = true) →
        Traps (.mts f) s s k 0x18 (BitVec.ofNat 64 i) t.pc) ∧
      (listed → (i < 0x80 ∨ supOf t = true) → sprHw i = false → sprRefuses s t i v = false → (i = 0x22 → flagsDue s k t = false) →
        Does (.mts f) s k t (sprWrite s k t i v) ∧
        (i < 0x80 → ∃ u, thr (sprWrite s k t i v) k = some u ∧ getSpr u i = v ∧ (∀ j, j ≠ i → getSpr u j = getSpr t j) ∧
          u = { t with spr := u.spr } ∧ OnlyThread s (sprWrite s k t i v) k))) ∧
  (∀ (s : State) (t : Thread) (v : Word), sprRefuses s t rMODE v = false ↔
      bits v 0 3 = bits (getSpr t rMODE) 0 3 ∧ bits v 4 3 ≤ 4 ∧ v.toNat < 256)

/-- The registers written by a step of their own: 15 R367, 11 R255, 19 R455, R457, 07 R172, 18 R421, R428, R431. -/
def Obligations.RegisterWriteSteps : Prop :=
  ∀ (s : State) (p : Nat) (v : Word), p < 16 →
    (∃ u, exec (.thermmodeWrite v) s = .next u ∧ thermmode u = v ∧
      (bit v 0 ≠ bit (thermmode s) 0 → ∀ q ∈ u.slots, bit q.2 15 = false)) ∧
    (∃ u, exec (.tracectlWrite v) s = .next u ∧
      (bit v 4 = true → ∀ n, u.traceUse.getD n 0 = u.traceSeq.getD n 0) ∧ (bit v 3 = true → bit (u.dspr.getD rTRACECTL 0) 3 = false)) ∧
    (∃ u, exec (.wdoglimWrite p v) s = .next u ∧ sprPart u p rWDOGLIM = v ∧ u.wdog.get? p = some s.clk) ∧
    (∃ u, exec (.perfselWrite p v) s = .next u ∧ perfSel u p (bits v 0 3) = setBits v 0 3 0 ∧
      sprPart u p rPERFSEL = BitVec.ofNat 64 (bits v 0 3) ∧ perfCount u p (bits v 0 3) = perfCount s p (bits v 0 3)) ∧
    (∃ u, exec (.auditWrite p v) s = .next u ∧ sprPart u p rAUDIT = v ∧ u.dspr = s.dspr ∧ u.threads = s.threads) ∧
    (∃ u, exec (.errinjWrite v) s = .next u ∧ u.dspr.get? rERRINJ = some v ∧ u.pspr = s.pspr ∧ u.threads = s.threads) ∧
    (∃ u, exec .errlogClear s = .next u ∧ (bits (s.dspr.getD rERRLOGSEL 0) 16 2 ≠ 3 → readErrlog u = 0) ∧
      ∀ key, key ≠ (errSel s).1 → u.errlog.getD key [] = s.errlog.getD key []) ∧
    (∃ u, exec (.eventRingReadAdvance p v) s = .next u ∧ ctlF u (ringCtl p) 10 8 = bits v 10 8 ∧
      (bit v 8 = true → ctlF u (ringCtl p) 8 1 = 0) ∧
      (bits v 10 8 ≠ ctlF s (ringCtl p) 10 8 → ctlF u (ringCtl p) 9 1 = 0) ∧
      (bits v 10 8 = ctlF s (ringCtl p) 10 8 → ctlF u (ringCtl p) 9 1 = ctlF s (ringCtl p) 9 1))

/-! Memory (05, 10, 12). -/

/-- 05 R116: what an address that ea grants satisfies: a valid segment, the rights, the limit for the last byte, the alignment
of a 2-, 4- or 8-byte access, and the sum of base and offset. 12 R271, 05 R116: a load or store whose address ea refuses traps
with ea's cause and the pointer, and does nothing. -/
def Obligations.AddressChecks : Prop :=
  (∀ (t : Thread) (p : Word) (n a : Nat) (need : Rights), 0 < n → ea t p n need = .ok a →
      let g := segOf t (p.toNat / 2 ^ 61)
      let o := p.toNat % 2 ^ 52
      p.toNat / 2 ^ 52 % 2 ^ 9 = 0 ∧ segValid g = true ∧ (need.r = true → segR g = true) ∧ (need.w = true → segW g = true) ∧
      (need.a = true → segA g = true) ∧ (need.f = true → segF g = true) ∧ (need.s = true → segS g = true) ∧
      (need.x = true → segX g = true ∧ p.toNat / 2 ^ 61 = 0) ∧ o + n ≤ segLimit g + 1 ∧
      (n ∈ [2, 4, 8] → o % n = 0) ∧ (segT g = false → a = segBase g + o)) ∧
  (∀ (f : MForm) (s : State) (k : Nat) (t : Thread) (c : Nat),
      let load (i : Instr) (n : Nat) : Prop :=
        issues i s k t = true → ea t (ptrM s t f n) n needR = .error c → Traps i s s k c (ptrM s t f n) t.pc
      let store (i : Instr) (n : Nat) : Prop :=
        issues i s k t = true → ea t (ptrM s t f n) n needW = .error c → Traps i s s k c (ptrM s t f n) t.pc
      load (.ld8 f) 1 ∧ load (.ld16 f) 2 ∧ load (.ld32 f) 4 ∧ load (.ld64 f) 8 ∧
      store (.st8 f) 1 ∧ store (.st16 f) 2 ∧ store (.st32 f) 4 ∧ store (.st64 f) 8)

/-- 12 R269, R271: the loads and stores: D takes the bytes read, little-endian, zero- or sign-extended; the low bytes of D go
to the bytes stored. 12 R271, 10 R215: a store to a scratchpad port writes exactly its bytes, at the location of its address:
every other byte of memory reads as before, in every view. 10 R231, R215: a store to the PIM in the root view writes exactly
its bytes. -/
def Obligations.LoadsAndStores : Prop :=
  (∀ (f : MForm) (s : State) (k : Nat) (t : Thread) (g : Got) (h : Put),
      let load (i : Instr) (n : Nat) : Prop :=
        issues i s k t = true → loadPtr s k t (ptrM s t f n) n needR = .ok g →
          Does i s k t (putScored g.s k (g.s.clk + g.lat)
            [(f.d.toNat, if f.q then (BitVec.ofNat (8 * n) (ofBytes g.bytes)).signExtend 64 else BitVec.ofNat 64 (ofBytes g.bytes))] [])
      let store (i : Instr) (n : Nat) : Prop :=
        issues i s k t = true → storePtr s k t (ptrM s t f n) (toBytes n (readG s t f.d.toNat).toNat) needW = .ok h →
          Does i s k t (noteStore h.s k h)
      load (.ld8 f) 1 ∧ load (.ld16 f) 2 ∧ load (.ld32 f) 4 ∧ load (.ld64 f) 8 ∧
      store (.st8 f) 1 ∧ store (.st16 f) 2 ∧ store (.st32 f) 4 ∧ store (.st64 f) 8) ∧
  (∀ (s : State) (k : Nat) (t : Thread) (ptr : Word) (bs : List Byte) (a c loc : Nat),
      0 < bs.length → a % 64 + bs.length ≤ 64 → ea t ptr bs.length needW = .ok a →
      place s t ptr 1 a bs.length = .ok (.scratch c loc) → s.crcBad = [] →
      ∃ g, storePtr s k t ptr bs needW = .ok g ∧ (∀ i b, bs[i]? = some b → rdMem g.s (loc + i) = b) ∧
        (∀ x, x < loc ∨ loc + bs.length ≤ x → rdMem g.s x = rdMem s x) ∧ g.s.vmem = s.vmem ∧ g.s.l1d = s.l1d ∧
        g.s.threads = s.threads) ∧
  (∀ (s : State) (k : Nat) (t : Thread) (ptr : Word) (bs : List Byte) (a loc : Nat),
      0 < bs.length → a % 64 + bs.length ≤ 64 → ea t ptr bs.length needW = .ok a → viewOf t = 0 →
      place s t ptr 1 a bs.length = .ok (.pim loc) → s.crcBad = [] →
      ∃ g, storePtr s k t ptr bs needW = .ok g ∧ (∀ i b, bs[i]? = some b → rdMem g.s (loc + i) = b) ∧
        (∀ x, x < loc ∨ loc + bs.length ≤ x → rdMem g.s x = rdMem s x) ∧ g.s.vmem = s.vmem ∧ g.s.l1d = s.l1d ∧
        g.s.threads = s.threads)

/-- Byte by byte, memory is what was last written: little-endian fields read back and touch nothing else, and the canonical
form stays. -/
def Obligations.MemoryReadAfterWrite : Prop :=
  ∀ (s : State) (a n v b m : Nat), Memory.wf s.mem = true →
    rdMemN (wrMemN s a n v) a n = v % 256 ^ n ∧ (b + m ≤ a ∨ a + n ≤ b → rdMemN (wrMemN s a n v) b m = rdMemN s b m) ∧
    Memory.wf (wrMemN s a n v).mem = true ∧ (rdMemN s a n = v % 256 ^ n → (wrMemN s a n v).mem = s.mem)

/-- 12 R277 to R280: what each atomic writes to its word and returns, where the word's port serves it. 12 R279: an atomic
reads and writes one scratchpad word: the old value is what the word held, the new one is what it then holds, and every other
byte is as before. -/
def Obligations.Atomics : Prop :=
  (∀ (f : RForm) (s : State) (k : Nat) (t : Thread) (a : Nat) (w : PortWord),
      let ptr := ptrR s t f
      let n := if tailMod f.t / 16 % 4 = 1 then 4 else 8
      let at_ (n : Nat) : Prop := ea t ptr n needAtomic = .ok a ∧ atomicWord s k t ptr a n = .ok w
      let m (n : Nat) : Nat := wordAt w (partOf t) n
      let b (n : Nat) : Nat := (opbReg s t f).toNat % 2 ^ (8 * n)
      let gives (i : Instr) (n v : Nat) : Prop :=
        issues i s k t = true → at_ n →
          Does i s k t (putScored (setWord w (partOf t) n v) k (s.clk + w.lat) [(f.d.toNat, BitVec.ofNat 64 (m n))] [])
      let less (x y : Nat) : Bool := if tailMod f.t % 2 = 1 then x < y else (BitVec.ofNat (8 * n) x).slt (BitVec.ofNat (8 * n) y)
      let fm := fmtFloat (amoFmt f)
      gives (.amoadd f) n ((m n + b n) % 2 ^ (8 * n)) ∧
      gives (.amobit f) n (if tailMod f.t % 4 = 0 then m n ||| b n else if tailMod f.t % 4 = 1 then m n &&& b n else m n ^^^ b n) ∧
      gives (.amomin f) n (if less (b n) (m n) then b n else m n) ∧ gives (.amomax f) n (if less (m n) (b n) then b n else m n) ∧
      gives (.amoswap f) n (b n) ∧
      gives (.cas f) n (if m n = (readG s t f.d.toNat).toNat % 2 ^ (8 * n) then b n else m n) ∧
      gives (.faddaU f) (fm.width / 8) (fpAdd fm (bits (fpctlOf t) 0 2) (m (fm.width / 8)) (b (fm.width / 8))).code ∧
      gives (.fmaxa f) (fm.width / 8) (fpMinMax fm (tailMod f.t % 2 == 0) (m (fm.width / 8)) (b (fm.width / 8))).code) ∧
  (∀ (s : State) (k : Nat) (t : Thread) (ptr : Word) (a n v c loc : Nat) (w : PortWord),
      place s t ptr 2 a n = .ok (.scratch c loc) → atomicWord s k t ptr a n = .ok w → s.badEcc = [] → v < 256 ^ n →
      wordAt w (partOf t) n = rdMemN s loc n ∧ rdMemN (setWord w (partOf t) n v) loc n = v ∧
      (∀ x, x < loc ∨ loc + n ≤ x → rdMem (setWord w (partOf t) n v) x = rdMem s x))

/-- 12 R273, R274, R294: acquire loads, release stores and fences, where nothing of them is refused: a load at cluster scope
or wider reads at the port, then acquires; a store releases first; the issuer goes on when both are over. 12 R275: cachectl of
no bytes does nothing; of a range that leaves its segment it traps; invalidating clean lines leaves every dirty byte of the range, and memory. That an acquire load sees
its own core's dirty bytes is the model's reading (Logs 12, 24). -/
def Obligations.AcquireRelease : Prop :=
  (∀ (f : MForm) (s : State) (k : Nat) (t : Thread) (a : Nat),
      let ptr := ptrM s t f 8
      let sc := tailMod f.t % 8
      let bs := toBytes 8 (readG s t f.d.toNat).toNat
      (∀ g, issues (.ldacq f) s k t = true → sc < 2 → loadPtr s k t ptr 8 needR = .ok g →
        Does (.ldacq f) s k t (putScored g.s k (g.s.clk + g.lat) [(f.d.toNat, BitVec.ofNat 64 (ofBytes g.bytes))] [])) ∧
      (∀ g, issues (.ldacq f) s k t = true → 2 ≤ sc → ea t ptr 8 needR = .ok a → portRead s k t ptr 0 a 8 = .ok g →
        Does (.ldacq f) s k t (holdUntil (putScored (acquireAt g.s k t sc).1 k ((acquireAt g.s k t sc).1.clk + g.lat)
          [(f.d.toNat, BitVec.ofNat 64 (ofBytes g.bytes))] []) k (s.clk + g.lat + (acquireAt g.s k t sc).2))) ∧
      (∀ s1 at_ g, issues (.strel f) s k t = true → ea t ptr 8 needW = .ok a → releaseAt s k t sc = .done s1 at_ →
        (sc < 2 → storeRange s1 k t ptr a bs = .ok g →
          Does (.strel f) s k t (holdUntil (noteStore g.s k { g with lat := g.lat + (at_ - s.clk) }) k at_)) ∧
        (2 ≤ sc → portWrite true s1 k t ptr a bs = .ok g →
          Does (.strel f) s k t (holdUntil (noteStore g.s k { g with lat := g.lat + (at_ - s.clk) }) k at_))) ∧
      (∀ s1 at_, issues (.fence f) s k t = true → releaseAt s k t (f.disp.toNat % 8) = .done s1 at_ →
        Does (.fence f) s k t (holdUntil (acquireAt s1 k t (f.disp.toNat % 8)).1 k (at_ + (acquireAt s1 k t (f.disp.toNat % 8)).2)))) ∧
  (∀ (f : RForm) (s : State) (k : Nat) (t : Thread) (a l : Nat), issues (.cachectl f) s k t = true →
      let p := readG s t f.a.toNat
      let b := opbReg s t f
      (b = 0 → Does (.cachectl f) s k t s) ∧
      let within : Prop := p.toNat % 2 ^ 52 + b.toNat < 2 ^ 61 ∧ (p + b - 1).toNat / 2 ^ 61 = p.toNat / 2 ^ 61
      (b ≠ 0 → ea t p 1 needR = .ok a → ea t (p + b - 1) 1 needR = .ok l → ¬ within →
        Traps (.cachectl f) s s k 0x20 (p + b - 1) t.pc) ∧
      (b ≠ 0 → within → tailMod f.t = 1 → ea t p 1 needR = .ok a → ea t (p + b - 1) 1 needR = .ok l →
        ∃ s1, Does (.cachectl f) s k t s1 ∧ SameMemory { s with l1d := s1.l1d } s1 ∧ ∀ q ∈ s.l1d, q.2.dirty = true → q ∈ s1.l1d) ∧
      (b ≠ 0 → within → isHostKey k = true → ea t p 1 needR = .ok a → ea t (p + b - 1) 1 needR = .ok l →
        ∃ s1, Does (.cachectl f) s k t s1 ∧ s1 = { s with l1i := s1.l1i } ∧ (tailMod f.t ≠ 3 → s1 = s)))

/-- 11 R259, R250, 12 R276: ldfe takes a full word and empties it, stfe fills an empty one once its release actions are over,
until when it waits, fechk looks; a word in the other state
makes the first two wait, under cause 0x33. 11 R259, R263: emptying and filling a word of the root view: the tag and the eight
bytes change, and no other word's. -/
def Obligations.FullEmptyWords : Prop :=
  (∀ (f : MForm) (s : State) (k : Nat) (t : Thread) (w : PortWord),
      let p := partOf t
      let ptr := ptrM s t f 8
      let took := feTake w.s p w.view w.loc
      let acquired := acquireAt took.1 k t 3
      (issues (.ldfe f) s k t = true → feWord s k t ptr needFe = .ok w → tagOf w.s p w.view w.loc = true →
        Does (.ldfe f) s k t (serveFeAll (holdUntil (putScored acquired.1 k (acquired.1.clk + w.lat) [(f.d.toNat, took.2)] []) k
          (if t.host then s.clk else s.clk + w.lat + acquired.2)) w.loc)) ∧
      (∀ a s1 at_, issues (.stfe f) s k t = true → ea t ptr 8 needFe = .ok a →
        (if (waitMark t).any (fun w => w.kind == .release) then s1 = s ∧ at_ = s.clk else releaseAt s k t 3 = .done s1 at_) →
        (s.clk < at_ → exec (.stfe f) s = .next (tick (enterWait s1 k (wordsOf (.stfe f)) { kind := .release, key := at_ }))) ∧
        (at_ ≤ s.clk → feWord s1 k t ptr needFe = .ok w → tagOf w.s p w.view w.loc = false →
          let g : Put := ⟨feFill w.s p w.view w.loc (readG s t f.d.toNat), w.lat, false⟩
          Does (.stfe f) s k t (serveFeAll (noteStore g.s k g) w.loc))) ∧
      (issues (.fechk f) s k t = true → feWord s k t ptr needFeRead = .ok w →
        Does (.fechk f) s k t (putScored w.s k (s.clk + w.lat)
          [(f.d.toNat, if tagOf w.s p w.view w.loc then 1 else 0), ((tailC f.t).toNat, BitVec.ofNat 64 (wordAt w p 8))] [])) ∧
      (issues (.ldfe f) s k t = true → feWord s k t ptr needFe = .ok w → tagOf w.s p w.view w.loc = false →
        ∃ r, r.kind = .feLoad ∧ r.cause = 0x33 ∧ exec (.ldfe f) s = .next (tick (enterWait w.s k (wordsOf (.ldfe f)) r)))) ∧
  (∀ (s : State) (p loc : Nat) (x : Word),
      tagOf (feTake s p 0 loc).1 p 0 loc = false ∧ (feTake s p 0 loc).2 = BitVec.ofNat 64 (rdMemN s loc 8) ∧
      (feTake s p 0 loc).1.mem = s.mem ∧ tagOf (feFill s p 0 loc x) p 0 loc = true ∧ rdMemN (feFill s p 0 loc x) loc 8 = x.toNat ∧
      (∀ l, l / 8 ≠ loc / 8 → tagOf (feTake s p 0 loc).1 p 0 l = tagOf s p 0 l ∧ tagOf (feFill s p 0 loc x) p 0 l = tagOf s p 0 l) ∧
      (∀ a, a < loc ∨ loc + 8 ≤ a → rdMem (feFill s p 0 loc x) a = rdMem s a))

/-- 11 R252, 12 R281, R282: acquiring and releasing a sync object: granted at once where its holders allow it and nobody
waits; released, it is held by the others, and a thread that does not hold it traps with 0x3B. 11 R265, R266, 12 R280: an
ordered update waits at its MSU and changes no memory; while ORDLOG's EN is 0 it fails its object; updates of a failed object
are discarded. Which object fails while EN is 0 is the model's reading (Log 43). -/
def Obligations.SyncObjects : Prop :=
  (∀ (f : RForm) (s s1 : State) (k : Nat) (t : Thread) (w : PortWord) (at_ : Nat) (failed : Bool),
      let ptr := ptrR s t f
      let free (shared : Bool) : Prop :=
        objectWord s k t ptr = .ok w ∧ (boundRanges w.s (partOf t) w.loc).isEmpty = false ∧ t.held.get? w.loc = none ∧
        t.held.length < 8 ∧ grantable w.s.clk (objOf w.s w.loc) shared = true ∧ objWaiters w.s w.loc = [] ∧
        grantObject w.s k w.loc shared = .done s1 at_
      (issues (.acq f) s k t = true → free false → Does (.acq f) s k t (holdUntil s1 k (at_ + w.lat))) ∧
      (issues (.acqSh f) s k t = true → free true → Does (.acqSh f) s k t (holdUntil s1 k (at_ + w.lat))) ∧
      (issues (.rel f) s k t = true → objectWord s k t ptr = .ok w → t.held.get? w.loc ≠ none →
        (boundRanges w.s (partOf t) w.loc).isEmpty = false → releaseObject w.s k t w.loc = (.done s1 at_, failed) →
        (failed = false → Does (.rel f) s k t (holdUntil s1 k (at_ + w.lat))) ∧
        (failed = true → Traps (.rel f) s (holdUntil s1 k (at_ + w.lat)) k 0x3C (BitVec.ofNat 64 w.va)
          (pcAdd t.pc (4 * wordsOf (.rel f)))) ∧ k ∉ (objOf s1 w.loc).holders) ∧
      (issues (.rel f) s k t = true → objectWord s k t ptr = .ok w → t.held.get? w.loc = none → Traps (.rel f) s s k 0x3B ptr t.pc) ∧
      (∀ p obj j q rest, objWaiters s obj = (j, q) :: rest → grantable s.clk (objOf s obj) (q.arg == 1) = true →
        grantObject s j obj (q.arg == 1) = .done s1 at_ →
        exec (.acqGrant p obj) s = .next (grantWaiters s.threads.length (finishWait s1 j [] at_ at_) p obj))) ∧
  (∀ (s : State) (u : Ordered),
      ((objOf s u.object).failed = true → addUpdate s u = s) ∧
      ((objOf s u.object).failed = false → bit (sprPart s u.part rORDLOG) 52 = false →
        (objOf (addUpdate s u) u.object).failed = true ∧ (u ∉ s.updates → u ∉ (addUpdate s u).updates)) ∧
      ((objOf s u.object).failed = false → bit (sprPart s u.part rORDLOG) 52 = true →
        (buffered s u.part (sliceOf u.addr)).length < 16 → addUpdate s u = { s with updates := s.updates ++ [u] }) ∧
      (∀ (f : RForm) (k : Nat) (t : Thread) (a : Nat) (w : PortWord) (s1 : State), issues (.faddaO f) s k t = true →
        ea t (ptrR s t f) (updateBytes (amoFmt f)) needAtomic = .ok a →
        (∀ c loc, place s t (ptrR s t f) 2 a (updateBytes (amoFmt f)) ≠ .ok (.scratch c loc)) →
        atomicWord s k t (ptrR s t f) a (updateBytes (amoFmt f)) = .ok w →
        orderedAt w.s k t a (amoFmt f) w.loc (BitVec.ofNat 64 ((opbReg s t f).toNat % 2 ^ (8 * updateBytes (amoFmt f)))) w.view = .ok s1 →
        Does (.faddaO f) s k t (noteStore s1 k ⟨s1, w.lat, false⟩)))

/-- 12 R283, R284: a block operation of no bytes completes and leaves its registers; one whose registers coincide is refused;
one of a single chunk does that chunk and leaves its registers at the end of it. The chunks are the model's (Log 55). -/
def Obligations.BlockOperations : Prop :=
  ∀ (f : RForm) (s : State) (k : Nat) (t : Thread),
    let d := readG s t f.d.toNat
    let a := readG s t f.a.toNat
    let n := (readG s t f.b.toNat).toNat
    let regs (i : Instr) (q : Block) (mv : Bool) (s1 : State) (lat : Nat) : Prop :=
      Does i s k t (putScored s1 k (s1.clk + lat) (blockRegs f mv q) [])
    (issues (.bmove f) s k t = true → f.d = f.a → ∃ info, Traps (.bmove f) s s k 0x07 info t.pc) ∧
    (issues (.bmove f) s k t = true → f.d ≠ f.a → f.d ≠ f.b → f.a ≠ f.b → n = 0 → regs (.bmove f) ⟨d, a, 0⟩ true s 0) ∧
    (issues (.bfill f) s k t = true → n = 0 → regs (.bfill f) ⟨d, 0, 0⟩ false s 0) ∧
    (∀ s1 lat, issues (.bfill f) s k t = true → n ≠ 0 → blockChunk s k t f false false a ⟨d, 0, n⟩ = .ok (s1, ⟨d + BitVec.ofNat 64 n, 0, 0⟩, lat) →
      regs (.bfill f) ⟨d + BitVec.ofNat 64 n, 0, 0⟩ false s1 lat) ∧
    (∀ s1 lat, issues (.bmove f) s k t = true → f.d ≠ f.a → f.d ≠ f.b → f.a ≠ f.b → n ≠ 0 →
      (match ea t d 1 needW, ea t a 1 needR with
        | .ok x, .ok y => ¬ (y < x ∧ x < y + n)
        | _, _ => True) →
      blockChunk s k t f true false 0 ⟨d, a, n⟩ = .ok (s1, ⟨d + BitVec.ofNat 64 n, a + BitVec.ofNat 64 n, 0⟩, lat) →
      regs (.bmove f) ⟨d + BitVec.ofNat 64 n, a + BitVec.ofNat 64 n, 0⟩ true s1 lat)

/-! Waits, interrupts and errors (02, 05, 07, 10, 11, 16, 18, 20). -/

/-- 02 R35, R56; 05 R127; 07 R167, R168; 16 R401; 18 R426: a result arrives, a wait limit expires, a trap is entered, a
completion is delivered, a redundant pair's wait ends in a rollback. 07 R167, 05 R127: on a device thread too, a delivery
saves the next PC, enters the handler at UIVEC with h0 and h1, and acquires at device scope. What a redundant pair's wait ends
in is the model's reading (Log 39). -/
def Obligations.ThreadEvents : Prop :=
  (∀ (s : State) (k : Nat) (t : Thread), thr s k = some t →
      (∀ id r v tiles due, findPending t id = some ⟨id, due, [(r, v)], tiles⟩ → 0 < r → r < 128 →
        ∃ u w, exec (.scoreboardResultArrival k id) s = .next u ∧ thr u k = some w ∧ w.gpr.getD r 0 = v ∧
          (∀ q, q ≠ r → w.gpr.getD q 0 = t.gpr.getD q 0) ∧ (∀ p ∈ w.sb, p.id ≠ id) ∧
          (s.badEcc = [] → bit (s.dspr.getD rERRINJ 0) 12 = false → OnlyThread s u k)) ∧
      (∀ w d, waitOf t = some w → w.deadline = some d → d ≤ s.clk → waitDone s k t w = false → w.kind ≠ .redundant →
        ∃ u v cause, exec (.waitLimitExpiry k) s = .next u ∧ thr u k = some v ∧ v.run = .ready ∧
          v.trapDue = some (cause, w.info) ∧ (w.kind ≠ .result → w.kind ≠ .unit → cause = w.cause) ∧ v.pc = t.pc ∧ v.gpr = t.gpr ∧
          (∀ j, j ≠ k → thr u j = thr s j)) ∧
      (∀ w, waitOf t = some w → (w.deadline = none ∨ ∃ d, w.deadline = some d ∧ s.clk < d) → exec (.waitLimitExpiry k) s = .next s) ∧
      (∀ key, t.node = some key → exec (.loadValueQueueStuck k) s = .next (rollback s key 0x71 (nodeAddr t))) ∧
      (∀ cause info tpc, cause ≠ 0x26 → exec (.trapEntry k cause info tpc) s = .next (takeTrap s k cause info tpc)) ∧
      (∀ h0 h1 rest, t.uiq = (h0, h1) :: rest → uienOf t = true → thOf t = false → uihOf t = false → t.host = true →
        (t.uiAt ≠ s.clk ∨ t.uiNew < t.uiq.length) →
        (getSpr t rUIVEC ≠ 0 → ∃ u w, exec (.uiDelivery k) s = .next u ∧ thr u k = some w ∧ w.uiq = rest ∧ uihOf w = true ∧
          getSpr w rUIPC = t.pc ∧ w.pc.toNat = (getSpr t rUIVEC).toNat % 2 ^ 52 ∧ w.shadow.getD 0 0 = h0 ∧ w.shadow.getD 1 0 = h1 ∧
          w.gpr = t.gpr ∧ s.clk + 4 ≤ w.earliest) ∧
        (getSpr t rUIVEC = 0 → exec (.uiDelivery k) s = .next (raise (setThr s k { t with uiq := rest }) k 0x5E h0 t.pc)))) ∧
  (∀ (s : State) (k : Nat) (t : Thread) (h0 h1 : Word) (rest : List (Word × Word)), thr s k = some t →
      t.uiq = (h0, h1) :: rest → uienOf t = true → thOf t = false → uihOf t = false → getSpr t rUIVEC ≠ 0 → t.host = false →
      (t.uiAt ≠ s.clk ∨ t.uiNew < t.uiq.length) →
      ∃ u w, exec (.uiDelivery k) s = .next u ∧ thr u k = some w ∧ w.uiq = rest ∧ uihOf w = true ∧ uienOf w = true ∧
        getSpr w rUIPC = t.pc ∧ w.pc.toNat = (getSpr t rUIVEC).toNat % 2 ^ 52 ∧ gprOf w 124 = h0 ∧ gprOf w 125 = h1 ∧
        (∀ n, n < 124 → gprOf w n = gprOf t n) ∧ s.clk + 8 ≤ w.earliest ∧ u.acqAt.get? (coreOf k) = some s.clk ∧
        (∀ q ∈ u.l1d, l1Core q.1 = coreOf k → q.2.dirty = true))

/-- 10 R228, R229, 11 R257, 18 R430, 20 R474, R479: errors found outside a demand access, failing units, the trip. 18 R430:
the machine fate counts, records CODE, UNIT and instance, CLK and STAMP, and takes the unit offline. 20 R479: a tripped device
stands still. SRC of units and what offline units change are the model's reading (Log 53). -/
def Obligations.ErrorEvents : Prop :=
  (∀ (s : State),
      (∀ n s1, n * 32 < dramTop → findEcc s 8 (channelOf (n * 32)) n = some (s1, true) →
        ∃ u, exec (.patrolScrub n) s = .next u ∧ u.poison.get? (sectorKey 0 0 (n * 32)) = some true ∧ u.mem = s.mem) ∧
      (∀ n, n * 32 < dramTop → findEcc s 8 (channelOf (n * 32)) n = none → exec (.patrolScrub n) s = .next s) ∧
      (∀ core view line p loc s1 n, partOfCore s core = some p → view < 1024 → lineOf line.toNat < 2 ^ 52 →
        let key := l1Key core p view (lineOf line.toNat)
        let dirty (i : Nat) : Prop := i < 64 ∧ ((s.l1d.get? (key + i)).map (fun b => b.dirty)) = some true
        translateAny s (clusterOf core) p (lineOf line.toNat) = some loc →
        wbBad s key 0 (((dirtyBytes s key).map (fun i => lineOf line.toNat / 32 + i / 32)).eraseDups) = (.go s1, n) →
        (∃ i, dirty i) →
        ∃ u, exec (.dirtyLineUnowned core view line) s = .next u ∧
          ∀ j, j < 2 → (∃ i, i / 32 = j ∧ dirty i) → u.poison.get? (sectorKey p view (loc + 32 * j)) = some true) ∧
      (∀ slice key b n, s.heldWbs = [key] → wbSlice s key = slice → wbLine s key 0 = (.go b, n) →
        exec (.traceConflictLog slice) s = .next { b with heldWbs := b.heldWbs.filter (fun x => x != key) }) ∧
      (∀ cause unit inst, exec (.machineCheck cause unit inst) s = .next (machineFate s cause unit inst)) ∧
      (∀ channel, exec (.dramChannelFailure channel) s = .next (machineFate s 0x7D 1 channel)) ∧
      (∀ half, half < 288 → ∃ u, exec (.slabHardFault half) s = .next u ∧
        ∀ k t, thr s k = some t → t.host = false → coreOf k < 128 → coreUsesHalf s (coreOf k) half = true → t.rival = 0 →
          ∃ v, thr u k = some v ∧ v.run = .ending) ∧
      (∃ u, exec .thermalTrip s = .next u ∧ u.tripped = true ∧ u.faultLow = true ∧ u.threads = [] ∧ u.mem = [] ∧ u.agenda = [] ∧
        u.flash = s.flash ∧ u.rollback = s.rollback ∧ bit (rdCtl u (bootBlock + 0x28)) 2 = true)) ∧
  (∀ (s : State) (cause unit inst : Nat), (∀ q ∈ s.threads, ∀ w, waitOf q.2 = some w → waitsOnUnit unit inst w = false) →
      thr s 8192 = none →
      let u := machineFate s cause unit inst
      rdCtl u machineBase = rdCtl s machineBase + 1 ∧ rdCtl u (machineBase + 8) = BitVec.ofNat 64 (cause + unit * 256 + inst * 65536) ∧
      rdCtl u (machineBase + 0x10) = BitVec.ofNat 64 s.clk ∧ u.offline.get? (unit * 65536 + inst) = some true ∧
      u.threads = s.threads ∧ u.mem = s.mem) ∧
  (∀ s : State, s.tripped = true → step s = .next s)

/-! The cycle domain and the testa link (19, 20). -/

/-- 19 R433 to R435, 17 R411, R416: a tick takes the stamp of its due time, publishes the input image after the latch writes
of the closing cycle, and places the next tick one period later. 02 R51, 19 R435, 17 R417: what hangs on a tick: an
unpublished output image is reported with 0x60, a missed deadline once with 0x6F, a stored gate list control waits, and its
entries set the gates in turn. The order of what hangs on a tick within its clk is the model's choice (Log 10). -/
def Obligations.BoundaryTick : Prop :=
  (∀ (s : State), s.cycOn = true → roleOf s ≠ 2 → linkEn s = false → s.roleDue = 0 →
      ∃ u, exec .boundaryTick s = .next u ∧ nowStamp u = stampOf s s.cycDue ∧ u.cycTick = true ∧
        u.cycDue = s.cycDue + cyclePeriod s ∧ twinSel u 0 0 % 2 ≠ twinSel s 0 0 % 2) ∧
  (∀ (s : State),
      (∀ c, pubCount s 0 1 = c → ∃ u m, exec (.egressCheck c) s = .next u ∧ u.posts = s.posts ++ [m] ∧ m.part = some 0 ∧ fieldOf m.msg 0 1 = 0x60) ∧
      (∀ c, pubCount s 0 1 ≠ c → exec (.egressCheck c) s = .next s) ∧
      (∀ key n, s.nodes.get? key = some n → n.missed = false → ∃ u m x, exec (.jobDeadlineMiss key) s = .next u ∧
        u.posts = s.posts ++ [m] ∧ fieldOf m.msg 0 1 = 0x6F ∧ u.nodes.get? key = some x ∧ x.missed = true) ∧
      (∀ key n, s.nodes.get? key = some n → n.missed = true → exec (.jobDeadlineMiss key) s = .next s) ∧
      (∀ port v, ∃ u, exec (.gateListControlStore port v) s = .next u ∧ ctlF u (gateBlock port) 22 1 = 1 ∧
        u.gateOn = s.gateOn ∧ ctlF u (gateBlock port) 0 21 = bits v 0 21) ∧
      (∀ port j, bit (gateOper s port) 21 = true → liveEntry s port (gateOper s port) (s.gateAt.getD port 0) = some j →
        s.frames = [] → ∃ u, exec (.gateListEntry port) s = .next u ∧
          gatesNow u port = bits (gateEntry s port (bits (gateOper s port) 0 10 + j)) 0 8 ∧ u.gateAt.get? port = some (j + 1) ∧
          ∀ i, liveEntry s port (gateOper s port) (j + 1) = some i →
            (clkAtUnits s (s.gateTick + ((s.gateNs.getD port 0 + bits (gateEntry s port (bits (gateOper s port) 0 10 + j)) 32 32 : Nat) : Int) * nsUnit),
              .gateListEntry port) ∈ u.agenda))

/-- 20 R470 to R473: records are taken in sequence and acknowledged, a gap is reported with 0x6C, a change of lanes with 0x6A;
heartbeats are remembered and missed ones counted, and a standby that misses two takes over. The fields' layout and the count
of misses are the model's reading (Logs 25, 29, 54). -/
def Obligations.TestaLink : Prop :=
  ∀ (s : State), linkEn s = true →
    (∀ r, fieldOf r 0 4 = (rxSeq s + 1) % 2 ^ 32 → ∃ u, exec (.replicationRecordReceive r) s = .next u ∧
      rxSeq u = fieldOf r 0 4 ∧ u.acks = s.acks ++ [(fieldOf r 0 4, none)]) ∧
    (∀ r, 1 < seqDiff (fieldOf r 0 4) (rxSeq s) → seqDiff (fieldOf r 0 4) (rxSeq s) < 2 ^ 31 →
      ∃ u m, exec (.replicationRecordReceive r) s = .next u ∧ rxSeq u = rxSeq s ∧ u.staging = s.staging ∧
        u.posts = s.posts ++ [m] ∧ fieldOf m.msg 0 1 = 0x6C) ∧
    (∀ a, seqDiff (a % 2 ^ 32) (ackSeq s) < 2 ^ 31 → ∃ u, exec (.replicationAck a none) s = .next u ∧ ackSeq u = a % 2 ^ 32 ∧
      u.sentRecs = s.sentRecs) ∧
    (∀ e stamp off, s.sending.get? e = some (stamp, off) → linkLanes s ≠ 0 → off < (twinBases s 0 e).2.2 →
      ∃ u r, exec (.replicationSend e) s = .next u ∧ txSeq u = (txSeq s + 1) % 2 ^ 32 ∧ u.sentRecs = s.sentRecs ++ [(txSeq u, r)] ∧
        fieldOf r 0xC 4 = off % 2 ^ 32 ∧ fieldOf r 0x10 2 = min 4096 ((twinBases s 0 e).2.2 - off)) ∧
    (∀ l, ctlF s testaBase 4 4 ≠ 15 - l % 16 → s.sending = [] → ∃ u m, exec (.laneLoss l) s = .next u ∧
      ctlF u testaBase 4 4 = 15 - l % 16 ∧ u.posts = s.posts ++ [m] ∧ fieldOf m.msg 0 1 = 0x6A ∧ fieldOf m.msg 8 8 = l % 16) ∧
    (∀ stamp role promo rx serial, ∃ u, exec (.heartbeatReceive stamp role promo rx serial) s = .next u ∧
      u.lastBeat = some (bits stamp 0 48) ∧ u.dspr = s.dspr ∧
      (roleOf s = 1 → role = 1 → bits promo 0 48 < promoOf s → u.roleDue = 2)) ∧
    (∀ stamp, s.missed = 0 → ∃ u, exec (.heartbeatMissed stamp) s = .next u ∧ u.missed = 1 ∧ roleOf u = roleOf s) ∧
    (∀ stamp, s.missed = 1 → roleOf s = 2 → ∃ u m, exec (.heartbeatMissed stamp) s = .next u ∧ roleOf u = 1 ∧
      promoOf u = bits stamp 0 48 ∧ u.posts = s.posts ++ [m] ∧ fieldOf m.msg 0 1 = 0x6B ∧ ∀ c ∈ u.staging, c.whole = true)

/-! Ethernet ports (17, 20). -/

/-- 20 R461 to R467, 17 R416: frames of a bad length or FCS are dropped and counted, frames no filter matches go to the
receive ring; a link change is recorded; a frame that may start is sent; an egress entry queues a frame of the output image,
or posts 0x6D. What the rules take from the network's standards is the model's (Log 28). -/
def Obligations.EthernetPorts : Prop :=
  ∀ (s : State) (port : Nat), port < 8 → portEn s port = true →
    (∀ fr ts, (fr.length < 64 ∨ 9022 < fr.length ∨ (portJumbo s port = false ∧ 1522 < fr.length) ∨ fcsGood fr = false) →
      ∃ u, exec (.frameReceived port fr ts) s = .next u ∧ rdCtl u (portBase port + 0x38) = rdCtl s (portBase port + 0x38) + 1 ∧
        u.mem = s.mem) ∧
    (∀ fr ts, 64 ≤ fr.length → fr.length ≤ 1522 → fcsGood fr = true → rxParse fr = none →
      exec (.frameReceived port fr ts) s = .next (rxDeliver (countUp s (portBase port + 0x30)) port fr 0xFFFF ts)) ∧
    (∀ up, ∃ u, exec (.linkChange port up) s = .next u ∧ ctlF u (portBase port) 4 1 = (if up then 1 else 0) ∧ u.mem = s.mem) ∧
    (∀ f, portUp s port = true → s.sendAt.getD port 0 ≤ s.clk → pickFrame s port = some f → f.desc = none → f.port = port →
      s.frames = [f] → roleOf s ≠ 2 → ∃ u x, exec (.txFrameSend port) s = .next u ∧ u.sent = s.sent ++ [x] ∧
        x.bytes = withFcs f.bytes ∧ u.frames = []) ∧
    (∀ e, bit (rdCtl s (egressBase port + 32 * e)) 63 = true →
      4 * 2 ^ 20 < ctlF s (egressBase port + 32 * e + 0x18) 0 32 + ctlF s (egressBase port + 32 * e + 0x18) 32 16 →
      ∃ u m, exec (.egressFrameBuild port e) s = .next u ∧ u.frames = s.frames ∧ u.posts = s.posts ++ [m] ∧ fieldOf m.msg 0 1 = 0x6D) ∧
    (∀ e, bit (rdCtl s (egressBase port + 32 * e)) 63 = true →
      ctlF s (egressBase port + 32 * e + 0x18) 0 32 + ctlF s (egressBase port + 32 * e + 0x18) 32 16 ≤ 4 * 2 ^ 20 →
      nextEntryDue s port = none → tickDue s = none → gatesNow s port = 255 → s.frames = [] →
      ∃ u fr, exec (.egressFrameBuild port e) s = .next u ∧ u.frames = [fr] ∧ fr.port = port ∧
        fr.bytes.length = 18 + ctlF s (egressBase port + 32 * e + 0x18) 32 16)

/-! Tiles (05, 08). -/

/-- 08 R188, 04 R90, R95: vadd, vsub, vmul, vmin, vmax and vfma on every enabled element, integer formats modulo their width
or clamped, floating ones with one rounding; a disabled element keeps its value. 04 R96, 08 R178: an enabled exception of an
element traps a tile instruction: it writes no tile, and the flags stand. -/
def Obligations.VectorArithmetic : Prop :=
  (∀ (f : RForm) (s : State) (k : Nat) (t : Thread), straight t = true → fpTrapsOn (fpctlOf t) = false →
      let d := f.d.toNat
      let x := tileOf t d
      let a := tileOf t f.a.toNat
      let b (n : Nat) : Nat := elemB s t f (tileFmt a) n
      let g := tileFmt x
      let sat := tailMod f.t % 2 == 1
      let on (n : Nat) : Prop := n < elemCount (gangWidth t) x ∧ enabledAt t f n = true
      let z (v : Int) : Nat := intCode g (if sat then max (intLo g) (min (intHi g) v) else v)
      let lat := tileLat 8 ([x, a] ++ (if f.q then [] else [tileOf t f.b.toNat]))
      let gives (i : Instr) (checks : List (Bool × Nat × Word)) (v : Nat → Nat) : Prop :=
        issues i s k t = true → firstBad checks = none → ∀ w : Nat → Nat, (∀ n, on n → w n = v n) → (∀ n, ¬ on n → w n = elemAt x n) →
          TileResult i s k t d lat w
      let both (i : Instr) (sats : List (Bool × Nat × Word)) (iop : Nat → Nat) (fop : FpFmt → Nat → Nat → Nat → FpRes) : Prop :=
        gives i (agreeChecks t f arithFmt ++ sats) (fun n =>
          if isIntFmt g then iop n else (flushed (fpctlOf t) g fop (elemAt a n) (b n)).code)
      both (.vadd f) (satBad (.vadd f) t f) (fun n => z (intVal g (elemAt a n) + intVal g (b n))) fpAdd ∧
      both (.vsub f) (satBad (.vsub f) t f) (fun n => z (intVal g (elemAt a n) - intVal g (b n))) fpSub ∧
      both (.vmul f) (satBad (.vmul f) t f) (fun n => z (intVal g (elemAt a n) * intVal g (b n))) fpMul ∧
      both (.vmin f) [] (fun n => intCode g (min (intVal g (elemAt a n)) (intVal g (b n)))) (fun m _ p q => fpMinMax m false p q) ∧
      both (.vmax f) [] (fun n => intCode g (max (intVal g (elemAt a n)) (intVal g (b n)))) (fun m _ p q => fpMinMax m true p q) ∧
      gives (.vfma f) (agreeChecks t f isFloatFmt) (fun n =>
        (flushed (fpctlOf t) g (fun m rm p q => fpFma m rm p q (flushIn m (ctlFtz (fpctlOf t)) (elemAt x n))) (elemAt a n) (b n)).code)) ∧
  (∀ (f : RForm) (s : State) (k : Nat) (t : Thread) (cause : Nat), issues (.vadd f) s k t = true →
      (∀ info, firstBad (agreeChecks t f arithFmt ++ satBad (.vadd f) t f) = some (cause, info) → Traps (.vadd f) s s k cause info t.pc) ∧
      (let x := tileOf t f.d.toNat
       let a := tileOf t f.a.toNat
       let fl (n : Nat) : FpFlags := (flushed (fpctlOf t) (tileFmt x) fpAdd (elemAt a n) (elemB s t f (tileFmt a) n)).flags
       let all := (enabledElems t f x).foldl (fun m n => m ||| fl n) 0
       firstBad (agreeChecks t f arithFmt ++ satBad (.vadd f) t f) = none → isIntFmt (tileFmt x) = false → fpCause (fpctlOf t) all = some cause →
         ∃ s1 u info, Traps (.vadd f) s s1 k cause info t.pc ∧ thr s1 k = some u ∧ u.tiles = t.tiles ∧
           getSpr u rFPFLAGS = getSpr t rFPFLAGS ||| all.setWidth 64))

/-- 08 R189 to R193: bit operations, shifts, comparisons into a mask, selection by a mask, conversions, and 08 R188, 09 R198:
the reciprocal, reciprocal square root and power of two, on every enabled element. FTZ in vcvt into FP8 follows R193
(Log 38). -/
def Obligations.VectorElementwise : Prop :=
  ∀ (f : RForm) (s : State) (k : Nat) (t : Thread), straight t = true → fpTrapsOn (fpctlOf t) = false →
    let d := f.d.toNat
    let x := tileOf t d
    let a := tileOf t f.a.toNat
    let b (n : Nat) : Nat := elemB s t f (tileFmt a) n
    let c := (tailC f.t).toNat
    let g := tileFmt x
    let w := if g = 12 then 1 else elemBits g
    let on (n : Nat) : Prop := n < elemCount (gangWidth t) x ∧ enabledAt t f n = true
    let y := tileOf t f.b.toNat
    let more := if f.q then [] else [y]
    let sh := opbImm s t f
    let gives (i : Instr) (lat : Nat) (bad : Prop) (v : Nat → Nat) : Prop :=
      issues i s k t = true → ¬ bad → ∀ r : Nat → Nat, (∀ n, on n → r n = v n) → (∀ n, ¬ on n → r n = elemAt x n) →
        TileResult i s k t d lat r
    let two (l : List (Bool × Nat × Word)) : Prop := firstBad l ≠ none
    gives (.vlog f) (tileLat 8 ([x, a] ++ more)) (two (agreeChecks t f (fun _ => true)))
      (fun n => vlogVal (tailMod f.t % 4) w (elemAt a n % 2 ^ w) (b n % 2 ^ w)) ∧
    gives (.vshr f) (tileLat 8 [x, a]) (two (agreeTwo t f isIntFmt) ∨ elemBits g ≤ sh.toNat)
      (fun n => if f.q then intCode g (sextInt (elemAt a n) (elemBits g) / 2 ^ sh.toNat) else elemAt a n / 2 ^ sh.toNat) ∧
    gives (.vrecip f) (tileLat 12 [x, a]) (two (agreeTwo t f isFloatFmt))
      (fun n => (flushed (fpctlOf t) g (fun m rm p _ => fpDiv m rm (fpOfInt m 0 1).code p) (elemAt a n) 0).code) ∧
    gives (.vrsqrt f) (tileLat 12 [x, a]) (two (agreeTwo t f isFloatFmt))
      (fun n => (flushed (fpctlOf t) g (fun m rm p _ => fpRsqrt m rm p) (elemAt a n) 0).code) ∧
    gives (.vexp2 f) (tileLat 12 [x, a]) (two (agreeTwo t f isFloatFmt))
      (fun n => (flushed (fpctlOf t) g (fun m rm p _ => fpExp2 m rm p) (elemAt a n) 0).code) ∧
    gives (.vcvt f) (tileLat 8 [x, a])
      (two (unconfigured t ([d, f.a.toNat] ++ maskNums f) ++ [badFmt (!(arithFmt g || isFp8Fmt g)) d,
        badFmt (!(arithFmt (tileFmt a) || isFp8Fmt (tileFmt a))) f.a.toNat] ++ maskFmt t f ++ [badShape (!sameShape a x) f.a.toNat] ++
        maskShape t f x))
      (fun n => (vcvtVal t (tailMod f.t) (tileFmt a) g (elemAt a n)).code) ∧
    gives (.vcmp f) (tileLat 8 ([x, a] ++ more))
      (two (unconfigured t (d :: vecNums f) ++ [badFmt (g != 12) d, badFmt (!(arithFmt (tileFmt a) || isFp8Fmt (tileFmt a))) f.a.toNat,
        badFmt (!f.q && tileFmt y != tileFmt a) f.b.toNat] ++ maskFmt t f ++
        [badShape (!sameShape a x) f.a.toNat, badShape (!f.q && !sameShape y a) f.b.toNat] ++ maskShape t f x))
      (fun n =>
        let m := tailMod f.t
        let z (v : Nat) : Nat := if tileFmt a = 10 then flushIn fp32 (ctlFtz (fpctlOf t)) v else v
        let p := intVal (tileFmt a) (elemAt a n)
        let q := intVal (tileFmt a) (b n)
        let fl (c : Nat) : Bool := (fpCompare (fpOf (tileFmt a)) c (z (elemAt a n)) (z (b n))).1
        if (if isIntFmt (tileFmt a) then
            (if m = 0 then decide (p < q) else if m = 1 then decide (p ≤ q) else if m = 2 then decide (p = q)
              else if m = 3 then decide (p ≠ q) else false)
          else if m = 3 then !fl 2 else if m = 4 then fl 3 else fl m) then 1 else 0) ∧
    gives (.vsel f) (tileLat 8 ([x, a] ++ more ++ [tileOf t c]))
      (two (unconfigured t ([d, f.a.toNat] ++ (if f.q then [] else [f.b.toNat]) ++ [c] ++ maskNums f) ++
        [badFmt (tileFmt a != g) f.a.toNat, badFmt (!f.q && tileFmt y != g) f.b.toNat, badFmt (tileFmt (tileOf t c) != 12) c] ++
        maskFmt t f ++ [badShape (!sameShape a x) f.a.toNat, badShape (!f.q && !sameShape y x) f.b.toNat,
        badShape (!sameShape (tileOf t c) x) c] ++ maskShape t f x))
      (fun n => if elemAt (tileOf t c) n % 2 = 1 then elemAt a n else b n)

/-- 08 R183, R187: configuration and single elements: tcfg gives a tile its format with every element zero, or reads it; tmovr
and tbcast write elements, tmovs reads one. -/
def Obligations.TileMoves : Prop :=
  ∀ (f : RForm) (s : State) (k : Nat) (t : Thread), straight t = true →
    let d := f.d.toNat
    let x := tileOf t d
    let v := opbImm s t f
    let sel := v.toNat / 1024 % 32 * rowLen (gangWidth t) x + v.toNat % 1024
    let maskOk (y : Tile) : Prop := firstBad (maskFmt t f ++ maskShape t f y) = none ∧ firstBad (unconfigured t (maskNums f)) = none
    (issues (.tcfgWrite f) s k t = true → cfgRefused v = false → ∃ s1 u, exec (.tcfgWrite f) s = .next s1 ∧ thr s1 k = some u ∧
      (tileOf u d).cfg = v ∧ (∀ n, elemAt (tileOf u d) n = 0) ∧ (∀ m, m ≠ d → tileOf u m = tileOf t m) ∧ SameMemory s s1) ∧
    (issues (.tcfgWrite f) s k t = true → cfgRefused v = true → Traps (.tcfgWrite f) s s k 0x12 v t.pc) ∧
    (issues (.tcfgRead f) s k t = true →
      Does (.tcfgRead f) s k t (putScored s k (s.clk + 4) [(d, (tileOf t f.a.toNat).cfg)] [f.a.toNat + 32])) ∧
    (issues (.tmovr f) s k t = true → x.cfg ≠ 0 → maskOk x → selBad t x v = false →
      TileResult (.tmovr f) s k t d 8 (fun n => if n = sel ∧ enabledAt t f sel = true
        then scalarElem (tileFmt x) (readG s t f.a.toNat) else elemAt x n)) ∧
    (let y := tileOf t f.a.toNat
     let n := v.toNat / 1024 % 32 * rowLen (gangWidth t) y + v.toNat % 1024
     let e := elemAt y n
     issues (.tmovs f) s k t = true → y.cfg ≠ 0 → maskOk y → selBad t y v = false → enabledAt t f n = true →
       Does (.tmovs f) s k t (putScored s k (s.clk + 4)
         [(d, if f.q then sext e (elemBits (tileFmt y)) else BitVec.ofNat 64 e)] ((f.a.toNat :: maskNums f).map (fun m => m + 32)))) ∧
    (issues (.tbcast f) s k t = true → x.cfg ≠ 0 → maskOk x →
      TileResult (.tbcast f) s k t d (tileLat 8 [x]) (fun n => if n < elemCount (gangWidth t) x ∧ enabledAt t f n = true
        then scalarElem (tileFmt x) v else elemAt x n))

/-- 08 R184 to R186: tile loads and stores, indexed access and scattered adds, where their checks pass: the elements read go
to the tile, those of the tile go out in order. 08 R184: a row's elements in order, packed at their width: each is found again
at its place. -/
def Obligations.TileMemory : Prop :=
  (∀ (f : RForm) (s : State) (k : Nat) (t : Thread) (addrs : List Nat),
      let d := f.d.toNat
      let x := tileOf t d
      let e := elemBits (tileFmt x)
      let p := ptrR s t f
      let st := opbReg s t f
      let rows (kind : Nat) (need : Rights) : Prop :=
        firstBad (unconfigured t (d :: maskNums f) ++ maskFmt t f ++ maskShape t f x) = none ∧
        rowChecks s t p st (rowLen (gangWidth t) x * e / 8) (max 1 (e / 8)) (tileFmt x) kind need 0 (tileRows x) = .ok addrs
      (∀ s1 vs lat, issues (.tld f) s k t = true → rows 0 needR → loadRows s k t f x p st 0 addrs [] 0 = .ok (s1, vs, lat) →
        Does (.tld f) s k t (tileEnd s1 k (tilePath lat (rowChunks x)) [(d, setElems x vs)] (maskNums f))) ∧
      (∀ g, issues (.tst f) s k t = true → rows 1 needW → storeRows s k t f x p st 0 addrs ⟨s, 0, false⟩ = .ok g →
        Does (.tst f) s k t (tileEnd (noteStore (coverJoint g.s k t p (tstParts t f x addrs)) k { g with lat := tilePath g.lat (rowChunks x) }) k (tilePath g.lat (rowChunks x)) []
          (d :: maskNums f))) ∧
      (∀ l s1 vs lat, issues (.tgather f) s k t = true →
        (∀ go, indexAct s t f 0x5B 0 needR false (fun _ _ => none) (fun _ _ _ => none) go = go x l) →
        gatherGo k t (e / 8) s l [] 0 = .ok (s1, vs, lat) →
        Does (.tgather f) s k t (tileEnd s1 k (indexLat t x lat l) [(d, setElems x vs)] (f.b.toNat :: maskNums f))) ∧
      (∀ l g, issues (.tscatter f) s k t = true →
        (∀ go, indexAct s t f 0x5C 1 needW false (fun _ _ => none) (fun _ _ _ => none) go = go x l) →
        scatterGo k t (e / 8) x l ⟨s, 0, false⟩ = .ok g →
        Does (.tscatter f) s k t (tileEnd (noteStore (coverJoint g.s k t p (l.map (fun q => (q.2.2, e / 8)))) k { g with lat := indexLat t x g.lat l }) k (indexLat t x g.lat l) []
          ([d, f.b.toNat] ++ maskNums f))) ∧
      (∀ l w i, (i = false ∧ issues (.tscaddU f) s k t = true) ∨ (i = true ∧ issues (.tscaddO f) s k t = true) →
        (∀ go : Tile → List (Nat × Word × Nat) → Act, indexAct s t f 0x5C 2 needAtomic true
          (fun q a => if i && (boundTo s (partOf t) a).isNone then some (0x3A, q) else none)
          (fun base q a => match noAtomic s t q a (e / 8) with
            | some c => some c
            | none => if i then (match boundTo s (partOf t) a with
                | none => some (0x3A, base)
                | some obj => if (t.held.get? obj).isNone then some (0x3B, base) else none) else none) go = go x l) →
        scaddGo k t x i p l s 0 = .ok w →
        Does (if i then .tscaddO f else .tscaddU f) s k t
          (tileEnd (noteStore w.s k ⟨w.s, indexLat t x w.lat l, false⟩) k (indexLat t x w.lat l) [] ([d, f.b.toNat] ++ maskNums f)))) ∧
  (∀ (b : Nat) (vs : List Nat) (i : Nat), 0 < b → i < vs.length →
      packRow b vs / 2 ^ (b * i) % 2 ^ b = (vs[i]?.getD 0) % 2 ^ b ∧ packRow b vs < 2 ^ (b * vs.length))

/-! Reductions, scales and the matrix engine (04, 09). -/

/-- 09 R199, R200, 04 R109: vred over integer formats: each row of D is the sum, the least or the greatest of the enabled
elements of A's row, in D's format and in any order; a row without an enabled element takes the operation's identity. 04 R99
to R105, R110; 09 R199 to R204: what the reductions, argmax, quantisation and its inverse and the quantised add leave when
their checks pass, no scale tile is locked and no trap is enabled: the elements, scale bytes and BAND of D, and the flags. -/
def Obligations.Reductions : Prop :=
  (∀ (f : RForm) (s : State) (k : Nat) (t : Thread), straight t = true →
      let d := f.d.toNat
      let x := tileOf t d
      let y := tileOf t f.a.toNat
      let g := gangWidth t
      let on (r : Nat) : List Nat := (upFrom (r * rowLen g y) (rowLen g y)).filter (enabledAt t f)
      let vals (r : Nat) : List Int := (on r).map (fun n => intVal (tileFmt x) (intCode (tileFmt x) (intVal (tileFmt y) (elemAt y n))))
      let lat := 8 + ceilDiv (max (slabBytes x) (slabBytes y)) 128 +
        (if f.q && tailMod f.t == 0 then 4 * rowLen g y else 5 * treeLevels t f y)
      let row (r : Nat) : Int := match tailMod f.t with
        | 0 => (vals r).foldl (fun m v => m + v) 0
        | 1 => (vals r).foldl (fun m v => min m v) (intHi (tileFmt x))
        | _ => (vals r).foldl (fun m v => max m v) (intLo (tileFmt x))
      issues (.vred f) s k t = true → isIntFmt (tileFmt y) = true → tailMod f.t < 3 →
        firstBad (unconfigured t ([d, f.a.toNat] ++ maskNums f) ++
          [badFmt (!arithFmt (tileFmt y)) f.a.toNat, badFmt (!vredPair (tileFmt y) (tileFmt x)) d] ++ maskFmt t f ++
          [badShape (!columnOf x y) d] ++ maskShape t f y) = none →
        TileResult (.vred f) s k t d lat (fun n => if n < tileRows y * g then intCode (tileFmt x) (row (n / g)) else elemAt x n)) ∧
  (∀ (f : RForm) (s : State) (k : Nat) (t : Thread), fpTrapsOn (fpctlOf t) = false →
      let d := f.d.toNat
      let a := f.a.toNat
      let b := f.b.toNat
      let x := tileOf t d
      let y := tileOf t a
      let z := tileOf t b
      let g := gangWidth t
      let bytes := max (slabBytes x) (slabBytes y)
      let masks := maskNums f
      let flagged (fl : FpFlags) (lat : Nat) : State := modThr s k (fun u =>
        { setSpr u rFPFLAGS (getSpr u rFPFLAGS ||| fl.setWidth 64) with fpUntil := max u.fpUntil (s.clk + lat) })
      let scaled (lat : Nat) (q : Quant) (reads : List Nat) : State :=
        tileEnd (flagged q.flags lat) k lat [(d, setElems { x with cfg := setBits x.cfg 24 16 q.band } q.elems),
          (cfgScale x.cfg, setElems (tileOf t (cfgScale x.cfg)) q.scales)] reads
      (issues (.vred f) s k t = true → firstBad (unconfigured t ([d, a] ++ masks) ++
          [badFmt (!arithFmt (tileFmt y)) a, badFmt (!vredPair (tileFmt y) (tileFmt x)) d] ++ maskFmt t f ++
          [badShape (!columnOf x y) d] ++ maskShape t f y) = none →
        let rows := (upFrom 0 (tileRows y)).map (redRow t f y (tileFmt x) (tailMod f.t) f.q)
        let lat := (if tileFmt x = 11 ∨ tileFmt y = 11 then 2 else 1) * (8 + ceilDiv bytes 128 +
          (if f.q = true ∧ tailMod f.t = 0 then 4 * rowLen g y else 5 * treeLevels t f y))
        Does (.vred f) s k t (tileEnd (flagged ((rows.flatMap (fun r => r.2)).foldl (fun m e => m ||| e.2) 0) lat) k lat
          [(d, setElems x (rowResults t (rows.map (fun r => r.1))))] (a :: masks))) ∧
      (issues (.vargmax f) s k t = true → firstBad (unconfigured t ([d, a] ++ masks) ++
          [badFmt (!(arithFmt (tileFmt y) || isFp8Fmt (tileFmt y))) a, badFmt (tileFmt x != 3) d] ++ maskFmt t f ++
          [badShape (!columnOf x y) d] ++ maskShape t f y) = none →
        Does (.vargmax f) s k t (tileEnd s k ((if tileFmt y = 11 then 2 else 1) * (8 + ceilDiv bytes 128 + 5 * treeLevels t f y))
          [(d, setElems x (rowResults t ((upFrom 0 (tileRows y)).map (argRow t f y))))] (a :: masks))) ∧
      (issues (.vdeq f) s k t = true → firstBad (unconfigured t ([d, a] ++ masks) ++
          [badFmt (!(tileFmt y == 5 || isFp8Fmt (tileFmt y))) a, badFmt (tileFmt x != 10) d] ++ maskFmt t f ++
          [badShape (!sameShape y x) a] ++ maskShape t f x ++ scaleChecks t a true) = none →
        lockWait s k t (scaleLock t a false) = none →
        let es := enabledElems t f x
        Does (.vdeq f) s k t (tileEnd (flagged (es.foldl (fun m n => m ||| (vdeqVal t g y n).flags) 0) (8 + ceilDiv bytes 128)) k
          (8 + ceilDiv bytes 128) [(d, setElems x (es.map (fun n => (n, (vdeqVal t g y n).code))))]
          ([a] ++ (if cfgSen y.cfg then [cfgScale y.cfg] else []) ++ masks))) ∧
      (issues (.vquant f) s k t = true → firstBad (unconfigured t ([d, a] ++ masks) ++
          [badFmt (!isFloatFmt (tileFmt y)) a, badFmt (tileFmt x != 5) d] ++ maskFmt t f ++
          [badShape (!sameShape y x) a] ++ maskShape t f x ++ scaleChecks t d false ++
          [(f.q && bit (opbReg s t f) 31, 0x07, opbReg s t f)]) = none →
        lockWait s k t (scaleLock t d true) = none →
        let val (n : Nat) : FpVal := if enabledAt t f n then wideVal t y n else .fin false 0 1
        let given := fpDecode fp32 (flushIn fp32 (ctlFtz (fpctlOf t)) ((opbReg s t f).toNat % 2 ^ 32))
        let most := (upFrom 0 (elemCount g x)).foldl (fun m n => magMax m (magOf (val n))) (0, 1)
        let q := quantise g x val (if f.q then magOf given else most)
        ((∀ n, n < elemCount g x → finite (val n) = true) → (f.q = true → finite given = true) →
          Does (.vquant f) s k t (scaled (quantLat [x, y])
            { q with elems := q.elems.map (fun e => if enabledAt t f e.1 then e else (e.1, 0)) } (a :: masks))) ∧
        (((∃ n, n < elemCount g x ∧ finite (val n) = false) ∨ (f.q = true ∧ finite given = false)) →
          Does (.vquant f) s k t (scaled (quantLat [x, y]) (quantBad g x) (a :: masks)))) ∧
      (issues (.bqadd f) s k t = true → firstBad (unconfigured t ([d, a, b] ++ masks) ++
          [badFmt (tileFmt y != 5) a, badFmt (tileFmt x != 5) d, badFmt (!isFloatFmt (tileFmt z)) b] ++ maskFmt t f ++
          [badShape (!sameShape y x) a, badShape (!sameShape z x) b] ++ maskShape t f x ++
          scaleChecks t a true ++ scaleChecks t d false ++ [(d != a && cfgScale x.cfg == cfgScale y.cfg, 0x15, wd (cfgScale x.cfg))]) = none →
        lockWait s k t (scaleLock t d true ++ scaleLock t a false) = none →
        let val (n : Nat) : FpVal :=
          if enabledAt t f n then (exactAdd 0 (scaledVal t g y n).val (wideVal t z n)).val else (scaledVal t g y n).val
        let most := (upFrom 0 (elemCount g x)).foldl (fun m n => magMax m (magOf (val n))) (0, 1)
        ((∀ n, n < elemCount g x → finite (val n) = true) →
          Does (.bqadd f) s k t (scaled (quantLat [x, y, z]) (quantise g x val most) ([a, b, cfgScale y.cfg] ++ masks))) ∧
        ((∃ n, n < elemCount g x ∧ finite (val n) = false) →
          Does (.bqadd f) s k t (scaled (quantLat [x, y, z]) (quantBad g x) ([a, b, cfgScale y.cfg] ++ masks)))))

/-- 09 R205 to R210, 04 R107: mma and mmasp trap on the first check that fails, wait while a slab's queue is full, and else
enter every slab's queue with D write-locked; a slab starts its best entry, goes on k-step by k-step, and writes its part at
the end. 09 R206, 04 R107: one element of an integer product: the sum of the products over the columns, added to the old
element, or to 0 under Z, modulo 2^32. When the parts of one operation appear is the model's reading (Log 44). -/
def Obligations.MatrixOperations : Prop :=
  (∀ (f : RForm) (s : State) (k : Nat) (t : Thread),
      let d := f.d.toNat
      let a := f.a.toNat
      let b := f.b.toNat
      let enters (i : Instr) (sp : Bool) : Prop :=
        issues i s k t = true →
          (∀ c info, lockWait s k t (matExtra t a b sp) = none → firstBad (matChecks t d a b sp) = some (c, info) →
            Traps i s s k c info t.pc) ∧
          (lockWait s k t (matExtra t a b sp) = none → firstBad (matChecks t d a b sp) = none →
            (matFull s (coreOf k) = false →
              Does i s k t (enterMatrix s k t d a b (tailMod f.t % 8) sp (tailMod f.t / 8 % 2 == 1) none)) ∧
            (matFull s (coreOf k) = true → exec i s = .next (tick (enterWait s k (wordsOf i) { kind := .matrix, cause := 0x58 }))))
      enters (.mma f) false ∧ enters (.mmasp f) true ∧
      (∀ pri sp zero u, enterMatrix s k t d a b pri sp zero none = u →
        u.matops.get? s.nextId = some ⟨k, d, [d, readLock a, readLock b] ++
          (if cfgSen (tileOf t a).cfg then [readLock (cfgScale (tileOf t a).cfg)] else []) ++
          (if cfgSen (tileOf t b).cfg then [readLock (cfgScale (tileOf t b).cfg)] else []) ++
          (if sp then [readLock (cfgMeta (tileOf t a).cfg)] else []), (slabsOf s (coreOf k)).length, 0, [], [], none⟩ ∧
        u.threads = s.threads ∧ SameMemory s u) ∧
      (∀ slab, (∃ e, e ∈ queueOf s slab ∧ e.started = true) → exec (.matrixEntryStart slab) s = .next s) ∧
      (∀ slab e, (∀ x, x ∈ queueOf s slab → x.started = false) → bestWaiting s (queueOf s slab) = some e →
        exec (.matrixEntryStart slab) s = .next (startEntry s slab e false)) ∧
      (∀ slab, queueOf s slab = [] → exec (.matrixEntryStart slab) s = .next s) ∧
      (∀ slab e rest, queueOf s slab = e :: rest → e.started = true → (s.matops.get? e.op).isSome = true →
        (e.steps ≤ e.done + 1 → exec (.matrixKstepBoundary slab) s =
          .next (sched (setQueue s slab ({ e with done := e.done + 1 } :: rest)) s.clk (.matrixEntryComplete slab))) ∧
        (e.done + 1 < e.steps → rest = [] → exec (.matrixKstepBoundary slab) s =
          .next (sched (setQueue s slab [{ e with done := e.done + 1 }]) (s.clk + entryStep s e) (.matrixKstepBoundary slab)))) ∧
      (∀ slab e m u, queueOf s slab = [e] → thr s e.thread = some u → s.matops.get? e.op = some m → 1 < m.left →
        s.badEcc = [] → m.badA = [] →
        redundOf u = 0 → (slabsOf s (coreOf e.thread)).findIdx? (fun x => x == slab) = some 0 →
        ∃ s1 v, exec (.matrixEntryComplete slab) s = .next s1 ∧ thr s1 e.thread = some v ∧
          tileOf v e.d = setElems (tileOf u e.d) ((matPart u (gangWidth u) e.d e.a e.b e.sparse e.zero 0).map (fun r => (r.1, r.2.code))) ∧
          (∀ n, n ≠ e.d → tileOf v n = tileOf u n) ∧ ∃ m1, s1.matops.get? e.op = some m1 ∧ m1.left = m.left - 1)) ∧
  (∀ (t : Thread) (g q i j : Nat) (x y z : Tile) (zero : Bool), tileFmt x = 3 →
      let n := i * (g * tileCols x) + q * tileCols x + j
      let product (c : Nat) : Int := intVal (tileFmt y) (elemAt y (i * (g * tileCols y) + c)) *
        intVal (tileFmt z) (elemAt z (j * (g * tileCols z) + q * tileCols z + c))
      let sum (cs : List Nat) : Int := (cs.map product).foldl (fun m v => m + v) 0
      matElem t g x y z false zero q i j =
        (n, ⟨((sum (List.range (tileCols y)) + (if zero then 0 else intVal 3 (elemAt x n))) % 2 ^ 32).toNat, 0⟩))

/-! Scratchpad tags, bank formats, segments, translations and stamped access (10, 12). -/

/-- 12 R285, R286; 10 R218, R220, R221: tlook finds the slot that holds a tag, or 0xFFFF; tset installs a tag, which the slot
that held it loses, and tset with Q = 1 invalidates; bfmt writes and reads a bank's format. The old entry goes to D after 6
clk. -/
def Obligations.TagsAndBankFormats : Prop :=
  ∀ (f : RForm) (s : State) (k : Nat) (t : Thread) (ad : Nat),
    let p := readG s t f.a.toNat
    let i := (readG s t f.b.toNat).toNat
    let c := coreOf k
    let old := s.tagTab.getD (tagKeyOf s c i) 0
    let gives (j : Instr) (s1 : State) (v : Word) : Prop := Does j s k t (putScored s1 k (s1.clk + 6) [(f.d.toNat, v)] [])
    (issues (.tlook f) s k t = true → ea t p 1 needNone = .ok ad →
      (∀ n, n < slotCount s c → bits (tagEntry s c n) 0 42 = ad / 2048 + 2 ^ 41 →
        (∀ m, m < n → bits (tagEntry s c m) 0 42 ≠ ad / 2048 + 2 ^ 41) → gives (.tlook f) s (BitVec.ofNat 64 n)) ∧
      ((∀ n, n < slotCount s c → bits (tagEntry s c n) 0 42 ≠ ad / 2048 + 2 ^ 41) → gives (.tlook f) s 0xFFFF)) ∧
    (issues (.tset f) s k t = true → i < slotCount s c → ea t p 1 needNone = .ok ad →
      (tagFind s c (ad / 2048) = none →
        gives (.tset f) { s with tagTab := s.tagTab.putD (tagKeyOf s c i) 0 (BitVec.ofNat 64 (ad / 2048 + 2 ^ 41)) } old) ∧
      (∀ j, tagFind s c (ad / 2048) = some j →
        let tab := s.tagTab.putD (tagKeyOf s c j) 0 (setBits (tagEntry s c j) 41 1 0)
        gives (.tset f) { s with tagTab := tab.putD (tagKeyOf s c i) 0 (BitVec.ofNat 64 (ad / 2048 + 2 ^ 41)) } old)) ∧
    (issues (.tsetInvalidate f) s k t = true → i < slotCount s c →
      gives (.tsetInvalidate f) { s with tagTab := s.tagTab.putD (tagKeyOf s c i) 0 (setBits old 41 1 0) } old) ∧
    (issues (.tset f) s k t = true → slotCount s c ≤ i → Traps (.tset f) s s k 0x07 (readG s t f.b.toNat) t.pc) ∧
    (issues (.tsetInvalidate f) s k t = true → slotCount s c ≤ i → Traps (.tsetInvalidate f) s s k 0x07 (readG s t f.b.toNat) t.pc) ∧
    (let v := opbReg s t f
     let key := bankKey s c p.toNat
     (issues (.bfmt f) s k t = true → p.toNat < 16 * gangOf s c → v.toNat / 32 = 0 → v.toNat % 16 < 14 →
       let old := s.bankFmt.getD key 0xD
       gives (.bfmt f) (setBank s key 6 v) old ∧ (setBank s key 6 v).bankFmt = s.bankFmt.putD key 0xD v ∧
       (s.fmtOld.get? key = none → ∀ c, bankNow { setBank s key 6 v with clk := c } key = if c < s.clk + 7 then old else v)) ∧
     (issues (.bfmt f) s k t = true → p.toNat < 16 * gangOf s c → v.toNat / 32 ≠ 0 ∨ 14 ≤ v.toNat % 16 →
       Traps (.bfmt f) s s k 0x07 v t.pc) ∧
     (issues (.bfmtRead f) s k t = true → p.toNat < 16 * gangOf s c → gives (.bfmtRead f) s (s.bankFmt.getD key 0xD)))

/-- 12 R287, R288, R289; 05 R115: sgset writes a segment derived within its parent's, or any in supervisor mode; probe reports
a segment, what ea would give, or a translation; ptinv and ptinv with MOD 1 drop the partition's translations. -/
def Obligations.SegmentsAndTranslations : Prop :=
  ∀ (f : RForm) (s : State) (k : Nat) (t : Thread),
    let n := f.d.toNat
    let a := readG s t f.a.toNat
    let g : BitVec 128 := readG s t f.b.toNat ++ a
    let par := segOf t (tailMod f.t % 8)
    let put : State := modThr s k (fun u => { u with segs := u.segs.putD n 0 g })
    let after (i : Instr) (s1 : State) (lat : Nat) (v : Word) : Prop := Does i s k t (putScored s1 k (s1.clk + lat) [(n, v)] [])
    let dropped (pick : TlbEntry → Bool) : State :=
      holdUntil (tlbDrop s (fun port => isHostKey k == decide (16 ≤ port)) (fun e => e.part == partOf t && pick e)) k (s.clk + 104)
    (issues (.sgset f) s k t = true →
      (segBad g = true → Traps (.sgset f) s s k 0x22 (BitVec.ofNat 64 n) t.pc) ∧
      (segBad g = false → 8 ≤ tailMod f.t → supOf t = true → Does (.sgset f) s k t put) ∧
      (segBad g = false → 8 ≤ tailMod f.t → supOf t = false → Traps (.sgset f) s s k 0x06 (BitVec.ofNat 64 n) t.pc) ∧
      (segBad g = false → tailMod f.t < 8 → n = 0 → supOf t = false → Traps (.sgset f) s s k 0x21 (BitVec.ofNat 64 n) t.pc) ∧
      (segBad g = false → tailMod f.t < 8 → (n ≠ 0 ∨ supOf t = true) → segValid par = true →
        (segValid g = false ∨ segWithin g par = true → Does (.sgset f) s k t put) ∧
        (segValid g = true → segWithin g par = false → Traps (.sgset f) s s k 0x21 (BitVec.ofNat 64 n) t.pc))) ∧
    (segWithin g par = true → segT g = false → segBase par ≤ segBase g ∧ segBase g + segLimit g ≤ segBase par + segLimit par ∧
      (segW g = true → segW par = true) ∧ (segR g = true → segR par = true) ∧ (segX g = true → segX par = true)) ∧
    (issues (.probe f) s k t = true →
      (tailMod f.t = 0 ∨ tailMod f.t = 1 → a.toNat < 8 →
        after (.probe f) s 6 ((segOf t a.toNat).extractLsb' (64 * tailMod f.t) 64)) ∧
      (tailMod f.t = 2 → ∀ size, size = (opbReg s t f).toNat / 256 % 256 → size ∈ [1, 2, 4, 8] → (opbReg s t f).toNat / 65536 = 0 →
        (opbReg s t f).toNat / 64 % 4 = 0 →
        (∀ x, ea t a size (probeRights (opbReg s t f)) = .ok x → after (.probe f) s 6 (BitVec.ofNat 64 (x % 2 ^ 52))) ∧
        (∀ c, ea t a size (probeRights (opbReg s t f)) = .error c → after (.probe f) s 6 (BitVec.ofNat 64 (c * 2 ^ 56)))) ∧
      (tailMod f.t = 3 → supOf t = true → a.toNat < 2 ^ 51 → ∀ found c s1,
        lookUp s (portOf k) (partOf t) a.toNat = (found, c, s1) →
          after (.probe f) s1 (24 + c) (match found with
            | some e => probeEntry e a.toNat
            | none => 0)) ∧
      (tailMod f.t = 3 → supOf t = false → ∃ info, Traps (.probe f) s s k 0x06 info t.pc)) ∧
    (∀ port p v, s.badEcc = [] → port < 16 → s.walks.getD port [] = [] →
      (∀ e, tlbFind s port p v = some e → lookUp s port p v = (some e, 0, s)) ∧
      (tlbFind s port p v = none → ∃ s1, lookUp s port p v = (walk s p v, walkCost port p v, s1) ∧ s1.mem = s.mem ∧ s1.threads = s.threads ∧
        s1.tlb = s.tlb ∧ ∀ e, walk s p v = some e →
          (tlbNow { s1 with clk := s.clk + walkCost port p v } port).tlb.get? port = some ((e :: (s.tlb.getD port []).filter
            (fun x => !(x.part == e.part && x.vpn == e.vpn && x.big == e.big))).take 4096))) ∧
    (issues (.ptinv f) s k t = true → a.toNat < 2 ^ 51 → Does (.ptinv f) s k t (dropped (tlbCovers (partOf t) a.toNat))) ∧
    (issues (.ptinv f) s k t = true → 2 ^ 51 ≤ a.toNat → Traps (.ptinv f) s s k 0x07 a t.pc) ∧
    (issues (.ptinvAll f) s k t = true → Does (.ptinvAll f) s k t (dropped (fun _ => true)))

/-- 12 R290 to R293: a stamped read gives the word and, when it completes (05 R129), lowers the node's STAMPIN while the header is valid
and young enough; else it traps with 0x2A, or says so in D; a stamped write puts the word and then its stamp, unless the header's is later. -/
def Obligations.StampedAccess : Prop :=
  (∀ (f : MForm) (s s0 : State) (k : Nat) (t : Thread) (a at_ : Nat) (h g : Got) (w v : Put),
    let ptr := ptrM s t f 8
    let hdr := headerAddr t ptr
    let stamp := fieldOf h.bytes 0 6
    let age := (nowStamp h.s + 2 ^ 48 - stamp) % 2 ^ 48
    let stale : Prop := fieldOf h.bytes 6 2 % 2 = 0 ∨ fieldOf h.bytes 8 4 < age
    let outside : Prop := viewOf t = 0 ∨ onOutput s t ptr a = false
    let sent : Prop := 16 ≤ ptrOff ptr ∧ outside ∧ flushStamped s k t ptr hdr a = .done s0 at_
    let ready (i : Instr) : Prop := issues i s k t = true ∧ ea t ptr 8 needSRead = .ok a ∧ sent ∧ portRead s0 k t ptr 0 hdr 16 = .ok h
    let noted : State := modThr g.s k (fun u => { u with stamps := u.stamps ++ [(s0.clk + (h.lat + g.lat), stamp)] })
    (ready (.sread f) → stale → Traps (.sread f) s h.s k 0x2A (BitVec.ofNat 64 age) t.pc) ∧
    (ready (.sread f) → ¬ stale → portRead h.s k t ptr 0 a 8 = .ok g →
      Does (.sread f) s k t (putScored noted k (noted.clk + (h.lat + g.lat)) [(f.d.toNat, BitVec.ofNat 64 (ofBytes g.bytes))] [])) ∧
    (ready (.sreadStatus f) → stale →
      Does (.sreadStatus f) s k t (putScored h.s k (h.s.clk + h.lat) [(f.d.toNat, 0x2A)] [])) ∧
    (ready (.sreadStatus f) → ¬ stale → portRead h.s k t ptr 0 a 8 = .ok g →
      Does (.sreadStatus f) s k t (putScored noted k (noted.clk + (h.lat + g.lat))
        [(f.d.toNat, 0), ((tailC f.t).toNat, BitVec.ofNat 64 (ofBytes g.bytes))] [])) ∧
    (issues (.swrite f) s k t = true → ea t ptr 8 needSWrite = .ok a → sent → portRead s0 k t ptr 1 hdr 16 = .ok h →
      (fieldOf h.bytes 6 2 % 2 = 1 → ownStampin s t < stamp → Traps (.swrite f) s h.s k 0x6E (BitVec.ofNat 64 stamp) t.pc) ∧
      (fieldOf h.bytes 6 2 % 2 = 0 ∨ stamp ≤ ownStampin s t →
        portWrite false h.s k t ptr a (toBytes 8 (readG s t f.d.toNat).toNat) = .ok w →
        portWrite false w.s k t ptr hdr (toBytes 6 (ownStampin s t) ++ toBytes 2 (fieldOf h.bytes 6 2 / 2 * 2 + 1)) = .ok v →
        Does (.swrite f) s k t (holdUntil (noteStore v.s k ⟨v.s, max w.lat v.lat, w.port || v.port⟩) k (s.clk + max w.lat v.lat))))) ∧
  (∀ (s : State) (k key c stamp : Nat) (t : Thread) (n : Node), s.threads = [(k, t)] → t.node = some key → s.nodes.get? key = some n →
    t.stamps = [(c, stamp)] →
      ownStampin s t = min n.stampin stamp ∧
      (c ≤ s.clk → (lowerAll s).nodes.get? key = some { n with stampin := min n.stampin stamp }) ∧
      (s.clk < c → lowerAll s = s))

/-! Groups, twin buffers, timelines, barrier objects, cycle time (17, 19, 20). -/

/-- 17 R403, R404, R405: gjoin makes a member from the next phase on, gleave takes it out, gbar counts its arrival and waits;
when every counted member waits, the phase advances, every member is counted, and the waiter goes on with the new phase 8 clk
later. 17 R409, R410, 11 R261: publish swaps an entry's buffers, counts, and gives D the selector of the buffer now current;
the input entry while the domain is enabled, an entry that waits for a publication, and any but the output entry in a world
are refused. -/
def Obligations.GroupBarriers : Prop :=
  (∀ (f : RForm) (s : State) (k : Nat) (t : Thread),
      let v := readG s t f.a.toNat
      let n := v.toNat
      let key := partOf t * 256 + n
      let phase := (groupPhase s key + 1) % 2 ^ 32
      (issues (.gjoin f) s k t = true → t.host = false → n < 256 → t.groups.get? n = none →
        (t.groups.length < 16 → groupMembers s key < 8192 → ∃ s1 u, Does (.gjoin f) s k t s1 ∧ thr s1 k = some u ∧
          u.groups.get? n = some false ∧ groupMembers s1 key = groupMembers s key + 1 ∧ groupCounted s1 key = groupCounted s key ∧
          groupArrived s1 key = groupArrived s key ∧ s.clk + 24 ≤ u.earliest ∧ (∀ r, gprOf u r = gprOf t r) ∧ SameMemory s s1) ∧
        (16 ≤ t.groups.length → Traps (.gjoin f) s s k 0x39 (BitVec.ofNat 64 (2 ^ 63 + n)) t.pc) ∧
        (t.groups.length < 16 → groupMembers s key = 8192 →
          (∃ s1, exec (.gjoin f) s = .next s1 ∧ s1.barOps = s.barOps ++ [(k, .gjoin f)] ∧ s1.ctl = s.ctl ∧ SameMemory s s1) ∧
          (t.run = .ready → settleLate s (k, .gjoin f) = raise s k 0x39 v t.pc))) ∧
      (issues (.gjoin f) s k t = true → t.host = false → n < 256 → t.groups.get? n ≠ none → Traps (.gjoin f) s s k 0x07 v t.pc) ∧
      (issues (.gleave f) s k t = true → t.host = false → n < 256 →
        (t.groups.get? n = none → Traps (.gleave f) s s k 0x38 v t.pc) ∧
        (∀ c, t.groups.get? n = some c → ∃ s1 u, Does (.gleave f) s k t s1 ∧ thr s1 k = some u ∧ u.groups.get? n = none ∧
          groupMembers s1 key = groupMembers s key - 1 ∧ groupCounted s1 key = groupCounted s key - (if c then 1 else 0) ∧
          groupArrived s1 key = groupArrived s key ∧ (∀ r, gprOf u r = gprOf t r) ∧ SameMemory s s1)) ∧
      (issues (.gbar f) s k t = true → t.host = false → n < 256 →
        (t.groups.get? n = none → Traps (.gbar f) s s k 0x38 v t.pc) ∧
        (∀ c s1 at_, t.groups.get? n = some c → releaseAt s k t 3 = .done s1 at_ →
          exec (.gbar f) s = .next (tick (enterWait (holdUntil (groupTouch (setGroup s1 key (groupMembers s1 key) (groupCounted s1 key)
            (groupArrived s1 key + (if c then 1 else 0))) key) k at_) k (wordsOf (.gbar f))
            { kind := .group, key := key, dst := f.d.toNat, cause := 0x36 })))) ∧
      (∀ w, straight t = true → redundOf t = 0 → thr s k = some t → waitOf t = some w → groupWaiters s key = [(k, w)] →
        groupArrived s key = groupCounted s key → ∃ x, thr (settleGroup s key) k = some x ∧ x.run = .ready ∧
          x.pc = pcAdd t.pc (4 * w.words) ∧ s.clk + 8 ≤ x.earliest ∧
          (∃ p ∈ x.sb, p.due = s.clk + 8 ∧ (w.dst ≠ 0 → p.regs = [(regId t w.dst, BitVec.ofNat 64 phase)])) ∧
          groupPhase (settleGroup s key) key = phase ∧ groupArrived (settleGroup s key) key = 0 ∧
          groupCounted (settleGroup s key) key = groupMembers s key) ∧
      (groupArrived s key ≠ groupCounted s key → settleGroup s key = s)) ∧
  (∀ (f : RForm) (s : State) (k : Nat) (t : Thread),
      let v := readG s t f.a.toNat
      let e := v.toNat
      let p := if t.host then 0 else partOf t
      issues (.publish f) s k t = true →
        (256 ≤ e ∨ twinValid s p e = false → Traps (.publish f) s s k 0x07 v t.pc) ∧
        (e < 256 → twinValid s p e = true → e = 0 → cycleEn s = true → Traps (.publish f) s s k 0x07 v t.pc) ∧
        (1 < e → e < 256 → twinValid s p e = true → viewOf t ≠ 0 → Traps (.publish f) s s k 0x4B v t.pc) ∧
        (e = 1 → twinValid s p e = true → t.host = false → partOf t ≠ 0 → Traps (.publish f) s s k 0x07 v t.pc) ∧
        (∀ s1 at_, e < 256 → twinValid s p e = true → (e = 0 → cycleEn s = false) → (e = 1 → t.host = true ∨ partOf t = 0) →
          viewOf t = 0 → (s.sending.get? e = none ∨ p ≠ 0) → releaseAt s k t 4 = .done s1 at_ →
          exec (.publish f) s = .next (tick (enterWait { s1 with pubOps := s1.pubOps ++ [⟨k, p, e, at_ + swapTime s1 k e⟩] } k
            (wordsOf (.publish f)) { kind := .port, key := e, dst := f.d.toNat, info := v }))) ∧
        (∀ s1, e = 1 → partOf t = 0 → t.host = false → twinValid s 0 1 = true → viewOf t ≠ 0 →
          holdOp s (partOf t) (viewOf t) ⟨2, 1, 0, 0, 0, [], t.pc, k⟩ = some s1 →
          Does (.publish f) s k t (putScored s1 k (s1.clk + 4) [(f.d.toNat, BitVec.ofNat 64 (twinSel s 0 1))] []))) ∧
  (∀ (s : State) (o : PubOp) (t : Thread) (w : Wait), thr s o.who = some t → waitOf t = some w → w.kind = .port →
      (twinPending s o.part o.entry ≠ 0 → publishAt s o = failWait s o.who w 0x57 w.info) ∧
      (twinPending s o.part o.entry = 0 → (s.sending.get? o.entry = none ∨ o.part ≠ 0) → straight t = true → redundOf t = 0 →
        twinSel (publishAt s o) o.part o.entry = 1 - twinSel s o.part o.entry % 2 ∧
        pubCount (publishAt s o) o.part o.entry = (pubCount s o.part o.entry + 1) % 2 ^ 32 ∧
        ∃ x, thr (publishAt s o) o.who = some x ∧ x.run = .ready ∧ x.pc = pcAdd t.pc (4 * w.words) ∧
          ∃ q ∈ x.sb, q.due = s.clk ∧ (w.dst ≠ 0 →
            q.regs = [(regId t w.dst, BitVec.ofNat 64 (1 - twinSel s o.part o.entry % 2))])))

/-- 19 R444 to R449: a timeline's instructions: tcadd adds after a release, tcset replaces the value, tcwait goes on at once where the
value is reached, else it waits, arming and disarming; the changes of a clk are made at its end, where an addition saturates at
2^64 − 1 and traps its thread past it, and an arming whose value is reached is told. -/
def Obligations.Timelines : Prop :=
  ∀ (f : RForm) (s : State) (k : Nat) (t : Thread) (key : Nat),
    let i := readG s t f.a.toNat
    let b := opbReg s t f
    let a := timelineAt key
    let named : Prop := viewOf t = 0 ∧ timelineKey s t i = some key
    let after (j : Instr) (s1 : State) : Prop := Does j s k t (putScored s1 k (s1.clk + 24) [(f.d.toNat, 0)] [])
    (issues (.tcadd f) s k t = true → viewOf t ≠ 0 → Traps (.tcadd f) s s k 0x4B i t.pc) ∧
    (issues (.tcset f) s k t = true → viewOf t = 0 → timelineKey s t i = none → Traps (.tcset f) s s k 0x07 i t.pc) ∧
    (∀ s1 at_, issues (.tcadd f) s k t = true → named → releaseAt s k t 3 = .done s1 at_ →
      Does (.tcadd f) s k t
        (holdUntil { s1 with tlOps := s1.tlOps ++ [⟨key, 1, k, b, some k, f.d.toNat, at_ + 40, at_⟩] } k (at_ + 1))) ∧
    (issues (.tcset f) s k t = true → named →
      Does (.tcset f) s k t { s with tlOps := s.tlOps ++ [⟨key, 0, k, b, some k, f.d.toNat, s.clk + 40, s.clk⟩] }) ∧
    (issues (.tcwait f) s k t = true → named →
      (b.toNat ≤ timelineValue s key →
        Does (.tcwait f) s k t (holdUntil (putScored (acquireAt s k t 3).1 k ((acquireAt s k t 3).1.clk + 24) [(f.d.toNat, 0)] []) k
          (s.clk + 24 + (acquireAt s k t 3).2))) ∧
      (timelineValue s key < b.toNat → exec (.tcwait f) s = .next (tick (enterWait s k (wordsOf (.tcwait f))
        { kind := .timeline, key := key, arg := b, dst := f.d.toNat, cause := 0x36 })))) ∧
    (issues (.tcwaitArm f) s k t = true → named →
      (ctlF s (a + 0x10) 13 1 ≠ 1 ∨ s.tlNote.get? key = some k →
        let who := if t.host then k - 8192 else coreOf k + ctxOf k * 128
        let s1 := wrCtl (wrCtl s (a + 8) b) (a + 0x10) (BitVec.ofNat 64 (who + 2 ^ 13))
        after (.tcwaitArm f) { s1 with tlNote := s1.tlNote.put key k, tlOps := s1.tlOps ++ [⟨key, 4, 0, 0, none, 0, 0, s.clk⟩] }) ∧
      (ctlF s (a + 0x10) 13 1 = 1 → s.tlNote.get? key ≠ some k →
        Traps (.tcwaitArm f) s s k 0x07 (formInfo (.tcwaitArm f)) t.pc)) ∧
    (issues (.tcwaitDisarm f) s k t = true → named →
      (s.tlNote.get? key = some k → after (.tcwaitDisarm f) (setCtlF s (a + 0x10) 13 1 0)) ∧
      (s.tlNote.get? key ≠ some k → after (.tcwaitDisarm f) s)) ∧
    (∀ o, s.tlOps = [o] → o.key = key → key < 2 ^ 16 → o.at_ ≤ s.clk → o.who = some k →
      waiters s (fun _ _ w => w.kind == .timeline && w.key == key) = [] →
      timelineValue (settleTimelines s) key = (if o.cls = 0 then o.val.toNat else min (2 ^ 64 - 1) (timelineValue s key + o.val.toNat)) ∧
      (settleTimelines s).tlOps = [] ∧
      (o.cls ≠ 0 → 2 ^ 64 ≤ timelineValue s key + o.val.toNat → thr s k = some t → t.run ≠ .ending → ∃ x c v,
        thr (settleTimelines s) k = some x ∧ x.trapDue = some (c, v) ∧ c = 0x34)) ∧
    (thr s k = some t → isHuskKey k = false → s.tlNote.get? key = some k → ctlF s (a + 0x10) 13 1 = 1 → t.uiq.length < 4 → t.uiAt ≠ s.clk →
      ((rdCtl s (a + 8)).toNat ≤ timelineValue s key → ctlF (timelineFire s key) (a + 0x10) 13 1 = 0 ∧
        ∃ x, thr (timelineFire s key) k = some x ∧ x.uiq = t.uiq ++ [(uiWord 2 (key % 4096), rdCtl s a)]) ∧
      (timelineValue s key < (rdCtl s (a + 8)).toNat → timelineFire s key = s))

/-- 19 R450 to R453, 14 R329: binit sets a barrier object's expected bytes and answers its phase; bwait goes on at once where
the object is at the phase it names, else waits; btest reads it; landed bytes count, and at the expected number the phase
flips. -/
def Obligations.BarrierObjects : Prop :=
  ∀ (f : RForm) (s : State) (k : Nat) (t : Thread) (o : BarObj),
    let p := readG s t f.a.toNat
    let b := readG s t f.b.toNat
    let e := opbReg s t f
    let found (i : Instr) (need : Rights) : Prop := issues i s k t = true ∧ chunkDue s = false ∧ barObj s k t i p need = .ok o
    let phase : Word := BitVec.ofNat 64 (barPhase o.s o.loc)
    (∀ i ∈ [Instr.binit f, .bwait f, .bwaitArm f, .bwaitDisarm f, .btest f], issues i s k t = true → chunkDue s = true →
      ∃ s1, exec i s = .next s1 ∧ s1.barOps = s.barOps ++ [(k, i)] ∧ SameMemory s s1) ∧
    (thr s k = some t → t.run = .ready → barObj s k t (.btest f) p needR = .ok o →
      settleLate s (k, .btest f) = retire (putScored o.s k (o.s.clk + o.lat) [(f.d.toNat, BitVec.ofNat 64 (rdMemN o.s (o.loc + 8) 8))] []) k
        (wordsOf (.btest f)) (stepDue t) none) ∧
    (found (.binit f) needRW → e.toNat < 2 ^ 63 → barLanded o.s o.loc = 0 →
      let s1 := portWrote (wrMemN o.s o.loc 8 e.toNat) 0 0 o.loc 8
      Does (.binit f) s k t (putScored s1 k (s1.clk + o.lat) [(f.d.toNat, phase)] []) ∧
      barExpected (wrMemN o.s o.loc 8 e.toNat) o.loc = e.toNat ∧
      ∀ x, x < o.loc ∨ o.loc + 8 ≤ x → rdMem (wrMemN o.s o.loc 8 e.toNat) x = rdMem o.s x) ∧
    (found (.binit f) needRW → 2 ^ 63 ≤ e.toNat → Traps (.binit f) s o.s k 0x07 e t.pc) ∧
    (found (.binit f) needRW → e.toNat < 2 ^ 63 → barLanded o.s o.loc ≠ 0 → Traps (.binit f) s o.s k 0x3F (BitVec.ofNat 64 o.addr) t.pc) ∧
    (found (.bwait f) needR → b.toNat < 2 →
      (barPhase o.s o.loc = b.toNat →
        let q := acquireAt o.s k t 3
        Does (.bwait f) s k t (holdUntil (putScored q.1 k (q.1.clk + o.lat) [(f.d.toNat, b)] []) k (s.clk + o.lat + q.2))) ∧
      (barPhase o.s o.loc ≠ b.toNat → barExpected o.s o.loc ≠ 0 →
        exec (.bwait f) s = .next (tick (enterWait o.s k (wordsOf (.bwait f))
          { kind := .barrier, key := o.loc, arg := b, dst := f.d.toNat, cause := 0x3D }))) ∧
      (barPhase o.s o.loc ≠ b.toNat → barExpected o.s o.loc = 0 →
        Traps (.bwait f) s o.s k 0x3F (BitVec.ofNat 64 o.addr) t.pc)) ∧
    (found (.bwaitArm f) needR →
      let s1 := modThr o.s k (fun u => { u with barArm := some (BitVec.ofNat 64 o.addr) })
      Does (.bwaitArm f) s k t (putScored s1 k (s1.clk + o.lat) [(f.d.toNat, phase)] [])) ∧
    (found (.bwaitDisarm f) needR →
      let s1 := modThr o.s k (fun u => { u with barArm := none })
      Does (.bwaitDisarm f) s k t (putScored s1 k (s1.clk + o.lat) [(f.d.toNat, phase)] [])) ∧
    (found (.btest f) needR →
      Does (.btest f) s k t (putScored o.s k (o.s.clk + o.lat) [(f.d.toNat, BitVec.ofNat 64 (rdMemN o.s (o.loc + 8) 8))] [])) ∧
    (∀ part chain view addr loc n, barExpected s loc ≠ 0 →
      (barLanded s loc + n < barExpected s loc → barExpected s loc < 2 ^ 63 →
        barLanded (barLand s part chain view addr loc n) loc = barLanded s loc + n ∧
        barPhase (barLand s part chain view addr loc n) loc = barPhase s loc) ∧
      (barLanded s loc + n = barExpected s loc →
        (∀ q ∈ s.threads, q.2.barArm ≠ some (BitVec.ofNat 64 addr) ∧ ∀ w, waitOf q.2 = some w → w.kind ≠ .barrier) → s.husks = [] →
        barLanded (barLand s part chain view addr loc n) loc = 0 ∧
        barPhase (barLand s part chain view addr loc n) loc = 1 - barPhase s loc)) ∧
    (∀ addr loc w, s.husks = [] → straight t = true → redundOf t = 0 → s.threads = [(k, t)] → waitOf t = some w → w.kind = .barrier → w.key = loc →
      w.arg.toNat = barPhase s loc → w.dst ≠ 0 → t.barArm = none → ∃ x, thr (barComplete s addr loc) k = some x ∧ x.run = .ready ∧
        x.pc = pcAdd t.pc (4 * w.words) ∧ ∃ q ∈ x.sb, q.regs = [(regId t w.dst, w.arg)]) ∧
    (∀ addr loc, s.husks = [] → s.threads = [(k, t)] → waitOf t = none → t.barArm = some (BitVec.ofNat 64 addr) → t.uiq.length < 4 →
      t.uiAt ≠ s.clk → ∃ x, thr (barComplete s addr loc) k = some x ∧ x.barArm = none ∧ x.uiq = t.uiq ++ [(uiWord 3 0, BitVec.ofNat 64 addr)])

/-- 19 R438, R441 to R443, R454: cycle time, PTP time and a chain's sequence are read; cwait waits for the next tick's
release, which gives the tick's stamp; seqwait goes on once the chain has recorded its sequence. 19 R433, R434, R438; 20 R468,
R469: PTP time goes on from ADJ and STEP; losing discipline puts the domain in holdover and posts 0x64, regaining it ends
holdover; the domain starts with a tick due at least 1 µs ahead, and stopped it ends every cwait with 0x63. -/
def Obligations.TimeAndSequences : Prop :=
  (∀ (f : RForm) (s : State) (k : Nat) (t : Thread),
      let i := readG s t f.a.toNat
      let b := opbReg s t f
      let n := i.toNat
      (straight t = true → issues (.rdcyc f) s k t = true →
        FixedResult (.rdcyc f) s k t f.d.toNat 4 (match tailMod f.t with
          | 0 => BitVec.ofNat 64 (nowStamp s)
          | 1 => BitVec.ofNat 64 s.clk
          | _ => if s.cycOn = true ∧ s.cycTick = true then BitVec.ofInt 64 (ptpNs s - lastTick s) else 0)) ∧
      (issues (.rdptp f) s k t = true →
        Does (.rdptp f) s k t (putScored s k (s.clk + 12) [(f.d.toNat, BitVec.ofInt 64 (ptpNs s))] [])) ∧
      (issues (.cwait f) s k t = true → cycPeriodReg s = 0 → Traps (.cwait f) s s k 0x63 0 t.pc) ∧
      (issues (.cwait f) s k t = true → cycPeriodReg s ≠ 0 → ∃ r s1, r.kind = .cycle ∧ r.dst = f.d.toNat ∧ OnlyThread s s1 k ∧
        exec (.cwait f) s = .next (tick (enterWait s1 k (wordsOf (.cwait f)) r))) ∧
      (∀ w, straight t = true → redundOf t = 0 → thr s k = some t → waitOf t = some w → w.dst ≠ 0 →
        waiters s (fun _ _ w => w.kind == .cycle && w.key == 1) = [(k, w)] →
        ∃ u x, exec .scanRelease s = .next u ∧ thr u k = some x ∧ x.run = .ready ∧ x.pc = pcAdd t.pc (4 * w.words) ∧
          x.released = isScan u (partOf t) ∧ ∃ p ∈ x.sb, p.due = s.clk ∧ p.regs = [(regId t w.dst, w.arg)]) ∧
      (waiters s (fun _ _ w => w.kind == .cycle && w.key == 1) = [] → exec .scanRelease s = .next s) ∧
      (issues (.seqwait f) s k t = true →
        (128 ≤ n ∨ 2 ^ 32 ≤ b.toNat → Traps (.seqwait f) s s k 0x07 i t.pc) ∧
        (n < 128 → b.toNat < 2 ^ 32 → chainState s n = 0 → Traps (.seqwait f) s s k 0x52 i t.pc) ∧
        (n < 128 → b.toNat < 2 ^ 32 → chainState s n ≠ 0 → t.host = false → chainPart s n ≠ partOf t →
          Traps (.seqwait f) s s k 0x59 i t.pc) ∧
        (n < 128 → b.toNat < 2 ^ 32 → chainState s n ≠ 0 → t.host = true ∨ chainPart s n = partOf t →
          (seqDone s n b.toNat = true →
            let q := acquireAt s k t 3
            Does (.seqwait f) s k t (holdUntil (putScored q.1 k (q.1.clk + 24) [(f.d.toNat, BitVec.ofNat 64 (doneSeq s n))] []) k
              (s.clk + 24 + q.2))) ∧
          (seqDone s n b.toNat = false → exec (.seqwait f) s = .next (tick (enterWait s k (wordsOf (.seqwait f))
            { kind := .sequence, key := n, arg := b, cause := 0x3D })))))) ∧
  (∀ (s : State) (v : Word),
      (∃ u, exec (.ptpAdjust v) s = .next u ∧ u.ptpRate = sextInt (bits v 0 48) 48 ∧ ptpUnits u = ptpUnits s ∧
        rdCtl u ptpBlock = BitVec.ofNat 64 (bits v 0 48) ∧ u.ptpWrote = some s.clk) ∧
      (v = 0 → exec (.ptpStep v) s = .next s) ∧
      (v ≠ 0 → ∃ u, exec (.ptpStep v) s = .next u ∧ ptpUnits u = ptpUnits s + v.toInt * nsUnit ∧ u.ptpRate = s.ptpRate ∧
        u.ptpWrote = some s.clk) ∧
      (cycLocked s = true → ptpGood s = false → ∃ u m, exec .ptpDisciplineLost s = .next u ∧ cycLocked u = false ∧ cycHoldover u = true ∧
        u.posts = s.posts ++ [m] ∧ fieldOf m.msg 0 1 = 0x64) ∧
      (cycLocked s = false ∨ ptpGood s = true → exec .ptpDisciplineLost s = .next s) ∧
      (ptpGood s = true → cycLocked s = false → ∃ u, exec .ptpDisciplineRestored s = .next u ∧ cycLocked u = true ∧
        cycHoldover u = false) ∧
      (cycLocked s = true ∨ ptpGood s = false → exec .ptpDisciplineRestored s = .next s) ∧
      (0 < cyclePeriod s → ∃ u, exec .cycleDomainStart s = .next u ∧ u.cycOn = true ∧ u.cycTick = false ∧
        ptpNs s + 1000 ≤ u.cycDue ∧ u.cycDue < ptpNs s + 1000 + cyclePeriod s ∧ (u.cycDue - cycOrigin s) % (cyclePeriod s : Int) = 0) ∧
      (∀ k w, waiters s (fun _ _ w => w.kind == .cycle) = [(k, w)] → ∃ a,
        exec .cycleDomainStop s = .next (failWait { s with agenda := a, cycOn := false, cycTick := false } k w 0x63 0)) ∧
      (waiters s (fun _ _ w => w.kind == .cycle) = [] → ∃ u, exec .cycleDomainStop s = .next u ∧ u.cycOn = false ∧ u.cycTick = false ∧
        u.threads = s.threads ∧ ∀ q ∈ u.agenda, q.2 ≠ .boundaryTick ∧ q.2 ≠ .scanRelease))

/-! Channels, mailboxes, fault replies, the watchdog (10, 13, 17, 19). -/

/-- 13 R309 to R311, 17 R406: csend takes a credit and its word follows the words under way, crecv takes the oldest word of
the buffer and gives the credit back, cpoll counts; without a credit or a word they wait; a thread that is no endpoint takes
0x32. -/
def Obligations.Channels : Prop :=
  ∀ (f : RForm) (s : State) (k : Nat) (t : Thread),
    let v := readG s t f.a.toNat
    let ch := v.toNat
    let p := partOf t
    let key := p * 1024 + ch
    let isEnd (reader : Bool) : Prop := t.host = false ∧ viewOf t = 0 ∧ ch < 1024 ∧ chanEndpoint s p ch reader = some k
    (issues (.csend f) s k t = true → isEnd false →
      (16 ≤ s.chanUsed.getD key 0 →
        exec (.csend f) s = .next (tick (enterWait s k (wordsOf (.csend f)) { kind := .chanSend, key := key, cause := 0x30 }))) ∧
      (∀ s1 at_, s.chanUsed.getD key 0 < 16 → releaseAt s k t 3 = .done s1 at_ →
        let sent := s1.chanWay.getD key [] ++ [(coreOf k, opbReg s t f)]
        let used := s1.chanUsed.getD key 0 + 1
        let s2 := { s1 with chanUsed := s1.chanUsed.put key used, chanWay := s1.chanWay.put key sent }
        (∀ r, chanEndpoint s2 p ch true = some r →
          Does (.csend f) s k t (sched s2 (s.clk + chanPath k r) (.channelWordArrive p ch))) ∧
        (chanEndpoint s2 p ch true = none → Does (.csend f) s k t s2))) ∧
    (issues (.crecv f) s k t = true → isEnd true →
      (s.chanBuf.getD key [] = [] →
        exec (.crecv f) s = .next (tick (enterWait s k (wordsOf (.crecv f)) { kind := .chanRecv, key := key, cause := 0x31 }))) ∧
      (∀ w rest, s.chanBuf.getD key [] = w :: rest →
        let s1 := { s with chanBuf := s.chanBuf.putD key [] rest }
        let ends (s2 : State) : Prop := Does (.crecv f) s k t (holdUntil (putScored (acquireAt s2 k t 3).1 k
          ((acquireAt s2 k t 3).1.clk + 10) [(f.d.toNat, w)] []) k (s.clk + (acquireAt s2 k t 3).2))
        (∀ x, chanEndpoint s1 p ch false = some x →
          ends (sched { s1 with chanBack := s1.chanBack.put key (s1.chanBack.getD key 0 + 1) } (s.clk + chanPath k x)
            (.channelCreditReturn p ch))) ∧
        (chanEndpoint s1 p ch false = none → ends { s1 with chanUsed := s1.chanUsed.putD key 0 (s1.chanUsed.getD key 0 - 1) }))) ∧
    (issues (.cpoll f) s k t = true →
      (isEnd true → Does (.cpoll f) s k t
        (putScored s k (s.clk + 10) [(f.d.toNat, BitVec.ofNat 64 (s.chanBuf.getD key []).length)] [])) ∧
      (isEnd false → chanEndpoint s p ch true ≠ some k → Does (.cpoll f) s k t
        (putScored s k (s.clk + 4) [(f.d.toNat, BitVec.ofNat 64 (s.chanUsed.getD key 0))] []))) ∧
    (issues (.csend f) s k t = true → t.host = true ∨ (viewOf t = 0 ∧ ch < 1024 ∧ chanEndpoint s p ch false ≠ some k) →
      Traps (.csend f) s s k 0x32 v t.pc) ∧
    (issues (.crecv f) s k t = true → t.host = true ∨ (viewOf t = 0 ∧ ch < 1024 ∧ chanEndpoint s p ch true ≠ some k) →
      Traps (.crecv f) s s k 0x32 v t.pc) ∧
    (∀ q c w rest, s.chanWay.getD (q * 1024 + c) [] = w :: rest → ∃ u, exec (.channelWordArrive q c) s = .next u ∧
      u.chanBuf.getD (q * 1024 + c) [] = s.chanBuf.getD (q * 1024 + c) [] ++ [w.2] ∧ u.chanWay.getD (q * 1024 + c) [] = rest ∧
      u.chanUsed = s.chanUsed ∧ u.threads = s.threads) ∧
    (∀ q c, s.chanBack.getD (q * 1024 + c) 0 ≠ 0 → ∃ u, exec (.channelCreditReturn q c) s = .next u ∧
      u.chanUsed.getD (q * 1024 + c) 0 = s.chanUsed.getD (q * 1024 + c) 0 - 1 ∧
      u.chanBack.getD (q * 1024 + c) 0 = s.chanBack.getD (q * 1024 + c) 0 - 1 ∧ u.chanBuf = s.chanBuf ∧ u.threads = s.threads)

/-- 13 R312 to R316, R295; 16 R394: mbsend reserves a place and its 64 bytes are on their way, or waits; mbrecv takes the
oldest message into memory, or waits; arming names the notifier; a message that arrives takes its place, or goes to the receiver that waits first, and
held posts are accepted in order, each tried every 256 clk of its own. The interval of retries and the order within one cluster are the model's choice (Logs 11, 36). -/
def Obligations.Mailboxes : Prop :=
  ∀ (f : RForm) (s : State) (k : Nat) (t : Thread) (a : Nat),
    let v := readG s t f.a.toNat
    let ptr := readG s t f.b.toNat
    let dst := bits v 0 16
    let m := mboxOf s (coreOf k)
    let arms (i : Instr) (n : Option Nat) : Prop :=
      Does i s k t (putScored (setMbox s (coreOf k) { m with notifier := n }) k (s.clk + 10)
        [(f.d.toNat, match m.notifier with | some j => BitVec.ofNat 64 (ctxOf j) | none => 0xFFFF)] [])
    (issues (.mbsend f) s k t = true → ∀ c info, mbsendBad s t (.mbsend f) v = some (c, info) → Traps (.mbsend f) s s k c info t.pc) ∧
    (issues (.mbsend f) s k t = true → mbsendBad s t (.mbsend f) v = none → ea t ptr 64 needR = .ok a → a % 8 = 0 →
      (viewOf t = 0 → bit v 16 = false →
        (mboxFull s dst || s.posts.any (fun h => h.part == none && h.core == dst && h.owner == k)) = true →
        exec (.mbsend f) s = .next (tick (enterWait s k (wordsOf (.mbsend f)) { kind := .mailSend, key := dst, cause := 0x3E, info := v }))) ∧
      (∀ g, loadRange s k t ptr a 64 = .ok g → viewOf t = 0 → bit v 16 = false →
        (mboxFull s dst || s.posts.any (fun h => h.part == none && h.core == dst && h.owner == k)) = false →
        let at_ := max (s.clk + g.lat + mailFigure k dst) t.mailAt
        let box := mboxOf g.s dst
        Does (.mbsend f) s k t (sched (modThr (setMbox g.s dst { box with reserved := box.reserved + 1 }) k
          (fun u => { u with mailAt := at_ })) at_ (.mailboxArrive dst k g.bytes))) ∧
      (∀ g, loadRange s k t ptr a 64 = .ok g → viewOf t = 0 → bit v 16 = true →
        Does (.mbsend f) s k t (sendReply g.s (s.clk + g.lat + mailFigure k dst) dst g.bytes)) ∧
      (∀ g s1, loadRange s k t ptr a 64 = .ok g → viewOf t ≠ 0 →
        holdOp g.s (partOf t) (viewOf t) ⟨3, v.toNat, 64, 0, 0, g.bytes, t.pc, k⟩ = some s1 → Does (.mbsend f) s k t s1)) ∧
    (issues (.mbrecv f) s k t = true → t.host = false → viewOf t = 0 → ea t v 64 needW = .ok a → a % 8 = 0 →
      let s0 := petWatchdog s k t
      (m.msgs = [] →
        exec (.mbrecv f) s = .next (tick (enterWait s0 k (wordsOf (.mbrecv f))
          { kind := .mailRecv, key := coreOf k, arg := v, dst := f.d.toNat, cause := 0x31 }))) ∧
      (∀ msg rest g, m.msgs = msg :: rest → storeRange s0 k t v a msg = .ok g →
        let s1 := noteStore (setMbox g.s (coreOf k) { mboxOf g.s (coreOf k) with msgs := rest }) k g
        Does (.mbrecv f) s k t (putScored s1 k (s1.clk + 10) [(f.d.toNat, BitVec.ofNat 64 rest.length)] []))) ∧
    (issues (.mbrecv f) s k t = true → t.host = false → viewOf t ≠ 0 → Traps (.mbrecv f) s s k 0x43 v t.pc) ∧
    (issues (.mbrecvArm f) s k t = true → t.host = false → viewOf t = 0 → arms (.mbrecvArm f) (some k)) ∧
    (issues (.mbrecvDisarm f) s k t = true → t.host = false → viewOf t = 0 →
      arms (.mbrecvDisarm f) (if m.notifier = some k then none else m.notifier)) ∧
    (∀ c j msg, (mboxOf s c).notifier = none →
      (firstReceiver s c = none → ∃ u, exec (.mailboxArrive c j msg) s = .next u ∧
        (mboxOf u c).msgs = (mboxOf s c).msgs ++ [msg] ∧ (mboxOf u c).reserved = (mboxOf s c).reserved - 1 ∧ u.threads = s.threads ∧
        SameMemory s u) ∧
      (∀ j2 w t2 s1, firstReceiver s c = some (j2, w) → thr s j2 = some t2 → (mboxOf s c).msgs = [] →
        let m1 := { mboxOf s c with reserved := (mboxOf s c).reserved - 1 }
        takeMessage (setMbox (setMbox s c m1) c { m1 with msgs := [msg] }) j2 c t2 w.arg msg [] = .ok s1 →
        exec (.mailboxArrive c j msg) s = .next (finishWait s1 j2 [(w.dst, 0)] (s.clk + 10) s.clk))) ∧
    (∀ c h, s.posts = [h] → postsFor s c h = true → h.next ≤ s.clk → mboxFull s c = false → (mboxOf s c).notifier = none →
      firstReceiver s c = none → ∃ u, exec (.postRetry c) s = .next u ∧ (mboxOf u c).msgs = (mboxOf s c).msgs ++ [h.msg] ∧
        u.posts = [] ∧ u.agenda = s.agenda) ∧
    (∀ c h, s.posts = [h] → postsFor s c h = true → h.next ≤ s.clk → mboxFull s c = true → ∃ u, exec (.postRetry c) s = .next u ∧
      u.posts = [{ h with next := s.clk + 256 }] ∧ (s.clk + 256, Instr.postRetry c) ∈ u.agenda) ∧
    (∀ c h, s.posts = [h] → s.clk < h.next → exec (.postRetry c) s = .next s) ∧
    (∀ c h, s.posts = [h] → h.part = none → h.core = c → h.next ≤ s.clk → (mboxOf s c).notifier = none →
      (mboxFull s c = false → firstReceiver s c = none → ∃ u, exec (.heldMbsendRetry c) s = .next u ∧ u.posts = [] ∧
        (mboxOf u c).msgs = (mboxOf s c).msgs ++ [h.msg]) ∧
      (mboxFull s c = true → ∃ u, exec (.heldMbsendRetry c) s = .next u ∧ u.posts = [{ h with next := s.clk + 256 }] ∧
        (s.clk + 256, Instr.heldMbsendRetry c) ∈ u.agenda))

/-- 10 R236 to R239, 19 R457: a walk that finds a granting entry wakes its thread, one that does not posts the fault; a reply
repeats the walk, traps, or kills, and an unknown token is discarded; the watchdog interrupts or kills the service thread when
its count is up. The clk the watchdog counts from is the model's reading (Log 48). -/
def Obligations.FaultRepliesAndWatchdog : Prop :=
  ∀ (s : State) (k : Nat) (t : Thread), thr s k = some t →
    (∀ w va kind r, waitOf t = some w → w.kind = .translation → walkResult s (portOf k) (partOf t) (BitVec.toNat va) (kind % 8) = .ok r →
      exec (.translationWalk k va kind) s = .next (modThr r.2.2 k (fun u =>
        { u with run := .ready, again := waitOf u, earliest := max u.earliest (s.clk + r.2.1) }))) ∧
    (∀ w va kind e, waitOf t = some w → w.kind = .translation → walkResult s (portOf k) (partOf t) (BitVec.toNat va) (kind % 8) = .error e →
      exec (.translationWalk k va kind) s = .next (enterFault e.2.2 k w.words e.1 (kind % 8) (kind / 8) va.toNat e.2.1)) ∧
    (∀ port p v kind x rest, s.walks.getD port [] = rest ++ [x] → x.due ≤ s.clk → walkFor p v x = true →
      walkResult s port p v kind = granted v kind (x.entry, 0, tlbNow s port)) ∧
    (∀ core token action, s.tokens.get? (BitVec.toNat token) = none → exec (.faultReply core token action) s = .next s) ∧
    (∀ w token cause addr, waitOf t = some w → w.kind = .translation →
      s.tokens.get? (BitVec.toNat token) = some (k, cause, addr) → w.key = token.toNat → k < 8192 →
      let s1 := { s with tokens := s.tokens.del token.toNat }
      exec (.faultReply (k / 64) token 0) s =
        .next (sched (walkAgain s1 (portOf k) (partOf t) addr.toNat).1 (s.clk + (walkAgain s1 (portOf k) (partOf t) addr.toNat).2)
          (.translationWalk k addr w.arg.toNat)) ∧
      exec (.faultReply (k / 64) token 1) s = .next (failWait s1 k w cause addr) ∧
      exec (.faultReply (k / 64) token 2) s = .next (killThread s1 k cause addr t.pc)) ∧
    (∀ part, sprPart s part rWDOGLIM = 0 → exec (.watchdogExpiry part) s = .next s) ∧
    (∀ part, let lim := (sprPart s part rWDOGLIM).toNat
      lim ≠ 0 → s.wdog.getD part 0 + lim ≤ s.clk → svcThread s part = some k → ∃ u, exec (.watchdogExpiry part) s = .next u ∧
        u.wdog.get? part = some s.clk ∧ (s.clk + lim, Instr.watchdogExpiry part) ∈ u.agenda ∧
        (thOf t = false → thr u k = some { t with deferred := t.deferred ++ [(0x7E, BitVec.ofNat 64 lim)] }) ∧
        (thOf t = true → ∃ v, thr u k = some v ∧ v.run = .ending)) ∧
    (∀ part, let lim := (sprPart s part rWDOGLIM).toNat
      lim ≠ 0 → s.clk < s.wdog.getD part 0 + lim → ∃ u, exec (.watchdogExpiry part) s = .next u ∧
        u = { s with agenda := u.agenda } ∧ (s.wdog.getD part 0 + lim, Instr.watchdogExpiry part) ∈ u.agenda)

/-! Slot tables, bindings, worlds (15, 16, 07). -/

/-- 15 R344, R345, R351 to R355: slotw takes effect at the next clk of rotation index 0 and answers the entry it found; sbind
binds slabs to a core without threads, a newly named slab reads as zero, and answers the old entry; each refusal has its
cause. SPACING after a slotw is the model's reading (Log 46). -/
def Obligations.SlotsAndBindings : Prop :=
  ∀ (f : RForm) (s : State) (k : Nat) (t : Thread),
    let a := readG s t f.a.toNat
    let v := opbReg s t f
    let c := bits a 0 7
    let e := bits a 8 4
    let base := s.dspr.getD rBINDBASE 0
    (issues (.slotwWrite f) s k t = true → slotBad s t a false = none → slotValueBad s a v = none →
      let regs := if f.d = 0 then [] else [(regId t f.d.toNat, slotEntry s c e)]
      let s1 := modThr { s with nextId := s.nextId + 1 } k (fun u => { u with sb := u.sb ++ [⟨s.nextId, (s.clk / 16 + 1) * 16, regs, []⟩] })
      Does (.slotwWrite f) s k t { s1 with slotReq := s.slotReq ++ [⟨c, fixedSet e (bits a 12 2), v, k, s.nextId⟩] }) ∧
    (issues (.slotwRead f) s k t = true → slotBad s t a true = none →
      Does (.slotwRead f) s k t (putScored s k ((s.clk / 16 + 1) * 16) [(f.d.toNat, slotActs s c e)] [])) ∧
    (∀ r : SlotReq, s.slotReq = [r] → (applySlotReqs s).slotNow = (applySlotReq { s with slotNow := [] } r).slotNow ∧
      (applySlotReqs s).slotReq = []) ∧
    (issues (.slotwWrite f) s k t = true → slotBad s t a false = none → ∀ cause info, slotValueBad s a v = some (cause, info) →
      Traps (.slotwWrite f) s s k cause info t.pc) ∧
    (bit a 7 = false → bits a 14 50 = 0 → bits a 12 2 ≠ 3 → t.host = false → coreIn s (partOf t) c = false →
      slotBad s t a false = some (0x06, a)) ∧
    (∀ r : SlotReq, s.threads = [] → r.core < 128 → scanRuns s 0 = false ∨ coreIn s 0 r.core = false → ∀ i ∈ r.set, i < 16 →
      slotEntry (applySlotReq s r) r.core i = setBits r.value 15 1 (if slotShedBit (slotEntry s r.core i) then 1 else 0)) ∧
    (issues (.sbindWrite f) s k t = true →
      (128 ≤ a.toNat → Traps (.sbindWrite f) s s k 0x07 a t.pc) ∧
      (a.toNat < 128 → bit base 0 = true ∨ (t.host = false ∧ partOf t ≠ bits base 8 4) → Traps (.sbindWrite f) s s k 0x06 a t.pc) ∧
      (a.toNat < 128 → bit base 0 = false → t.host = true ∨ partOf t = bits base 8 4 →
        (bindOk s a.toNat v = false → Traps (.sbindWrite f) s s k 0x7A v t.pc) ∧
        (bindOk s a.toNat v = true → s.threads.any (fun q => !q.2.host && coreOf q.1 == a.toNat) = true →
          Traps (.sbindWrite f) s s k 0x1F a t.pc) ∧
        (bindOk s a.toNat v = true → s.threads.any (fun q => !q.2.host && coreOf q.1 == a.toNat) = false →
          ∃ s1 lat, Does (.sbindWrite f) s k t (putScored s1 k (s1.clk + lat) [(f.d.toNat, bindEntry s a.toNat)] []) ∧
            bindEntry s1 a.toNat = v ∧ (∀ n, n ≠ a.toNat → bindEntry s1 n = bindEntry s n) ∧
            (∀ x, x ∈ entrySlabs v → x ∉ entrySlabs (bindEntry s a.toNat) → ∀ o, o < 524288 →
              rdMem s1 (0x8000000000000 + x * 524288 + o) = 0) ∧
            (Memory.wf s.mem = true → ∀ x, x < 0x8000000000000 → rdMem s1 x = rdMem s x) ∧ s1.threads = s.threads))) ∧
    (issues (.sbindRead f) s k t = true → a.toNat < 128 →
      Does (.sbindRead f) s k t (putScored s k (s.clk + 64) [(f.d.toNat, bindEntry s a.toNat)] []))

/-- 16 R375 to R380, R382 to R386, 07 R161: fork makes a pod, its views and rivals; wjoin waits for their ends; choose commits
the rival named, or none, and choose with Q = 1 the best; wend and tend end a thread; the refusals of R379 to R385. 16 R386 to
R394: what ends views: a fold and a sweep free the identifier, a committed view's bytes become its parent's, a line that
leaves L2 is written to the shadow frame that the map entry of its granule names, at its offset within the granule, with its bit
of LINES set, an entry being made at the lowest invalid position of its bucket, with a free frame, where the view has none; or it
fails its view; and rivals are placed one in a clk. The clk that a sweep, a fold and a rival's next try take are the model's
choice (Logs 11, 18, 40). -/
def Obligations.Worlds : Prop :=
  (∀ (f : RForm) (z : ZForm) (s : State) (k : Nat) (t : Thread),
      let p := partOf t
      let h := readG s t f.a.toNat
      let b := opbReg s t f
      let ends (i : Instr) (s1 : State) : Prop :=
        exec i s = .next (tick (modThr { beginEnd s1 k with free := max (beginEnd s1 k).free s.free } k (fun u => { u with again := none })))
      (∀ a g r s1 at_ i, issues (.fork f) s k t = true → 2 ≤ h.toNat → h.toNat ≤ 64 →
        ea t (readG s t f.b.toNat) 32 needR = .ok a → a % 8 = 0 → loadRange s k t (readG s t f.b.toNat) a 32 = .ok g → forkRec g.bytes = r →
        r.good = true → bits (getSpr t rWDEPTH) 0 3 ≠ 4 →
        (r.stride = 0 ∨ (segValid (segOf t 7) = true ∧ r.woff + h.toNat * r.stride ≤ segLimit (segOf t 7) + 1)) →
        poolEn g.s p r.pool = true → freePods g.s p = some i → h.toNat ≤ (freeViews g.s p).length → releaseAt g.s k t 3 = .done s1 at_ →
        let q := forkPod s1 k t f.d.toNat (wordsOf (.fork f)) r i ((freeViews g.s p).take h.toNat)
        Does (.fork f) s k t (sched (putScored q.1 k (at_ + 40) [(f.d.toNat, BitVec.ofNat 64 q.2)] []) at_ (.rivalPlace p))) ∧
      (issues (.fork f) s k t = true → h.toNat < 2 ∨ 64 < h.toNat → Traps (.fork f) s s k 0x49 h t.pc) ∧
      (issues (.wjoin f) s k t = true →
        (podIndex s p h = none → Traps (.wjoin f) s s k 0x07 h t.pc) ∧
        (∀ i, podIndex s p h = some i →
          (podOwnedBy s p i k = false → Traps (.wjoin f) s s k 0x45 h t.pc) ∧
          (podOwnedBy s p i k = true → podEnded s p i < podCount s p i → exec (.wjoin f) s = .next (tick (enterWait s k
            (wordsOf (.wjoin f)) { kind := .join, key := i, cause := 0x46, info := BitVec.ofNat 64 (2 ^ 63 + h.toNat) }))) ∧
          (podOwnedBy s p i k = true → podCount s p i ≤ podEnded s p i →
            let s1 := setCtlF s (podEnt p i) 16 8 2
            let q := acquireAt s1 k t 3
            Does (.wjoin f) s k t (holdUntil (putScored q.1 k (q.1.clk + 8) [(f.d.toNat, podMask s p i)] []) k (s.clk + q.2))))) ∧
      (∀ i, podIndex s p h = some i → podOwnedBy s p i k = true →
        (issues (.choose f) s k t = true → podState s p i ≠ 2 → Traps (.choose f) s s k 0x46 h t.pc) ∧
        (issues (.choose f) s k t = true → podState s p i = 2 → b.toInt ≠ -1 →
          (b.toInt < 1 ∨ (podCount s p i : Int) < b.toInt ∨ ∀ r ∈ soundRivals s p i, r.1 ≠ b.toNat) →
          Traps (.choose f) s s k 0x47 b t.pc) ∧
        (podState s p i = 2 → viewOf t = 0 → ∀ s1 at_, releaseAt s k t 3 = .done s1 at_ →
          let drop (a : State) : State := (upFrom 1 (podCount s p i)).foldl (fun x n => match rivalView x p i n with
            | some v => discardView x p v h false
            | none => x) a
          let finish (a : State) (j : Nat) : State := modThr (setCtlF (acquireAt (drop a) k t 3).1 (podEnt p i) 16 8 0) k
            (fun u => setGpr u f.d.toNat (BitVec.ofNat 64 j))
          let took (ins : Instr) (j v : Nat) : Prop := rivalView s p i j = some v →
            Does ins s k t (holdUntil (finish (commitView s1 k t p v).1 j) k
              (at_ + max (40 + 2 * podCount s p i) (commitView s1 k t p v).2))
          (issues (.choose f) s k t = true → b.toInt = -1 →
            Does (.choose f) s k t (holdUntil (finish s1 0) k (at_ + (40 + 2 * podCount s p i)))) ∧
          (issues (.choose f) s k t = true → 1 ≤ b.toInt → b.toInt ≤ (podCount s p i : Int) →
            ∀ v, (b.toNat, v) ∈ soundRivals s p i → took (.choose f) b.toNat v) ∧
          (issues (.chooseMin f) s k t = true → soundRivals s p i = [] →
            Does (.chooseMin f) s k t (holdUntil (finish s1 0) k (at_ + (40 + 2 * podCount s p i)))) ∧
          (issues (.chooseMin f) s k t = true → ∀ j v, (j, v) ∈ soundRivals s p i →
            (∀ r ∈ soundRivals s p i, r ≠ (j, v) → rivalBefore s p (podUns s p i) (getSpr t rTIESEED) (j, v) r = true ∧
              rivalBefore s p (podUns s p i) (getSpr t rTIESEED) r (j, v) = false) → j ≠ 0 → took (.chooseMin f) j v))) ∧
      (issues (.wend f) s k t = true → podOf t = 0 ∨ t.rival = 0 → Traps (.wend f) s s k 0x48 0 t.pc) ∧
      (∀ s2 at_, issues (.wend f) s k t = true → podOf t ≠ 0 → t.rival ≠ 0 → matBusy s k = false →
        let s1 := wrCtl s (viewEnt p (viewOf t) + 8) h
        chainsQuiet s1 p (viewOf t) = true → releaseAt s1 k t 3 = .done s2 at_ →
        ends (.wend f) (markRivalEnd (modThr s2 k (fun u => { u with stPerform := max u.stPerform at_ })) t false)) ∧
      (issues (.tend z) s k t = true → (t.host = true ∨ svcThread s p ≠ some k) → matBusy s k = false → t.rival = 0 → ends (.tend z) s) ∧
      (issues (.tend z) s k t = true → t.host = false → svcThread s p = some k → ∃ info, Traps (.tend z) s s k 0x07 info t.pc)) ∧
  (∀ (s : State) (p v : Nat),
      (viewState s p v = 3 → ∃ u, exec (.viewFold p v) s = .next u ∧ viewState u p v = 0 ∧ SameMemory s u ∧ u.threads = s.threads) ∧
      (viewState s p v ≠ 3 → exec (.viewFold p v) s = .next s) ∧
      (viewState s p v = 4 → ∃ u, exec (.viewSweep p v) s = .next u ∧ viewState u p v = 0 ∧ u.threads = s.threads) ∧
      (viewState s p v ≠ 4 → exec (.viewSweep p v) s = .next s) ∧
      (∀ line, v = 0 ∨ s.vmem.get? (verKey p v (lineOf line)) = none → exec (.shadowFrameWriteout p v line) s = .next s) ∧
      (∀ line, v ≠ 0 → s.vmem.get? (verKey p v (lineOf line)) ≠ none → shadowFind s p v (lineOf line / 4096) = none →
        poolEn s p (poolOf s p v) = false → viewKind s p v = 0 →
        ∃ u m, exec (.shadowFrameWriteout p v line) s = .next u ∧ viewFailed u p v = true ∧ u.posts = s.posts ++ [m] ∧
          fieldOf m.msg 0 1 = 0x41 ∧ u.mem = s.mem ∧ (∀ i, i < 64 → u.vmem.get? (verKey p v (lineOf line) + i) = none)) ∧
      (∀ part, s.rivals.filter (fun r => r.part == part) = [] → ∃ u, exec (.rivalPlace part) s = .next u ∧ u.threads = s.threads ∧
        u.rivals = s.rivals) ∧
      (∀ part r rest, s.rivals.filter (fun r => r.part == part) = r :: rest → s.clk < s.tried.getD part 0 →
        ∃ u, exec (.rivalPlace part) s = .next u ∧ u.rivals = s.rivals ∧ u.threads = s.threads ∧
          (s.tried.getD part 0, Instr.rivalPlace part) ∈ u.agenda) ∧
      (∀ part r rest, s.rivals.filter (fun r => r.part == part) = r :: rest → s.tried.getD part 0 ≤ s.clk →
        (∀ c ∈ rivalCores (unsched s (fun i => i == .rivalPlace part)) r, putRival (unsched s (fun i => i == .rivalPlace part)) r c = none) →
        ∃ u, exec (.rivalPlace part) s = .next u ∧ u.rivals = s.rivals ∧ u.threads = s.threads ∧
          (s.clk + 64, Instr.rivalPlace part) ∈ u.agenda) ∧
      (∀ part r rest c s1, s.rivals = r :: rest → r.part = part → s.tried.getD part 0 ≤ s.clk →
        (rivalCores (unsched s (fun i => i == .rivalPlace part)) r).head? = some c →
        putRival (unsched s (fun i => i == .rivalPlace part)) r c = some s1 → s1.rivals = s.rivals →
        ∃ u, exec (.rivalPlace part) s = .next u ∧ u.rivals = rest ∧ u.threads = s1.threads)) ∧
  (∀ (s : State) (p v line : Nat), v ≠ 0 → v < 1024 → s.vmem.get? (verKey p v (lineOf line)) ≠ none →
      let pl := lineOf line
      let bit_ := pl / 64 % 64
      let moved (u : State) (e at_ lines : Nat) : Prop :=
        exec (.shadowFrameWriteout p v line) s = .next u ∧ (∀ i, i < 64 → rdMem u (at_ + i) = ownByte s p v (pl + i)) ∧
        rdMemN u (e + 8) 8 = lines ∧ (∀ i, i < 64 → u.vmem.get? (verKey p v pl + i) = none) ∧ u.threads = s.threads ∧
        u.posts = s.posts ∧ ∀ a, (a < at_ ∨ at_ + 64 ≤ a) → (a < e ∨ e + 32 ≤ a) → rdMem u a = rdMem s a
      (∀ e at_, shadowFind s p v (pl / 4096) = some e →
        at_ = poolBase s p (rdMemN s (e + 0x14) 1 % 16) + rdMemN s (e + 0x10) 4 * 4096 + pl % 4096 → at_ + 64 ≤ e ∨ e + 32 ≤ at_ →
        ∃ u, moved u e at_ (rdMemN s (e + 8) 8 ||| 2 ^ bit_) ∧ ∀ a, e ≤ a → a < e + 8 → rdMem u a = rdMem s a) ∧
      (∀ i j fr, i = poolOf s p v → shadowFind s p v (pl / 4096) = none → poolEn s p i = true → poolMap s p i ≠ 0 →
        let b := shadowBucket s p i v (pl / 4096)
        firstFrom (fun j => rdMemN s (b + 32 * j) 8 / 2 ^ 63 == 0) 0 8 = some j → freeFrame s p i = some fr →
        ∃ u, moved u (b + 32 * j) (poolBase s p i + fr * 4096 + pl % 4096) (2 ^ bit_) ∧
          rdMemN u (b + 32 * j) 8 = pl / 4096 % 2 ^ 40 + v * 2 ^ 40 + 2 ^ 63 ∧ rdMemN u (b + 32 * j + 0x10) 4 = fr ∧
          rdMemN u (b + 32 * j + 0x14) 12 = i))

/-! Nodes, sprouts, the dispatcher, husks, thermal control (13, 15). -/

/-- 13 R301, R305 to R307: launch checks a record and queues its node, or writes the status into it; spawn adds a sprout at
the end of its core's deque, and take gives back the newest. When no core can carve is the model's reading (Log 56). -/
def Obligations.NodesAndSprouts : Prop :=
  ∀ (f : RForm) (s : State) (k : Nat) (t : Thread) (a : Nat),
    let ptr := readG s t f.a.toNat
    let deque (x : State) : List Sprout := x.deques.getD (coreOf k) []
    (issues (.launch f) s k t = true → viewOf t ≠ 0 → Traps (.launch f) s s k 0x4B ptr t.pc) ∧
    (∀ g s1 at_ key, issues (.launch f) s k t = true → viewOf t = 0 → ea t ptr 128 needRW = .ok a → a % 128 = 0 →
      loadRange s k t ptr a 128 = .ok g → releaseAt g.s k t 3 = .done s1 at_ → recordLoc s1 k t ptr a = some key →
      nodeOf s1 key = none →
      let bs := (upFrom key 128).map (rdMem s1)
      let st := launchStatus s1 (if t.host || supOf t then none else some (partOf t)) bs (fieldOf bs 0x50 1)
      let hb := ((tailExt f.t).map (fun e => e.hb.toNat)).getD 0
      let answers (s2 : State) : Prop :=
        Does (.launch f) s k t (holdUntil (putScored s2 k (s.clk + g.lat + 24) [(f.d.toNat, BitVec.ofNat 64 st)] []) k at_)
      (st = 0 → answers (acceptNode s1 key bs (BitVec.ofNat 64 a) (launchHint k t hb a)) ∧
        ∃ n, (acceptNode s1 key bs (BitVec.ofNat 64 a) (launchHint k t hb a)).nodes.get? key = some n ∧
          n.state = (if fieldOf bs 0x20 4 = 0 then 2 else 1) ∧ n.count = fieldOf bs 0x10 4 ∧ n.entry = BitVec.ofNat 64 (fieldOf bs 0 8) ∧
          (fieldOf bs 0x20 4 = 0 → n.qclk = s1.clk)) ∧
      (st ≠ 0 → answers { wrMem s1 (key + 0x51) (BitVec.ofNat 8 st) with nodes := s1.nodes })) ∧
    (∀ s1 own bs known, nodeZeros bs = false → launchStatus s1 own bs known = 0x01) ∧
    (∀ g key, issues (.spawn f) s k t = true → t.node = some key → ea t ptr 32 needR = .ok a → a % 8 = 0 →
      loadRange s k t ptr a 32 = .ok g → allZero (g.bytes.drop 0x1A) = true → fieldOf g.bytes 0 8 < 2 ^ 52 →
      fieldOf g.bytes 0x18 2 = podOf t →
      (64 ≤ (deque g.s).length → Traps (.spawn f) s g.s k 0x37 0 t.pc) ∧
      ((deque g.s).length < 64 → ∃ s1, Does (.spawn f) s k t
          (putScored s1 k (s1.clk + (g.lat + 4)) [(f.d.toNat, BitVec.ofNat 64 ((deque g.s).length + 1))] []) ∧
        deque s1 = deque g.s ++ [⟨g.bytes, key, viewOf t, bits (getSpr t rWDEPTH) 0 3, podOf t⟩] ∧ s1.threads = g.s.threads ∧
        ∀ n, g.s.nodes.get? key = some n → ∃ m, s1.nodes.get? key = some m ∧ m.sprouts = n.sprouts + 1)) ∧
    (issues (.spawn f) s k t = true → t.node = none → Traps (.spawn f) s s k 0x07 0 t.pc) ∧
    (issues (.take f) s k t = true → t.host = false → ea t ptr 32 needW = .ok a → a % 8 = 0 →
      (deque s = [] → Does (.take f) s k t (putScored s k (s.clk + 10) [(f.d.toNat, 0)] [])) ∧
      (∀ x g, (deque s).getLast? = some x → storeRange s k t ptr a x.bytes = .ok g →
        let s1 := { g.s with deques := g.s.deques.put (coreOf k) (deque g.s).dropLast }
        let s2 := modNode (noteStore s1 k g) x.node (fun n => { n with sprouts := n.sprouts - 1 })
        let s3 := rivalCheck (nodeDone s2 x.node k t) (partOf t) x.view
        Does (.take f) s k t (putScored s3 k (s3.clk + 10) [(f.d.toNat, 1)] [])))

/-- 13 R302, R303, R308, 02 R29, R46, 15 R349: a core starts its oldest sprout, an idle core steals another's, an ended thread
frees its context, a dispatcher's reply goes on with the successors, and the service thread is started or its status is
written. The segments of a launch without a service thread are the model's reading (Log 26). -/
def Obligations.ThreadStartsAndEnds : Prop :=
  ∀ (s : State),
    (∀ core, s.deques.getD core [] = [] → exec (.sproutLocalStart core) s = .next s) ∧
    (∀ core x a, s.deques.getD core [] = [x] → startSprout s core x = some a →
      exec (.sproutLocalStart core) s = .next { a with deques := a.deques.put core [] }) ∧
    (∀ core x r, s.deques.getD core [] = x :: r → startSprout s core x = none →
      exec (.sproutLocalStart core) s = .next (sched s (s.clk / 64 * 64 + 64) (.sproutLocalStart core))) ∧
    (∀ core p v x r a, partOfCore s core = some p → (∀ q ∈ s.agenda, ∀ c, q.2 ≠ .sproutLocalStart c) →
      (∀ q ∈ s.threads, q.2.host = false → coreOf q.1 = core → isReady s q.2 = false) → ctxFree s core 0 = true →
      stealFrom s p core = some v → s.deques.getD v [] = x :: r → startSprout s core x = some a →
      ∃ u, exec (.sproutSteal core) s = .next u ∧ u.deques.getD v [] = r ∧ u.threads = a.threads) ∧
    (∀ core, partOfCore s core = none → exec (.sproutSteal core) s = .next s) ∧
    (∀ k t s1 at_, thr s k = some t → t.run = .ending → releaseAt s k t 3 = .done s1 at_ → t.held = [] → t.groups = [] →
      (t.host = true ∨ (viewOf t = 0 ∧ redundOf t = 0 ∧ s1.viewEnd.get? (partOf t * 1024) = none)) → matBusy s1 k = false → s1.tlNote = [] → ownedPods s1 (partOf t) k = [] → svcThread s1 (partOf t) ≠ some k →
      t.node = none → ∃ u, exec (.threadEnd k) s = .next u ∧ u.threads.get? k = none ∧
        (∀ j, j ≠ k → u.threads.get? j = s1.threads.get? j) ∧ u.mem = s1.mem) ∧
    (∀ k t, thr s k = some t → t.run ≠ .ending → exec (.threadEnd k) s = .next s) ∧
    (∀ part token action, s.succWait.find? (fun q => q.1 == part && q.2.2.2 == BitVec.toNat token) = none →
      exec (.dispatcherFaultReply part token action) s = .next s) ∧
    (∀ part token p key addrs tk, s.succWait.find? (fun q => q.1 == part && q.2.2.2 == BitVec.toNat token) = some (p, key, addrs, tk) →
      let rest := s.succWait.filter (fun q => q.2.2.2 != tk)
      let s1 := { s with succWait := rest, tokens := s.tokens.del tk }
      (s.tokens.get? tk = none → exec (.dispatcherFaultReply part token 0) s = .next (runSuccs p key addrs s1)) ∧
      (∀ x, s.tokens.get? tk = some x →
        exec (.dispatcherFaultReply part token 0) s = .next (runSuccs p key addrs (walkAgain s1 0 p x.2.2.toNat).1)) ∧
      exec (.dispatcherFaultReply part token 1) s = .next s1 ∧ exec (.dispatcherFaultReply part token 2) s = .next s1) ∧
    (∀ part, startStatus s part ≠ 0 → startStatus s part < 16 → ∃ u, exec (.serviceThreadStart part) s = .next u ∧
      ctlF u (partBase part) 4 4 = startStatus s part ∧ u.threads = s.threads) ∧
    (∀ part, startStatus s part = 0 → part < 16 → ∃ u t,
      let w := rdCtl s (partBase part + 0x18)
      let k := bits w 0 7 * 64 + bits w 8 6
      exec (.serviceThreadStart part) s = .next u ∧ thr u k = some t ∧ t.pc = rdCtl s (partBase part + 8) ∧ supOf t = true ∧
        t.host = false ∧ t.gpr.getD 2 0 = rdCtl s (partBase part + 0x10) ∧ partOf t = part ∧ svcThread u part = some k ∧
        (∀ i, i < 8 → t.segs.getD i 0 = svcSeg s part i) ∧ (∀ j, j ≠ k → thr u j = thr s j))

/-- 13 R303, 15 R357 to R365: a dispatcher's try places one task, or asks for a pre-emption; fill restores a husk, spill
writes one, each with its status; the spill engine moves a pre-empted thread's husk, or the thread resumes where nobody waits
for its room when the engine is about to begin. Retries every 256 clk, the spill engine's time and one victim a clk are the model's choice (Logs 11, 27, 60). -/
def Obligations.DispatchAndHusks : Prop :=
  ∀ (f : RForm) (s : State) (k : Nat) (t : Thread),
    let a := readG s t f.a.toNat
    let v := opbReg s t f
    let after (i : Instr) (s1 : State) (lat n : Nat) : Prop :=
      Does i s k t (putScored s1 k (s1.clk + lat) [(f.d.toNat, BitVec.ofNat 64 n)] [])
    (issues (.fill f) s k t = true →
      let p := if t.host then 0 else partOf t
      let want := if bit v 15 then none else some (bits v 8 6)
      let c := bits v 0 7
      (bits v 7 1 ≠ 0 ∨ bits v 14 1 ≠ 0 ∨ bits v 16 48 ≠ 0 → Traps (.fill f) s s k 0x07 v t.pc) ∧
      (bits v 7 1 = 0 → bits v 14 1 = 0 → bits v 16 48 = 0 → huskEn s p = false ∨ huskCount s p ≤ a.toNat →
        Traps (.fill f) s s k 0x07 a t.pc) ∧
      (bits v 7 1 = 0 → bits v 14 1 = 0 → bits v 16 48 = 0 → huskEn s p = true → a.toNat < huskCount s p →
        (fillStatus s p a.toNat c want ≠ 0 → after (.fill f) s 1 (2 ^ 63 + fillStatus s p a.toNat c want)) ∧
        (∀ r, let slot := huskSlot s p a.toNat
          let x := huskThread s p slot
          fillStatus s p a.toNat c want = 0 → roomFor s c x want = some r → huskRead s slot x = (s, false) →
          after (.fill f) (restore s p slot c r (huskShare s c x)) (huskTime x) r.1))) ∧
    (issues (.spill f) s k t = true →
      let c := bits a 0 7
      let key := c * 64 + bits a 8 6
      let p := if t.host then (partOfCore s c).getD 0 else partOf t
      let bad : Prop := bits a 7 1 ≠ 0 ∨ bits a 14 50 ≠ 0 ∨ coreIn s p c = false ∨ key = k ∨ svcThread s p = some key ∨ scanRuns s p = true
      (bad → Traps (.spill f) s s k 0x07 a t.pc) ∧
      (¬ bad → freeHusk s p = none → after (.spill f) s 1 (2 ^ 63 + 1)) ∧
      (∀ i, ¬ bad → freeHusk s p = some i → thr s key = none → after (.spill f) s 1 (2 ^ 63 + 2)) ∧
      (∀ i x, ¬ bad → freeHusk s p = some i → thr s key = some x → x.run ≠ .incoming → x.run ≠ .ending → x.park ≠ .spilling →
        (x.park = .filled → x.earliest ≤ s.clk) →
        let s1 := parkThread s key .spilling
        let u := (thr s1 key).getD x
        matBusy s1 key = false →
        (u.earliest ≤ s1.clk → saveCheck s1 key (huskSlot s1 p i) u = (s1, false) →
          after (.spill f) (spillThread s1 key (huskSlot s1 p i) s1.clk) (huskTime u + 56) i) ∧
        (s1.clk < u.earliest → exec (.spill f) s = .next (tick (enterWait s1 k (wordsOf (.spill f))
          { kind := .result, key := u.earliest, arg := BitVec.ofNat 64 (key + 1) }))))) ∧
    (∀ part, nextHusk s part = none → exec (.huskAutoFill part) s = .next s) ∧
    (∀ part i c r, let slot := huskSlot s part i
      let x := huskThread s part slot
      nextHusk s part = some (i, c) → roomFor s c x none = some r → huskRead s slot x = (s, false) →
      exec (.huskAutoFill part) s = .next (restore s part slot c r (huskShare s c x))) ∧
    (∀ part, waitingNode s part = none → exec (.preemptPark part) s = .next s) ∧
    (∀ part key n j rest, waitingNode s part = some (key, n) → (freeHusk s part).isSome = true → preemption s key n = some (j :: rest) →
      ((thr s j).map (fun x => x.park != .preempted && x.park != .spilling)) = some true →
      ∃ u x, exec (.preemptPark part) s = .next u ∧ thr u j = some x ∧ x.run = .parked ∧ x.park = .preempted ∧
        (s.clk + 1, Instr.preemptPark part) ∈ u.agenda ∧ ∃ due, (due, Instr.huskSpill j) ∈ u.agenda) ∧
    (∀ j x, thr s j = some x → x.run ≠ .parked ∨ (x.park ≠ .preempted ∧ x.park ≠ .spilling) → exec (.huskSpill j) s = .next s) ∧
    (∀ j x, thr s j = some x → x.run = .parked → x.park = .preempted → matBusy s j = false → waitingNode s (partOf x) = none →
      ∃ u y, exec (.huskSpill j) s = .next u ∧ thr u j = some y ∧ y.run = .ready ∧ y.park = .none ∧ u.mem = s.mem) ∧
    (∀ j x i, thr s j = some x → x.run = .parked → freeHusk s (partOf x) = some i →
      (∀ key n, x.park = .preempted → matBusy s j = false → waitingNode s (partOf x) = some (key, n) →
        victim s key (effPriority s n) (j, x) = true →
        exec (.huskSpill j) s = .next (sched (setThr s j { x with park := .spilling }) (s.clk + huskTime x) (.huskSpill j))) ∧
      (x.park = .spilling → saveCheck s j (huskSlot s (partOf x) i) x = (s, false) →
        exec (.huskSpill j) s = .next (spillThread s j (huskSlot s (partOf x) i) (s.clk - huskTime x)))) ∧
    (∀ part, let s0 := resumeFilled (unsched s (fun i => i == .dispatchPlace part)) part
      (s0.clk < s0.tried.getD part 0 → exec (.dispatchPlace part) s = .next (sched s0 (s0.tried.getD part 0) (.dispatchPlace part))) ∧
      (s0.tried.getD part 0 ≤ s0.clk → partRivals s0 part = [] → nextHusk s0 part = none →
        (∀ s1, tryNodes false (queued s0 part) s0 = .placed s1 →
          let s2 := { s1 with tried := s1.tried.put part (s1.clk + 1) }
          (dispatchLeft s2 part = false → exec (.dispatchPlace part) s = .next s2) ∧
          (dispatchLeft s2 part = true → exec (.dispatchPlace part) s = .next (sched s2 (s2.clk + 1) (.dispatchPlace part)))) ∧
        (∀ s1, tryNodes false (queued s0 part) s0 = .forks s1 →
          exec (.dispatchPlace part) s = .next { s1 with lateDisp := s1.lateDisp ++ [part] }) ∧
        (∀ s1, tryNodes false (queued s0 part) s0 = .idle s1 → dispatchLeft s1 part = true →
          exec (.dispatchPlace part) s = .next (sched s1 (s1.clk + 256) (.dispatchPlace part))) ∧
        (∀ s1 key n, tryNodes false (queued s0 part) s0 = .blocked s1 key n → dispatchLeft s1 part = true →
          exec (.dispatchPlace part) s =
            .next (sched (sched s1 (s1.clk + 256) (.dispatchPlace part)) s1.clk (.preemptPark part))))) ∧
    (∀ key n tid c c' a, taskOn s key n tid c = some a → taskFirst s key n tid (c :: c') = some (countTask a key c))

/-- 15 R366 to R371: temperatures and their ranking, one entry shed at a time and its owner displaced, shed bits cleared on a
core that has cooled, an idle core gated and woken again. The clk of a displacement and of a wake, and that readings come from
outside, are the model's choice (Logs 7, 11, 59). -/
def Obligations.ThermalControl : Prop :=
  ∀ (s : State),
    (thermOn s = false → ∀ temps c, c < 128 → temps.length = 128 → ∃ u, exec (.thermalRankingUpdate temps) s = .next u ∧
      tempOf u c = (temps.getD c 0).toNat ∧ u.slots = s.slots) ∧
    (∀ core, thermOn s = false ∨ packGate s = true ∨ s.hot.getD core false = false ∨ thermExempt s core = true →
      exec (.slotShed core) s = .next s) ∧
    (∀ core i, thermOn s = true → packGate s = false → s.hot.getD core false = true → thermExempt s core = false →
      shedNext s core = some i → slotKind (slotEntry s core i) = 2 → ∃ u, exec (.slotShed core) s = .next u ∧
        slotEntry u core i = setBits (slotEntry s core i) 15 1 1 ∧ (∀ j, j < 16 → j ≠ i → slotEntry u core j = slotEntry s core j) ∧
        (s.clk + 65536, Instr.slotShed core) ∈ u.agenda ∧ u.threads = s.threads) ∧
    (∀ core i, thermOn s = true → packGate s = false → s.hot.getD core false = true → thermExempt s core = false →
      shedNext s core = some i → slotKind (slotEntry s core i) = 1 → ∃ u, exec (.slotShed core) s = .next u ∧
        slotEntry u core i = setBits (slotEntry s core i) 15 1 1 ∧
        (∀ t, thr s (core * 64 + slotCtx (slotEntry s core i)) = some t → t.run ≠ .ending →
          ∃ x, thr u (core * 64 + slotCtx (slotEntry s core i)) = some x ∧ x.run = .parked ∧ x.park = .displaced)) ∧
    (∀ core, s.hot.getD core false = true → exec (.shedClear core) s = .next s) ∧
    (∀ core, s.hot.getD core false = false → ∃ u, exec (.shedClear core) s = .next u ∧
      ∀ i, i < 16 → slotEntry u core i = setBits (slotEntry s core i) 15 1 0) ∧
    (∀ core, mayGate s core = true → exec (.coreGate core) s = .next { s with gated := s.gated.put core true }) ∧
    (∀ core, mayGate s core = false → exec (.coreGate core) s = .next s) ∧
    (∀ core, ∃ u, exec (.coreWake core) s = .next u ∧ u.gated.get? core = none ∧ u.waking.get? core = none ∧
      u.threads = s.threads ∧ u.slots = s.slots) ∧
    (∀ k t, thr s k = some t → t.park ≠ .displaced → (∀ old, t.park ≠ .moved old) → exec (.thermalDisplacement k) s = .next s) ∧
    (∀ k t old, thr s k = some t → t.park = .moved old → t.run = .incoming → t.earliest ≤ s.clk →
      exec (.thermalDisplacement k) s = .next (logEvent (setThr s k { t with park := .none }) (partOf t) 0x79 0 (coreOf k) (ctxOf k)
        (BitVec.ofNat 64 (old + coreOf k * 2 ^ 8 + ctxOf k * 2 ^ 16)))) ∧
    (∀ k t, thr s k = some t → t.park = .displaced → t.earliest ≤ s.clk → matBusy s k = false → displaceTo s k t = none →
      exec (.thermalDisplacement k) s = .next s) ∧
    (∀ k t c r i s0 at_, thr s k = some t → t.park = .displaced → t.run = .parked → t.earliest ≤ s.clk → matBusy s k = false → displaceTo s k t = some (c, r, i) →
      releaseAt s k t 3 = .done s0 at_ → ∃ u x, exec (.thermalDisplacement k) s = .next u ∧
        thr u (c * 64 + r.1) = some x ∧ x.pc = t.pc ∧ x.gpr = t.gpr ∧ x.tiles = t.tiles ∧ x.segs = t.segs ∧ x.gbase = r.2.1 ∧
        x.tbase = r.2.2 ∧ x.run = .incoming)

/-! Command chains, boot, control space (14, 20, 10). -/

/-- 14 R335 to R337, R318, R319, R324, R331: kick hands a tail to its chain, which takes it 16 clk after the release, when the
kicker goes on; pending entries of another view make the kick wait; START, STOP and RESYNC move STATE, HEAD and the sequences; each refusal of a
kick has its cause. That a kick whose chain is no longer its kicker's has no effect is the model's choice (Log 84). -/
def Obligations.ChainCommands : Prop :=
  ∀ (f : RForm) (s : State) (k : Nat) (t : Thread),
    let n := (readG s t f.a.toNat).toNat
    let v := opbReg s t f
    let ahead := seqDiff v.toNat (kickSeq s n)
    (issues (.kick f) s k t = true →
      (128 ≤ n ∨ 2 ^ 32 ≤ v.toNat → Traps (.kick f) s s k 0x07 v t.pc) ∧
      (n < 128 → v.toNat < 2 ^ 32 → chainState s n = 0 → Traps (.kick f) s s k 0x52 (BitVec.ofNat 64 n) t.pc) ∧
      (n < 128 → v.toNat < 2 ^ 32 → chainState s n ≠ 0 → t.host = false → chainPart s n ≠ partOf t →
        Traps (.kick f) s s k 0x59 (BitVec.ofNat 64 n) t.pc) ∧
      (n < 128 → v.toNat < 2 ^ 32 → chainState s n ≠ 0 → t.host = true ∨ chainPart s n = partOf t →
        (2 ^ 31 ≤ ahead → Traps (.kick f) s s k 0x5F v t.pc) ∧
        (ahead < 2 ^ 31 → ahead ≠ 0 → kickSeq s n ≠ doneSeq s n → chainView s n ≠ viewOf t →
          exec (.kick f) s = .next (tick (enterWait s k (wordsOf (.kick f)) { kind := .kick, key := n, cause := 0x3D }))) ∧
        (∀ s1 at_, ahead < 2 ^ 31 → releaseAt s k t 3 = .done s1 at_ →
          (ahead = 0 → Does (.kick f) s k t (holdUntil s1 k (at_ + 16))) ∧
          (ahead ≠ 0 → (kickSeq s n = doneSeq s n ∨ chainView s n = viewOf t) →
            exec (.kick f) s = .next (tick (enterWait (sched s1 (at_ + 16) (.kickApply n v (viewOf t) k)) k (wordsOf (.kick f))
              { kind := .port, key := n, cause := 0x3D, info := v })))))) ∧
    (∀ c tail view who, c < 128 → let d := seqDiff (BitVec.toNat tail) (kickSeq s c)
      (d = 0 ∨ 2 ^ 31 ≤ d ∨ kickGood s c who = false → exec (.kickApply c tail view who) s = .next (kickDone s who)) ∧
      (∀ x w, d ≠ 0 → d < 2 ^ 31 → kickGood s c who = true → kickSeq s c ≠ doneSeq s c → chainView s c ≠ view →
        thr s who = some x → waitOf x = some w →
        exec (.kickApply c tail view who) s = .next (enterWait s who w.words { kind := .kick, key := c, cause := 0x3D })) ∧
      (∀ x w, thr s who = some x → waitOf x = some w → straight x = true → redundOf x = 0 → ∃ y, thr (kickDone s who) who = some y ∧
        y.run = .ready ∧ y.pc = pcAdd x.pc (4 * w.words)) ∧
      (d ≠ 0 → d < 2 ^ 31 → kickGood s c who = true → (kickSeq s c = doneSeq s c ∨ chainView s c = view) →
        ∃ u, exec (.kickApply c tail view who) s = .next u ∧ kickSeq u c = tail.toNat % 2 ^ 32 ∧
        chainView u c = view % 2 ^ 16 ∧ (chainAt u c).kicks = (chainAt s c).kicks ++ [(tail.toNat, who)] ∧
        chainState u c = (if chainState s c = 1 then 2 else chainState s c) ∧ SameMemory s u ∧ (∀ j, j ≠ who → thr u j = thr s j) ∧
        ∀ x w, thr s who = some x → waitOf x = some w → straight x = true → redundOf x = 0 → ∃ y, thr u who = some y ∧
          y.run = .ready ∧ y.pc = pcAdd x.pc (4 * w.words))) ∧
    (∀ c, c < 128 →
      (chainState s c = 0 ∨ chainState s c = 4 →
        (∃ u, exec (.chainStart c) s = .next u ∧ chainState u c = (if kickSeq s c = doneSeq s c then 1 else 2)) ∧
        (∃ u, exec (.chainResync c) s = .next u ∧ kickSeq u c = (chainExp s c + 2 ^ 32 - 1) % 2 ^ 32 ∧ doneSeq u c = kickSeq u c ∧
          chainExp u c = chainExp s c)) ∧
      (chainState s c ≠ 0 → chainState s c ≠ 4 → exec (.chainStart c) s = .next s ∧ exec (.chainResync c) s = .next s) ∧
      (chainState s c = 0 ∨ 4 ≤ chainState s c → exec (.chainStop c) s = .next s) ∧
      (1 ≤ chainState s c → chainState s c < 4 →
        ((chainAt s c).entries = [] → ∃ u, exec (.chainStop c) s = .next u ∧ chainState u c = 4) ∧
        (∀ e rest, (chainAt s c).entries = e :: rest → ∃ u, exec (.chainStop c) s = .next u ∧ chainState u c = 4 ∧
          chainHead u c = e.addr % 2 ^ 64 ∧ chainExp u c = e.seq % 2 ^ 32 ∧ e ∉ (chainAt u c).entries)))

/-- 14 R320 to R334: an engine reads the entry at HEAD and starts, rereads or refuses it, moves it a chunk at a time, records
completions in order, and takes replies to its faults; multicast groups close, and follow-on work enters the matrix queues.
Turns of chunks, members of a group and some refusals are the model's reading (Logs 16, 57, 58). -/
def Obligations.ChainEntries : Prop :=
  ∀ (s : State) (n : Nat), n < 128 →
    let s0 := setChain s n { chainAt s n with reading := false }
    let head := chainHead s n
    let reads (c : Instr) : Prop := c = .chainEntryRead n ∨ c = .chainEntryReread n
    (∀ c, reads c → mayRead s0 n = false → exec c s = .next s0) ∧
    (∀ c, reads c → mayRead s0 n = true → head % 64 ≠ 0 ∨ 0x8000000000000 ≤ head → ∃ u m, exec c s = .next u ∧ chainState u n = 4 ∧
      u.posts = s.posts ++ [m] ∧ fieldOf m.msg 0 1 = 0x52) ∧
    (∀ c s1 due, reads c → mayRead s0 n = true → head % 64 = 0 → head < 0x8000000000000 →
      engRead n (chainPart s n) (chainView s n) [(head, 64)] s0 = .error (.wait s1 due) →
      exec c s = .next (sched (setChain s1 n { chainAt s1 n with reading := true }) due (.chainEntryRead n))) ∧
    (∀ c s1 bs b, reads c → mayRead s0 n = true → head % 64 = 0 → head < 0x8000000000000 →
      engRead n (chainPart s n) (chainView s n) [(head, 64)] s0 = .ok (s1, bs, b) →
      (deSeq bs ≠ chainExp s1 n → (chainAt s n).wait = none →
        exec c s = .next (sched (setChain s1 n { chainAt s1 n with wait := some s1.clk, reading := true }) (s1.clk + 64) (.chainEntryReread n))) ∧
      (let e := entryFrom s1 n bs
       let s2 := setChain s1 n { chainAt s1 n with wait := none }
       e.seq = chainExp s1 n →
        (entryBad s2 (chainPart s n) e = true → exec c s = .next (setChainState (postChain s2 n 0x51 (BitVec.ofNat 64 head) (chainView s2 n)) n 4 0x51)) ∧
        (entryBad s2 (chainPart s n) e = false → deNext bs % 64 = 0 → deNext bs < 0x8000000000000 →
          (deFlag bs 4 = true → allBefore s2 n = false →
            exec c s = .next (setChain s2 n { chainAt s2 n with hold := some bs })) ∧
          ((deFlag bs 4 = false ∨ allBefore s2 n = true) → e.view = 0 → (deFlag bs 1 = false ∨ mcastGood s2 e = true) →
            exec c s = .next (startChainEntry s2 n e))))) ∧
    (chainState s n = 2 → ∃ u m, exec (.chainEntryNotReady n) s = .next u ∧ chainState u n = 4 ∧ u.posts = s.posts ++ [m] ∧
      fieldOf m.msg 0 1 = 0x50) ∧
    (chainState s n ≠ 2 → exec (.chainEntryNotReady n) s = .next s) ∧
    (∀ e c s1 bs b s2 loc, planChunk s n e = .ok c → followers s n e.seq = [] → s.engErr.get? (n / 4) = none →
      (wakeWindows c.s ((if deOp e.desc = 5 then [] else [c.src]) ++ (if deFlag e.desc 3 then [] else [c.dst]))).2 = 0 →
      chunkBytes n e c = .ok (s1, bs, b) → chunkPlace n e s1 c = .ok (s2, loc, 0) → s2.crcBad = [] →
      deAux e.desc = 0 → entryTotal e ≤ e.moved + bs.length → deFlag e.desc 2 = false →
      (∀ i x, bs[i]? = some x → rdMem (moveChunk s n e) (loc + i) = x) ∧
      (∀ x, x < loc ∨ loc + bs.length ≤ x → rdMem (moveChunk s n e) x = rdMem s2 x) ∧
      (s2.clk, Instr.entryCompletion n) ∈ (moveChunk s n e).agenda) ∧
    (∀ eng, (∀ m, hasChunk (chainAt s m) = false) → exec (.engineChunk eng) s = .next (unsched s (fun i => i == .engineChunk eng))) ∧
    (∀ eng e, n = 4 * eng + (s.engRot.getD eng 0 + 1) % 4 → s.engLate.getD n 0 ≤ s.clk → (chainAt s n).entries.find? canMove = some e →
      exec (.engineChunk eng) s = .next (runEngine (moveChunk { unsched s (fun i => i == .engineChunk eng) with
        engRot := s.engRot.put eng (n % 4), engLate := s.engLate.del n } n e) eng)) ∧
    (∀ e, (chainAt s n).entries = [e] → e.phase = 4 → (chainAt s n).hold = none → rdCtl s (chainBase n + 0x20) = 0 → deTinc e.desc = 0 → deFlag e.desc 0 = false →
      deFlag e.desc 3 = false → ∃ u, exec (.entryCompletion n) s = .next u ∧ doneSeq u n = e.seq % 2 ^ 32 ∧ (chainAt u n).entries = [] ∧
        chainState u n = (if chainState s n = 2 ∧ kickSeq s n = e.seq % 2 ^ 32 then 1 else chainState s n) ∧ u.threads = s.threads) ∧
    (∀ token action, (chainAt s n).token ≠ some (BitVec.toNat token) →
      (chainAt s n).entries.find? (fun e => e.token == some (BitVec.toNat token)) = none →
      exec (.chainFaultReply n token action) s = .next s) ∧
    (∀ token e, (chainAt s n).token = none → (chainAt s n).entries.find? (fun e => e.token == some (BitVec.toNat token)) = some e →
      let s1 := { s with tokens := s.tokens.del token.toNat }
      let s2 := unstall (modEntry s1 n e.seq (fun x => { x with token := none, phase := 4 })) n
      (∀ x, s.tokens.get? token.toNat = some x →
        let s3 := (walkAgain s (n / 8) (chainPart s n) x.2.2.toNat).1
        exec (.chainFaultReply n token 0) s = .next (wantEntry (runEngine (unstall
          (modEntry { s3 with tokens := s3.tokens.del token.toNat } n e.seq (fun y => { y with token := none, cause := 0 })) n) (n / 4)) n 1)) ∧
      exec (.chainFaultReply n token 1) s = .next (sched (freeFollowers s2 n e.seq) s2.clk (.entryCompletion n)) ∧
      exec (.chainFaultReply n token 2) s = .next (stopAt s1 n e.cause e)) ∧
    (∀ token action, (chainAt s n).token = some (BitVec.toNat token) → chainState s n = 3 → action ≠ 0 →
      exec (.chainFaultReply n token action) s = .next (setChainState (setChain { s with tokens := s.tokens.del token.toNat } n
        { chainAt s n with token := none }) n 4 0x53)) ∧
    (∀ g, (∀ o ∈ s.offers, o.group ≠ g) → exec (.mcastGroupClose g) s = .next s) ∧
    (∀ g o e, s.offers = [o] → o.group = g → entryOf s o.chain o.seq = some e → e.phase = 0 → entryTotal e ≠ 0 →
      exec (.mcastGroupClose g) s = .next (runEngine (modEntry { s with offers := [] } o.chain e.seq (fun x => { x with phase := 1, lead := none }))
        (o.chain / 4))) ∧
    ((∀ e ∈ (chainAt s n).entries, e.phase ≠ 2 ∧ e.phase ≠ 5) → exec (.followOnMma n) s = .next s) ∧
    (∀ e, (chainAt s n).entries.find? (fun e => e.phase == 2 || e.phase == 5) = some e → e.phase = 2 →
      let w := BitVec.ofNat 64 (deFollow e.desc)
      let k := bits w 0 8 * 64 + bits w 8 6
      (thr s k = none → exec (.followOnMma n) s = .next (followBad s n e)) ∧
      (∀ t s1 rows, thr s k = some t →
        let td := bits w 14 5
        let ta := bits w 19 5
        let tb := bits w 24 5
        let ld := if bit w 34 then tb else ta
        let x := tileOf t ld
        let eb := elemBits (tileFmt x)
        let len := rowLen (gangWidth t) x * eb / 8
        let from_ := if deFlag e.desc 3 then e.buffer else deDst e.desc
        let cols := rowLen (gangWidth t) x
        let vs := (rows.zip (upFrom 0 rows.length)).flatMap (fun q =>
          (upFrom 0 cols).map (fun i => (q.2 * cols + i, ofBytes q.1 / 2 ^ (eb * i) % 2 ^ eb)))
        let u := { t with tiles := t.tiles.put ld (setElems x vs) }
        t.host = false → partOf t = chainPart s n → t.run ≠ .ending → td < t.tcount → ta < t.tcount → tb < t.tcount →
        ((lockWait s k t [(ld, true)]).isSome → exec (.followOnMma n) s = .next (sched s (s.clk + 1) (.followOnMma n))) ∧
        (lockWait s k t [(ld, true)] = none →
          x.cfg ≠ 0 → from_ % max 1 (eb / 8) = 0 → len ≠ 0 →
          (upFrom 0 (tileRows x)).any (fun r => bankMismatch s (tileFmt x) (from_ + r * len) len) = false →
          followRows s n e len from_ (tileRows x) = .ok (s1, rows) →
          let s2 := dropFollowLock (injectTile (setThr s1 k u) k u ld) n e
          lockWait s2 k u ([(td, true), (ta, false), (tb, false)] ++ matExtra u ta tb (bit w 33)) = none →
          matFull s2 (coreOf k) = false → firstBad (matChecks u td ta tb (bit w 33)) = none →
          exec (.followOnMma n) s = .next (modEntry (enterMatrix s2 k u td ta tb (bits w 29 3) (bit w 33)
            (bit w 32) (some (n * 2 ^ 32 + e.seq))) n e.seq (fun y => { y with phase := 3 })))))

/-- 20 R475 to R477, 10 R234: boot starts host core 0 in supervisor mode at ENTRY of the image accepted, first or alternate,
else drives FAULT_N low; a request for attestation is answered in memory; a store to control space reaches only what the map
lays out. The clk of the report, the constants of the keys, the empty flash and a host's first segments are the model's choice
(Logs 9, 31, 32, 41). -/
def Obligations.BootAndControl : Prop :=
  ∀ (s : State),
    (∀ at_, imageGood s at_ = true → fieldOf (flashBytes s at_ 0x1560) 0 4 = 0x4B525A01 ∧ s.rollback ≤ fieldOf (flashBytes s at_ 0x1560) 8 8) ∧
    (∀ at_, (at_ = 0 ∧ imageGood s 0 = true) ∨ (at_ = 0x1000000 ∧ imageGood s 0 = false ∧ imageGood s 0x1000000 = true) →
      ∃ u t, exec .boot s = .next u ∧ thr u 8192 = some t ∧ t.host = true ∧ supOf t = true ∧ t.run = .ready ∧
        t.pc.toNat = fieldOf (flashBytes s at_ 0x1560) 0x18 8 % 2 ^ 52 ∧ u.imgVersion = fieldOf (flashBytes s at_ 0x1560) 8 8 ∧
        u.faultLow = s.faultLow) ∧
    (imageGood s 0 = false → imageGood s 0x1000000 = false → exec .boot s = .next { s with faultLow := true }) ∧
    (∀ v, ctlF s (bootBlock + 0x28) 1 1 = 1 ∨ bits v 0 3 ≠ 0 → exec (.attestationRequest v) s = .next s) ∧
    (∀ v, ctlF s (bootBlock + 0x28) 1 1 = 0 → bits v 0 3 = 0 → ∃ u, exec (.attestationRequest v) s = .next u ∧
      rdCtl u (bootBlock + 0x20) = v ∧ ctlF u (bootBlock + 0x28) 0 2 = 2 ∧ u.mem = s.mem) ∧
    (ctlF s (bootBlock + 0x28) 1 1 = 0 → exec .attestationDone s = .next s) ∧
    (ctlF s (bootBlock + 0x28) 1 1 = 1 → ∃ u, exec .attestationDone s = .next u ∧ ctlF u (bootBlock + 0x28) 0 2 = 1 ∧
      let a := (rdCtl s (bootBlock + 0x20)).toNat
      (a + (reportBytes s).length ≤ dramTop → (∀ i b, (reportBytes s)[i]? = some b → rdMem u (a + i) = b) ∧
        ∀ x, x < a ∨ a + (reportBytes s).length ≤ x → rdMem u x = rdMem s x)) ∧
    (∀ a v, ctlDefined a = false ∨ a % 8 ≠ 0 → exec (.controlSpaceStore a v) s = .next s) ∧
    (∀ a v, ctlDefined a = true → a % 8 = 0 → exec (.controlSpaceStore a v) s = .next (ctlStore s a v)) ∧
    (∀ v, 10 ≤ bits v 0 6 → bits v 0 6 ≤ 24 → bits v 6 6 = 0 → bits v 52 12 = 0 →
      exec (.controlSpaceStore hostTable v) s = .next { s with ctl := s.ctl.putD hostTable 0 v })

/-! Frames of the effects that the statements above are made with. -/

/-- What the effects named in these statements leave alone: a fixed-latency result changes its register and no other; a
scoreboarded result, a store noted and a hold change no register, no tile, no segment, no special register and no byte of
memory; a load that finds no error, asks by no hint for more than its line, and makes no line of L1D leave changes no thread, no
byte that memory, a view or a tag holds, and no byte of the L1 data caches (02 R34, R35; 11 R493; 10 R222, R223; 03 R70). How
a hint changes which line leaves a full set is the model's reading (Log 12). -/
def Obligations.EffectFrames : Prop :=
  ∀ (s : State) (k : Nat) (t : Thread), thr s k = some t →
    (∀ lat d v, OnlyThread s (putFixed s k lat d v) k ∧ ∃ u, thr (putFixed s k lat d v) k = some u ∧ OnlyReg t u d) ∧
    (∀ due regs tiles, ∃ u, thr (putScored s k due regs tiles) k = some u ∧ u = { t with sb := u.sb } ∧
      (∀ j, j ≠ k → thr (putScored s k due regs tiles) j = thr s j) ∧
      putScored s k due regs tiles =
        { s with threads := (putScored s k due regs tiles).threads, agenda := (putScored s k due regs tiles).agenda, nextId := s.nextId + 1 }) ∧
    (∀ c, OnlyThread s (holdUntil s k c) k ∧ thr (holdUntil s k c) k = some { t with earliest := max t.earliest c }) ∧
    (∀ g, OnlyThread s (noteStore s k g) k ∧ ∃ u, thr (noteStore s k g) k = some u ∧
      u = { t with stAccept := u.stAccept, stPerform := u.stPerform }) ∧
    (∀ n, ldepthOf t = 0 → OnlyThread s (retire s k n false none) k ∧
      thr (retire s k n false none) k = some { t with pc := pcAdd t.pc (4 * n), run := .ready, again := none }) ∧
    (∀ n w, ∃ u, thr (enterWait s k n w) k = some u ∧ u = { t with run := u.run, again := none } ∧
      (∀ j, j ≠ k → thr (enterWait s k n w) j = thr s j) ∧
      enterWait s k n w =
        { s with threads := (enterWait s k n w).threads, agenda := (enterWait s k n w).agenda, nextId := s.nextId + 1 }) ∧
    (∀ p n need g, n ≤ 64 → s.badEcc = [] → bit (s.dspr.getD rERRINJ 0) 12 = false → s.hint < 2 →
      (∀ i, (s.l1dSets.getD i []).length < 10) → loadPtr s k t p n need = .ok g →
      g.s.threads = s.threads ∧ g.s.mem = s.mem ∧ g.s.vmem = s.vmem ∧ g.s.tags = s.tags ∧
      ∀ key b, s.l1d.get? key = some b → g.s.l1d.get? key = some b)

/-- 10 R222, R223, R215: what a load gives. In translated DRAM in the root view, each byte as the thread's core sees it: the
byte of its L1D, else that of memory at the translated address; at a scratchpad port, the byte at the location of its address.
10 R223, 11 R245: a store of a device thread to translated DRAM in the root view: its own core reads the new bytes back at
those addresses and every other byte as before, and memory itself waits for the write-back of the line. A store whose
line finds its set full makes another line leave, and the hints 2 to 6 move lines (03 R70): these are left out of the second
clause. How a hint changes which line leaves a set, and that caches start empty, is the model's choice (Logs 3, 12). -/
def Obligations.DramAccess : Prop :=
  (∀ (s : State) (k : Nat) (t : Thread),
      (∀ va n kind size loc g, isHostKey k = false → t.host = false → s.badEcc = [] → s.walks.getD (clusterOf (coreOf k)) [] = [] →
        0 < n → va % 64 + n ≤ 64 →
        translateAny s (clusterOf (coreOf k)) (partOf t) va = some loc → dramLoad s k t 0 va n kind size = .ok g →
        g.bytes = (upFrom 0 n).map (fun i => coreByte s (coreOf k) (partOf t) 0 (va + i) (loc + i))) ∧
      (∀ ptr n need a c loc g, 0 < n → a % 64 + n ≤ 64 → ea t ptr n need = .ok a → place s t ptr 0 a n = .ok (.scratch c loc) →
        loadPtr s k t ptr n need = .ok g → g.bytes = (upFrom loc n).map (rdMem s))) ∧
  (∀ (s : State) (k : Nat) (t : Thread) (va size : Nat) (bs : List Byte) (g : Put),
      isHostKey k = false → t.host = false → s.badEcc = [] → 0 < bs.length → va % 64 + bs.length ≤ 64 → va + bs.length ≤ 2 ^ 51 →
      s.hint < 2 → ((s.l1dSets.getD (l1Set (coreOf k) va) []).filter
        (fun e => e.line != l1Key (coreOf k) (partOf t) 0 (lineOf va))).length < 10 → dramStore s k t 0 va size bs = .ok g →
      (∀ i b loc, bs[i]? = some b → coreByte g.s (coreOf k) (partOf t) 0 (va + i) loc = b) ∧
      (∀ x loc, x < 2 ^ 52 → x < va ∨ va + bs.length ≤ x →
        coreByte g.s (coreOf k) (partOf t) 0 x loc = coreByte s (coreOf k) (partOf t) 0 x loc) ∧
      g.s.mem = s.mem ∧ g.s.vmem = s.vmem ∧ g.s.tags = s.tags ∧ g.s.threads = s.threads)

/-! Encoding, issue, the step (03, 02, 07). -/

/-- 03 R59, R62 to R69, R73: decode and encode agree: the words of every well-formed instruction decode to it, whatever
follows them (on a host core, of the instructions its profile has), and whatever decodes is well-formed and has those words.
-/
def Obligations.DecodeEncode : Prop :=
  ∀ (i : Instr) (host : Bool) (ws : List IWord),
    (WellFormed i = true → (host = true → ∀ e, enc i = some e → hostLacks e.op = false) → decode host (encode i ++ ws) = .ok i) ∧
    (decode host ws = .ok i → WellFormed i = true ∧ (∀ e, enc i = some e → host = true → hostLacks e.op = false) ∧
      ∃ rest, ws = encode i ++ rest)

/-- 03 R62 to R66, and the encodings of 06, 08, 09, 12, 13, 15: words laid out from the spec's formats decode to their
instructions. -/
def Obligations.DecodeWords : Prop :=
  decode false [0xFD0C1404] = .ok (.add ⟨5, 6, 0x7D, true, .none⟩) ∧
  decode false [0x0508250C] = .ok (.ld64 ⟨9, 4, 5, false, .none⟩) ∧
  decode false [0x01000A1C] = .ok (.mma ⟨2, 0, 1, false, .none⟩) ∧
  decode false [0x05081A20] = .ok (.mmasp ⟨6, 4, 5, false, .none⟩) ∧
  decode false [0x80020E08] = .ok (.vred ⟨3, 1, 0, true, .none⟩) ∧
  decode false [0x87000610] = .ok (.vquant ⟨1, 0, 7, true, .none⟩) ∧
  decode false [0x000C1680] = .ok (.spawn ⟨5, 6, 0, false, .none⟩) ∧
  decode false [0x070C0394] = .ok (.mbsend ⟨0, 6, 7, false, .none⟩) ∧
  decode false [0x050000E8] = .ok (.trap ⟨0, 0, 5, false, .none⟩) ∧
  decode false [0x800000E8] = .ok (.brk ⟨0, 0, 0, true, .none⟩) ∧
  decode false [0x80080F88] = .ok (.sbindRead ⟨3, 4, 0, true, .none⟩) ∧
  decode false [0x000E1B9C] = .ok (.spill ⟨6, 7, 0, false, .none⟩) ∧
  decode true [0x01000A1C] = .bad 0x01 0 2

/-- 03 R73 to R75, 05 R113, R119, 02 R35: what stops any encoded instruction before its own effect, in order: an opcode the
host lacks, a privileged one in user mode, a register or a tile outside the thread's window; one whose operands' results are
due waits. 07 R165: with SSTEP set outside a handler, a completed instruction traps with 0x0A, TPC the next instruction and
TINFO its own address; inside a handler it does not. Single step is decided by MODE at issue (Log 35), and TINFO names the
lowest offending bit (Log 14): the model's reading. -/
def Obligations.IssueChecks : Prop :=
  (∀ (i : Instr) (e : Enc) (s : State) (k : Nat) (t : Thread), enc i = some e → s.cur = some k → thr s k = some t →
      let lacks : Prop := t.host = true ∧ hostLacks e.op = true
      let barred : Prop := (e.op = 0xA7 ∨ e.op = 0xE2 ∨ e.op = 0xE3 ∨ e.op = 0xE7 ∨ e.op = 0xE8) ∧ supOf t = false
      let badReg : Prop := ∃ x ∈ regFields e, t.gsize ≤ x.2.2 ∧ isShadow t x.2.2 = false
      let badTile : Prop := ∃ x ∈ tileFields e, t.tcount ≤ x.2.2.1
      (lacks → ∃ info, Traps i s s k 0x01 info t.pc) ∧
      (¬ lacks → barred → ∃ info, Traps i s s k 0x06 info t.pc) ∧
      (¬ lacks → ¬ barred → badReg → ∃ info, Traps i s s k 0x10 info t.pc) ∧
      (¬ lacks → ¬ barred → ¬ badReg → badTile → ∃ info, Traps i s s k 0x11 info t.pc) ∧
      (∀ p r, ¬ lacks → ¬ barred → ¬ badReg → ¬ badTile → audited s k t = false → p ∈ t.sb → s.clk < p.due → r ∈ p.regs →
        (∃ x ∈ regFields e, x.2.2 ≠ 0 ∧ regId t x.2.2 = r.1) → ∃ w, w.kind = .result ∧
          exec i s = .next (tick (enterWait s k (wordsOf i) w)))) ∧
  (∀ (z : ZForm) (s : State) (k : Nat) (t : Thread), issues (.nop z) s k t = true → sstepOf t = true → ldepthOf t = 0 →
      (thOf t = false → uihOf t = false → getSpr t rTVEC ≠ 0 → ∃ s1 u, exec (.nop z) s = .next s1 ∧ thr s1 k = some u ∧
        getSpr u rTCAUSE = 0x0A ∧ getSpr u rTPC = pcAdd t.pc (4 * wordsOf (.nop z)) ∧ getSpr u rTINFO = t.pc ∧ thOf u = true ∧
        u.pc.toNat = (getSpr t rTVEC).toNat % 2 ^ 52) ∧
      (thOf t = true ∨ uihOf t = true → ∃ s1 u, exec (.nop z) s = .next s1 ∧ thr s1 k = some u ∧
        u.pc = pcAdd t.pc (4 * wordsOf (.nop z)) ∧ ∀ i, getSpr u i = getSpr t i))

/-- 03 R73, 02 R28 to R31: a step runs the instruction that its thread's words decode to: the thread is the issuing one and
its slot is used, and exec of the instruction gives the next state; a due event is run first, a trap that arose since the
thread's last slot is taken in its slot (07 R152), and a clk without slots left ends. The order of events and slots within a clk
is the model's choice (Logs 10, 19). -/
def Obligations.StepRunsDecoded : Prop :=
  ∀ (s : State), s.tripped = false →
    (∀ due i rest, s.agenda = (due, i) :: rest → due ≤ s.clk → eventPhase i = 0 → step s = exec i { s with agenda := rest }) ∧
    (∀ p k t, dueEvent s = none → nextSlot (atSlots s) = some (p, k) → thr (atSlots s) k = some t →
      let s1 := { atSlots s with bpos := p + 1 }
      (viewOf t = 0 ∨ viewFailed s1 (partOf t) (viewOf t) = false) → t.auditSkip = false →
      (∀ c info, t.trapDue = some (c, info) →
        step s = exec (.trapEntry k c info t.pc) (noteSlot s1 k { t with trapDue := none })) ∧
      (t.trapDue = none → (thOf t = true ∨ t.deferred = []) →
        (uiDue s1 t = true → step s = exec (.uiDelivery k) (noteSlot s1 k t)) ∧
        (∀ s2 ws i, uiDue s1 t = false → fetch s1 k t = .words s2 ws → decode t.host ws = .ok i → s2.badEcc = [] →
          step s = match exec i { noteIssue s2 k t with cur := some k, hint := hintOf i } with
            | .next s3 => .next (afterIssue s2 k s3)
            | .fault f => .fault f
            | .refused r => .refused r))) ∧
    (∀ s0 k s2, s2.badEcc = [] → bit (s2.dspr.getD rERRINJ 0) 12 = false → afterIssue s0 k s2 = s2) ∧
    (dueEvent s = none → nextSlot (atSlots s) = none → s.bpos = placesEnd → settled s = true →
      step s = .next (nextClk (lowerAll (writeErrors (writeEvents s)))) ∧
      (s.events = [] → s.errFound = [] → (∀ q ∈ s.threads, q.2.stamps = []) → s.pubOps = [] → (s.clk + 1) % 65536 ≠ 0 →
        step s = .next { s with clk := s.clk + 1, bpos := 0 }))

/-- The memory's canonical form is kept by every step of every state: addresses strictly rise and no listed byte is 0 (the
form the model gives its memory; 10 R212 to R217 for the bytes it holds). -/
def Obligations.StepKeepsMemoryForm : Prop :=
  ∀ (s s1 : State), Inv s → step s = .next s1 → Inv s1

/-- 02 R28, 15 R340, R351; 10 R212; 20 R475: right after reset no thread runs, no core is bound, every slot entry is empty,
the cycle domain is stopped, nothing is published, and boot is the first thing done. That unwritten memory reads as 0 is the
model's choice (Log 2), as are the registers' values (Logs 1, 4 to 6). -/
def Obligations.ResetState : Prop :=
  Inv State.reset ∧ (∀ k, thr State.reset k = none) ∧ (∀ c, gangOf State.reset c = 0) ∧ (∀ c i, slotEntry State.reset c i = 0) ∧
  State.reset.clk = 0 ∧ State.reset.cycOn = false ∧ State.reset.tripped = false ∧ (∀ a, rdMem State.reset a = 0) ∧
  step State.reset = exec .boot { State.reset with agenda := [] }
end

