-- ==== Sys2Proof/Laws/State.lean ====
section
/-! SUPPORT. One lemma per field per update of the state and of a thread, each true by rfl, so that no later proof unfolds a
record update. -/

namespace Sys2Proof.Machine

/-! setThr. -/

@[simp] theorem setThr_clk (s : State) (k : Nat) (t : Thread) : (setThr s k t).clk = s.clk := rfl
@[simp] theorem setThr_bpos (s : State) (k : Nat) (t : Thread) : (setThr s k t).bpos = s.bpos := rfl
@[simp] theorem setThr_cur (s : State) (k : Nat) (t : Thread) : (setThr s k t).cur = s.cur := rfl
@[simp] theorem setThr_agenda (s : State) (k : Nat) (t : Thread) : (setThr s k t).agenda = s.agenda := rfl
@[simp] theorem setThr_nextId (s : State) (k : Nat) (t : Thread) : (setThr s k t).nextId = s.nextId := rfl
@[simp] theorem setThr_free (s : State) (k : Nat) (t : Thread) : (setThr s k t).free = s.free := rfl
@[simp] theorem setThr_threads (s : State) (k : Nat) (t : Thread) : (setThr s k t).threads = s.threads.put k t := rfl
@[simp] theorem setThr_mem (s : State) (k : Nat) (t : Thread) : (setThr s k t).mem = s.mem := rfl
@[simp] theorem setThr_vmem (s : State) (k : Nat) (t : Thread) : (setThr s k t).vmem = s.vmem := rfl
@[simp] theorem setThr_tags (s : State) (k : Nat) (t : Thread) : (setThr s k t).tags = s.tags := rfl
@[simp] theorem setThr_poison (s : State) (k : Nat) (t : Thread) : (setThr s k t).poison = s.poison := rfl
@[simp] theorem setThr_badEcc (s : State) (k : Nat) (t : Thread) : (setThr s k t).badEcc = s.badEcc := rfl
@[simp] theorem setThr_l1d (s : State) (k : Nat) (t : Thread) : (setThr s k t).l1d = s.l1d := rfl
@[simp] theorem setThr_l1i (s : State) (k : Nat) (t : Thread) : (setThr s k t).l1i = s.l1i := rfl
@[simp] theorem setThr_l1dSets (s : State) (k : Nat) (t : Thread) : (setThr s k t).l1dSets = s.l1dSets := rfl
@[simp] theorem setThr_l1iSets (s : State) (k : Nat) (t : Thread) : (setThr s k t).l1iSets = s.l1iSets := rfl
@[simp] theorem setThr_l2Sets (s : State) (k : Nat) (t : Thread) : (setThr s k t).l2Sets = s.l2Sets := rfl
@[simp] theorem setThr_crcBad (s : State) (k : Nat) (t : Thread) : (setThr s k t).crcBad = s.crcBad := rfl
@[simp] theorem setThr_copies (s : State) (k : Nat) (t : Thread) : (setThr s k t).copies = s.copies := rfl
@[simp] theorem setThr_hint (s : State) (k : Nat) (t : Thread) : (setThr s k t).hint = s.hint := rfl
@[simp] theorem setThr_walks (s : State) (k : Nat) (t : Thread) : (setThr s k t).walks = s.walks := rfl
@[simp] theorem setThr_bindBusy (s : State) (k : Nat) (t : Thread) : (setThr s k t).bindBusy = s.bindBusy := rfl
@[simp] theorem setThr_fmtOld (s : State) (k : Nat) (t : Thread) : (setThr s k t).fmtOld = s.fmtOld := rfl
@[simp] theorem setThr_chainOps (s : State) (k : Nat) (t : Thread) : (setThr s k t).chainOps = s.chainOps := rfl
@[simp] theorem setThr_engErr (s : State) (k : Nat) (t : Thread) : (setThr s k t).engErr = s.engErr := rfl
@[simp] theorem setThr_gateNs (s : State) (k : Nat) (t : Thread) : (setThr s k t).gateNs = s.gateNs := rfl
@[simp] theorem setThr_gateTick (s : State) (k : Nat) (t : Thread) : (setThr s k t).gateTick = s.gateTick := rfl
@[simp] theorem setThr_replayAt (s : State) (k : Nat) (t : Thread) : (setThr s k t).replayAt = s.replayAt := rfl
@[simp] theorem setThr_tlb (s : State) (k : Nat) (t : Thread) : (setThr s k t).tlb = s.tlb := rfl
@[simp] theorem setThr_ctl (s : State) (k : Nat) (t : Thread) : (setThr s k t).ctl = s.ctl := rfl
@[simp] theorem setThr_binding (s : State) (k : Nat) (t : Thread) : (setThr s k t).binding = s.binding := rfl
@[simp] theorem setThr_slots (s : State) (k : Nat) (t : Thread) : (setThr s k t).slots = s.slots := rfl
@[simp] theorem setThr_bankFmt (s : State) (k : Nat) (t : Thread) : (setThr s k t).bankFmt = s.bankFmt := rfl
@[simp] theorem setThr_tagTab (s : State) (k : Nat) (t : Thread) : (setThr s k t).tagTab = s.tagTab := rfl
@[simp] theorem setThr_slotReq (s : State) (k : Nat) (t : Thread) : (setThr s k t).slotReq = s.slotReq := rfl
@[simp] theorem setThr_shares (s : State) (k : Nat) (t : Thread) : (setThr s k t).shares = s.shares := rfl
@[simp] theorem setThr_dspr (s : State) (k : Nat) (t : Thread) : (setThr s k t).dspr = s.dspr := rfl
@[simp] theorem setThr_pspr (s : State) (k : Nat) (t : Thread) : (setThr s k t).pspr = s.pspr := rfl
@[simp] theorem setThr_perf (s : State) (k : Nat) (t : Thread) : (setThr s k t).perf = s.perf := rfl
@[simp] theorem setThr_wdog (s : State) (k : Nat) (t : Thread) : (setThr s k t).wdog = s.wdog := rfl
@[simp] theorem setThr_nodes (s : State) (k : Nat) (t : Thread) : (setThr s k t).nodes = s.nodes := rfl
@[simp] theorem setThr_kernels (s : State) (k : Nat) (t : Thread) : (setThr s k t).kernels = s.kernels := rfl
@[simp] theorem setThr_rivals (s : State) (k : Nat) (t : Thread) : (setThr s k t).rivals = s.rivals := rfl
@[simp] theorem setThr_lastPut (s : State) (k : Nat) (t : Thread) : (setThr s k t).lastPut = s.lastPut := rfl
@[simp] theorem setThr_deques (s : State) (k : Nat) (t : Thread) : (setThr s k t).deques = s.deques := rfl
@[simp] theorem setThr_mboxes (s : State) (k : Nat) (t : Thread) : (setThr s k t).mboxes = s.mboxes := rfl
@[simp] theorem setThr_posts (s : State) (k : Nat) (t : Thread) : (setThr s k t).posts = s.posts := rfl
@[simp] theorem setThr_tokens (s : State) (k : Nat) (t : Thread) : (setThr s k t).tokens = s.tokens := rfl
@[simp] theorem setThr_chanBuf (s : State) (k : Nat) (t : Thread) : (setThr s k t).chanBuf = s.chanBuf := rfl
@[simp] theorem setThr_chanWay (s : State) (k : Nat) (t : Thread) : (setThr s k t).chanWay = s.chanWay := rfl
@[simp] theorem setThr_chanUsed (s : State) (k : Nat) (t : Thread) : (setThr s k t).chanUsed = s.chanUsed := rfl
@[simp] theorem setThr_chanBack (s : State) (k : Nat) (t : Thread) : (setThr s k t).chanBack = s.chanBack := rfl
@[simp] theorem setThr_objs (s : State) (k : Nat) (t : Thread) : (setThr s k t).objs = s.objs := rfl
@[simp] theorem setThr_updates (s : State) (k : Nat) (t : Thread) : (setThr s k t).updates = s.updates := rfl
@[simp] theorem setThr_runs (s : State) (k : Nat) (t : Thread) : (setThr s k t).runs = s.runs := rfl
@[simp] theorem setThr_outbox (s : State) (k : Nat) (t : Thread) : (setThr s k t).outbox = s.outbox := rfl
@[simp] theorem setThr_viewEnd (s : State) (k : Nat) (t : Thread) : (setThr s k t).viewEnd = s.viewEnd := rfl
@[simp] theorem setThr_podOwner (s : State) (k : Nat) (t : Thread) : (setThr s k t).podOwner = s.podOwner := rfl
@[simp] theorem setThr_rwin (s : State) (k : Nat) (t : Thread) : (setThr s k t).rwin = s.rwin := rfl
@[simp] theorem setThr_lvq (s : State) (k : Nat) (t : Thread) : (setThr s k t).lvq = s.lvq := rfl
@[simp] theorem setThr_scb (s : State) (k : Nat) (t : Thread) : (setThr s k t).scb = s.scb := rfl
@[simp] theorem setThr_matq (s : State) (k : Nat) (t : Thread) : (setThr s k t).matq = s.matq := rfl
@[simp] theorem setThr_matops (s : State) (k : Nat) (t : Thread) : (setThr s k t).matops = s.matops := rfl
@[simp] theorem setThr_chains (s : State) (k : Nat) (t : Thread) : (setThr s k t).chains = s.chains := rfl
@[simp] theorem setThr_engRot (s : State) (k : Nat) (t : Thread) : (setThr s k t).engRot = s.engRot := rfl
@[simp] theorem setThr_offers (s : State) (k : Nat) (t : Thread) : (setThr s k t).offers = s.offers := rfl
@[simp] theorem setThr_husks (s : State) (k : Nat) (t : Thread) : (setThr s k t).husks = s.husks := rfl
@[simp] theorem setThr_succWait (s : State) (k : Nat) (t : Thread) : (setThr s k t).succWait = s.succWait := rfl
@[simp] theorem setThr_hot (s : State) (k : Nat) (t : Thread) : (setThr s k t).hot = s.hot := rfl
@[simp] theorem setThr_gated (s : State) (k : Nat) (t : Thread) : (setThr s k t).gated = s.gated := rfl
@[simp] theorem setThr_waking (s : State) (k : Nat) (t : Thread) : (setThr s k t).waking = s.waking := rfl
@[simp] theorem setThr_idleAt (s : State) (k : Nat) (t : Thread) : (setThr s k t).idleAt = s.idleAt := rfl
@[simp] theorem setThr_ptpBase (s : State) (k : Nat) (t : Thread) : (setThr s k t).ptpBase = s.ptpBase := rfl
@[simp] theorem setThr_ptpRate (s : State) (k : Nat) (t : Thread) : (setThr s k t).ptpRate = s.ptpRate := rfl
@[simp] theorem setThr_ptpAt (s : State) (k : Nat) (t : Thread) : (setThr s k t).ptpAt = s.ptpAt := rfl
@[simp] theorem setThr_ptpWrote (s : State) (k : Nat) (t : Thread) : (setThr s k t).ptpWrote = s.ptpWrote := rfl
@[simp] theorem setThr_cycOn (s : State) (k : Nat) (t : Thread) : (setThr s k t).cycOn = s.cycOn := rfl
@[simp] theorem setThr_cycDue (s : State) (k : Nat) (t : Thread) : (setThr s k t).cycDue = s.cycDue := rfl
@[simp] theorem setThr_cycTick (s : State) (k : Nat) (t : Thread) : (setThr s k t).cycTick = s.cycTick := rfl
@[simp] theorem setThr_cycHold (s : State) (k : Nat) (t : Thread) : (setThr s k t).cycHold = s.cycHold := rfl
@[simp] theorem setThr_tlOps (s : State) (k : Nat) (t : Thread) : (setThr s k t).tlOps = s.tlOps := rfl
@[simp] theorem setThr_groupOps (s : State) (k : Nat) (t : Thread) : (setThr s k t).groupOps = s.groupOps := rfl
@[simp] theorem setThr_tlNote (s : State) (k : Nat) (t : Thread) : (setThr s k t).tlNote = s.tlNote := rfl
@[simp] theorem setThr_frames (s : State) (k : Nat) (t : Thread) : (setThr s k t).frames = s.frames := rfl
@[simp] theorem setThr_sent (s : State) (k : Nat) (t : Thread) : (setThr s k t).sent = s.sent := rfl
@[simp] theorem setThr_meters (s : State) (k : Nat) (t : Thread) : (setThr s k t).meters = s.meters := rfl
@[simp] theorem setThr_gateAt (s : State) (k : Nat) (t : Thread) : (setThr s k t).gateAt = s.gateAt := rfl
@[simp] theorem setThr_gateOn (s : State) (k : Nat) (t : Thread) : (setThr s k t).gateOn = s.gateOn := rfl
@[simp] theorem setThr_sendAt (s : State) (k : Nat) (t : Thread) : (setThr s k t).sendAt = s.sendAt := rfl
@[simp] theorem setThr_latches (s : State) (k : Nat) (t : Thread) : (setThr s k t).latches = s.latches := rfl
@[simp] theorem setThr_staging (s : State) (k : Nat) (t : Thread) : (setThr s k t).staging = s.staging := rfl
@[simp] theorem setThr_applied (s : State) (k : Nat) (t : Thread) : (setThr s k t).applied = s.applied := rfl
@[simp] theorem setThr_missed (s : State) (k : Nat) (t : Thread) : (setThr s k t).missed = s.missed := rfl
@[simp] theorem setThr_lastBeat (s : State) (k : Nat) (t : Thread) : (setThr s k t).lastBeat = s.lastBeat := rfl
@[simp] theorem setThr_sentRecs (s : State) (k : Nat) (t : Thread) : (setThr s k t).sentRecs = s.sentRecs := rfl
@[simp] theorem setThr_unacked (s : State) (k : Nat) (t : Thread) : (setThr s k t).unacked = s.unacked := rfl
@[simp] theorem setThr_acks (s : State) (k : Nat) (t : Thread) : (setThr s k t).acks = s.acks := rfl
@[simp] theorem setThr_outHb (s : State) (k : Nat) (t : Thread) : (setThr s k t).outHb = s.outHb := rfl
@[simp] theorem setThr_sending (s : State) (k : Nat) (t : Thread) : (setThr s k t).sending = s.sending := rfl
@[simp] theorem setThr_roleDue (s : State) (k : Nat) (t : Thread) : (setThr s k t).roleDue = s.roleDue := rfl
@[simp] theorem setThr_errlog (s : State) (k : Nat) (t : Thread) : (setThr s k t).errlog = s.errlog := rfl
@[simp] theorem setThr_errLost (s : State) (k : Nat) (t : Thread) : (setThr s k t).errLost = s.errLost := rfl
@[simp] theorem setThr_offline (s : State) (k : Nat) (t : Thread) : (setThr s k t).offline = s.offline := rfl
@[simp] theorem setThr_traceSeq (s : State) (k : Nat) (t : Thread) : (setThr s k t).traceSeq = s.traceSeq := rfl
@[simp] theorem setThr_traceUse (s : State) (k : Nat) (t : Thread) : (setThr s k t).traceUse = s.traceUse := rfl
@[simp] theorem setThr_wbs (s : State) (k : Nat) (t : Thread) : (setThr s k t).wbs = s.wbs := rfl
@[simp] theorem setThr_heldWbs (s : State) (k : Nat) (t : Thread) : (setThr s k t).heldWbs = s.heldWbs := rfl
@[simp] theorem setThr_acqAt (s : State) (k : Nat) (t : Thread) : (setThr s k t).acqAt = s.acqAt := rfl
@[simp] theorem setThr_flash (s : State) (k : Nat) (t : Thread) : (setThr s k t).flash = s.flash := rfl
@[simp] theorem setThr_faultLow (s : State) (k : Nat) (t : Thread) : (setThr s k t).faultLow = s.faultLow := rfl
@[simp] theorem setThr_imgVersion (s : State) (k : Nat) (t : Thread) : (setThr s k t).imgVersion = s.imgVersion := rfl
@[simp] theorem setThr_imgProfile (s : State) (k : Nat) (t : Thread) : (setThr s k t).imgProfile = s.imgProfile := rfl
@[simp] theorem setThr_rollback (s : State) (k : Nat) (t : Thread) : (setThr s k t).rollback = s.rollback := rfl
@[simp] theorem setThr_tripped (s : State) (k : Nat) (t : Thread) : (setThr s k t).tripped = s.tripped := rfl
@[simp] theorem setThr_l2Poison (s : State) (k : Nat) (t : Thread) : (setThr s k t).l2Poison = s.l2Poison := rfl
@[simp] theorem setThr_l1Poison (s : State) (k : Nat) (t : Thread) : (setThr s k t).l1Poison = s.l1Poison := rfl
@[simp] theorem setThr_slotNow (s : State) (k : Nat) (t : Thread) : (setThr s k t).slotNow = s.slotNow := rfl
@[simp] theorem setThr_tried (s : State) (k : Nat) (t : Thread) : (setThr s k t).tried = s.tried := rfl
@[simp] theorem setThr_lateDisp (s : State) (k : Nat) (t : Thread) : (setThr s k t).lateDisp = s.lateDisp := rfl
@[simp] theorem setThr_viewPool (s : State) (k : Nat) (t : Thread) : (setThr s k t).viewPool = s.viewPool := rfl
@[simp] theorem setThr_viewFail (s : State) (k : Nat) (t : Thread) : (setThr s k t).viewFail = s.viewFail := rfl
@[simp] theorem setThr_engLate (s : State) (k : Nat) (t : Thread) : (setThr s k t).engLate = s.engLate := rfl
@[simp] theorem setThr_slipKept (s : State) (k : Nat) (t : Thread) : (setThr s k t).slipKept = s.slipKept := rfl
@[simp] theorem setThr_barOps (s : State) (k : Nat) (t : Thread) : (setThr s k t).barOps = s.barOps := rfl
@[simp] theorem setThr_pubOps (s : State) (k : Nat) (t : Thread) : (setThr s k t).pubOps = s.pubOps := rfl
@[simp] theorem setThr_wires (s : State) (k : Nat) (t : Thread) : (setThr s k t).wires = s.wires := rfl
@[simp] theorem setThr_ticks (s : State) (k : Nat) (t : Thread) : (setThr s k t).ticks = s.ticks := rfl
@[simp] theorem setThr_errFound (s : State) (k : Nat) (t : Thread) : (setThr s k t).errFound = s.errFound := rfl
@[simp] theorem setThr_events (s : State) (k : Nat) (t : Thread) : (setThr s k t).events = s.events := rfl
@[simp] theorem setThr_heldRecs (s : State) (k : Nat) (t : Thread) : (setThr s k t).heldRecs = s.heldRecs := rfl

/-! modThr. -/

@[simp] theorem modThr_clk (s : State) (k : Nat) (f : Thread → Thread) : (modThr s k f).clk = s.clk := rfl
@[simp] theorem modThr_bpos (s : State) (k : Nat) (f : Thread → Thread) : (modThr s k f).bpos = s.bpos := rfl
@[simp] theorem modThr_cur (s : State) (k : Nat) (f : Thread → Thread) : (modThr s k f).cur = s.cur := rfl
@[simp] theorem modThr_agenda (s : State) (k : Nat) (f : Thread → Thread) : (modThr s k f).agenda = s.agenda := rfl
@[simp] theorem modThr_nextId (s : State) (k : Nat) (f : Thread → Thread) : (modThr s k f).nextId = s.nextId := rfl
@[simp] theorem modThr_free (s : State) (k : Nat) (f : Thread → Thread) : (modThr s k f).free = s.free := rfl
@[simp] theorem modThr_threads (s : State) (k : Nat) (f : Thread → Thread) : (modThr s k f).threads = s.threads.modify k f := rfl
@[simp] theorem modThr_mem (s : State) (k : Nat) (f : Thread → Thread) : (modThr s k f).mem = s.mem := rfl
@[simp] theorem modThr_vmem (s : State) (k : Nat) (f : Thread → Thread) : (modThr s k f).vmem = s.vmem := rfl
@[simp] theorem modThr_tags (s : State) (k : Nat) (f : Thread → Thread) : (modThr s k f).tags = s.tags := rfl
@[simp] theorem modThr_poison (s : State) (k : Nat) (f : Thread → Thread) : (modThr s k f).poison = s.poison := rfl
@[simp] theorem modThr_badEcc (s : State) (k : Nat) (f : Thread → Thread) : (modThr s k f).badEcc = s.badEcc := rfl
@[simp] theorem modThr_l1d (s : State) (k : Nat) (f : Thread → Thread) : (modThr s k f).l1d = s.l1d := rfl
@[simp] theorem modThr_l1i (s : State) (k : Nat) (f : Thread → Thread) : (modThr s k f).l1i = s.l1i := rfl
@[simp] theorem modThr_l1dSets (s : State) (k : Nat) (f : Thread → Thread) : (modThr s k f).l1dSets = s.l1dSets := rfl
@[simp] theorem modThr_l1iSets (s : State) (k : Nat) (f : Thread → Thread) : (modThr s k f).l1iSets = s.l1iSets := rfl
@[simp] theorem modThr_l2Sets (s : State) (k : Nat) (f : Thread → Thread) : (modThr s k f).l2Sets = s.l2Sets := rfl
@[simp] theorem modThr_crcBad (s : State) (k : Nat) (f : Thread → Thread) : (modThr s k f).crcBad = s.crcBad := rfl
@[simp] theorem modThr_copies (s : State) (k : Nat) (f : Thread → Thread) : (modThr s k f).copies = s.copies := rfl
@[simp] theorem modThr_hint (s : State) (k : Nat) (f : Thread → Thread) : (modThr s k f).hint = s.hint := rfl
@[simp] theorem modThr_walks (s : State) (k : Nat) (f : Thread → Thread) : (modThr s k f).walks = s.walks := rfl
@[simp] theorem modThr_bindBusy (s : State) (k : Nat) (f : Thread → Thread) : (modThr s k f).bindBusy = s.bindBusy := rfl
@[simp] theorem modThr_fmtOld (s : State) (k : Nat) (f : Thread → Thread) : (modThr s k f).fmtOld = s.fmtOld := rfl
@[simp] theorem modThr_chainOps (s : State) (k : Nat) (f : Thread → Thread) : (modThr s k f).chainOps = s.chainOps := rfl
@[simp] theorem modThr_engErr (s : State) (k : Nat) (f : Thread → Thread) : (modThr s k f).engErr = s.engErr := rfl
@[simp] theorem modThr_gateNs (s : State) (k : Nat) (f : Thread → Thread) : (modThr s k f).gateNs = s.gateNs := rfl
@[simp] theorem modThr_gateTick (s : State) (k : Nat) (f : Thread → Thread) : (modThr s k f).gateTick = s.gateTick := rfl
@[simp] theorem modThr_replayAt (s : State) (k : Nat) (f : Thread → Thread) : (modThr s k f).replayAt = s.replayAt := rfl
@[simp] theorem modThr_tlb (s : State) (k : Nat) (f : Thread → Thread) : (modThr s k f).tlb = s.tlb := rfl
@[simp] theorem modThr_ctl (s : State) (k : Nat) (f : Thread → Thread) : (modThr s k f).ctl = s.ctl := rfl
@[simp] theorem modThr_binding (s : State) (k : Nat) (f : Thread → Thread) : (modThr s k f).binding = s.binding := rfl
@[simp] theorem modThr_slots (s : State) (k : Nat) (f : Thread → Thread) : (modThr s k f).slots = s.slots := rfl
@[simp] theorem modThr_bankFmt (s : State) (k : Nat) (f : Thread → Thread) : (modThr s k f).bankFmt = s.bankFmt := rfl
@[simp] theorem modThr_tagTab (s : State) (k : Nat) (f : Thread → Thread) : (modThr s k f).tagTab = s.tagTab := rfl
@[simp] theorem modThr_slotReq (s : State) (k : Nat) (f : Thread → Thread) : (modThr s k f).slotReq = s.slotReq := rfl
@[simp] theorem modThr_shares (s : State) (k : Nat) (f : Thread → Thread) : (modThr s k f).shares = s.shares := rfl
@[simp] theorem modThr_dspr (s : State) (k : Nat) (f : Thread → Thread) : (modThr s k f).dspr = s.dspr := rfl
@[simp] theorem modThr_pspr (s : State) (k : Nat) (f : Thread → Thread) : (modThr s k f).pspr = s.pspr := rfl
@[simp] theorem modThr_perf (s : State) (k : Nat) (f : Thread → Thread) : (modThr s k f).perf = s.perf := rfl
@[simp] theorem modThr_wdog (s : State) (k : Nat) (f : Thread → Thread) : (modThr s k f).wdog = s.wdog := rfl
@[simp] theorem modThr_nodes (s : State) (k : Nat) (f : Thread → Thread) : (modThr s k f).nodes = s.nodes := rfl
@[simp] theorem modThr_kernels (s : State) (k : Nat) (f : Thread → Thread) : (modThr s k f).kernels = s.kernels := rfl
@[simp] theorem modThr_rivals (s : State) (k : Nat) (f : Thread → Thread) : (modThr s k f).rivals = s.rivals := rfl
@[simp] theorem modThr_lastPut (s : State) (k : Nat) (f : Thread → Thread) : (modThr s k f).lastPut = s.lastPut := rfl
@[simp] theorem modThr_deques (s : State) (k : Nat) (f : Thread → Thread) : (modThr s k f).deques = s.deques := rfl
@[simp] theorem modThr_mboxes (s : State) (k : Nat) (f : Thread → Thread) : (modThr s k f).mboxes = s.mboxes := rfl
@[simp] theorem modThr_posts (s : State) (k : Nat) (f : Thread → Thread) : (modThr s k f).posts = s.posts := rfl
@[simp] theorem modThr_tokens (s : State) (k : Nat) (f : Thread → Thread) : (modThr s k f).tokens = s.tokens := rfl
@[simp] theorem modThr_chanBuf (s : State) (k : Nat) (f : Thread → Thread) : (modThr s k f).chanBuf = s.chanBuf := rfl
@[simp] theorem modThr_chanWay (s : State) (k : Nat) (f : Thread → Thread) : (modThr s k f).chanWay = s.chanWay := rfl
@[simp] theorem modThr_chanUsed (s : State) (k : Nat) (f : Thread → Thread) : (modThr s k f).chanUsed = s.chanUsed := rfl
@[simp] theorem modThr_chanBack (s : State) (k : Nat) (f : Thread → Thread) : (modThr s k f).chanBack = s.chanBack := rfl
@[simp] theorem modThr_objs (s : State) (k : Nat) (f : Thread → Thread) : (modThr s k f).objs = s.objs := rfl
@[simp] theorem modThr_updates (s : State) (k : Nat) (f : Thread → Thread) : (modThr s k f).updates = s.updates := rfl
@[simp] theorem modThr_runs (s : State) (k : Nat) (f : Thread → Thread) : (modThr s k f).runs = s.runs := rfl
@[simp] theorem modThr_outbox (s : State) (k : Nat) (f : Thread → Thread) : (modThr s k f).outbox = s.outbox := rfl
@[simp] theorem modThr_viewEnd (s : State) (k : Nat) (f : Thread → Thread) : (modThr s k f).viewEnd = s.viewEnd := rfl
@[simp] theorem modThr_podOwner (s : State) (k : Nat) (f : Thread → Thread) : (modThr s k f).podOwner = s.podOwner := rfl
@[simp] theorem modThr_rwin (s : State) (k : Nat) (f : Thread → Thread) : (modThr s k f).rwin = s.rwin := rfl
@[simp] theorem modThr_lvq (s : State) (k : Nat) (f : Thread → Thread) : (modThr s k f).lvq = s.lvq := rfl
@[simp] theorem modThr_scb (s : State) (k : Nat) (f : Thread → Thread) : (modThr s k f).scb = s.scb := rfl
@[simp] theorem modThr_matq (s : State) (k : Nat) (f : Thread → Thread) : (modThr s k f).matq = s.matq := rfl
@[simp] theorem modThr_matops (s : State) (k : Nat) (f : Thread → Thread) : (modThr s k f).matops = s.matops := rfl
@[simp] theorem modThr_chains (s : State) (k : Nat) (f : Thread → Thread) : (modThr s k f).chains = s.chains := rfl
@[simp] theorem modThr_engRot (s : State) (k : Nat) (f : Thread → Thread) : (modThr s k f).engRot = s.engRot := rfl
@[simp] theorem modThr_offers (s : State) (k : Nat) (f : Thread → Thread) : (modThr s k f).offers = s.offers := rfl
@[simp] theorem modThr_husks (s : State) (k : Nat) (f : Thread → Thread) : (modThr s k f).husks = s.husks := rfl
@[simp] theorem modThr_succWait (s : State) (k : Nat) (f : Thread → Thread) : (modThr s k f).succWait = s.succWait := rfl
@[simp] theorem modThr_hot (s : State) (k : Nat) (f : Thread → Thread) : (modThr s k f).hot = s.hot := rfl
@[simp] theorem modThr_gated (s : State) (k : Nat) (f : Thread → Thread) : (modThr s k f).gated = s.gated := rfl
@[simp] theorem modThr_waking (s : State) (k : Nat) (f : Thread → Thread) : (modThr s k f).waking = s.waking := rfl
@[simp] theorem modThr_idleAt (s : State) (k : Nat) (f : Thread → Thread) : (modThr s k f).idleAt = s.idleAt := rfl
@[simp] theorem modThr_ptpBase (s : State) (k : Nat) (f : Thread → Thread) : (modThr s k f).ptpBase = s.ptpBase := rfl
@[simp] theorem modThr_ptpRate (s : State) (k : Nat) (f : Thread → Thread) : (modThr s k f).ptpRate = s.ptpRate := rfl
@[simp] theorem modThr_ptpAt (s : State) (k : Nat) (f : Thread → Thread) : (modThr s k f).ptpAt = s.ptpAt := rfl
@[simp] theorem modThr_ptpWrote (s : State) (k : Nat) (f : Thread → Thread) : (modThr s k f).ptpWrote = s.ptpWrote := rfl
@[simp] theorem modThr_cycOn (s : State) (k : Nat) (f : Thread → Thread) : (modThr s k f).cycOn = s.cycOn := rfl
@[simp] theorem modThr_cycDue (s : State) (k : Nat) (f : Thread → Thread) : (modThr s k f).cycDue = s.cycDue := rfl
@[simp] theorem modThr_cycTick (s : State) (k : Nat) (f : Thread → Thread) : (modThr s k f).cycTick = s.cycTick := rfl
@[simp] theorem modThr_cycHold (s : State) (k : Nat) (f : Thread → Thread) : (modThr s k f).cycHold = s.cycHold := rfl
@[simp] theorem modThr_tlOps (s : State) (k : Nat) (f : Thread → Thread) : (modThr s k f).tlOps = s.tlOps := rfl
@[simp] theorem modThr_groupOps (s : State) (k : Nat) (f : Thread → Thread) : (modThr s k f).groupOps = s.groupOps := rfl
@[simp] theorem modThr_tlNote (s : State) (k : Nat) (f : Thread → Thread) : (modThr s k f).tlNote = s.tlNote := rfl
@[simp] theorem modThr_frames (s : State) (k : Nat) (f : Thread → Thread) : (modThr s k f).frames = s.frames := rfl
@[simp] theorem modThr_sent (s : State) (k : Nat) (f : Thread → Thread) : (modThr s k f).sent = s.sent := rfl
@[simp] theorem modThr_meters (s : State) (k : Nat) (f : Thread → Thread) : (modThr s k f).meters = s.meters := rfl
@[simp] theorem modThr_gateAt (s : State) (k : Nat) (f : Thread → Thread) : (modThr s k f).gateAt = s.gateAt := rfl
@[simp] theorem modThr_gateOn (s : State) (k : Nat) (f : Thread → Thread) : (modThr s k f).gateOn = s.gateOn := rfl
@[simp] theorem modThr_sendAt (s : State) (k : Nat) (f : Thread → Thread) : (modThr s k f).sendAt = s.sendAt := rfl
@[simp] theorem modThr_latches (s : State) (k : Nat) (f : Thread → Thread) : (modThr s k f).latches = s.latches := rfl
@[simp] theorem modThr_staging (s : State) (k : Nat) (f : Thread → Thread) : (modThr s k f).staging = s.staging := rfl
@[simp] theorem modThr_applied (s : State) (k : Nat) (f : Thread → Thread) : (modThr s k f).applied = s.applied := rfl
@[simp] theorem modThr_missed (s : State) (k : Nat) (f : Thread → Thread) : (modThr s k f).missed = s.missed := rfl
@[simp] theorem modThr_lastBeat (s : State) (k : Nat) (f : Thread → Thread) : (modThr s k f).lastBeat = s.lastBeat := rfl
@[simp] theorem modThr_sentRecs (s : State) (k : Nat) (f : Thread → Thread) : (modThr s k f).sentRecs = s.sentRecs := rfl
@[simp] theorem modThr_unacked (s : State) (k : Nat) (f : Thread → Thread) : (modThr s k f).unacked = s.unacked := rfl
@[simp] theorem modThr_acks (s : State) (k : Nat) (f : Thread → Thread) : (modThr s k f).acks = s.acks := rfl
@[simp] theorem modThr_outHb (s : State) (k : Nat) (f : Thread → Thread) : (modThr s k f).outHb = s.outHb := rfl
@[simp] theorem modThr_sending (s : State) (k : Nat) (f : Thread → Thread) : (modThr s k f).sending = s.sending := rfl
@[simp] theorem modThr_roleDue (s : State) (k : Nat) (f : Thread → Thread) : (modThr s k f).roleDue = s.roleDue := rfl
@[simp] theorem modThr_errlog (s : State) (k : Nat) (f : Thread → Thread) : (modThr s k f).errlog = s.errlog := rfl
@[simp] theorem modThr_errLost (s : State) (k : Nat) (f : Thread → Thread) : (modThr s k f).errLost = s.errLost := rfl
@[simp] theorem modThr_offline (s : State) (k : Nat) (f : Thread → Thread) : (modThr s k f).offline = s.offline := rfl
@[simp] theorem modThr_traceSeq (s : State) (k : Nat) (f : Thread → Thread) : (modThr s k f).traceSeq = s.traceSeq := rfl
@[simp] theorem modThr_traceUse (s : State) (k : Nat) (f : Thread → Thread) : (modThr s k f).traceUse = s.traceUse := rfl
@[simp] theorem modThr_wbs (s : State) (k : Nat) (f : Thread → Thread) : (modThr s k f).wbs = s.wbs := rfl
@[simp] theorem modThr_heldWbs (s : State) (k : Nat) (f : Thread → Thread) : (modThr s k f).heldWbs = s.heldWbs := rfl
@[simp] theorem modThr_acqAt (s : State) (k : Nat) (f : Thread → Thread) : (modThr s k f).acqAt = s.acqAt := rfl
@[simp] theorem modThr_flash (s : State) (k : Nat) (f : Thread → Thread) : (modThr s k f).flash = s.flash := rfl
@[simp] theorem modThr_faultLow (s : State) (k : Nat) (f : Thread → Thread) : (modThr s k f).faultLow = s.faultLow := rfl
@[simp] theorem modThr_imgVersion (s : State) (k : Nat) (f : Thread → Thread) : (modThr s k f).imgVersion = s.imgVersion := rfl
@[simp] theorem modThr_imgProfile (s : State) (k : Nat) (f : Thread → Thread) : (modThr s k f).imgProfile = s.imgProfile := rfl
@[simp] theorem modThr_rollback (s : State) (k : Nat) (f : Thread → Thread) : (modThr s k f).rollback = s.rollback := rfl
@[simp] theorem modThr_tripped (s : State) (k : Nat) (f : Thread → Thread) : (modThr s k f).tripped = s.tripped := rfl
@[simp] theorem modThr_l2Poison (s : State) (k : Nat) (f : Thread → Thread) : (modThr s k f).l2Poison = s.l2Poison := rfl
@[simp] theorem modThr_l1Poison (s : State) (k : Nat) (f : Thread → Thread) : (modThr s k f).l1Poison = s.l1Poison := rfl
@[simp] theorem modThr_slotNow (s : State) (k : Nat) (f : Thread → Thread) : (modThr s k f).slotNow = s.slotNow := rfl
@[simp] theorem modThr_tried (s : State) (k : Nat) (f : Thread → Thread) : (modThr s k f).tried = s.tried := rfl
@[simp] theorem modThr_lateDisp (s : State) (k : Nat) (f : Thread → Thread) : (modThr s k f).lateDisp = s.lateDisp := rfl
@[simp] theorem modThr_viewPool (s : State) (k : Nat) (f : Thread → Thread) : (modThr s k f).viewPool = s.viewPool := rfl
@[simp] theorem modThr_viewFail (s : State) (k : Nat) (f : Thread → Thread) : (modThr s k f).viewFail = s.viewFail := rfl
@[simp] theorem modThr_engLate (s : State) (k : Nat) (f : Thread → Thread) : (modThr s k f).engLate = s.engLate := rfl
@[simp] theorem modThr_slipKept (s : State) (k : Nat) (f : Thread → Thread) : (modThr s k f).slipKept = s.slipKept := rfl
@[simp] theorem modThr_barOps (s : State) (k : Nat) (f : Thread → Thread) : (modThr s k f).barOps = s.barOps := rfl
@[simp] theorem modThr_pubOps (s : State) (k : Nat) (f : Thread → Thread) : (modThr s k f).pubOps = s.pubOps := rfl
@[simp] theorem modThr_wires (s : State) (k : Nat) (f : Thread → Thread) : (modThr s k f).wires = s.wires := rfl
@[simp] theorem modThr_ticks (s : State) (k : Nat) (f : Thread → Thread) : (modThr s k f).ticks = s.ticks := rfl
@[simp] theorem modThr_errFound (s : State) (k : Nat) (f : Thread → Thread) : (modThr s k f).errFound = s.errFound := rfl
@[simp] theorem modThr_events (s : State) (k : Nat) (f : Thread → Thread) : (modThr s k f).events = s.events := rfl
@[simp] theorem modThr_heldRecs (s : State) (k : Nat) (f : Thread → Thread) : (modThr s k f).heldRecs = s.heldRecs := rfl

/-! sched. -/

@[simp] theorem sched_clk (s : State) (due : Nat) (i : Instr) : (sched s due i).clk = s.clk := rfl
@[simp] theorem sched_bpos (s : State) (due : Nat) (i : Instr) : (sched s due i).bpos = s.bpos := rfl
@[simp] theorem sched_cur (s : State) (due : Nat) (i : Instr) : (sched s due i).cur = s.cur := rfl
@[simp] theorem sched_agenda (s : State) (due : Nat) (i : Instr) : (sched s due i).agenda = agendaPut (due, i) s.agenda := rfl
@[simp] theorem sched_nextId (s : State) (due : Nat) (i : Instr) : (sched s due i).nextId = s.nextId := rfl
@[simp] theorem sched_free (s : State) (due : Nat) (i : Instr) : (sched s due i).free = s.free := rfl
@[simp] theorem sched_threads (s : State) (due : Nat) (i : Instr) : (sched s due i).threads = s.threads := rfl
@[simp] theorem sched_mem (s : State) (due : Nat) (i : Instr) : (sched s due i).mem = s.mem := rfl
@[simp] theorem sched_vmem (s : State) (due : Nat) (i : Instr) : (sched s due i).vmem = s.vmem := rfl
@[simp] theorem sched_tags (s : State) (due : Nat) (i : Instr) : (sched s due i).tags = s.tags := rfl
@[simp] theorem sched_poison (s : State) (due : Nat) (i : Instr) : (sched s due i).poison = s.poison := rfl
@[simp] theorem sched_badEcc (s : State) (due : Nat) (i : Instr) : (sched s due i).badEcc = s.badEcc := rfl
@[simp] theorem sched_l1d (s : State) (due : Nat) (i : Instr) : (sched s due i).l1d = s.l1d := rfl
@[simp] theorem sched_l1i (s : State) (due : Nat) (i : Instr) : (sched s due i).l1i = s.l1i := rfl
@[simp] theorem sched_l1dSets (s : State) (due : Nat) (i : Instr) : (sched s due i).l1dSets = s.l1dSets := rfl
@[simp] theorem sched_l1iSets (s : State) (due : Nat) (i : Instr) : (sched s due i).l1iSets = s.l1iSets := rfl
@[simp] theorem sched_l2Sets (s : State) (due : Nat) (i : Instr) : (sched s due i).l2Sets = s.l2Sets := rfl
@[simp] theorem sched_crcBad (s : State) (due : Nat) (i : Instr) : (sched s due i).crcBad = s.crcBad := rfl
@[simp] theorem sched_copies (s : State) (due : Nat) (i : Instr) : (sched s due i).copies = s.copies := rfl
@[simp] theorem sched_hint (s : State) (due : Nat) (i : Instr) : (sched s due i).hint = s.hint := rfl
@[simp] theorem sched_walks (s : State) (due : Nat) (i : Instr) : (sched s due i).walks = s.walks := rfl
@[simp] theorem sched_bindBusy (s : State) (due : Nat) (i : Instr) : (sched s due i).bindBusy = s.bindBusy := rfl
@[simp] theorem sched_fmtOld (s : State) (due : Nat) (i : Instr) : (sched s due i).fmtOld = s.fmtOld := rfl
@[simp] theorem sched_chainOps (s : State) (due : Nat) (i : Instr) : (sched s due i).chainOps = s.chainOps := rfl
@[simp] theorem sched_engErr (s : State) (due : Nat) (i : Instr) : (sched s due i).engErr = s.engErr := rfl
@[simp] theorem sched_gateNs (s : State) (due : Nat) (i : Instr) : (sched s due i).gateNs = s.gateNs := rfl
@[simp] theorem sched_gateTick (s : State) (due : Nat) (i : Instr) : (sched s due i).gateTick = s.gateTick := rfl
@[simp] theorem sched_replayAt (s : State) (due : Nat) (i : Instr) : (sched s due i).replayAt = s.replayAt := rfl
@[simp] theorem sched_tlb (s : State) (due : Nat) (i : Instr) : (sched s due i).tlb = s.tlb := rfl
@[simp] theorem sched_ctl (s : State) (due : Nat) (i : Instr) : (sched s due i).ctl = s.ctl := rfl
@[simp] theorem sched_binding (s : State) (due : Nat) (i : Instr) : (sched s due i).binding = s.binding := rfl
@[simp] theorem sched_slots (s : State) (due : Nat) (i : Instr) : (sched s due i).slots = s.slots := rfl
@[simp] theorem sched_bankFmt (s : State) (due : Nat) (i : Instr) : (sched s due i).bankFmt = s.bankFmt := rfl
@[simp] theorem sched_tagTab (s : State) (due : Nat) (i : Instr) : (sched s due i).tagTab = s.tagTab := rfl
@[simp] theorem sched_slotReq (s : State) (due : Nat) (i : Instr) : (sched s due i).slotReq = s.slotReq := rfl
@[simp] theorem sched_shares (s : State) (due : Nat) (i : Instr) : (sched s due i).shares = s.shares := rfl
@[simp] theorem sched_dspr (s : State) (due : Nat) (i : Instr) : (sched s due i).dspr = s.dspr := rfl
@[simp] theorem sched_pspr (s : State) (due : Nat) (i : Instr) : (sched s due i).pspr = s.pspr := rfl
@[simp] theorem sched_perf (s : State) (due : Nat) (i : Instr) : (sched s due i).perf = s.perf := rfl
@[simp] theorem sched_wdog (s : State) (due : Nat) (i : Instr) : (sched s due i).wdog = s.wdog := rfl
@[simp] theorem sched_nodes (s : State) (due : Nat) (i : Instr) : (sched s due i).nodes = s.nodes := rfl
@[simp] theorem sched_kernels (s : State) (due : Nat) (i : Instr) : (sched s due i).kernels = s.kernels := rfl
@[simp] theorem sched_rivals (s : State) (due : Nat) (i : Instr) : (sched s due i).rivals = s.rivals := rfl
@[simp] theorem sched_lastPut (s : State) (due : Nat) (i : Instr) : (sched s due i).lastPut = s.lastPut := rfl
@[simp] theorem sched_deques (s : State) (due : Nat) (i : Instr) : (sched s due i).deques = s.deques := rfl
@[simp] theorem sched_mboxes (s : State) (due : Nat) (i : Instr) : (sched s due i).mboxes = s.mboxes := rfl
@[simp] theorem sched_posts (s : State) (due : Nat) (i : Instr) : (sched s due i).posts = s.posts := rfl
@[simp] theorem sched_tokens (s : State) (due : Nat) (i : Instr) : (sched s due i).tokens = s.tokens := rfl
@[simp] theorem sched_chanBuf (s : State) (due : Nat) (i : Instr) : (sched s due i).chanBuf = s.chanBuf := rfl
@[simp] theorem sched_chanWay (s : State) (due : Nat) (i : Instr) : (sched s due i).chanWay = s.chanWay := rfl
@[simp] theorem sched_chanUsed (s : State) (due : Nat) (i : Instr) : (sched s due i).chanUsed = s.chanUsed := rfl
@[simp] theorem sched_chanBack (s : State) (due : Nat) (i : Instr) : (sched s due i).chanBack = s.chanBack := rfl
@[simp] theorem sched_objs (s : State) (due : Nat) (i : Instr) : (sched s due i).objs = s.objs := rfl
@[simp] theorem sched_updates (s : State) (due : Nat) (i : Instr) : (sched s due i).updates = s.updates := rfl
@[simp] theorem sched_runs (s : State) (due : Nat) (i : Instr) : (sched s due i).runs = s.runs := rfl
@[simp] theorem sched_outbox (s : State) (due : Nat) (i : Instr) : (sched s due i).outbox = s.outbox := rfl
@[simp] theorem sched_viewEnd (s : State) (due : Nat) (i : Instr) : (sched s due i).viewEnd = s.viewEnd := rfl
@[simp] theorem sched_podOwner (s : State) (due : Nat) (i : Instr) : (sched s due i).podOwner = s.podOwner := rfl
@[simp] theorem sched_rwin (s : State) (due : Nat) (i : Instr) : (sched s due i).rwin = s.rwin := rfl
@[simp] theorem sched_lvq (s : State) (due : Nat) (i : Instr) : (sched s due i).lvq = s.lvq := rfl
@[simp] theorem sched_scb (s : State) (due : Nat) (i : Instr) : (sched s due i).scb = s.scb := rfl
@[simp] theorem sched_matq (s : State) (due : Nat) (i : Instr) : (sched s due i).matq = s.matq := rfl
@[simp] theorem sched_matops (s : State) (due : Nat) (i : Instr) : (sched s due i).matops = s.matops := rfl
@[simp] theorem sched_chains (s : State) (due : Nat) (i : Instr) : (sched s due i).chains = s.chains := rfl
@[simp] theorem sched_engRot (s : State) (due : Nat) (i : Instr) : (sched s due i).engRot = s.engRot := rfl
@[simp] theorem sched_offers (s : State) (due : Nat) (i : Instr) : (sched s due i).offers = s.offers := rfl
@[simp] theorem sched_husks (s : State) (due : Nat) (i : Instr) : (sched s due i).husks = s.husks := rfl
@[simp] theorem sched_succWait (s : State) (due : Nat) (i : Instr) : (sched s due i).succWait = s.succWait := rfl
@[simp] theorem sched_hot (s : State) (due : Nat) (i : Instr) : (sched s due i).hot = s.hot := rfl
@[simp] theorem sched_gated (s : State) (due : Nat) (i : Instr) : (sched s due i).gated = s.gated := rfl
@[simp] theorem sched_waking (s : State) (due : Nat) (i : Instr) : (sched s due i).waking = s.waking := rfl
@[simp] theorem sched_idleAt (s : State) (due : Nat) (i : Instr) : (sched s due i).idleAt = s.idleAt := rfl
@[simp] theorem sched_ptpBase (s : State) (due : Nat) (i : Instr) : (sched s due i).ptpBase = s.ptpBase := rfl
@[simp] theorem sched_ptpRate (s : State) (due : Nat) (i : Instr) : (sched s due i).ptpRate = s.ptpRate := rfl
@[simp] theorem sched_ptpAt (s : State) (due : Nat) (i : Instr) : (sched s due i).ptpAt = s.ptpAt := rfl
@[simp] theorem sched_ptpWrote (s : State) (due : Nat) (i : Instr) : (sched s due i).ptpWrote = s.ptpWrote := rfl
@[simp] theorem sched_cycOn (s : State) (due : Nat) (i : Instr) : (sched s due i).cycOn = s.cycOn := rfl
@[simp] theorem sched_cycDue (s : State) (due : Nat) (i : Instr) : (sched s due i).cycDue = s.cycDue := rfl
@[simp] theorem sched_cycTick (s : State) (due : Nat) (i : Instr) : (sched s due i).cycTick = s.cycTick := rfl
@[simp] theorem sched_cycHold (s : State) (due : Nat) (i : Instr) : (sched s due i).cycHold = s.cycHold := rfl
@[simp] theorem sched_tlOps (s : State) (due : Nat) (i : Instr) : (sched s due i).tlOps = s.tlOps := rfl
@[simp] theorem sched_groupOps (s : State) (due : Nat) (i : Instr) : (sched s due i).groupOps = s.groupOps := rfl
@[simp] theorem sched_tlNote (s : State) (due : Nat) (i : Instr) : (sched s due i).tlNote = s.tlNote := rfl
@[simp] theorem sched_frames (s : State) (due : Nat) (i : Instr) : (sched s due i).frames = s.frames := rfl
@[simp] theorem sched_sent (s : State) (due : Nat) (i : Instr) : (sched s due i).sent = s.sent := rfl
@[simp] theorem sched_meters (s : State) (due : Nat) (i : Instr) : (sched s due i).meters = s.meters := rfl
@[simp] theorem sched_gateAt (s : State) (due : Nat) (i : Instr) : (sched s due i).gateAt = s.gateAt := rfl
@[simp] theorem sched_gateOn (s : State) (due : Nat) (i : Instr) : (sched s due i).gateOn = s.gateOn := rfl
@[simp] theorem sched_sendAt (s : State) (due : Nat) (i : Instr) : (sched s due i).sendAt = s.sendAt := rfl
@[simp] theorem sched_latches (s : State) (due : Nat) (i : Instr) : (sched s due i).latches = s.latches := rfl
@[simp] theorem sched_staging (s : State) (due : Nat) (i : Instr) : (sched s due i).staging = s.staging := rfl
@[simp] theorem sched_applied (s : State) (due : Nat) (i : Instr) : (sched s due i).applied = s.applied := rfl
@[simp] theorem sched_missed (s : State) (due : Nat) (i : Instr) : (sched s due i).missed = s.missed := rfl
@[simp] theorem sched_lastBeat (s : State) (due : Nat) (i : Instr) : (sched s due i).lastBeat = s.lastBeat := rfl
@[simp] theorem sched_sentRecs (s : State) (due : Nat) (i : Instr) : (sched s due i).sentRecs = s.sentRecs := rfl
@[simp] theorem sched_unacked (s : State) (due : Nat) (i : Instr) : (sched s due i).unacked = s.unacked := rfl
@[simp] theorem sched_acks (s : State) (due : Nat) (i : Instr) : (sched s due i).acks = s.acks := rfl
@[simp] theorem sched_outHb (s : State) (due : Nat) (i : Instr) : (sched s due i).outHb = s.outHb := rfl
@[simp] theorem sched_sending (s : State) (due : Nat) (i : Instr) : (sched s due i).sending = s.sending := rfl
@[simp] theorem sched_roleDue (s : State) (due : Nat) (i : Instr) : (sched s due i).roleDue = s.roleDue := rfl
@[simp] theorem sched_errlog (s : State) (due : Nat) (i : Instr) : (sched s due i).errlog = s.errlog := rfl
@[simp] theorem sched_errLost (s : State) (due : Nat) (i : Instr) : (sched s due i).errLost = s.errLost := rfl
@[simp] theorem sched_offline (s : State) (due : Nat) (i : Instr) : (sched s due i).offline = s.offline := rfl
@[simp] theorem sched_traceSeq (s : State) (due : Nat) (i : Instr) : (sched s due i).traceSeq = s.traceSeq := rfl
@[simp] theorem sched_traceUse (s : State) (due : Nat) (i : Instr) : (sched s due i).traceUse = s.traceUse := rfl
@[simp] theorem sched_wbs (s : State) (due : Nat) (i : Instr) : (sched s due i).wbs = s.wbs := rfl
@[simp] theorem sched_heldWbs (s : State) (due : Nat) (i : Instr) : (sched s due i).heldWbs = s.heldWbs := rfl
@[simp] theorem sched_acqAt (s : State) (due : Nat) (i : Instr) : (sched s due i).acqAt = s.acqAt := rfl
@[simp] theorem sched_flash (s : State) (due : Nat) (i : Instr) : (sched s due i).flash = s.flash := rfl
@[simp] theorem sched_faultLow (s : State) (due : Nat) (i : Instr) : (sched s due i).faultLow = s.faultLow := rfl
@[simp] theorem sched_imgVersion (s : State) (due : Nat) (i : Instr) : (sched s due i).imgVersion = s.imgVersion := rfl
@[simp] theorem sched_imgProfile (s : State) (due : Nat) (i : Instr) : (sched s due i).imgProfile = s.imgProfile := rfl
@[simp] theorem sched_rollback (s : State) (due : Nat) (i : Instr) : (sched s due i).rollback = s.rollback := rfl
@[simp] theorem sched_tripped (s : State) (due : Nat) (i : Instr) : (sched s due i).tripped = s.tripped := rfl
@[simp] theorem sched_l2Poison (s : State) (due : Nat) (i : Instr) : (sched s due i).l2Poison = s.l2Poison := rfl
@[simp] theorem sched_l1Poison (s : State) (due : Nat) (i : Instr) : (sched s due i).l1Poison = s.l1Poison := rfl
@[simp] theorem sched_slotNow (s : State) (due : Nat) (i : Instr) : (sched s due i).slotNow = s.slotNow := rfl
@[simp] theorem sched_tried (s : State) (due : Nat) (i : Instr) : (sched s due i).tried = s.tried := rfl
@[simp] theorem sched_lateDisp (s : State) (due : Nat) (i : Instr) : (sched s due i).lateDisp = s.lateDisp := rfl
@[simp] theorem sched_viewPool (s : State) (due : Nat) (i : Instr) : (sched s due i).viewPool = s.viewPool := rfl
@[simp] theorem sched_viewFail (s : State) (due : Nat) (i : Instr) : (sched s due i).viewFail = s.viewFail := rfl
@[simp] theorem sched_engLate (s : State) (due : Nat) (i : Instr) : (sched s due i).engLate = s.engLate := rfl
@[simp] theorem sched_slipKept (s : State) (due : Nat) (i : Instr) : (sched s due i).slipKept = s.slipKept := rfl
@[simp] theorem sched_barOps (s : State) (due : Nat) (i : Instr) : (sched s due i).barOps = s.barOps := rfl
@[simp] theorem sched_pubOps (s : State) (due : Nat) (i : Instr) : (sched s due i).pubOps = s.pubOps := rfl
@[simp] theorem sched_wires (s : State) (due : Nat) (i : Instr) : (sched s due i).wires = s.wires := rfl
@[simp] theorem sched_ticks (s : State) (due : Nat) (i : Instr) : (sched s due i).ticks = s.ticks := rfl
@[simp] theorem sched_errFound (s : State) (due : Nat) (i : Instr) : (sched s due i).errFound = s.errFound := rfl
@[simp] theorem sched_events (s : State) (due : Nat) (i : Instr) : (sched s due i).events = s.events := rfl
@[simp] theorem sched_heldRecs (s : State) (due : Nat) (i : Instr) : (sched s due i).heldRecs = s.heldRecs := rfl

/-! unsched. -/

@[simp] theorem unsched_clk (s : State) (p : Instr → Bool) : (unsched s p).clk = s.clk := rfl
@[simp] theorem unsched_bpos (s : State) (p : Instr → Bool) : (unsched s p).bpos = s.bpos := rfl
@[simp] theorem unsched_cur (s : State) (p : Instr → Bool) : (unsched s p).cur = s.cur := rfl
@[simp] theorem unsched_agenda (s : State) (p : Instr → Bool) : (unsched s p).agenda = s.agenda.filter (fun q => !p q.2) := rfl
@[simp] theorem unsched_nextId (s : State) (p : Instr → Bool) : (unsched s p).nextId = s.nextId := rfl
@[simp] theorem unsched_free (s : State) (p : Instr → Bool) : (unsched s p).free = s.free := rfl
@[simp] theorem unsched_threads (s : State) (p : Instr → Bool) : (unsched s p).threads = s.threads := rfl
@[simp] theorem unsched_mem (s : State) (p : Instr → Bool) : (unsched s p).mem = s.mem := rfl
@[simp] theorem unsched_vmem (s : State) (p : Instr → Bool) : (unsched s p).vmem = s.vmem := rfl
@[simp] theorem unsched_tags (s : State) (p : Instr → Bool) : (unsched s p).tags = s.tags := rfl
@[simp] theorem unsched_poison (s : State) (p : Instr → Bool) : (unsched s p).poison = s.poison := rfl
@[simp] theorem unsched_badEcc (s : State) (p : Instr → Bool) : (unsched s p).badEcc = s.badEcc := rfl
@[simp] theorem unsched_l1d (s : State) (p : Instr → Bool) : (unsched s p).l1d = s.l1d := rfl
@[simp] theorem unsched_l1i (s : State) (p : Instr → Bool) : (unsched s p).l1i = s.l1i := rfl
@[simp] theorem unsched_l1dSets (s : State) (p : Instr → Bool) : (unsched s p).l1dSets = s.l1dSets := rfl
@[simp] theorem unsched_l1iSets (s : State) (p : Instr → Bool) : (unsched s p).l1iSets = s.l1iSets := rfl
@[simp] theorem unsched_l2Sets (s : State) (p : Instr → Bool) : (unsched s p).l2Sets = s.l2Sets := rfl
@[simp] theorem unsched_crcBad (s : State) (p : Instr → Bool) : (unsched s p).crcBad = s.crcBad := rfl
@[simp] theorem unsched_copies (s : State) (p : Instr → Bool) : (unsched s p).copies = s.copies := rfl
@[simp] theorem unsched_hint (s : State) (p : Instr → Bool) : (unsched s p).hint = s.hint := rfl
@[simp] theorem unsched_walks (s : State) (p : Instr → Bool) : (unsched s p).walks = s.walks := rfl
@[simp] theorem unsched_bindBusy (s : State) (p : Instr → Bool) : (unsched s p).bindBusy = s.bindBusy := rfl
@[simp] theorem unsched_fmtOld (s : State) (p : Instr → Bool) : (unsched s p).fmtOld = s.fmtOld := rfl
@[simp] theorem unsched_chainOps (s : State) (p : Instr → Bool) : (unsched s p).chainOps = s.chainOps := rfl
@[simp] theorem unsched_engErr (s : State) (p : Instr → Bool) : (unsched s p).engErr = s.engErr := rfl
@[simp] theorem unsched_gateNs (s : State) (p : Instr → Bool) : (unsched s p).gateNs = s.gateNs := rfl
@[simp] theorem unsched_gateTick (s : State) (p : Instr → Bool) : (unsched s p).gateTick = s.gateTick := rfl
@[simp] theorem unsched_replayAt (s : State) (p : Instr → Bool) : (unsched s p).replayAt = s.replayAt := rfl
@[simp] theorem unsched_tlb (s : State) (p : Instr → Bool) : (unsched s p).tlb = s.tlb := rfl
@[simp] theorem unsched_ctl (s : State) (p : Instr → Bool) : (unsched s p).ctl = s.ctl := rfl
@[simp] theorem unsched_binding (s : State) (p : Instr → Bool) : (unsched s p).binding = s.binding := rfl
@[simp] theorem unsched_slots (s : State) (p : Instr → Bool) : (unsched s p).slots = s.slots := rfl
@[simp] theorem unsched_bankFmt (s : State) (p : Instr → Bool) : (unsched s p).bankFmt = s.bankFmt := rfl
@[simp] theorem unsched_tagTab (s : State) (p : Instr → Bool) : (unsched s p).tagTab = s.tagTab := rfl
@[simp] theorem unsched_slotReq (s : State) (p : Instr → Bool) : (unsched s p).slotReq = s.slotReq := rfl
@[simp] theorem unsched_shares (s : State) (p : Instr → Bool) : (unsched s p).shares = s.shares := rfl
@[simp] theorem unsched_dspr (s : State) (p : Instr → Bool) : (unsched s p).dspr = s.dspr := rfl
@[simp] theorem unsched_pspr (s : State) (p : Instr → Bool) : (unsched s p).pspr = s.pspr := rfl
@[simp] theorem unsched_perf (s : State) (p : Instr → Bool) : (unsched s p).perf = s.perf := rfl
@[simp] theorem unsched_wdog (s : State) (p : Instr → Bool) : (unsched s p).wdog = s.wdog := rfl
@[simp] theorem unsched_nodes (s : State) (p : Instr → Bool) : (unsched s p).nodes = s.nodes := rfl
@[simp] theorem unsched_kernels (s : State) (p : Instr → Bool) : (unsched s p).kernels = s.kernels := rfl
@[simp] theorem unsched_rivals (s : State) (p : Instr → Bool) : (unsched s p).rivals = s.rivals := rfl
@[simp] theorem unsched_lastPut (s : State) (p : Instr → Bool) : (unsched s p).lastPut = s.lastPut := rfl
@[simp] theorem unsched_deques (s : State) (p : Instr → Bool) : (unsched s p).deques = s.deques := rfl
@[simp] theorem unsched_mboxes (s : State) (p : Instr → Bool) : (unsched s p).mboxes = s.mboxes := rfl
@[simp] theorem unsched_posts (s : State) (p : Instr → Bool) : (unsched s p).posts = s.posts := rfl
@[simp] theorem unsched_tokens (s : State) (p : Instr → Bool) : (unsched s p).tokens = s.tokens := rfl
@[simp] theorem unsched_chanBuf (s : State) (p : Instr → Bool) : (unsched s p).chanBuf = s.chanBuf := rfl
@[simp] theorem unsched_chanWay (s : State) (p : Instr → Bool) : (unsched s p).chanWay = s.chanWay := rfl
@[simp] theorem unsched_chanUsed (s : State) (p : Instr → Bool) : (unsched s p).chanUsed = s.chanUsed := rfl
@[simp] theorem unsched_chanBack (s : State) (p : Instr → Bool) : (unsched s p).chanBack = s.chanBack := rfl
@[simp] theorem unsched_objs (s : State) (p : Instr → Bool) : (unsched s p).objs = s.objs := rfl
@[simp] theorem unsched_updates (s : State) (p : Instr → Bool) : (unsched s p).updates = s.updates := rfl
@[simp] theorem unsched_runs (s : State) (p : Instr → Bool) : (unsched s p).runs = s.runs := rfl
@[simp] theorem unsched_outbox (s : State) (p : Instr → Bool) : (unsched s p).outbox = s.outbox := rfl
@[simp] theorem unsched_viewEnd (s : State) (p : Instr → Bool) : (unsched s p).viewEnd = s.viewEnd := rfl
@[simp] theorem unsched_podOwner (s : State) (p : Instr → Bool) : (unsched s p).podOwner = s.podOwner := rfl
@[simp] theorem unsched_rwin (s : State) (p : Instr → Bool) : (unsched s p).rwin = s.rwin := rfl
@[simp] theorem unsched_lvq (s : State) (p : Instr → Bool) : (unsched s p).lvq = s.lvq := rfl
@[simp] theorem unsched_scb (s : State) (p : Instr → Bool) : (unsched s p).scb = s.scb := rfl
@[simp] theorem unsched_matq (s : State) (p : Instr → Bool) : (unsched s p).matq = s.matq := rfl
@[simp] theorem unsched_matops (s : State) (p : Instr → Bool) : (unsched s p).matops = s.matops := rfl
@[simp] theorem unsched_chains (s : State) (p : Instr → Bool) : (unsched s p).chains = s.chains := rfl
@[simp] theorem unsched_engRot (s : State) (p : Instr → Bool) : (unsched s p).engRot = s.engRot := rfl
@[simp] theorem unsched_offers (s : State) (p : Instr → Bool) : (unsched s p).offers = s.offers := rfl
@[simp] theorem unsched_husks (s : State) (p : Instr → Bool) : (unsched s p).husks = s.husks := rfl
@[simp] theorem unsched_succWait (s : State) (p : Instr → Bool) : (unsched s p).succWait = s.succWait := rfl
@[simp] theorem unsched_hot (s : State) (p : Instr → Bool) : (unsched s p).hot = s.hot := rfl
@[simp] theorem unsched_gated (s : State) (p : Instr → Bool) : (unsched s p).gated = s.gated := rfl
@[simp] theorem unsched_waking (s : State) (p : Instr → Bool) : (unsched s p).waking = s.waking := rfl
@[simp] theorem unsched_idleAt (s : State) (p : Instr → Bool) : (unsched s p).idleAt = s.idleAt := rfl
@[simp] theorem unsched_ptpBase (s : State) (p : Instr → Bool) : (unsched s p).ptpBase = s.ptpBase := rfl
@[simp] theorem unsched_ptpRate (s : State) (p : Instr → Bool) : (unsched s p).ptpRate = s.ptpRate := rfl
@[simp] theorem unsched_ptpAt (s : State) (p : Instr → Bool) : (unsched s p).ptpAt = s.ptpAt := rfl
@[simp] theorem unsched_ptpWrote (s : State) (p : Instr → Bool) : (unsched s p).ptpWrote = s.ptpWrote := rfl
@[simp] theorem unsched_cycOn (s : State) (p : Instr → Bool) : (unsched s p).cycOn = s.cycOn := rfl
@[simp] theorem unsched_cycDue (s : State) (p : Instr → Bool) : (unsched s p).cycDue = s.cycDue := rfl
@[simp] theorem unsched_cycTick (s : State) (p : Instr → Bool) : (unsched s p).cycTick = s.cycTick := rfl
@[simp] theorem unsched_cycHold (s : State) (p : Instr → Bool) : (unsched s p).cycHold = s.cycHold := rfl
@[simp] theorem unsched_tlOps (s : State) (p : Instr → Bool) : (unsched s p).tlOps = s.tlOps := rfl
@[simp] theorem unsched_groupOps (s : State) (p : Instr → Bool) : (unsched s p).groupOps = s.groupOps := rfl
@[simp] theorem unsched_tlNote (s : State) (p : Instr → Bool) : (unsched s p).tlNote = s.tlNote := rfl
@[simp] theorem unsched_frames (s : State) (p : Instr → Bool) : (unsched s p).frames = s.frames := rfl
@[simp] theorem unsched_sent (s : State) (p : Instr → Bool) : (unsched s p).sent = s.sent := rfl
@[simp] theorem unsched_meters (s : State) (p : Instr → Bool) : (unsched s p).meters = s.meters := rfl
@[simp] theorem unsched_gateAt (s : State) (p : Instr → Bool) : (unsched s p).gateAt = s.gateAt := rfl
@[simp] theorem unsched_gateOn (s : State) (p : Instr → Bool) : (unsched s p).gateOn = s.gateOn := rfl
@[simp] theorem unsched_sendAt (s : State) (p : Instr → Bool) : (unsched s p).sendAt = s.sendAt := rfl
@[simp] theorem unsched_latches (s : State) (p : Instr → Bool) : (unsched s p).latches = s.latches := rfl
@[simp] theorem unsched_staging (s : State) (p : Instr → Bool) : (unsched s p).staging = s.staging := rfl
@[simp] theorem unsched_applied (s : State) (p : Instr → Bool) : (unsched s p).applied = s.applied := rfl
@[simp] theorem unsched_missed (s : State) (p : Instr → Bool) : (unsched s p).missed = s.missed := rfl
@[simp] theorem unsched_lastBeat (s : State) (p : Instr → Bool) : (unsched s p).lastBeat = s.lastBeat := rfl
@[simp] theorem unsched_sentRecs (s : State) (p : Instr → Bool) : (unsched s p).sentRecs = s.sentRecs := rfl
@[simp] theorem unsched_unacked (s : State) (p : Instr → Bool) : (unsched s p).unacked = s.unacked := rfl
@[simp] theorem unsched_acks (s : State) (p : Instr → Bool) : (unsched s p).acks = s.acks := rfl
@[simp] theorem unsched_outHb (s : State) (p : Instr → Bool) : (unsched s p).outHb = s.outHb := rfl
@[simp] theorem unsched_sending (s : State) (p : Instr → Bool) : (unsched s p).sending = s.sending := rfl
@[simp] theorem unsched_roleDue (s : State) (p : Instr → Bool) : (unsched s p).roleDue = s.roleDue := rfl
@[simp] theorem unsched_errlog (s : State) (p : Instr → Bool) : (unsched s p).errlog = s.errlog := rfl
@[simp] theorem unsched_errLost (s : State) (p : Instr → Bool) : (unsched s p).errLost = s.errLost := rfl
@[simp] theorem unsched_offline (s : State) (p : Instr → Bool) : (unsched s p).offline = s.offline := rfl
@[simp] theorem unsched_traceSeq (s : State) (p : Instr → Bool) : (unsched s p).traceSeq = s.traceSeq := rfl
@[simp] theorem unsched_traceUse (s : State) (p : Instr → Bool) : (unsched s p).traceUse = s.traceUse := rfl
@[simp] theorem unsched_wbs (s : State) (p : Instr → Bool) : (unsched s p).wbs = s.wbs := rfl
@[simp] theorem unsched_heldWbs (s : State) (p : Instr → Bool) : (unsched s p).heldWbs = s.heldWbs := rfl
@[simp] theorem unsched_acqAt (s : State) (p : Instr → Bool) : (unsched s p).acqAt = s.acqAt := rfl
@[simp] theorem unsched_flash (s : State) (p : Instr → Bool) : (unsched s p).flash = s.flash := rfl
@[simp] theorem unsched_faultLow (s : State) (p : Instr → Bool) : (unsched s p).faultLow = s.faultLow := rfl
@[simp] theorem unsched_imgVersion (s : State) (p : Instr → Bool) : (unsched s p).imgVersion = s.imgVersion := rfl
@[simp] theorem unsched_imgProfile (s : State) (p : Instr → Bool) : (unsched s p).imgProfile = s.imgProfile := rfl
@[simp] theorem unsched_rollback (s : State) (p : Instr → Bool) : (unsched s p).rollback = s.rollback := rfl
@[simp] theorem unsched_tripped (s : State) (p : Instr → Bool) : (unsched s p).tripped = s.tripped := rfl
@[simp] theorem unsched_l2Poison (s : State) (p : Instr → Bool) : (unsched s p).l2Poison = s.l2Poison := rfl
@[simp] theorem unsched_l1Poison (s : State) (p : Instr → Bool) : (unsched s p).l1Poison = s.l1Poison := rfl
@[simp] theorem unsched_slotNow (s : State) (p : Instr → Bool) : (unsched s p).slotNow = s.slotNow := rfl
@[simp] theorem unsched_tried (s : State) (p : Instr → Bool) : (unsched s p).tried = s.tried := rfl
@[simp] theorem unsched_lateDisp (s : State) (p : Instr → Bool) : (unsched s p).lateDisp = s.lateDisp := rfl
@[simp] theorem unsched_viewPool (s : State) (p : Instr → Bool) : (unsched s p).viewPool = s.viewPool := rfl
@[simp] theorem unsched_viewFail (s : State) (p : Instr → Bool) : (unsched s p).viewFail = s.viewFail := rfl
@[simp] theorem unsched_engLate (s : State) (p : Instr → Bool) : (unsched s p).engLate = s.engLate := rfl
@[simp] theorem unsched_slipKept (s : State) (p : Instr → Bool) : (unsched s p).slipKept = s.slipKept := rfl
@[simp] theorem unsched_barOps (s : State) (p : Instr → Bool) : (unsched s p).barOps = s.barOps := rfl
@[simp] theorem unsched_pubOps (s : State) (p : Instr → Bool) : (unsched s p).pubOps = s.pubOps := rfl
@[simp] theorem unsched_wires (s : State) (p : Instr → Bool) : (unsched s p).wires = s.wires := rfl
@[simp] theorem unsched_ticks (s : State) (p : Instr → Bool) : (unsched s p).ticks = s.ticks := rfl
@[simp] theorem unsched_errFound (s : State) (p : Instr → Bool) : (unsched s p).errFound = s.errFound := rfl
@[simp] theorem unsched_events (s : State) (p : Instr → Bool) : (unsched s p).events = s.events := rfl
@[simp] theorem unsched_heldRecs (s : State) (p : Instr → Bool) : (unsched s p).heldRecs = s.heldRecs := rfl

/-! tick. -/

@[simp] theorem tick_clk (s : State) : (tick s).clk = s.clk := rfl
@[simp] theorem tick_bpos (s : State) : (tick s).bpos = s.bpos := rfl
@[simp] theorem tick_cur (s : State) : (tick s).cur = none := rfl
@[simp] theorem tick_agenda (s : State) : (tick s).agenda = s.agenda := rfl
@[simp] theorem tick_nextId (s : State) : (tick s).nextId = s.nextId := rfl
@[simp] theorem tick_free (s : State) : (tick s).free = s.free + 1 := rfl
@[simp] theorem tick_threads (s : State) : (tick s).threads = s.threads := rfl
@[simp] theorem tick_mem (s : State) : (tick s).mem = s.mem := rfl
@[simp] theorem tick_vmem (s : State) : (tick s).vmem = s.vmem := rfl
@[simp] theorem tick_tags (s : State) : (tick s).tags = s.tags := rfl
@[simp] theorem tick_poison (s : State) : (tick s).poison = s.poison := rfl
@[simp] theorem tick_badEcc (s : State) : (tick s).badEcc = s.badEcc := rfl
@[simp] theorem tick_l1d (s : State) : (tick s).l1d = s.l1d := rfl
@[simp] theorem tick_l1i (s : State) : (tick s).l1i = s.l1i := rfl
@[simp] theorem tick_l1dSets (s : State) : (tick s).l1dSets = s.l1dSets := rfl
@[simp] theorem tick_l1iSets (s : State) : (tick s).l1iSets = s.l1iSets := rfl
@[simp] theorem tick_l2Sets (s : State) : (tick s).l2Sets = s.l2Sets := rfl
@[simp] theorem tick_crcBad (s : State) : (tick s).crcBad = s.crcBad := rfl
@[simp] theorem tick_copies (s : State) : (tick s).copies = s.copies := rfl
@[simp] theorem tick_hint (s : State) : (tick s).hint = s.hint := rfl
@[simp] theorem tick_walks (s : State) : (tick s).walks = s.walks := rfl
@[simp] theorem tick_bindBusy (s : State) : (tick s).bindBusy = s.bindBusy := rfl
@[simp] theorem tick_fmtOld (s : State) : (tick s).fmtOld = s.fmtOld := rfl
@[simp] theorem tick_chainOps (s : State) : (tick s).chainOps = s.chainOps := rfl
@[simp] theorem tick_engErr (s : State) : (tick s).engErr = s.engErr := rfl
@[simp] theorem tick_gateNs (s : State) : (tick s).gateNs = s.gateNs := rfl
@[simp] theorem tick_gateTick (s : State) : (tick s).gateTick = s.gateTick := rfl
@[simp] theorem tick_replayAt (s : State) : (tick s).replayAt = s.replayAt := rfl
@[simp] theorem tick_tlb (s : State) : (tick s).tlb = s.tlb := rfl
@[simp] theorem tick_ctl (s : State) : (tick s).ctl = s.ctl := rfl
@[simp] theorem tick_binding (s : State) : (tick s).binding = s.binding := rfl
@[simp] theorem tick_slots (s : State) : (tick s).slots = s.slots := rfl
@[simp] theorem tick_bankFmt (s : State) : (tick s).bankFmt = s.bankFmt := rfl
@[simp] theorem tick_tagTab (s : State) : (tick s).tagTab = s.tagTab := rfl
@[simp] theorem tick_slotReq (s : State) : (tick s).slotReq = s.slotReq := rfl
@[simp] theorem tick_shares (s : State) : (tick s).shares = s.shares := rfl
@[simp] theorem tick_dspr (s : State) : (tick s).dspr = s.dspr := rfl
@[simp] theorem tick_pspr (s : State) : (tick s).pspr = s.pspr := rfl
@[simp] theorem tick_perf (s : State) : (tick s).perf = s.perf := rfl
@[simp] theorem tick_wdog (s : State) : (tick s).wdog = s.wdog := rfl
@[simp] theorem tick_nodes (s : State) : (tick s).nodes = s.nodes := rfl
@[simp] theorem tick_kernels (s : State) : (tick s).kernels = s.kernels := rfl
@[simp] theorem tick_rivals (s : State) : (tick s).rivals = s.rivals := rfl
@[simp] theorem tick_lastPut (s : State) : (tick s).lastPut = s.lastPut := rfl
@[simp] theorem tick_deques (s : State) : (tick s).deques = s.deques := rfl
@[simp] theorem tick_mboxes (s : State) : (tick s).mboxes = s.mboxes := rfl
@[simp] theorem tick_posts (s : State) : (tick s).posts = s.posts := rfl
@[simp] theorem tick_tokens (s : State) : (tick s).tokens = s.tokens := rfl
@[simp] theorem tick_chanBuf (s : State) : (tick s).chanBuf = s.chanBuf := rfl
@[simp] theorem tick_chanWay (s : State) : (tick s).chanWay = s.chanWay := rfl
@[simp] theorem tick_chanUsed (s : State) : (tick s).chanUsed = s.chanUsed := rfl
@[simp] theorem tick_chanBack (s : State) : (tick s).chanBack = s.chanBack := rfl
@[simp] theorem tick_objs (s : State) : (tick s).objs = s.objs := rfl
@[simp] theorem tick_updates (s : State) : (tick s).updates = s.updates := rfl
@[simp] theorem tick_runs (s : State) : (tick s).runs = s.runs := rfl
@[simp] theorem tick_outbox (s : State) : (tick s).outbox = s.outbox := rfl
@[simp] theorem tick_viewEnd (s : State) : (tick s).viewEnd = s.viewEnd := rfl
@[simp] theorem tick_podOwner (s : State) : (tick s).podOwner = s.podOwner := rfl
@[simp] theorem tick_rwin (s : State) : (tick s).rwin = s.rwin := rfl
@[simp] theorem tick_lvq (s : State) : (tick s).lvq = s.lvq := rfl
@[simp] theorem tick_scb (s : State) : (tick s).scb = s.scb := rfl
@[simp] theorem tick_matq (s : State) : (tick s).matq = s.matq := rfl
@[simp] theorem tick_matops (s : State) : (tick s).matops = s.matops := rfl
@[simp] theorem tick_chains (s : State) : (tick s).chains = s.chains := rfl
@[simp] theorem tick_engRot (s : State) : (tick s).engRot = s.engRot := rfl
@[simp] theorem tick_offers (s : State) : (tick s).offers = s.offers := rfl
@[simp] theorem tick_husks (s : State) : (tick s).husks = s.husks := rfl
@[simp] theorem tick_succWait (s : State) : (tick s).succWait = s.succWait := rfl
@[simp] theorem tick_hot (s : State) : (tick s).hot = s.hot := rfl
@[simp] theorem tick_gated (s : State) : (tick s).gated = s.gated := rfl
@[simp] theorem tick_waking (s : State) : (tick s).waking = s.waking := rfl
@[simp] theorem tick_idleAt (s : State) : (tick s).idleAt = s.idleAt := rfl
@[simp] theorem tick_ptpBase (s : State) : (tick s).ptpBase = s.ptpBase := rfl
@[simp] theorem tick_ptpRate (s : State) : (tick s).ptpRate = s.ptpRate := rfl
@[simp] theorem tick_ptpAt (s : State) : (tick s).ptpAt = s.ptpAt := rfl
@[simp] theorem tick_ptpWrote (s : State) : (tick s).ptpWrote = s.ptpWrote := rfl
@[simp] theorem tick_cycOn (s : State) : (tick s).cycOn = s.cycOn := rfl
@[simp] theorem tick_cycDue (s : State) : (tick s).cycDue = s.cycDue := rfl
@[simp] theorem tick_cycTick (s : State) : (tick s).cycTick = s.cycTick := rfl
@[simp] theorem tick_cycHold (s : State) : (tick s).cycHold = s.cycHold := rfl
@[simp] theorem tick_tlOps (s : State) : (tick s).tlOps = s.tlOps := rfl
@[simp] theorem tick_groupOps (s : State) : (tick s).groupOps = s.groupOps := rfl
@[simp] theorem tick_tlNote (s : State) : (tick s).tlNote = s.tlNote := rfl
@[simp] theorem tick_frames (s : State) : (tick s).frames = s.frames := rfl
@[simp] theorem tick_sent (s : State) : (tick s).sent = s.sent := rfl
@[simp] theorem tick_meters (s : State) : (tick s).meters = s.meters := rfl
@[simp] theorem tick_gateAt (s : State) : (tick s).gateAt = s.gateAt := rfl
@[simp] theorem tick_gateOn (s : State) : (tick s).gateOn = s.gateOn := rfl
@[simp] theorem tick_sendAt (s : State) : (tick s).sendAt = s.sendAt := rfl
@[simp] theorem tick_latches (s : State) : (tick s).latches = s.latches := rfl
@[simp] theorem tick_staging (s : State) : (tick s).staging = s.staging := rfl
@[simp] theorem tick_applied (s : State) : (tick s).applied = s.applied := rfl
@[simp] theorem tick_missed (s : State) : (tick s).missed = s.missed := rfl
@[simp] theorem tick_lastBeat (s : State) : (tick s).lastBeat = s.lastBeat := rfl
@[simp] theorem tick_sentRecs (s : State) : (tick s).sentRecs = s.sentRecs := rfl
@[simp] theorem tick_unacked (s : State) : (tick s).unacked = s.unacked := rfl
@[simp] theorem tick_acks (s : State) : (tick s).acks = s.acks := rfl
@[simp] theorem tick_outHb (s : State) : (tick s).outHb = s.outHb := rfl
@[simp] theorem tick_sending (s : State) : (tick s).sending = s.sending := rfl
@[simp] theorem tick_roleDue (s : State) : (tick s).roleDue = s.roleDue := rfl
@[simp] theorem tick_errlog (s : State) : (tick s).errlog = s.errlog := rfl
@[simp] theorem tick_errLost (s : State) : (tick s).errLost = s.errLost := rfl
@[simp] theorem tick_offline (s : State) : (tick s).offline = s.offline := rfl
@[simp] theorem tick_traceSeq (s : State) : (tick s).traceSeq = s.traceSeq := rfl
@[simp] theorem tick_traceUse (s : State) : (tick s).traceUse = s.traceUse := rfl
@[simp] theorem tick_wbs (s : State) : (tick s).wbs = s.wbs := rfl
@[simp] theorem tick_heldWbs (s : State) : (tick s).heldWbs = s.heldWbs := rfl
@[simp] theorem tick_acqAt (s : State) : (tick s).acqAt = s.acqAt := rfl
@[simp] theorem tick_flash (s : State) : (tick s).flash = s.flash := rfl
@[simp] theorem tick_faultLow (s : State) : (tick s).faultLow = s.faultLow := rfl
@[simp] theorem tick_imgVersion (s : State) : (tick s).imgVersion = s.imgVersion := rfl
@[simp] theorem tick_imgProfile (s : State) : (tick s).imgProfile = s.imgProfile := rfl
@[simp] theorem tick_rollback (s : State) : (tick s).rollback = s.rollback := rfl
@[simp] theorem tick_tripped (s : State) : (tick s).tripped = s.tripped := rfl
@[simp] theorem tick_l2Poison (s : State) : (tick s).l2Poison = s.l2Poison := rfl
@[simp] theorem tick_l1Poison (s : State) : (tick s).l1Poison = s.l1Poison := rfl
@[simp] theorem tick_slotNow (s : State) : (tick s).slotNow = s.slotNow := rfl
@[simp] theorem tick_tried (s : State) : (tick s).tried = s.tried := rfl
@[simp] theorem tick_lateDisp (s : State) : (tick s).lateDisp = s.lateDisp := rfl
@[simp] theorem tick_viewPool (s : State) : (tick s).viewPool = s.viewPool := rfl
@[simp] theorem tick_viewFail (s : State) : (tick s).viewFail = s.viewFail := rfl
@[simp] theorem tick_engLate (s : State) : (tick s).engLate = s.engLate := rfl
@[simp] theorem tick_slipKept (s : State) : (tick s).slipKept = s.slipKept := rfl
@[simp] theorem tick_barOps (s : State) : (tick s).barOps = s.barOps := rfl
@[simp] theorem tick_pubOps (s : State) : (tick s).pubOps = s.pubOps := rfl
@[simp] theorem tick_wires (s : State) : (tick s).wires = s.wires := rfl
@[simp] theorem tick_ticks (s : State) : (tick s).ticks = s.ticks := rfl
@[simp] theorem tick_errFound (s : State) : (tick s).errFound = s.errFound := rfl
@[simp] theorem tick_events (s : State) : (tick s).events = s.events := rfl
@[simp] theorem tick_heldRecs (s : State) : (tick s).heldRecs = s.heldRecs := rfl

/-! wrMem. -/

@[simp] theorem wrMem_clk (s : State) (a : Nat) (b : Byte) : (wrMem s a b).clk = s.clk := rfl
@[simp] theorem wrMem_bpos (s : State) (a : Nat) (b : Byte) : (wrMem s a b).bpos = s.bpos := rfl
@[simp] theorem wrMem_cur (s : State) (a : Nat) (b : Byte) : (wrMem s a b).cur = s.cur := rfl
@[simp] theorem wrMem_agenda (s : State) (a : Nat) (b : Byte) : (wrMem s a b).agenda = s.agenda := rfl
@[simp] theorem wrMem_nextId (s : State) (a : Nat) (b : Byte) : (wrMem s a b).nextId = s.nextId := rfl
@[simp] theorem wrMem_free (s : State) (a : Nat) (b : Byte) : (wrMem s a b).free = s.free := rfl
@[simp] theorem wrMem_threads (s : State) (a : Nat) (b : Byte) : (wrMem s a b).threads = s.threads := rfl
@[simp] theorem wrMem_mem (s : State) (a : Nat) (b : Byte) : (wrMem s a b).mem = s.mem.putD a 0 b := rfl
@[simp] theorem wrMem_vmem (s : State) (a : Nat) (b : Byte) : (wrMem s a b).vmem = s.vmem := rfl
@[simp] theorem wrMem_tags (s : State) (a : Nat) (b : Byte) : (wrMem s a b).tags = s.tags := rfl
@[simp] theorem wrMem_poison (s : State) (a : Nat) (b : Byte) : (wrMem s a b).poison = s.poison := rfl
@[simp] theorem wrMem_badEcc (s : State) (a : Nat) (b : Byte) : (wrMem s a b).badEcc = s.badEcc := rfl
@[simp] theorem wrMem_l1d (s : State) (a : Nat) (b : Byte) : (wrMem s a b).l1d = s.l1d := rfl
@[simp] theorem wrMem_l1i (s : State) (a : Nat) (b : Byte) : (wrMem s a b).l1i = s.l1i := rfl
@[simp] theorem wrMem_l1dSets (s : State) (a : Nat) (b : Byte) : (wrMem s a b).l1dSets = s.l1dSets := rfl
@[simp] theorem wrMem_l1iSets (s : State) (a : Nat) (b : Byte) : (wrMem s a b).l1iSets = s.l1iSets := rfl
@[simp] theorem wrMem_l2Sets (s : State) (a : Nat) (b : Byte) : (wrMem s a b).l2Sets = s.l2Sets := rfl
@[simp] theorem wrMem_crcBad (s : State) (a : Nat) (b : Byte) : (wrMem s a b).crcBad = s.crcBad := rfl
@[simp] theorem wrMem_copies (s : State) (a : Nat) (b : Byte) : (wrMem s a b).copies = s.copies := rfl
@[simp] theorem wrMem_hint (s : State) (a : Nat) (b : Byte) : (wrMem s a b).hint = s.hint := rfl
@[simp] theorem wrMem_walks (s : State) (a : Nat) (b : Byte) : (wrMem s a b).walks = s.walks := rfl
@[simp] theorem wrMem_bindBusy (s : State) (a : Nat) (b : Byte) : (wrMem s a b).bindBusy = s.bindBusy := rfl
@[simp] theorem wrMem_fmtOld (s : State) (a : Nat) (b : Byte) : (wrMem s a b).fmtOld = s.fmtOld := rfl
@[simp] theorem wrMem_chainOps (s : State) (a : Nat) (b : Byte) : (wrMem s a b).chainOps = s.chainOps := rfl
@[simp] theorem wrMem_engErr (s : State) (a : Nat) (b : Byte) : (wrMem s a b).engErr = s.engErr := rfl
@[simp] theorem wrMem_gateNs (s : State) (a : Nat) (b : Byte) : (wrMem s a b).gateNs = s.gateNs := rfl
@[simp] theorem wrMem_gateTick (s : State) (a : Nat) (b : Byte) : (wrMem s a b).gateTick = s.gateTick := rfl
@[simp] theorem wrMem_replayAt (s : State) (a : Nat) (b : Byte) : (wrMem s a b).replayAt = s.replayAt := rfl
@[simp] theorem wrMem_tlb (s : State) (a : Nat) (b : Byte) : (wrMem s a b).tlb = s.tlb := rfl
@[simp] theorem wrMem_ctl (s : State) (a : Nat) (b : Byte) : (wrMem s a b).ctl = s.ctl := rfl
@[simp] theorem wrMem_binding (s : State) (a : Nat) (b : Byte) : (wrMem s a b).binding = s.binding := rfl
@[simp] theorem wrMem_slots (s : State) (a : Nat) (b : Byte) : (wrMem s a b).slots = s.slots := rfl
@[simp] theorem wrMem_bankFmt (s : State) (a : Nat) (b : Byte) : (wrMem s a b).bankFmt = s.bankFmt := rfl
@[simp] theorem wrMem_tagTab (s : State) (a : Nat) (b : Byte) : (wrMem s a b).tagTab = s.tagTab := rfl
@[simp] theorem wrMem_slotReq (s : State) (a : Nat) (b : Byte) : (wrMem s a b).slotReq = s.slotReq := rfl
@[simp] theorem wrMem_shares (s : State) (a : Nat) (b : Byte) : (wrMem s a b).shares = s.shares := rfl
@[simp] theorem wrMem_dspr (s : State) (a : Nat) (b : Byte) : (wrMem s a b).dspr = s.dspr := rfl
@[simp] theorem wrMem_pspr (s : State) (a : Nat) (b : Byte) : (wrMem s a b).pspr = s.pspr := rfl
@[simp] theorem wrMem_perf (s : State) (a : Nat) (b : Byte) : (wrMem s a b).perf = s.perf := rfl
@[simp] theorem wrMem_wdog (s : State) (a : Nat) (b : Byte) : (wrMem s a b).wdog = s.wdog := rfl
@[simp] theorem wrMem_nodes (s : State) (a : Nat) (b : Byte) : (wrMem s a b).nodes = s.nodes := rfl
@[simp] theorem wrMem_kernels (s : State) (a : Nat) (b : Byte) : (wrMem s a b).kernels = s.kernels := rfl
@[simp] theorem wrMem_rivals (s : State) (a : Nat) (b : Byte) : (wrMem s a b).rivals = s.rivals := rfl
@[simp] theorem wrMem_lastPut (s : State) (a : Nat) (b : Byte) : (wrMem s a b).lastPut = s.lastPut := rfl
@[simp] theorem wrMem_deques (s : State) (a : Nat) (b : Byte) : (wrMem s a b).deques = s.deques := rfl
@[simp] theorem wrMem_mboxes (s : State) (a : Nat) (b : Byte) : (wrMem s a b).mboxes = s.mboxes := rfl
@[simp] theorem wrMem_posts (s : State) (a : Nat) (b : Byte) : (wrMem s a b).posts = s.posts := rfl
@[simp] theorem wrMem_tokens (s : State) (a : Nat) (b : Byte) : (wrMem s a b).tokens = s.tokens := rfl
@[simp] theorem wrMem_chanBuf (s : State) (a : Nat) (b : Byte) : (wrMem s a b).chanBuf = s.chanBuf := rfl
@[simp] theorem wrMem_chanWay (s : State) (a : Nat) (b : Byte) : (wrMem s a b).chanWay = s.chanWay := rfl
@[simp] theorem wrMem_chanUsed (s : State) (a : Nat) (b : Byte) : (wrMem s a b).chanUsed = s.chanUsed := rfl
@[simp] theorem wrMem_chanBack (s : State) (a : Nat) (b : Byte) : (wrMem s a b).chanBack = s.chanBack := rfl
@[simp] theorem wrMem_objs (s : State) (a : Nat) (b : Byte) : (wrMem s a b).objs = s.objs := rfl
@[simp] theorem wrMem_updates (s : State) (a : Nat) (b : Byte) : (wrMem s a b).updates = s.updates := rfl
@[simp] theorem wrMem_runs (s : State) (a : Nat) (b : Byte) : (wrMem s a b).runs = s.runs := rfl
@[simp] theorem wrMem_outbox (s : State) (a : Nat) (b : Byte) : (wrMem s a b).outbox = s.outbox := rfl
@[simp] theorem wrMem_viewEnd (s : State) (a : Nat) (b : Byte) : (wrMem s a b).viewEnd = s.viewEnd := rfl
@[simp] theorem wrMem_podOwner (s : State) (a : Nat) (b : Byte) : (wrMem s a b).podOwner = s.podOwner := rfl
@[simp] theorem wrMem_rwin (s : State) (a : Nat) (b : Byte) : (wrMem s a b).rwin = s.rwin := rfl
@[simp] theorem wrMem_lvq (s : State) (a : Nat) (b : Byte) : (wrMem s a b).lvq = s.lvq := rfl
@[simp] theorem wrMem_scb (s : State) (a : Nat) (b : Byte) : (wrMem s a b).scb = s.scb := rfl
@[simp] theorem wrMem_matq (s : State) (a : Nat) (b : Byte) : (wrMem s a b).matq = s.matq := rfl
@[simp] theorem wrMem_matops (s : State) (a : Nat) (b : Byte) : (wrMem s a b).matops = s.matops := rfl
@[simp] theorem wrMem_chains (s : State) (a : Nat) (b : Byte) : (wrMem s a b).chains = s.chains := rfl
@[simp] theorem wrMem_engRot (s : State) (a : Nat) (b : Byte) : (wrMem s a b).engRot = s.engRot := rfl
@[simp] theorem wrMem_offers (s : State) (a : Nat) (b : Byte) : (wrMem s a b).offers = s.offers := rfl
@[simp] theorem wrMem_husks (s : State) (a : Nat) (b : Byte) : (wrMem s a b).husks = s.husks := rfl
@[simp] theorem wrMem_succWait (s : State) (a : Nat) (b : Byte) : (wrMem s a b).succWait = s.succWait := rfl
@[simp] theorem wrMem_hot (s : State) (a : Nat) (b : Byte) : (wrMem s a b).hot = s.hot := rfl
@[simp] theorem wrMem_gated (s : State) (a : Nat) (b : Byte) : (wrMem s a b).gated = s.gated := rfl
@[simp] theorem wrMem_waking (s : State) (a : Nat) (b : Byte) : (wrMem s a b).waking = s.waking := rfl
@[simp] theorem wrMem_idleAt (s : State) (a : Nat) (b : Byte) : (wrMem s a b).idleAt = s.idleAt := rfl
@[simp] theorem wrMem_ptpBase (s : State) (a : Nat) (b : Byte) : (wrMem s a b).ptpBase = s.ptpBase := rfl
@[simp] theorem wrMem_ptpRate (s : State) (a : Nat) (b : Byte) : (wrMem s a b).ptpRate = s.ptpRate := rfl
@[simp] theorem wrMem_ptpAt (s : State) (a : Nat) (b : Byte) : (wrMem s a b).ptpAt = s.ptpAt := rfl
@[simp] theorem wrMem_ptpWrote (s : State) (a : Nat) (b : Byte) : (wrMem s a b).ptpWrote = s.ptpWrote := rfl
@[simp] theorem wrMem_cycOn (s : State) (a : Nat) (b : Byte) : (wrMem s a b).cycOn = s.cycOn := rfl
@[simp] theorem wrMem_cycDue (s : State) (a : Nat) (b : Byte) : (wrMem s a b).cycDue = s.cycDue := rfl
@[simp] theorem wrMem_cycTick (s : State) (a : Nat) (b : Byte) : (wrMem s a b).cycTick = s.cycTick := rfl
@[simp] theorem wrMem_cycHold (s : State) (a : Nat) (b : Byte) : (wrMem s a b).cycHold = s.cycHold := rfl
@[simp] theorem wrMem_tlOps (s : State) (a : Nat) (b : Byte) : (wrMem s a b).tlOps = s.tlOps := rfl
@[simp] theorem wrMem_groupOps (s : State) (a : Nat) (b : Byte) : (wrMem s a b).groupOps = s.groupOps := rfl
@[simp] theorem wrMem_tlNote (s : State) (a : Nat) (b : Byte) : (wrMem s a b).tlNote = s.tlNote := rfl
@[simp] theorem wrMem_frames (s : State) (a : Nat) (b : Byte) : (wrMem s a b).frames = s.frames := rfl
@[simp] theorem wrMem_sent (s : State) (a : Nat) (b : Byte) : (wrMem s a b).sent = s.sent := rfl
@[simp] theorem wrMem_meters (s : State) (a : Nat) (b : Byte) : (wrMem s a b).meters = s.meters := rfl
@[simp] theorem wrMem_gateAt (s : State) (a : Nat) (b : Byte) : (wrMem s a b).gateAt = s.gateAt := rfl
@[simp] theorem wrMem_gateOn (s : State) (a : Nat) (b : Byte) : (wrMem s a b).gateOn = s.gateOn := rfl
@[simp] theorem wrMem_sendAt (s : State) (a : Nat) (b : Byte) : (wrMem s a b).sendAt = s.sendAt := rfl
@[simp] theorem wrMem_latches (s : State) (a : Nat) (b : Byte) : (wrMem s a b).latches = s.latches := rfl
@[simp] theorem wrMem_staging (s : State) (a : Nat) (b : Byte) : (wrMem s a b).staging = s.staging := rfl
@[simp] theorem wrMem_applied (s : State) (a : Nat) (b : Byte) : (wrMem s a b).applied = s.applied := rfl
@[simp] theorem wrMem_missed (s : State) (a : Nat) (b : Byte) : (wrMem s a b).missed = s.missed := rfl
@[simp] theorem wrMem_lastBeat (s : State) (a : Nat) (b : Byte) : (wrMem s a b).lastBeat = s.lastBeat := rfl
@[simp] theorem wrMem_sentRecs (s : State) (a : Nat) (b : Byte) : (wrMem s a b).sentRecs = s.sentRecs := rfl
@[simp] theorem wrMem_unacked (s : State) (a : Nat) (b : Byte) : (wrMem s a b).unacked = s.unacked := rfl
@[simp] theorem wrMem_acks (s : State) (a : Nat) (b : Byte) : (wrMem s a b).acks = s.acks := rfl
@[simp] theorem wrMem_outHb (s : State) (a : Nat) (b : Byte) : (wrMem s a b).outHb = s.outHb := rfl
@[simp] theorem wrMem_sending (s : State) (a : Nat) (b : Byte) : (wrMem s a b).sending = s.sending := rfl
@[simp] theorem wrMem_roleDue (s : State) (a : Nat) (b : Byte) : (wrMem s a b).roleDue = s.roleDue := rfl
@[simp] theorem wrMem_errlog (s : State) (a : Nat) (b : Byte) : (wrMem s a b).errlog = s.errlog := rfl
@[simp] theorem wrMem_errLost (s : State) (a : Nat) (b : Byte) : (wrMem s a b).errLost = s.errLost := rfl
@[simp] theorem wrMem_offline (s : State) (a : Nat) (b : Byte) : (wrMem s a b).offline = s.offline := rfl
@[simp] theorem wrMem_traceSeq (s : State) (a : Nat) (b : Byte) : (wrMem s a b).traceSeq = s.traceSeq := rfl
@[simp] theorem wrMem_traceUse (s : State) (a : Nat) (b : Byte) : (wrMem s a b).traceUse = s.traceUse := rfl
@[simp] theorem wrMem_wbs (s : State) (a : Nat) (b : Byte) : (wrMem s a b).wbs = s.wbs := rfl
@[simp] theorem wrMem_heldWbs (s : State) (a : Nat) (b : Byte) : (wrMem s a b).heldWbs = s.heldWbs := rfl
@[simp] theorem wrMem_acqAt (s : State) (a : Nat) (b : Byte) : (wrMem s a b).acqAt = s.acqAt := rfl
@[simp] theorem wrMem_flash (s : State) (a : Nat) (b : Byte) : (wrMem s a b).flash = s.flash := rfl
@[simp] theorem wrMem_faultLow (s : State) (a : Nat) (b : Byte) : (wrMem s a b).faultLow = s.faultLow := rfl
@[simp] theorem wrMem_imgVersion (s : State) (a : Nat) (b : Byte) : (wrMem s a b).imgVersion = s.imgVersion := rfl
@[simp] theorem wrMem_imgProfile (s : State) (a : Nat) (b : Byte) : (wrMem s a b).imgProfile = s.imgProfile := rfl
@[simp] theorem wrMem_rollback (s : State) (a : Nat) (b : Byte) : (wrMem s a b).rollback = s.rollback := rfl
@[simp] theorem wrMem_tripped (s : State) (a : Nat) (b : Byte) : (wrMem s a b).tripped = s.tripped := rfl
@[simp] theorem wrMem_l2Poison (s : State) (a : Nat) (b : Byte) : (wrMem s a b).l2Poison = s.l2Poison := rfl
@[simp] theorem wrMem_l1Poison (s : State) (a : Nat) (b : Byte) : (wrMem s a b).l1Poison = s.l1Poison := rfl
@[simp] theorem wrMem_slotNow (s : State) (a : Nat) (b : Byte) : (wrMem s a b).slotNow = s.slotNow := rfl
@[simp] theorem wrMem_tried (s : State) (a : Nat) (b : Byte) : (wrMem s a b).tried = s.tried := rfl
@[simp] theorem wrMem_lateDisp (s : State) (a : Nat) (b : Byte) : (wrMem s a b).lateDisp = s.lateDisp := rfl
@[simp] theorem wrMem_viewPool (s : State) (a : Nat) (b : Byte) : (wrMem s a b).viewPool = s.viewPool := rfl
@[simp] theorem wrMem_viewFail (s : State) (a : Nat) (b : Byte) : (wrMem s a b).viewFail = s.viewFail := rfl
@[simp] theorem wrMem_engLate (s : State) (a : Nat) (b : Byte) : (wrMem s a b).engLate = s.engLate := rfl
@[simp] theorem wrMem_slipKept (s : State) (a : Nat) (b : Byte) : (wrMem s a b).slipKept = s.slipKept := rfl
@[simp] theorem wrMem_barOps (s : State) (a : Nat) (b : Byte) : (wrMem s a b).barOps = s.barOps := rfl
@[simp] theorem wrMem_pubOps (s : State) (a : Nat) (b : Byte) : (wrMem s a b).pubOps = s.pubOps := rfl
@[simp] theorem wrMem_wires (s : State) (a : Nat) (b : Byte) : (wrMem s a b).wires = s.wires := rfl
@[simp] theorem wrMem_ticks (s : State) (a : Nat) (b : Byte) : (wrMem s a b).ticks = s.ticks := rfl
@[simp] theorem wrMem_errFound (s : State) (a : Nat) (b : Byte) : (wrMem s a b).errFound = s.errFound := rfl
@[simp] theorem wrMem_events (s : State) (a : Nat) (b : Byte) : (wrMem s a b).events = s.events := rfl
@[simp] theorem wrMem_heldRecs (s : State) (a : Nat) (b : Byte) : (wrMem s a b).heldRecs = s.heldRecs := rfl

/-! wrCtl. -/

@[simp] theorem wrCtl_clk (s : State) (a : Nat) (v : Word) : (wrCtl s a v).clk = s.clk := rfl
@[simp] theorem wrCtl_bpos (s : State) (a : Nat) (v : Word) : (wrCtl s a v).bpos = s.bpos := rfl
@[simp] theorem wrCtl_cur (s : State) (a : Nat) (v : Word) : (wrCtl s a v).cur = s.cur := rfl
@[simp] theorem wrCtl_agenda (s : State) (a : Nat) (v : Word) : (wrCtl s a v).agenda = s.agenda := rfl
@[simp] theorem wrCtl_nextId (s : State) (a : Nat) (v : Word) : (wrCtl s a v).nextId = s.nextId := rfl
@[simp] theorem wrCtl_free (s : State) (a : Nat) (v : Word) : (wrCtl s a v).free = s.free := rfl
@[simp] theorem wrCtl_threads (s : State) (a : Nat) (v : Word) : (wrCtl s a v).threads = s.threads := rfl
@[simp] theorem wrCtl_mem (s : State) (a : Nat) (v : Word) : (wrCtl s a v).mem = s.mem := rfl
@[simp] theorem wrCtl_vmem (s : State) (a : Nat) (v : Word) : (wrCtl s a v).vmem = s.vmem := rfl
@[simp] theorem wrCtl_tags (s : State) (a : Nat) (v : Word) : (wrCtl s a v).tags = s.tags := rfl
@[simp] theorem wrCtl_poison (s : State) (a : Nat) (v : Word) : (wrCtl s a v).poison = s.poison := rfl
@[simp] theorem wrCtl_badEcc (s : State) (a : Nat) (v : Word) : (wrCtl s a v).badEcc = s.badEcc := rfl
@[simp] theorem wrCtl_l1d (s : State) (a : Nat) (v : Word) : (wrCtl s a v).l1d = s.l1d := rfl
@[simp] theorem wrCtl_l1i (s : State) (a : Nat) (v : Word) : (wrCtl s a v).l1i = s.l1i := rfl
@[simp] theorem wrCtl_l1dSets (s : State) (a : Nat) (v : Word) : (wrCtl s a v).l1dSets = s.l1dSets := rfl
@[simp] theorem wrCtl_l1iSets (s : State) (a : Nat) (v : Word) : (wrCtl s a v).l1iSets = s.l1iSets := rfl
@[simp] theorem wrCtl_l2Sets (s : State) (a : Nat) (v : Word) : (wrCtl s a v).l2Sets = s.l2Sets := rfl
@[simp] theorem wrCtl_crcBad (s : State) (a : Nat) (v : Word) : (wrCtl s a v).crcBad = s.crcBad := rfl
@[simp] theorem wrCtl_copies (s : State) (a : Nat) (v : Word) : (wrCtl s a v).copies = s.copies := rfl
@[simp] theorem wrCtl_hint (s : State) (a : Nat) (v : Word) : (wrCtl s a v).hint = s.hint := rfl
@[simp] theorem wrCtl_walks (s : State) (a : Nat) (v : Word) : (wrCtl s a v).walks = s.walks := rfl
@[simp] theorem wrCtl_bindBusy (s : State) (a : Nat) (v : Word) : (wrCtl s a v).bindBusy = s.bindBusy := rfl
@[simp] theorem wrCtl_fmtOld (s : State) (a : Nat) (v : Word) : (wrCtl s a v).fmtOld = s.fmtOld := rfl
@[simp] theorem wrCtl_chainOps (s : State) (a : Nat) (v : Word) : (wrCtl s a v).chainOps = s.chainOps := rfl
@[simp] theorem wrCtl_engErr (s : State) (a : Nat) (v : Word) : (wrCtl s a v).engErr = s.engErr := rfl
@[simp] theorem wrCtl_gateNs (s : State) (a : Nat) (v : Word) : (wrCtl s a v).gateNs = s.gateNs := rfl
@[simp] theorem wrCtl_gateTick (s : State) (a : Nat) (v : Word) : (wrCtl s a v).gateTick = s.gateTick := rfl
@[simp] theorem wrCtl_replayAt (s : State) (a : Nat) (v : Word) : (wrCtl s a v).replayAt = s.replayAt := rfl
@[simp] theorem wrCtl_tlb (s : State) (a : Nat) (v : Word) : (wrCtl s a v).tlb = s.tlb := rfl
@[simp] theorem wrCtl_ctl (s : State) (a : Nat) (v : Word) : (wrCtl s a v).ctl = s.ctl.putD a 0 v := rfl
@[simp] theorem wrCtl_binding (s : State) (a : Nat) (v : Word) : (wrCtl s a v).binding = s.binding := rfl
@[simp] theorem wrCtl_slots (s : State) (a : Nat) (v : Word) : (wrCtl s a v).slots = s.slots := rfl
@[simp] theorem wrCtl_bankFmt (s : State) (a : Nat) (v : Word) : (wrCtl s a v).bankFmt = s.bankFmt := rfl
@[simp] theorem wrCtl_tagTab (s : State) (a : Nat) (v : Word) : (wrCtl s a v).tagTab = s.tagTab := rfl
@[simp] theorem wrCtl_slotReq (s : State) (a : Nat) (v : Word) : (wrCtl s a v).slotReq = s.slotReq := rfl
@[simp] theorem wrCtl_shares (s : State) (a : Nat) (v : Word) : (wrCtl s a v).shares = s.shares := rfl
@[simp] theorem wrCtl_dspr (s : State) (a : Nat) (v : Word) : (wrCtl s a v).dspr = s.dspr := rfl
@[simp] theorem wrCtl_pspr (s : State) (a : Nat) (v : Word) : (wrCtl s a v).pspr = s.pspr := rfl
@[simp] theorem wrCtl_perf (s : State) (a : Nat) (v : Word) : (wrCtl s a v).perf = s.perf := rfl
@[simp] theorem wrCtl_wdog (s : State) (a : Nat) (v : Word) : (wrCtl s a v).wdog = s.wdog := rfl
@[simp] theorem wrCtl_nodes (s : State) (a : Nat) (v : Word) : (wrCtl s a v).nodes = s.nodes := rfl
@[simp] theorem wrCtl_kernels (s : State) (a : Nat) (v : Word) : (wrCtl s a v).kernels = s.kernels := rfl
@[simp] theorem wrCtl_rivals (s : State) (a : Nat) (v : Word) : (wrCtl s a v).rivals = s.rivals := rfl
@[simp] theorem wrCtl_lastPut (s : State) (a : Nat) (v : Word) : (wrCtl s a v).lastPut = s.lastPut := rfl
@[simp] theorem wrCtl_deques (s : State) (a : Nat) (v : Word) : (wrCtl s a v).deques = s.deques := rfl
@[simp] theorem wrCtl_mboxes (s : State) (a : Nat) (v : Word) : (wrCtl s a v).mboxes = s.mboxes := rfl
@[simp] theorem wrCtl_posts (s : State) (a : Nat) (v : Word) : (wrCtl s a v).posts = s.posts := rfl
@[simp] theorem wrCtl_tokens (s : State) (a : Nat) (v : Word) : (wrCtl s a v).tokens = s.tokens := rfl
@[simp] theorem wrCtl_chanBuf (s : State) (a : Nat) (v : Word) : (wrCtl s a v).chanBuf = s.chanBuf := rfl
@[simp] theorem wrCtl_chanWay (s : State) (a : Nat) (v : Word) : (wrCtl s a v).chanWay = s.chanWay := rfl
@[simp] theorem wrCtl_chanUsed (s : State) (a : Nat) (v : Word) : (wrCtl s a v).chanUsed = s.chanUsed := rfl
@[simp] theorem wrCtl_chanBack (s : State) (a : Nat) (v : Word) : (wrCtl s a v).chanBack = s.chanBack := rfl
@[simp] theorem wrCtl_objs (s : State) (a : Nat) (v : Word) : (wrCtl s a v).objs = s.objs := rfl
@[simp] theorem wrCtl_updates (s : State) (a : Nat) (v : Word) : (wrCtl s a v).updates = s.updates := rfl
@[simp] theorem wrCtl_runs (s : State) (a : Nat) (v : Word) : (wrCtl s a v).runs = s.runs := rfl
@[simp] theorem wrCtl_outbox (s : State) (a : Nat) (v : Word) : (wrCtl s a v).outbox = s.outbox := rfl
@[simp] theorem wrCtl_viewEnd (s : State) (a : Nat) (v : Word) : (wrCtl s a v).viewEnd = s.viewEnd := rfl
@[simp] theorem wrCtl_podOwner (s : State) (a : Nat) (v : Word) : (wrCtl s a v).podOwner = s.podOwner := rfl
@[simp] theorem wrCtl_rwin (s : State) (a : Nat) (v : Word) : (wrCtl s a v).rwin = s.rwin := rfl
@[simp] theorem wrCtl_lvq (s : State) (a : Nat) (v : Word) : (wrCtl s a v).lvq = s.lvq := rfl
@[simp] theorem wrCtl_scb (s : State) (a : Nat) (v : Word) : (wrCtl s a v).scb = s.scb := rfl
@[simp] theorem wrCtl_matq (s : State) (a : Nat) (v : Word) : (wrCtl s a v).matq = s.matq := rfl
@[simp] theorem wrCtl_matops (s : State) (a : Nat) (v : Word) : (wrCtl s a v).matops = s.matops := rfl
@[simp] theorem wrCtl_chains (s : State) (a : Nat) (v : Word) : (wrCtl s a v).chains = s.chains := rfl
@[simp] theorem wrCtl_engRot (s : State) (a : Nat) (v : Word) : (wrCtl s a v).engRot = s.engRot := rfl
@[simp] theorem wrCtl_offers (s : State) (a : Nat) (v : Word) : (wrCtl s a v).offers = s.offers := rfl
@[simp] theorem wrCtl_husks (s : State) (a : Nat) (v : Word) : (wrCtl s a v).husks = s.husks := rfl
@[simp] theorem wrCtl_succWait (s : State) (a : Nat) (v : Word) : (wrCtl s a v).succWait = s.succWait := rfl
@[simp] theorem wrCtl_hot (s : State) (a : Nat) (v : Word) : (wrCtl s a v).hot = s.hot := rfl
@[simp] theorem wrCtl_gated (s : State) (a : Nat) (v : Word) : (wrCtl s a v).gated = s.gated := rfl
@[simp] theorem wrCtl_waking (s : State) (a : Nat) (v : Word) : (wrCtl s a v).waking = s.waking := rfl
@[simp] theorem wrCtl_idleAt (s : State) (a : Nat) (v : Word) : (wrCtl s a v).idleAt = s.idleAt := rfl
@[simp] theorem wrCtl_ptpBase (s : State) (a : Nat) (v : Word) : (wrCtl s a v).ptpBase = s.ptpBase := rfl
@[simp] theorem wrCtl_ptpRate (s : State) (a : Nat) (v : Word) : (wrCtl s a v).ptpRate = s.ptpRate := rfl
@[simp] theorem wrCtl_ptpAt (s : State) (a : Nat) (v : Word) : (wrCtl s a v).ptpAt = s.ptpAt := rfl
@[simp] theorem wrCtl_ptpWrote (s : State) (a : Nat) (v : Word) : (wrCtl s a v).ptpWrote = s.ptpWrote := rfl
@[simp] theorem wrCtl_cycOn (s : State) (a : Nat) (v : Word) : (wrCtl s a v).cycOn = s.cycOn := rfl
@[simp] theorem wrCtl_cycDue (s : State) (a : Nat) (v : Word) : (wrCtl s a v).cycDue = s.cycDue := rfl
@[simp] theorem wrCtl_cycTick (s : State) (a : Nat) (v : Word) : (wrCtl s a v).cycTick = s.cycTick := rfl
@[simp] theorem wrCtl_cycHold (s : State) (a : Nat) (v : Word) : (wrCtl s a v).cycHold = s.cycHold := rfl
@[simp] theorem wrCtl_tlOps (s : State) (a : Nat) (v : Word) : (wrCtl s a v).tlOps = s.tlOps := rfl
@[simp] theorem wrCtl_groupOps (s : State) (a : Nat) (v : Word) : (wrCtl s a v).groupOps = s.groupOps := rfl
@[simp] theorem wrCtl_tlNote (s : State) (a : Nat) (v : Word) : (wrCtl s a v).tlNote = s.tlNote := rfl
@[simp] theorem wrCtl_frames (s : State) (a : Nat) (v : Word) : (wrCtl s a v).frames = s.frames := rfl
@[simp] theorem wrCtl_sent (s : State) (a : Nat) (v : Word) : (wrCtl s a v).sent = s.sent := rfl
@[simp] theorem wrCtl_meters (s : State) (a : Nat) (v : Word) : (wrCtl s a v).meters = s.meters := rfl
@[simp] theorem wrCtl_gateAt (s : State) (a : Nat) (v : Word) : (wrCtl s a v).gateAt = s.gateAt := rfl
@[simp] theorem wrCtl_gateOn (s : State) (a : Nat) (v : Word) : (wrCtl s a v).gateOn = s.gateOn := rfl
@[simp] theorem wrCtl_sendAt (s : State) (a : Nat) (v : Word) : (wrCtl s a v).sendAt = s.sendAt := rfl
@[simp] theorem wrCtl_latches (s : State) (a : Nat) (v : Word) : (wrCtl s a v).latches = s.latches := rfl
@[simp] theorem wrCtl_staging (s : State) (a : Nat) (v : Word) : (wrCtl s a v).staging = s.staging := rfl
@[simp] theorem wrCtl_applied (s : State) (a : Nat) (v : Word) : (wrCtl s a v).applied = s.applied := rfl
@[simp] theorem wrCtl_missed (s : State) (a : Nat) (v : Word) : (wrCtl s a v).missed = s.missed := rfl
@[simp] theorem wrCtl_lastBeat (s : State) (a : Nat) (v : Word) : (wrCtl s a v).lastBeat = s.lastBeat := rfl
@[simp] theorem wrCtl_sentRecs (s : State) (a : Nat) (v : Word) : (wrCtl s a v).sentRecs = s.sentRecs := rfl
@[simp] theorem wrCtl_unacked (s : State) (a : Nat) (v : Word) : (wrCtl s a v).unacked = s.unacked := rfl
@[simp] theorem wrCtl_acks (s : State) (a : Nat) (v : Word) : (wrCtl s a v).acks = s.acks := rfl
@[simp] theorem wrCtl_outHb (s : State) (a : Nat) (v : Word) : (wrCtl s a v).outHb = s.outHb := rfl
@[simp] theorem wrCtl_sending (s : State) (a : Nat) (v : Word) : (wrCtl s a v).sending = s.sending := rfl
@[simp] theorem wrCtl_roleDue (s : State) (a : Nat) (v : Word) : (wrCtl s a v).roleDue = s.roleDue := rfl
@[simp] theorem wrCtl_errlog (s : State) (a : Nat) (v : Word) : (wrCtl s a v).errlog = s.errlog := rfl
@[simp] theorem wrCtl_errLost (s : State) (a : Nat) (v : Word) : (wrCtl s a v).errLost = s.errLost := rfl
@[simp] theorem wrCtl_offline (s : State) (a : Nat) (v : Word) : (wrCtl s a v).offline = s.offline := rfl
@[simp] theorem wrCtl_traceSeq (s : State) (a : Nat) (v : Word) : (wrCtl s a v).traceSeq = s.traceSeq := rfl
@[simp] theorem wrCtl_traceUse (s : State) (a : Nat) (v : Word) : (wrCtl s a v).traceUse = s.traceUse := rfl
@[simp] theorem wrCtl_wbs (s : State) (a : Nat) (v : Word) : (wrCtl s a v).wbs = s.wbs := rfl
@[simp] theorem wrCtl_heldWbs (s : State) (a : Nat) (v : Word) : (wrCtl s a v).heldWbs = s.heldWbs := rfl
@[simp] theorem wrCtl_acqAt (s : State) (a : Nat) (v : Word) : (wrCtl s a v).acqAt = s.acqAt := rfl
@[simp] theorem wrCtl_flash (s : State) (a : Nat) (v : Word) : (wrCtl s a v).flash = s.flash := rfl
@[simp] theorem wrCtl_faultLow (s : State) (a : Nat) (v : Word) : (wrCtl s a v).faultLow = s.faultLow := rfl
@[simp] theorem wrCtl_imgVersion (s : State) (a : Nat) (v : Word) : (wrCtl s a v).imgVersion = s.imgVersion := rfl
@[simp] theorem wrCtl_imgProfile (s : State) (a : Nat) (v : Word) : (wrCtl s a v).imgProfile = s.imgProfile := rfl
@[simp] theorem wrCtl_rollback (s : State) (a : Nat) (v : Word) : (wrCtl s a v).rollback = s.rollback := rfl
@[simp] theorem wrCtl_tripped (s : State) (a : Nat) (v : Word) : (wrCtl s a v).tripped = s.tripped := rfl
@[simp] theorem wrCtl_l2Poison (s : State) (a : Nat) (v : Word) : (wrCtl s a v).l2Poison = s.l2Poison := rfl
@[simp] theorem wrCtl_l1Poison (s : State) (a : Nat) (v : Word) : (wrCtl s a v).l1Poison = s.l1Poison := rfl
@[simp] theorem wrCtl_slotNow (s : State) (a : Nat) (v : Word) : (wrCtl s a v).slotNow = s.slotNow := rfl
@[simp] theorem wrCtl_tried (s : State) (a : Nat) (v : Word) : (wrCtl s a v).tried = s.tried := rfl
@[simp] theorem wrCtl_lateDisp (s : State) (a : Nat) (v : Word) : (wrCtl s a v).lateDisp = s.lateDisp := rfl
@[simp] theorem wrCtl_viewPool (s : State) (a : Nat) (v : Word) : (wrCtl s a v).viewPool = s.viewPool := rfl
@[simp] theorem wrCtl_viewFail (s : State) (a : Nat) (v : Word) : (wrCtl s a v).viewFail = s.viewFail := rfl
@[simp] theorem wrCtl_engLate (s : State) (a : Nat) (v : Word) : (wrCtl s a v).engLate = s.engLate := rfl
@[simp] theorem wrCtl_slipKept (s : State) (a : Nat) (v : Word) : (wrCtl s a v).slipKept = s.slipKept := rfl
@[simp] theorem wrCtl_barOps (s : State) (a : Nat) (v : Word) : (wrCtl s a v).barOps = s.barOps := rfl
@[simp] theorem wrCtl_pubOps (s : State) (a : Nat) (v : Word) : (wrCtl s a v).pubOps = s.pubOps := rfl
@[simp] theorem wrCtl_wires (s : State) (a : Nat) (v : Word) : (wrCtl s a v).wires = s.wires := rfl
@[simp] theorem wrCtl_ticks (s : State) (a : Nat) (v : Word) : (wrCtl s a v).ticks = s.ticks := rfl
@[simp] theorem wrCtl_errFound (s : State) (a : Nat) (v : Word) : (wrCtl s a v).errFound = s.errFound := rfl
@[simp] theorem wrCtl_events (s : State) (a : Nat) (v : Word) : (wrCtl s a v).events = s.events := rfl
@[simp] theorem wrCtl_heldRecs (s : State) (a : Nat) (v : Word) : (wrCtl s a v).heldRecs = s.heldRecs := rfl

/-! setCtlF. -/

@[simp] theorem setCtlF_clk (s : State) (a lo n v : Nat) : (setCtlF s a lo n v).clk = s.clk := rfl
@[simp] theorem setCtlF_bpos (s : State) (a lo n v : Nat) : (setCtlF s a lo n v).bpos = s.bpos := rfl
@[simp] theorem setCtlF_cur (s : State) (a lo n v : Nat) : (setCtlF s a lo n v).cur = s.cur := rfl
@[simp] theorem setCtlF_agenda (s : State) (a lo n v : Nat) : (setCtlF s a lo n v).agenda = s.agenda := rfl
@[simp] theorem setCtlF_nextId (s : State) (a lo n v : Nat) : (setCtlF s a lo n v).nextId = s.nextId := rfl
@[simp] theorem setCtlF_free (s : State) (a lo n v : Nat) : (setCtlF s a lo n v).free = s.free := rfl
@[simp] theorem setCtlF_threads (s : State) (a lo n v : Nat) : (setCtlF s a lo n v).threads = s.threads := rfl
@[simp] theorem setCtlF_mem (s : State) (a lo n v : Nat) : (setCtlF s a lo n v).mem = s.mem := rfl
@[simp] theorem setCtlF_vmem (s : State) (a lo n v : Nat) : (setCtlF s a lo n v).vmem = s.vmem := rfl
@[simp] theorem setCtlF_tags (s : State) (a lo n v : Nat) : (setCtlF s a lo n v).tags = s.tags := rfl
@[simp] theorem setCtlF_poison (s : State) (a lo n v : Nat) : (setCtlF s a lo n v).poison = s.poison := rfl
@[simp] theorem setCtlF_badEcc (s : State) (a lo n v : Nat) : (setCtlF s a lo n v).badEcc = s.badEcc := rfl
@[simp] theorem setCtlF_l1d (s : State) (a lo n v : Nat) : (setCtlF s a lo n v).l1d = s.l1d := rfl
@[simp] theorem setCtlF_l1i (s : State) (a lo n v : Nat) : (setCtlF s a lo n v).l1i = s.l1i := rfl
@[simp] theorem setCtlF_l1dSets (s : State) (a lo n v : Nat) : (setCtlF s a lo n v).l1dSets = s.l1dSets := rfl
@[simp] theorem setCtlF_l1iSets (s : State) (a lo n v : Nat) : (setCtlF s a lo n v).l1iSets = s.l1iSets := rfl
@[simp] theorem setCtlF_l2Sets (s : State) (a lo n v : Nat) : (setCtlF s a lo n v).l2Sets = s.l2Sets := rfl
@[simp] theorem setCtlF_crcBad (s : State) (a lo n v : Nat) : (setCtlF s a lo n v).crcBad = s.crcBad := rfl
@[simp] theorem setCtlF_copies (s : State) (a lo n v : Nat) : (setCtlF s a lo n v).copies = s.copies := rfl
@[simp] theorem setCtlF_hint (s : State) (a lo n v : Nat) : (setCtlF s a lo n v).hint = s.hint := rfl
@[simp] theorem setCtlF_walks (s : State) (a lo n v : Nat) : (setCtlF s a lo n v).walks = s.walks := rfl
@[simp] theorem setCtlF_bindBusy (s : State) (a lo n v : Nat) : (setCtlF s a lo n v).bindBusy = s.bindBusy := rfl
@[simp] theorem setCtlF_fmtOld (s : State) (a lo n v : Nat) : (setCtlF s a lo n v).fmtOld = s.fmtOld := rfl
@[simp] theorem setCtlF_chainOps (s : State) (a lo n v : Nat) : (setCtlF s a lo n v).chainOps = s.chainOps := rfl
@[simp] theorem setCtlF_engErr (s : State) (a lo n v : Nat) : (setCtlF s a lo n v).engErr = s.engErr := rfl
@[simp] theorem setCtlF_gateNs (s : State) (a lo n v : Nat) : (setCtlF s a lo n v).gateNs = s.gateNs := rfl
@[simp] theorem setCtlF_gateTick (s : State) (a lo n v : Nat) : (setCtlF s a lo n v).gateTick = s.gateTick := rfl
@[simp] theorem setCtlF_replayAt (s : State) (a lo n v : Nat) : (setCtlF s a lo n v).replayAt = s.replayAt := rfl
@[simp] theorem setCtlF_tlb (s : State) (a lo n v : Nat) : (setCtlF s a lo n v).tlb = s.tlb := rfl
@[simp] theorem setCtlF_ctl (s : State) (a lo n v : Nat) : (setCtlF s a lo n v).ctl = s.ctl.putD a 0 (setBits (rdCtl s a) lo n v) := rfl
@[simp] theorem setCtlF_binding (s : State) (a lo n v : Nat) : (setCtlF s a lo n v).binding = s.binding := rfl
@[simp] theorem setCtlF_slots (s : State) (a lo n v : Nat) : (setCtlF s a lo n v).slots = s.slots := rfl
@[simp] theorem setCtlF_bankFmt (s : State) (a lo n v : Nat) : (setCtlF s a lo n v).bankFmt = s.bankFmt := rfl
@[simp] theorem setCtlF_tagTab (s : State) (a lo n v : Nat) : (setCtlF s a lo n v).tagTab = s.tagTab := rfl
@[simp] theorem setCtlF_slotReq (s : State) (a lo n v : Nat) : (setCtlF s a lo n v).slotReq = s.slotReq := rfl
@[simp] theorem setCtlF_shares (s : State) (a lo n v : Nat) : (setCtlF s a lo n v).shares = s.shares := rfl
@[simp] theorem setCtlF_dspr (s : State) (a lo n v : Nat) : (setCtlF s a lo n v).dspr = s.dspr := rfl
@[simp] theorem setCtlF_pspr (s : State) (a lo n v : Nat) : (setCtlF s a lo n v).pspr = s.pspr := rfl
@[simp] theorem setCtlF_perf (s : State) (a lo n v : Nat) : (setCtlF s a lo n v).perf = s.perf := rfl
@[simp] theorem setCtlF_wdog (s : State) (a lo n v : Nat) : (setCtlF s a lo n v).wdog = s.wdog := rfl
@[simp] theorem setCtlF_nodes (s : State) (a lo n v : Nat) : (setCtlF s a lo n v).nodes = s.nodes := rfl
@[simp] theorem setCtlF_kernels (s : State) (a lo n v : Nat) : (setCtlF s a lo n v).kernels = s.kernels := rfl
@[simp] theorem setCtlF_rivals (s : State) (a lo n v : Nat) : (setCtlF s a lo n v).rivals = s.rivals := rfl
@[simp] theorem setCtlF_lastPut (s : State) (a lo n v : Nat) : (setCtlF s a lo n v).lastPut = s.lastPut := rfl
@[simp] theorem setCtlF_deques (s : State) (a lo n v : Nat) : (setCtlF s a lo n v).deques = s.deques := rfl
@[simp] theorem setCtlF_mboxes (s : State) (a lo n v : Nat) : (setCtlF s a lo n v).mboxes = s.mboxes := rfl
@[simp] theorem setCtlF_posts (s : State) (a lo n v : Nat) : (setCtlF s a lo n v).posts = s.posts := rfl
@[simp] theorem setCtlF_tokens (s : State) (a lo n v : Nat) : (setCtlF s a lo n v).tokens = s.tokens := rfl
@[simp] theorem setCtlF_chanBuf (s : State) (a lo n v : Nat) : (setCtlF s a lo n v).chanBuf = s.chanBuf := rfl
@[simp] theorem setCtlF_chanWay (s : State) (a lo n v : Nat) : (setCtlF s a lo n v).chanWay = s.chanWay := rfl
@[simp] theorem setCtlF_chanUsed (s : State) (a lo n v : Nat) : (setCtlF s a lo n v).chanUsed = s.chanUsed := rfl
@[simp] theorem setCtlF_chanBack (s : State) (a lo n v : Nat) : (setCtlF s a lo n v).chanBack = s.chanBack := rfl
@[simp] theorem setCtlF_objs (s : State) (a lo n v : Nat) : (setCtlF s a lo n v).objs = s.objs := rfl
@[simp] theorem setCtlF_updates (s : State) (a lo n v : Nat) : (setCtlF s a lo n v).updates = s.updates := rfl
@[simp] theorem setCtlF_runs (s : State) (a lo n v : Nat) : (setCtlF s a lo n v).runs = s.runs := rfl
@[simp] theorem setCtlF_outbox (s : State) (a lo n v : Nat) : (setCtlF s a lo n v).outbox = s.outbox := rfl
@[simp] theorem setCtlF_viewEnd (s : State) (a lo n v : Nat) : (setCtlF s a lo n v).viewEnd = s.viewEnd := rfl
@[simp] theorem setCtlF_podOwner (s : State) (a lo n v : Nat) : (setCtlF s a lo n v).podOwner = s.podOwner := rfl
@[simp] theorem setCtlF_rwin (s : State) (a lo n v : Nat) : (setCtlF s a lo n v).rwin = s.rwin := rfl
@[simp] theorem setCtlF_lvq (s : State) (a lo n v : Nat) : (setCtlF s a lo n v).lvq = s.lvq := rfl
@[simp] theorem setCtlF_scb (s : State) (a lo n v : Nat) : (setCtlF s a lo n v).scb = s.scb := rfl
@[simp] theorem setCtlF_matq (s : State) (a lo n v : Nat) : (setCtlF s a lo n v).matq = s.matq := rfl
@[simp] theorem setCtlF_matops (s : State) (a lo n v : Nat) : (setCtlF s a lo n v).matops = s.matops := rfl
@[simp] theorem setCtlF_chains (s : State) (a lo n v : Nat) : (setCtlF s a lo n v).chains = s.chains := rfl
@[simp] theorem setCtlF_engRot (s : State) (a lo n v : Nat) : (setCtlF s a lo n v).engRot = s.engRot := rfl
@[simp] theorem setCtlF_offers (s : State) (a lo n v : Nat) : (setCtlF s a lo n v).offers = s.offers := rfl
@[simp] theorem setCtlF_husks (s : State) (a lo n v : Nat) : (setCtlF s a lo n v).husks = s.husks := rfl
@[simp] theorem setCtlF_succWait (s : State) (a lo n v : Nat) : (setCtlF s a lo n v).succWait = s.succWait := rfl
@[simp] theorem setCtlF_hot (s : State) (a lo n v : Nat) : (setCtlF s a lo n v).hot = s.hot := rfl
@[simp] theorem setCtlF_gated (s : State) (a lo n v : Nat) : (setCtlF s a lo n v).gated = s.gated := rfl
@[simp] theorem setCtlF_waking (s : State) (a lo n v : Nat) : (setCtlF s a lo n v).waking = s.waking := rfl
@[simp] theorem setCtlF_idleAt (s : State) (a lo n v : Nat) : (setCtlF s a lo n v).idleAt = s.idleAt := rfl
@[simp] theorem setCtlF_ptpBase (s : State) (a lo n v : Nat) : (setCtlF s a lo n v).ptpBase = s.ptpBase := rfl
@[simp] theorem setCtlF_ptpRate (s : State) (a lo n v : Nat) : (setCtlF s a lo n v).ptpRate = s.ptpRate := rfl
@[simp] theorem setCtlF_ptpAt (s : State) (a lo n v : Nat) : (setCtlF s a lo n v).ptpAt = s.ptpAt := rfl
@[simp] theorem setCtlF_ptpWrote (s : State) (a lo n v : Nat) : (setCtlF s a lo n v).ptpWrote = s.ptpWrote := rfl
@[simp] theorem setCtlF_cycOn (s : State) (a lo n v : Nat) : (setCtlF s a lo n v).cycOn = s.cycOn := rfl
@[simp] theorem setCtlF_cycDue (s : State) (a lo n v : Nat) : (setCtlF s a lo n v).cycDue = s.cycDue := rfl
@[simp] theorem setCtlF_cycTick (s : State) (a lo n v : Nat) : (setCtlF s a lo n v).cycTick = s.cycTick := rfl
@[simp] theorem setCtlF_cycHold (s : State) (a lo n v : Nat) : (setCtlF s a lo n v).cycHold = s.cycHold := rfl
@[simp] theorem setCtlF_tlOps (s : State) (a lo n v : Nat) : (setCtlF s a lo n v).tlOps = s.tlOps := rfl
@[simp] theorem setCtlF_groupOps (s : State) (a lo n v : Nat) : (setCtlF s a lo n v).groupOps = s.groupOps := rfl
@[simp] theorem setCtlF_tlNote (s : State) (a lo n v : Nat) : (setCtlF s a lo n v).tlNote = s.tlNote := rfl
@[simp] theorem setCtlF_frames (s : State) (a lo n v : Nat) : (setCtlF s a lo n v).frames = s.frames := rfl
@[simp] theorem setCtlF_sent (s : State) (a lo n v : Nat) : (setCtlF s a lo n v).sent = s.sent := rfl
@[simp] theorem setCtlF_meters (s : State) (a lo n v : Nat) : (setCtlF s a lo n v).meters = s.meters := rfl
@[simp] theorem setCtlF_gateAt (s : State) (a lo n v : Nat) : (setCtlF s a lo n v).gateAt = s.gateAt := rfl
@[simp] theorem setCtlF_gateOn (s : State) (a lo n v : Nat) : (setCtlF s a lo n v).gateOn = s.gateOn := rfl
@[simp] theorem setCtlF_sendAt (s : State) (a lo n v : Nat) : (setCtlF s a lo n v).sendAt = s.sendAt := rfl
@[simp] theorem setCtlF_latches (s : State) (a lo n v : Nat) : (setCtlF s a lo n v).latches = s.latches := rfl
@[simp] theorem setCtlF_staging (s : State) (a lo n v : Nat) : (setCtlF s a lo n v).staging = s.staging := rfl
@[simp] theorem setCtlF_applied (s : State) (a lo n v : Nat) : (setCtlF s a lo n v).applied = s.applied := rfl
@[simp] theorem setCtlF_missed (s : State) (a lo n v : Nat) : (setCtlF s a lo n v).missed = s.missed := rfl
@[simp] theorem setCtlF_lastBeat (s : State) (a lo n v : Nat) : (setCtlF s a lo n v).lastBeat = s.lastBeat := rfl
@[simp] theorem setCtlF_sentRecs (s : State) (a lo n v : Nat) : (setCtlF s a lo n v).sentRecs = s.sentRecs := rfl
@[simp] theorem setCtlF_unacked (s : State) (a lo n v : Nat) : (setCtlF s a lo n v).unacked = s.unacked := rfl
@[simp] theorem setCtlF_acks (s : State) (a lo n v : Nat) : (setCtlF s a lo n v).acks = s.acks := rfl
@[simp] theorem setCtlF_outHb (s : State) (a lo n v : Nat) : (setCtlF s a lo n v).outHb = s.outHb := rfl
@[simp] theorem setCtlF_sending (s : State) (a lo n v : Nat) : (setCtlF s a lo n v).sending = s.sending := rfl
@[simp] theorem setCtlF_roleDue (s : State) (a lo n v : Nat) : (setCtlF s a lo n v).roleDue = s.roleDue := rfl
@[simp] theorem setCtlF_errlog (s : State) (a lo n v : Nat) : (setCtlF s a lo n v).errlog = s.errlog := rfl
@[simp] theorem setCtlF_errLost (s : State) (a lo n v : Nat) : (setCtlF s a lo n v).errLost = s.errLost := rfl
@[simp] theorem setCtlF_offline (s : State) (a lo n v : Nat) : (setCtlF s a lo n v).offline = s.offline := rfl
@[simp] theorem setCtlF_traceSeq (s : State) (a lo n v : Nat) : (setCtlF s a lo n v).traceSeq = s.traceSeq := rfl
@[simp] theorem setCtlF_traceUse (s : State) (a lo n v : Nat) : (setCtlF s a lo n v).traceUse = s.traceUse := rfl
@[simp] theorem setCtlF_wbs (s : State) (a lo n v : Nat) : (setCtlF s a lo n v).wbs = s.wbs := rfl
@[simp] theorem setCtlF_heldWbs (s : State) (a lo n v : Nat) : (setCtlF s a lo n v).heldWbs = s.heldWbs := rfl
@[simp] theorem setCtlF_acqAt (s : State) (a lo n v : Nat) : (setCtlF s a lo n v).acqAt = s.acqAt := rfl
@[simp] theorem setCtlF_flash (s : State) (a lo n v : Nat) : (setCtlF s a lo n v).flash = s.flash := rfl
@[simp] theorem setCtlF_faultLow (s : State) (a lo n v : Nat) : (setCtlF s a lo n v).faultLow = s.faultLow := rfl
@[simp] theorem setCtlF_imgVersion (s : State) (a lo n v : Nat) : (setCtlF s a lo n v).imgVersion = s.imgVersion := rfl
@[simp] theorem setCtlF_imgProfile (s : State) (a lo n v : Nat) : (setCtlF s a lo n v).imgProfile = s.imgProfile := rfl
@[simp] theorem setCtlF_rollback (s : State) (a lo n v : Nat) : (setCtlF s a lo n v).rollback = s.rollback := rfl
@[simp] theorem setCtlF_tripped (s : State) (a lo n v : Nat) : (setCtlF s a lo n v).tripped = s.tripped := rfl
@[simp] theorem setCtlF_l2Poison (s : State) (a lo n v : Nat) : (setCtlF s a lo n v).l2Poison = s.l2Poison := rfl
@[simp] theorem setCtlF_l1Poison (s : State) (a lo n v : Nat) : (setCtlF s a lo n v).l1Poison = s.l1Poison := rfl
@[simp] theorem setCtlF_slotNow (s : State) (a lo n v : Nat) : (setCtlF s a lo n v).slotNow = s.slotNow := rfl
@[simp] theorem setCtlF_tried (s : State) (a lo n v : Nat) : (setCtlF s a lo n v).tried = s.tried := rfl
@[simp] theorem setCtlF_lateDisp (s : State) (a lo n v : Nat) : (setCtlF s a lo n v).lateDisp = s.lateDisp := rfl
@[simp] theorem setCtlF_viewPool (s : State) (a lo n v : Nat) : (setCtlF s a lo n v).viewPool = s.viewPool := rfl
@[simp] theorem setCtlF_viewFail (s : State) (a lo n v : Nat) : (setCtlF s a lo n v).viewFail = s.viewFail := rfl
@[simp] theorem setCtlF_engLate (s : State) (a lo n v : Nat) : (setCtlF s a lo n v).engLate = s.engLate := rfl
@[simp] theorem setCtlF_slipKept (s : State) (a lo n v : Nat) : (setCtlF s a lo n v).slipKept = s.slipKept := rfl
@[simp] theorem setCtlF_barOps (s : State) (a lo n v : Nat) : (setCtlF s a lo n v).barOps = s.barOps := rfl
@[simp] theorem setCtlF_pubOps (s : State) (a lo n v : Nat) : (setCtlF s a lo n v).pubOps = s.pubOps := rfl
@[simp] theorem setCtlF_wires (s : State) (a lo n v : Nat) : (setCtlF s a lo n v).wires = s.wires := rfl
@[simp] theorem setCtlF_ticks (s : State) (a lo n v : Nat) : (setCtlF s a lo n v).ticks = s.ticks := rfl
@[simp] theorem setCtlF_errFound (s : State) (a lo n v : Nat) : (setCtlF s a lo n v).errFound = s.errFound := rfl
@[simp] theorem setCtlF_events (s : State) (a lo n v : Nat) : (setCtlF s a lo n v).events = s.events := rfl
@[simp] theorem setCtlF_heldRecs (s : State) (a lo n v : Nat) : (setCtlF s a lo n v).heldRecs = s.heldRecs := rfl

/-! setSprPart. -/

@[simp] theorem setSprPart_clk (s : State) (p i : Nat) (v : Word) : (setSprPart s p i v).clk = s.clk := rfl
@[simp] theorem setSprPart_bpos (s : State) (p i : Nat) (v : Word) : (setSprPart s p i v).bpos = s.bpos := rfl
@[simp] theorem setSprPart_cur (s : State) (p i : Nat) (v : Word) : (setSprPart s p i v).cur = s.cur := rfl
@[simp] theorem setSprPart_agenda (s : State) (p i : Nat) (v : Word) : (setSprPart s p i v).agenda = s.agenda := rfl
@[simp] theorem setSprPart_nextId (s : State) (p i : Nat) (v : Word) : (setSprPart s p i v).nextId = s.nextId := rfl
@[simp] theorem setSprPart_free (s : State) (p i : Nat) (v : Word) : (setSprPart s p i v).free = s.free := rfl
@[simp] theorem setSprPart_threads (s : State) (p i : Nat) (v : Word) : (setSprPart s p i v).threads = s.threads := rfl
@[simp] theorem setSprPart_mem (s : State) (p i : Nat) (v : Word) : (setSprPart s p i v).mem = s.mem := rfl
@[simp] theorem setSprPart_vmem (s : State) (p i : Nat) (v : Word) : (setSprPart s p i v).vmem = s.vmem := rfl
@[simp] theorem setSprPart_tags (s : State) (p i : Nat) (v : Word) : (setSprPart s p i v).tags = s.tags := rfl
@[simp] theorem setSprPart_poison (s : State) (p i : Nat) (v : Word) : (setSprPart s p i v).poison = s.poison := rfl
@[simp] theorem setSprPart_badEcc (s : State) (p i : Nat) (v : Word) : (setSprPart s p i v).badEcc = s.badEcc := rfl
@[simp] theorem setSprPart_l1d (s : State) (p i : Nat) (v : Word) : (setSprPart s p i v).l1d = s.l1d := rfl
@[simp] theorem setSprPart_l1i (s : State) (p i : Nat) (v : Word) : (setSprPart s p i v).l1i = s.l1i := rfl
@[simp] theorem setSprPart_l1dSets (s : State) (p i : Nat) (v : Word) : (setSprPart s p i v).l1dSets = s.l1dSets := rfl
@[simp] theorem setSprPart_l1iSets (s : State) (p i : Nat) (v : Word) : (setSprPart s p i v).l1iSets = s.l1iSets := rfl
@[simp] theorem setSprPart_l2Sets (s : State) (p i : Nat) (v : Word) : (setSprPart s p i v).l2Sets = s.l2Sets := rfl
@[simp] theorem setSprPart_crcBad (s : State) (p i : Nat) (v : Word) : (setSprPart s p i v).crcBad = s.crcBad := rfl
@[simp] theorem setSprPart_copies (s : State) (p i : Nat) (v : Word) : (setSprPart s p i v).copies = s.copies := rfl
@[simp] theorem setSprPart_hint (s : State) (p i : Nat) (v : Word) : (setSprPart s p i v).hint = s.hint := rfl
@[simp] theorem setSprPart_walks (s : State) (p i : Nat) (v : Word) : (setSprPart s p i v).walks = s.walks := rfl
@[simp] theorem setSprPart_bindBusy (s : State) (p i : Nat) (v : Word) : (setSprPart s p i v).bindBusy = s.bindBusy := rfl
@[simp] theorem setSprPart_fmtOld (s : State) (p i : Nat) (v : Word) : (setSprPart s p i v).fmtOld = s.fmtOld := rfl
@[simp] theorem setSprPart_chainOps (s : State) (p i : Nat) (v : Word) : (setSprPart s p i v).chainOps = s.chainOps := rfl
@[simp] theorem setSprPart_engErr (s : State) (p i : Nat) (v : Word) : (setSprPart s p i v).engErr = s.engErr := rfl
@[simp] theorem setSprPart_gateNs (s : State) (p i : Nat) (v : Word) : (setSprPart s p i v).gateNs = s.gateNs := rfl
@[simp] theorem setSprPart_gateTick (s : State) (p i : Nat) (v : Word) : (setSprPart s p i v).gateTick = s.gateTick := rfl
@[simp] theorem setSprPart_replayAt (s : State) (p i : Nat) (v : Word) : (setSprPart s p i v).replayAt = s.replayAt := rfl
@[simp] theorem setSprPart_tlb (s : State) (p i : Nat) (v : Word) : (setSprPart s p i v).tlb = s.tlb := rfl
@[simp] theorem setSprPart_ctl (s : State) (p i : Nat) (v : Word) : (setSprPart s p i v).ctl = s.ctl := rfl
@[simp] theorem setSprPart_binding (s : State) (p i : Nat) (v : Word) : (setSprPart s p i v).binding = s.binding := rfl
@[simp] theorem setSprPart_slots (s : State) (p i : Nat) (v : Word) : (setSprPart s p i v).slots = s.slots := rfl
@[simp] theorem setSprPart_bankFmt (s : State) (p i : Nat) (v : Word) : (setSprPart s p i v).bankFmt = s.bankFmt := rfl
@[simp] theorem setSprPart_tagTab (s : State) (p i : Nat) (v : Word) : (setSprPart s p i v).tagTab = s.tagTab := rfl
@[simp] theorem setSprPart_slotReq (s : State) (p i : Nat) (v : Word) : (setSprPart s p i v).slotReq = s.slotReq := rfl
@[simp] theorem setSprPart_shares (s : State) (p i : Nat) (v : Word) : (setSprPart s p i v).shares = s.shares := rfl
@[simp] theorem setSprPart_dspr (s : State) (p i : Nat) (v : Word) : (setSprPart s p i v).dspr = s.dspr := rfl
@[simp] theorem setSprPart_pspr (s : State) (p i : Nat) (v : Word) : (setSprPart s p i v).pspr = s.pspr.putD (p * 256 + i) 0 v := rfl
@[simp] theorem setSprPart_perf (s : State) (p i : Nat) (v : Word) : (setSprPart s p i v).perf = s.perf := rfl
@[simp] theorem setSprPart_wdog (s : State) (p i : Nat) (v : Word) : (setSprPart s p i v).wdog = s.wdog := rfl
@[simp] theorem setSprPart_nodes (s : State) (p i : Nat) (v : Word) : (setSprPart s p i v).nodes = s.nodes := rfl
@[simp] theorem setSprPart_kernels (s : State) (p i : Nat) (v : Word) : (setSprPart s p i v).kernels = s.kernels := rfl
@[simp] theorem setSprPart_rivals (s : State) (p i : Nat) (v : Word) : (setSprPart s p i v).rivals = s.rivals := rfl
@[simp] theorem setSprPart_lastPut (s : State) (p i : Nat) (v : Word) : (setSprPart s p i v).lastPut = s.lastPut := rfl
@[simp] theorem setSprPart_deques (s : State) (p i : Nat) (v : Word) : (setSprPart s p i v).deques = s.deques := rfl
@[simp] theorem setSprPart_mboxes (s : State) (p i : Nat) (v : Word) : (setSprPart s p i v).mboxes = s.mboxes := rfl
@[simp] theorem setSprPart_posts (s : State) (p i : Nat) (v : Word) : (setSprPart s p i v).posts = s.posts := rfl
@[simp] theorem setSprPart_tokens (s : State) (p i : Nat) (v : Word) : (setSprPart s p i v).tokens = s.tokens := rfl
@[simp] theorem setSprPart_chanBuf (s : State) (p i : Nat) (v : Word) : (setSprPart s p i v).chanBuf = s.chanBuf := rfl
@[simp] theorem setSprPart_chanWay (s : State) (p i : Nat) (v : Word) : (setSprPart s p i v).chanWay = s.chanWay := rfl
@[simp] theorem setSprPart_chanUsed (s : State) (p i : Nat) (v : Word) : (setSprPart s p i v).chanUsed = s.chanUsed := rfl
@[simp] theorem setSprPart_chanBack (s : State) (p i : Nat) (v : Word) : (setSprPart s p i v).chanBack = s.chanBack := rfl
@[simp] theorem setSprPart_objs (s : State) (p i : Nat) (v : Word) : (setSprPart s p i v).objs = s.objs := rfl
@[simp] theorem setSprPart_updates (s : State) (p i : Nat) (v : Word) : (setSprPart s p i v).updates = s.updates := rfl
@[simp] theorem setSprPart_runs (s : State) (p i : Nat) (v : Word) : (setSprPart s p i v).runs = s.runs := rfl
@[simp] theorem setSprPart_outbox (s : State) (p i : Nat) (v : Word) : (setSprPart s p i v).outbox = s.outbox := rfl
@[simp] theorem setSprPart_viewEnd (s : State) (p i : Nat) (v : Word) : (setSprPart s p i v).viewEnd = s.viewEnd := rfl
@[simp] theorem setSprPart_podOwner (s : State) (p i : Nat) (v : Word) : (setSprPart s p i v).podOwner = s.podOwner := rfl
@[simp] theorem setSprPart_rwin (s : State) (p i : Nat) (v : Word) : (setSprPart s p i v).rwin = s.rwin := rfl
@[simp] theorem setSprPart_lvq (s : State) (p i : Nat) (v : Word) : (setSprPart s p i v).lvq = s.lvq := rfl
@[simp] theorem setSprPart_scb (s : State) (p i : Nat) (v : Word) : (setSprPart s p i v).scb = s.scb := rfl
@[simp] theorem setSprPart_matq (s : State) (p i : Nat) (v : Word) : (setSprPart s p i v).matq = s.matq := rfl
@[simp] theorem setSprPart_matops (s : State) (p i : Nat) (v : Word) : (setSprPart s p i v).matops = s.matops := rfl
@[simp] theorem setSprPart_chains (s : State) (p i : Nat) (v : Word) : (setSprPart s p i v).chains = s.chains := rfl
@[simp] theorem setSprPart_engRot (s : State) (p i : Nat) (v : Word) : (setSprPart s p i v).engRot = s.engRot := rfl
@[simp] theorem setSprPart_offers (s : State) (p i : Nat) (v : Word) : (setSprPart s p i v).offers = s.offers := rfl
@[simp] theorem setSprPart_husks (s : State) (p i : Nat) (v : Word) : (setSprPart s p i v).husks = s.husks := rfl
@[simp] theorem setSprPart_succWait (s : State) (p i : Nat) (v : Word) : (setSprPart s p i v).succWait = s.succWait := rfl
@[simp] theorem setSprPart_hot (s : State) (p i : Nat) (v : Word) : (setSprPart s p i v).hot = s.hot := rfl
@[simp] theorem setSprPart_gated (s : State) (p i : Nat) (v : Word) : (setSprPart s p i v).gated = s.gated := rfl
@[simp] theorem setSprPart_waking (s : State) (p i : Nat) (v : Word) : (setSprPart s p i v).waking = s.waking := rfl
@[simp] theorem setSprPart_idleAt (s : State) (p i : Nat) (v : Word) : (setSprPart s p i v).idleAt = s.idleAt := rfl
@[simp] theorem setSprPart_ptpBase (s : State) (p i : Nat) (v : Word) : (setSprPart s p i v).ptpBase = s.ptpBase := rfl
@[simp] theorem setSprPart_ptpRate (s : State) (p i : Nat) (v : Word) : (setSprPart s p i v).ptpRate = s.ptpRate := rfl
@[simp] theorem setSprPart_ptpAt (s : State) (p i : Nat) (v : Word) : (setSprPart s p i v).ptpAt = s.ptpAt := rfl
@[simp] theorem setSprPart_ptpWrote (s : State) (p i : Nat) (v : Word) : (setSprPart s p i v).ptpWrote = s.ptpWrote := rfl
@[simp] theorem setSprPart_cycOn (s : State) (p i : Nat) (v : Word) : (setSprPart s p i v).cycOn = s.cycOn := rfl
@[simp] theorem setSprPart_cycDue (s : State) (p i : Nat) (v : Word) : (setSprPart s p i v).cycDue = s.cycDue := rfl
@[simp] theorem setSprPart_cycTick (s : State) (p i : Nat) (v : Word) : (setSprPart s p i v).cycTick = s.cycTick := rfl
@[simp] theorem setSprPart_cycHold (s : State) (p i : Nat) (v : Word) : (setSprPart s p i v).cycHold = s.cycHold := rfl
@[simp] theorem setSprPart_tlOps (s : State) (p i : Nat) (v : Word) : (setSprPart s p i v).tlOps = s.tlOps := rfl
@[simp] theorem setSprPart_groupOps (s : State) (p i : Nat) (v : Word) : (setSprPart s p i v).groupOps = s.groupOps := rfl
@[simp] theorem setSprPart_tlNote (s : State) (p i : Nat) (v : Word) : (setSprPart s p i v).tlNote = s.tlNote := rfl
@[simp] theorem setSprPart_frames (s : State) (p i : Nat) (v : Word) : (setSprPart s p i v).frames = s.frames := rfl
@[simp] theorem setSprPart_sent (s : State) (p i : Nat) (v : Word) : (setSprPart s p i v).sent = s.sent := rfl
@[simp] theorem setSprPart_meters (s : State) (p i : Nat) (v : Word) : (setSprPart s p i v).meters = s.meters := rfl
@[simp] theorem setSprPart_gateAt (s : State) (p i : Nat) (v : Word) : (setSprPart s p i v).gateAt = s.gateAt := rfl
@[simp] theorem setSprPart_gateOn (s : State) (p i : Nat) (v : Word) : (setSprPart s p i v).gateOn = s.gateOn := rfl
@[simp] theorem setSprPart_sendAt (s : State) (p i : Nat) (v : Word) : (setSprPart s p i v).sendAt = s.sendAt := rfl
@[simp] theorem setSprPart_latches (s : State) (p i : Nat) (v : Word) : (setSprPart s p i v).latches = s.latches := rfl
@[simp] theorem setSprPart_staging (s : State) (p i : Nat) (v : Word) : (setSprPart s p i v).staging = s.staging := rfl
@[simp] theorem setSprPart_applied (s : State) (p i : Nat) (v : Word) : (setSprPart s p i v).applied = s.applied := rfl
@[simp] theorem setSprPart_missed (s : State) (p i : Nat) (v : Word) : (setSprPart s p i v).missed = s.missed := rfl
@[simp] theorem setSprPart_lastBeat (s : State) (p i : Nat) (v : Word) : (setSprPart s p i v).lastBeat = s.lastBeat := rfl
@[simp] theorem setSprPart_sentRecs (s : State) (p i : Nat) (v : Word) : (setSprPart s p i v).sentRecs = s.sentRecs := rfl
@[simp] theorem setSprPart_unacked (s : State) (p i : Nat) (v : Word) : (setSprPart s p i v).unacked = s.unacked := rfl
@[simp] theorem setSprPart_acks (s : State) (p i : Nat) (v : Word) : (setSprPart s p i v).acks = s.acks := rfl
@[simp] theorem setSprPart_outHb (s : State) (p i : Nat) (v : Word) : (setSprPart s p i v).outHb = s.outHb := rfl
@[simp] theorem setSprPart_sending (s : State) (p i : Nat) (v : Word) : (setSprPart s p i v).sending = s.sending := rfl
@[simp] theorem setSprPart_roleDue (s : State) (p i : Nat) (v : Word) : (setSprPart s p i v).roleDue = s.roleDue := rfl
@[simp] theorem setSprPart_errlog (s : State) (p i : Nat) (v : Word) : (setSprPart s p i v).errlog = s.errlog := rfl
@[simp] theorem setSprPart_errLost (s : State) (p i : Nat) (v : Word) : (setSprPart s p i v).errLost = s.errLost := rfl
@[simp] theorem setSprPart_offline (s : State) (p i : Nat) (v : Word) : (setSprPart s p i v).offline = s.offline := rfl
@[simp] theorem setSprPart_traceSeq (s : State) (p i : Nat) (v : Word) : (setSprPart s p i v).traceSeq = s.traceSeq := rfl
@[simp] theorem setSprPart_traceUse (s : State) (p i : Nat) (v : Word) : (setSprPart s p i v).traceUse = s.traceUse := rfl
@[simp] theorem setSprPart_wbs (s : State) (p i : Nat) (v : Word) : (setSprPart s p i v).wbs = s.wbs := rfl
@[simp] theorem setSprPart_heldWbs (s : State) (p i : Nat) (v : Word) : (setSprPart s p i v).heldWbs = s.heldWbs := rfl
@[simp] theorem setSprPart_acqAt (s : State) (p i : Nat) (v : Word) : (setSprPart s p i v).acqAt = s.acqAt := rfl
@[simp] theorem setSprPart_flash (s : State) (p i : Nat) (v : Word) : (setSprPart s p i v).flash = s.flash := rfl
@[simp] theorem setSprPart_faultLow (s : State) (p i : Nat) (v : Word) : (setSprPart s p i v).faultLow = s.faultLow := rfl
@[simp] theorem setSprPart_imgVersion (s : State) (p i : Nat) (v : Word) : (setSprPart s p i v).imgVersion = s.imgVersion := rfl
@[simp] theorem setSprPart_imgProfile (s : State) (p i : Nat) (v : Word) : (setSprPart s p i v).imgProfile = s.imgProfile := rfl
@[simp] theorem setSprPart_rollback (s : State) (p i : Nat) (v : Word) : (setSprPart s p i v).rollback = s.rollback := rfl
@[simp] theorem setSprPart_tripped (s : State) (p i : Nat) (v : Word) : (setSprPart s p i v).tripped = s.tripped := rfl
@[simp] theorem setSprPart_l2Poison (s : State) (p i : Nat) (v : Word) : (setSprPart s p i v).l2Poison = s.l2Poison := rfl
@[simp] theorem setSprPart_l1Poison (s : State) (p i : Nat) (v : Word) : (setSprPart s p i v).l1Poison = s.l1Poison := rfl
@[simp] theorem setSprPart_slotNow (s : State) (p i : Nat) (v : Word) : (setSprPart s p i v).slotNow = s.slotNow := rfl
@[simp] theorem setSprPart_tried (s : State) (p i : Nat) (v : Word) : (setSprPart s p i v).tried = s.tried := rfl
@[simp] theorem setSprPart_lateDisp (s : State) (p i : Nat) (v : Word) : (setSprPart s p i v).lateDisp = s.lateDisp := rfl
@[simp] theorem setSprPart_viewPool (s : State) (p i : Nat) (v : Word) : (setSprPart s p i v).viewPool = s.viewPool := rfl
@[simp] theorem setSprPart_viewFail (s : State) (p i : Nat) (v : Word) : (setSprPart s p i v).viewFail = s.viewFail := rfl
@[simp] theorem setSprPart_engLate (s : State) (p i : Nat) (v : Word) : (setSprPart s p i v).engLate = s.engLate := rfl
@[simp] theorem setSprPart_slipKept (s : State) (p i : Nat) (v : Word) : (setSprPart s p i v).slipKept = s.slipKept := rfl
@[simp] theorem setSprPart_barOps (s : State) (p i : Nat) (v : Word) : (setSprPart s p i v).barOps = s.barOps := rfl
@[simp] theorem setSprPart_pubOps (s : State) (p i : Nat) (v : Word) : (setSprPart s p i v).pubOps = s.pubOps := rfl
@[simp] theorem setSprPart_wires (s : State) (p i : Nat) (v : Word) : (setSprPart s p i v).wires = s.wires := rfl
@[simp] theorem setSprPart_ticks (s : State) (p i : Nat) (v : Word) : (setSprPart s p i v).ticks = s.ticks := rfl
@[simp] theorem setSprPart_errFound (s : State) (p i : Nat) (v : Word) : (setSprPart s p i v).errFound = s.errFound := rfl
@[simp] theorem setSprPart_events (s : State) (p i : Nat) (v : Word) : (setSprPart s p i v).events = s.events := rfl
@[simp] theorem setSprPart_heldRecs (s : State) (p i : Nat) (v : Word) : (setSprPart s p i v).heldRecs = s.heldRecs := rfl

/-! perfBump. -/

@[simp] theorem perfBump_clk (s : State) (p e : Nat) : (perfBump s p e).clk = s.clk := rfl
@[simp] theorem perfBump_bpos (s : State) (p e : Nat) : (perfBump s p e).bpos = s.bpos := rfl
@[simp] theorem perfBump_cur (s : State) (p e : Nat) : (perfBump s p e).cur = s.cur := rfl
@[simp] theorem perfBump_agenda (s : State) (p e : Nat) : (perfBump s p e).agenda = s.agenda := rfl
@[simp] theorem perfBump_nextId (s : State) (p e : Nat) : (perfBump s p e).nextId = s.nextId := rfl
@[simp] theorem perfBump_free (s : State) (p e : Nat) : (perfBump s p e).free = s.free := rfl
@[simp] theorem perfBump_threads (s : State) (p e : Nat) : (perfBump s p e).threads = s.threads := rfl
@[simp] theorem perfBump_mem (s : State) (p e : Nat) : (perfBump s p e).mem = s.mem := rfl
@[simp] theorem perfBump_vmem (s : State) (p e : Nat) : (perfBump s p e).vmem = s.vmem := rfl
@[simp] theorem perfBump_tags (s : State) (p e : Nat) : (perfBump s p e).tags = s.tags := rfl
@[simp] theorem perfBump_poison (s : State) (p e : Nat) : (perfBump s p e).poison = s.poison := rfl
@[simp] theorem perfBump_badEcc (s : State) (p e : Nat) : (perfBump s p e).badEcc = s.badEcc := rfl
@[simp] theorem perfBump_l1d (s : State) (p e : Nat) : (perfBump s p e).l1d = s.l1d := rfl
@[simp] theorem perfBump_l1i (s : State) (p e : Nat) : (perfBump s p e).l1i = s.l1i := rfl
@[simp] theorem perfBump_l1dSets (s : State) (p e : Nat) : (perfBump s p e).l1dSets = s.l1dSets := rfl
@[simp] theorem perfBump_l1iSets (s : State) (p e : Nat) : (perfBump s p e).l1iSets = s.l1iSets := rfl
@[simp] theorem perfBump_l2Sets (s : State) (p e : Nat) : (perfBump s p e).l2Sets = s.l2Sets := rfl
@[simp] theorem perfBump_crcBad (s : State) (p e : Nat) : (perfBump s p e).crcBad = s.crcBad := rfl
@[simp] theorem perfBump_copies (s : State) (p e : Nat) : (perfBump s p e).copies = s.copies := rfl
@[simp] theorem perfBump_hint (s : State) (p e : Nat) : (perfBump s p e).hint = s.hint := rfl
@[simp] theorem perfBump_walks (s : State) (p e : Nat) : (perfBump s p e).walks = s.walks := rfl
@[simp] theorem perfBump_bindBusy (s : State) (p e : Nat) : (perfBump s p e).bindBusy = s.bindBusy := rfl
@[simp] theorem perfBump_fmtOld (s : State) (p e : Nat) : (perfBump s p e).fmtOld = s.fmtOld := rfl
@[simp] theorem perfBump_chainOps (s : State) (p e : Nat) : (perfBump s p e).chainOps = s.chainOps := rfl
@[simp] theorem perfBump_engErr (s : State) (p e : Nat) : (perfBump s p e).engErr = s.engErr := rfl
@[simp] theorem perfBump_gateNs (s : State) (p e : Nat) : (perfBump s p e).gateNs = s.gateNs := rfl
@[simp] theorem perfBump_gateTick (s : State) (p e : Nat) : (perfBump s p e).gateTick = s.gateTick := rfl
@[simp] theorem perfBump_replayAt (s : State) (p e : Nat) : (perfBump s p e).replayAt = s.replayAt := rfl
@[simp] theorem perfBump_tlb (s : State) (p e : Nat) : (perfBump s p e).tlb = s.tlb := rfl
@[simp] theorem perfBump_ctl (s : State) (p e : Nat) : (perfBump s p e).ctl = s.ctl := rfl
@[simp] theorem perfBump_binding (s : State) (p e : Nat) : (perfBump s p e).binding = s.binding := rfl
@[simp] theorem perfBump_slots (s : State) (p e : Nat) : (perfBump s p e).slots = s.slots := rfl
@[simp] theorem perfBump_bankFmt (s : State) (p e : Nat) : (perfBump s p e).bankFmt = s.bankFmt := rfl
@[simp] theorem perfBump_tagTab (s : State) (p e : Nat) : (perfBump s p e).tagTab = s.tagTab := rfl
@[simp] theorem perfBump_slotReq (s : State) (p e : Nat) : (perfBump s p e).slotReq = s.slotReq := rfl
@[simp] theorem perfBump_shares (s : State) (p e : Nat) : (perfBump s p e).shares = s.shares := rfl
@[simp] theorem perfBump_dspr (s : State) (p e : Nat) : (perfBump s p e).dspr = s.dspr := rfl
@[simp] theorem perfBump_pspr (s : State) (p e : Nat) : (perfBump s p e).pspr = s.pspr := rfl
@[simp] theorem perfBump_perf (s : State) (p e : Nat) : (perfBump s p e).perf = s.perf.putD (perfKey p (32 + e)) 0 (s.perf.getD (perfKey p (32 + e)) 0 + 1) := rfl
@[simp] theorem perfBump_wdog (s : State) (p e : Nat) : (perfBump s p e).wdog = s.wdog := rfl
@[simp] theorem perfBump_nodes (s : State) (p e : Nat) : (perfBump s p e).nodes = s.nodes := rfl
@[simp] theorem perfBump_kernels (s : State) (p e : Nat) : (perfBump s p e).kernels = s.kernels := rfl
@[simp] theorem perfBump_rivals (s : State) (p e : Nat) : (perfBump s p e).rivals = s.rivals := rfl
@[simp] theorem perfBump_lastPut (s : State) (p e : Nat) : (perfBump s p e).lastPut = s.lastPut := rfl
@[simp] theorem perfBump_deques (s : State) (p e : Nat) : (perfBump s p e).deques = s.deques := rfl
@[simp] theorem perfBump_mboxes (s : State) (p e : Nat) : (perfBump s p e).mboxes = s.mboxes := rfl
@[simp] theorem perfBump_posts (s : State) (p e : Nat) : (perfBump s p e).posts = s.posts := rfl
@[simp] theorem perfBump_tokens (s : State) (p e : Nat) : (perfBump s p e).tokens = s.tokens := rfl
@[simp] theorem perfBump_chanBuf (s : State) (p e : Nat) : (perfBump s p e).chanBuf = s.chanBuf := rfl
@[simp] theorem perfBump_chanWay (s : State) (p e : Nat) : (perfBump s p e).chanWay = s.chanWay := rfl
@[simp] theorem perfBump_chanUsed (s : State) (p e : Nat) : (perfBump s p e).chanUsed = s.chanUsed := rfl
@[simp] theorem perfBump_chanBack (s : State) (p e : Nat) : (perfBump s p e).chanBack = s.chanBack := rfl
@[simp] theorem perfBump_objs (s : State) (p e : Nat) : (perfBump s p e).objs = s.objs := rfl
@[simp] theorem perfBump_updates (s : State) (p e : Nat) : (perfBump s p e).updates = s.updates := rfl
@[simp] theorem perfBump_runs (s : State) (p e : Nat) : (perfBump s p e).runs = s.runs := rfl
@[simp] theorem perfBump_outbox (s : State) (p e : Nat) : (perfBump s p e).outbox = s.outbox := rfl
@[simp] theorem perfBump_viewEnd (s : State) (p e : Nat) : (perfBump s p e).viewEnd = s.viewEnd := rfl
@[simp] theorem perfBump_podOwner (s : State) (p e : Nat) : (perfBump s p e).podOwner = s.podOwner := rfl
@[simp] theorem perfBump_rwin (s : State) (p e : Nat) : (perfBump s p e).rwin = s.rwin := rfl
@[simp] theorem perfBump_lvq (s : State) (p e : Nat) : (perfBump s p e).lvq = s.lvq := rfl
@[simp] theorem perfBump_scb (s : State) (p e : Nat) : (perfBump s p e).scb = s.scb := rfl
@[simp] theorem perfBump_matq (s : State) (p e : Nat) : (perfBump s p e).matq = s.matq := rfl
@[simp] theorem perfBump_matops (s : State) (p e : Nat) : (perfBump s p e).matops = s.matops := rfl
@[simp] theorem perfBump_chains (s : State) (p e : Nat) : (perfBump s p e).chains = s.chains := rfl
@[simp] theorem perfBump_engRot (s : State) (p e : Nat) : (perfBump s p e).engRot = s.engRot := rfl
@[simp] theorem perfBump_offers (s : State) (p e : Nat) : (perfBump s p e).offers = s.offers := rfl
@[simp] theorem perfBump_husks (s : State) (p e : Nat) : (perfBump s p e).husks = s.husks := rfl
@[simp] theorem perfBump_succWait (s : State) (p e : Nat) : (perfBump s p e).succWait = s.succWait := rfl
@[simp] theorem perfBump_hot (s : State) (p e : Nat) : (perfBump s p e).hot = s.hot := rfl
@[simp] theorem perfBump_gated (s : State) (p e : Nat) : (perfBump s p e).gated = s.gated := rfl
@[simp] theorem perfBump_waking (s : State) (p e : Nat) : (perfBump s p e).waking = s.waking := rfl
@[simp] theorem perfBump_idleAt (s : State) (p e : Nat) : (perfBump s p e).idleAt = s.idleAt := rfl
@[simp] theorem perfBump_ptpBase (s : State) (p e : Nat) : (perfBump s p e).ptpBase = s.ptpBase := rfl
@[simp] theorem perfBump_ptpRate (s : State) (p e : Nat) : (perfBump s p e).ptpRate = s.ptpRate := rfl
@[simp] theorem perfBump_ptpAt (s : State) (p e : Nat) : (perfBump s p e).ptpAt = s.ptpAt := rfl
@[simp] theorem perfBump_ptpWrote (s : State) (p e : Nat) : (perfBump s p e).ptpWrote = s.ptpWrote := rfl
@[simp] theorem perfBump_cycOn (s : State) (p e : Nat) : (perfBump s p e).cycOn = s.cycOn := rfl
@[simp] theorem perfBump_cycDue (s : State) (p e : Nat) : (perfBump s p e).cycDue = s.cycDue := rfl
@[simp] theorem perfBump_cycTick (s : State) (p e : Nat) : (perfBump s p e).cycTick = s.cycTick := rfl
@[simp] theorem perfBump_cycHold (s : State) (p e : Nat) : (perfBump s p e).cycHold = s.cycHold := rfl
@[simp] theorem perfBump_tlOps (s : State) (p e : Nat) : (perfBump s p e).tlOps = s.tlOps := rfl
@[simp] theorem perfBump_groupOps (s : State) (p e : Nat) : (perfBump s p e).groupOps = s.groupOps := rfl
@[simp] theorem perfBump_tlNote (s : State) (p e : Nat) : (perfBump s p e).tlNote = s.tlNote := rfl
@[simp] theorem perfBump_frames (s : State) (p e : Nat) : (perfBump s p e).frames = s.frames := rfl
@[simp] theorem perfBump_sent (s : State) (p e : Nat) : (perfBump s p e).sent = s.sent := rfl
@[simp] theorem perfBump_meters (s : State) (p e : Nat) : (perfBump s p e).meters = s.meters := rfl
@[simp] theorem perfBump_gateAt (s : State) (p e : Nat) : (perfBump s p e).gateAt = s.gateAt := rfl
@[simp] theorem perfBump_gateOn (s : State) (p e : Nat) : (perfBump s p e).gateOn = s.gateOn := rfl
@[simp] theorem perfBump_sendAt (s : State) (p e : Nat) : (perfBump s p e).sendAt = s.sendAt := rfl
@[simp] theorem perfBump_latches (s : State) (p e : Nat) : (perfBump s p e).latches = s.latches := rfl
@[simp] theorem perfBump_staging (s : State) (p e : Nat) : (perfBump s p e).staging = s.staging := rfl
@[simp] theorem perfBump_applied (s : State) (p e : Nat) : (perfBump s p e).applied = s.applied := rfl
@[simp] theorem perfBump_missed (s : State) (p e : Nat) : (perfBump s p e).missed = s.missed := rfl
@[simp] theorem perfBump_lastBeat (s : State) (p e : Nat) : (perfBump s p e).lastBeat = s.lastBeat := rfl
@[simp] theorem perfBump_sentRecs (s : State) (p e : Nat) : (perfBump s p e).sentRecs = s.sentRecs := rfl
@[simp] theorem perfBump_unacked (s : State) (p e : Nat) : (perfBump s p e).unacked = s.unacked := rfl
@[simp] theorem perfBump_acks (s : State) (p e : Nat) : (perfBump s p e).acks = s.acks := rfl
@[simp] theorem perfBump_outHb (s : State) (p e : Nat) : (perfBump s p e).outHb = s.outHb := rfl
@[simp] theorem perfBump_sending (s : State) (p e : Nat) : (perfBump s p e).sending = s.sending := rfl
@[simp] theorem perfBump_roleDue (s : State) (p e : Nat) : (perfBump s p e).roleDue = s.roleDue := rfl
@[simp] theorem perfBump_errlog (s : State) (p e : Nat) : (perfBump s p e).errlog = s.errlog := rfl
@[simp] theorem perfBump_errLost (s : State) (p e : Nat) : (perfBump s p e).errLost = s.errLost := rfl
@[simp] theorem perfBump_offline (s : State) (p e : Nat) : (perfBump s p e).offline = s.offline := rfl
@[simp] theorem perfBump_traceSeq (s : State) (p e : Nat) : (perfBump s p e).traceSeq = s.traceSeq := rfl
@[simp] theorem perfBump_traceUse (s : State) (p e : Nat) : (perfBump s p e).traceUse = s.traceUse := rfl
@[simp] theorem perfBump_wbs (s : State) (p e : Nat) : (perfBump s p e).wbs = s.wbs := rfl
@[simp] theorem perfBump_heldWbs (s : State) (p e : Nat) : (perfBump s p e).heldWbs = s.heldWbs := rfl
@[simp] theorem perfBump_acqAt (s : State) (p e : Nat) : (perfBump s p e).acqAt = s.acqAt := rfl
@[simp] theorem perfBump_flash (s : State) (p e : Nat) : (perfBump s p e).flash = s.flash := rfl
@[simp] theorem perfBump_faultLow (s : State) (p e : Nat) : (perfBump s p e).faultLow = s.faultLow := rfl
@[simp] theorem perfBump_imgVersion (s : State) (p e : Nat) : (perfBump s p e).imgVersion = s.imgVersion := rfl
@[simp] theorem perfBump_imgProfile (s : State) (p e : Nat) : (perfBump s p e).imgProfile = s.imgProfile := rfl
@[simp] theorem perfBump_rollback (s : State) (p e : Nat) : (perfBump s p e).rollback = s.rollback := rfl
@[simp] theorem perfBump_tripped (s : State) (p e : Nat) : (perfBump s p e).tripped = s.tripped := rfl
@[simp] theorem perfBump_l2Poison (s : State) (p e : Nat) : (perfBump s p e).l2Poison = s.l2Poison := rfl
@[simp] theorem perfBump_l1Poison (s : State) (p e : Nat) : (perfBump s p e).l1Poison = s.l1Poison := rfl
@[simp] theorem perfBump_slotNow (s : State) (p e : Nat) : (perfBump s p e).slotNow = s.slotNow := rfl
@[simp] theorem perfBump_tried (s : State) (p e : Nat) : (perfBump s p e).tried = s.tried := rfl
@[simp] theorem perfBump_lateDisp (s : State) (p e : Nat) : (perfBump s p e).lateDisp = s.lateDisp := rfl
@[simp] theorem perfBump_viewPool (s : State) (p e : Nat) : (perfBump s p e).viewPool = s.viewPool := rfl
@[simp] theorem perfBump_viewFail (s : State) (p e : Nat) : (perfBump s p e).viewFail = s.viewFail := rfl
@[simp] theorem perfBump_engLate (s : State) (p e : Nat) : (perfBump s p e).engLate = s.engLate := rfl
@[simp] theorem perfBump_slipKept (s : State) (p e : Nat) : (perfBump s p e).slipKept = s.slipKept := rfl
@[simp] theorem perfBump_barOps (s : State) (p e : Nat) : (perfBump s p e).barOps = s.barOps := rfl
@[simp] theorem perfBump_pubOps (s : State) (p e : Nat) : (perfBump s p e).pubOps = s.pubOps := rfl
@[simp] theorem perfBump_wires (s : State) (p e : Nat) : (perfBump s p e).wires = s.wires := rfl
@[simp] theorem perfBump_ticks (s : State) (p e : Nat) : (perfBump s p e).ticks = s.ticks := rfl
@[simp] theorem perfBump_errFound (s : State) (p e : Nat) : (perfBump s p e).errFound = s.errFound := rfl
@[simp] theorem perfBump_events (s : State) (p e : Nat) : (perfBump s p e).events = s.events := rfl
@[simp] theorem perfBump_heldRecs (s : State) (p e : Nat) : (perfBump s p e).heldRecs = s.heldRecs := rfl

/-! holdUntil. -/

@[simp] theorem holdUntil_clk (s : State) (k c : Nat) : (holdUntil s k c).clk = s.clk := rfl
@[simp] theorem holdUntil_bpos (s : State) (k c : Nat) : (holdUntil s k c).bpos = s.bpos := rfl
@[simp] theorem holdUntil_cur (s : State) (k c : Nat) : (holdUntil s k c).cur = s.cur := rfl
@[simp] theorem holdUntil_agenda (s : State) (k c : Nat) : (holdUntil s k c).agenda = s.agenda := rfl
@[simp] theorem holdUntil_nextId (s : State) (k c : Nat) : (holdUntil s k c).nextId = s.nextId := rfl
@[simp] theorem holdUntil_free (s : State) (k c : Nat) : (holdUntil s k c).free = s.free := rfl
@[simp] theorem holdUntil_threads (s : State) (k c : Nat) : (holdUntil s k c).threads = s.threads.modify k (fun t => { t with earliest := max t.earliest c }) := rfl
@[simp] theorem holdUntil_mem (s : State) (k c : Nat) : (holdUntil s k c).mem = s.mem := rfl
@[simp] theorem holdUntil_vmem (s : State) (k c : Nat) : (holdUntil s k c).vmem = s.vmem := rfl
@[simp] theorem holdUntil_tags (s : State) (k c : Nat) : (holdUntil s k c).tags = s.tags := rfl
@[simp] theorem holdUntil_poison (s : State) (k c : Nat) : (holdUntil s k c).poison = s.poison := rfl
@[simp] theorem holdUntil_badEcc (s : State) (k c : Nat) : (holdUntil s k c).badEcc = s.badEcc := rfl
@[simp] theorem holdUntil_l1d (s : State) (k c : Nat) : (holdUntil s k c).l1d = s.l1d := rfl
@[simp] theorem holdUntil_l1i (s : State) (k c : Nat) : (holdUntil s k c).l1i = s.l1i := rfl
@[simp] theorem holdUntil_l1dSets (s : State) (k c : Nat) : (holdUntil s k c).l1dSets = s.l1dSets := rfl
@[simp] theorem holdUntil_l1iSets (s : State) (k c : Nat) : (holdUntil s k c).l1iSets = s.l1iSets := rfl
@[simp] theorem holdUntil_l2Sets (s : State) (k c : Nat) : (holdUntil s k c).l2Sets = s.l2Sets := rfl
@[simp] theorem holdUntil_crcBad (s : State) (k c : Nat) : (holdUntil s k c).crcBad = s.crcBad := rfl
@[simp] theorem holdUntil_copies (s : State) (k c : Nat) : (holdUntil s k c).copies = s.copies := rfl
@[simp] theorem holdUntil_hint (s : State) (k c : Nat) : (holdUntil s k c).hint = s.hint := rfl
@[simp] theorem holdUntil_walks (s : State) (k c : Nat) : (holdUntil s k c).walks = s.walks := rfl
@[simp] theorem holdUntil_bindBusy (s : State) (k c : Nat) : (holdUntil s k c).bindBusy = s.bindBusy := rfl
@[simp] theorem holdUntil_fmtOld (s : State) (k c : Nat) : (holdUntil s k c).fmtOld = s.fmtOld := rfl
@[simp] theorem holdUntil_chainOps (s : State) (k c : Nat) : (holdUntil s k c).chainOps = s.chainOps := rfl
@[simp] theorem holdUntil_engErr (s : State) (k c : Nat) : (holdUntil s k c).engErr = s.engErr := rfl
@[simp] theorem holdUntil_gateNs (s : State) (k c : Nat) : (holdUntil s k c).gateNs = s.gateNs := rfl
@[simp] theorem holdUntil_gateTick (s : State) (k c : Nat) : (holdUntil s k c).gateTick = s.gateTick := rfl
@[simp] theorem holdUntil_replayAt (s : State) (k c : Nat) : (holdUntil s k c).replayAt = s.replayAt := rfl
@[simp] theorem holdUntil_tlb (s : State) (k c : Nat) : (holdUntil s k c).tlb = s.tlb := rfl
@[simp] theorem holdUntil_ctl (s : State) (k c : Nat) : (holdUntil s k c).ctl = s.ctl := rfl
@[simp] theorem holdUntil_binding (s : State) (k c : Nat) : (holdUntil s k c).binding = s.binding := rfl
@[simp] theorem holdUntil_slots (s : State) (k c : Nat) : (holdUntil s k c).slots = s.slots := rfl
@[simp] theorem holdUntil_bankFmt (s : State) (k c : Nat) : (holdUntil s k c).bankFmt = s.bankFmt := rfl
@[simp] theorem holdUntil_tagTab (s : State) (k c : Nat) : (holdUntil s k c).tagTab = s.tagTab := rfl
@[simp] theorem holdUntil_slotReq (s : State) (k c : Nat) : (holdUntil s k c).slotReq = s.slotReq := rfl
@[simp] theorem holdUntil_shares (s : State) (k c : Nat) : (holdUntil s k c).shares = s.shares := rfl
@[simp] theorem holdUntil_dspr (s : State) (k c : Nat) : (holdUntil s k c).dspr = s.dspr := rfl
@[simp] theorem holdUntil_pspr (s : State) (k c : Nat) : (holdUntil s k c).pspr = s.pspr := rfl
@[simp] theorem holdUntil_perf (s : State) (k c : Nat) : (holdUntil s k c).perf = s.perf := rfl
@[simp] theorem holdUntil_wdog (s : State) (k c : Nat) : (holdUntil s k c).wdog = s.wdog := rfl
@[simp] theorem holdUntil_nodes (s : State) (k c : Nat) : (holdUntil s k c).nodes = s.nodes := rfl
@[simp] theorem holdUntil_kernels (s : State) (k c : Nat) : (holdUntil s k c).kernels = s.kernels := rfl
@[simp] theorem holdUntil_rivals (s : State) (k c : Nat) : (holdUntil s k c).rivals = s.rivals := rfl
@[simp] theorem holdUntil_lastPut (s : State) (k c : Nat) : (holdUntil s k c).lastPut = s.lastPut := rfl
@[simp] theorem holdUntil_deques (s : State) (k c : Nat) : (holdUntil s k c).deques = s.deques := rfl
@[simp] theorem holdUntil_mboxes (s : State) (k c : Nat) : (holdUntil s k c).mboxes = s.mboxes := rfl
@[simp] theorem holdUntil_posts (s : State) (k c : Nat) : (holdUntil s k c).posts = s.posts := rfl
@[simp] theorem holdUntil_tokens (s : State) (k c : Nat) : (holdUntil s k c).tokens = s.tokens := rfl
@[simp] theorem holdUntil_chanBuf (s : State) (k c : Nat) : (holdUntil s k c).chanBuf = s.chanBuf := rfl
@[simp] theorem holdUntil_chanWay (s : State) (k c : Nat) : (holdUntil s k c).chanWay = s.chanWay := rfl
@[simp] theorem holdUntil_chanUsed (s : State) (k c : Nat) : (holdUntil s k c).chanUsed = s.chanUsed := rfl
@[simp] theorem holdUntil_chanBack (s : State) (k c : Nat) : (holdUntil s k c).chanBack = s.chanBack := rfl
@[simp] theorem holdUntil_objs (s : State) (k c : Nat) : (holdUntil s k c).objs = s.objs := rfl
@[simp] theorem holdUntil_updates (s : State) (k c : Nat) : (holdUntil s k c).updates = s.updates := rfl
@[simp] theorem holdUntil_runs (s : State) (k c : Nat) : (holdUntil s k c).runs = s.runs := rfl
@[simp] theorem holdUntil_outbox (s : State) (k c : Nat) : (holdUntil s k c).outbox = s.outbox := rfl
@[simp] theorem holdUntil_viewEnd (s : State) (k c : Nat) : (holdUntil s k c).viewEnd = s.viewEnd := rfl
@[simp] theorem holdUntil_podOwner (s : State) (k c : Nat) : (holdUntil s k c).podOwner = s.podOwner := rfl
@[simp] theorem holdUntil_rwin (s : State) (k c : Nat) : (holdUntil s k c).rwin = s.rwin := rfl
@[simp] theorem holdUntil_lvq (s : State) (k c : Nat) : (holdUntil s k c).lvq = s.lvq := rfl
@[simp] theorem holdUntil_scb (s : State) (k c : Nat) : (holdUntil s k c).scb = s.scb := rfl
@[simp] theorem holdUntil_matq (s : State) (k c : Nat) : (holdUntil s k c).matq = s.matq := rfl
@[simp] theorem holdUntil_matops (s : State) (k c : Nat) : (holdUntil s k c).matops = s.matops := rfl
@[simp] theorem holdUntil_chains (s : State) (k c : Nat) : (holdUntil s k c).chains = s.chains := rfl
@[simp] theorem holdUntil_engRot (s : State) (k c : Nat) : (holdUntil s k c).engRot = s.engRot := rfl
@[simp] theorem holdUntil_offers (s : State) (k c : Nat) : (holdUntil s k c).offers = s.offers := rfl
@[simp] theorem holdUntil_husks (s : State) (k c : Nat) : (holdUntil s k c).husks = s.husks := rfl
@[simp] theorem holdUntil_succWait (s : State) (k c : Nat) : (holdUntil s k c).succWait = s.succWait := rfl
@[simp] theorem holdUntil_hot (s : State) (k c : Nat) : (holdUntil s k c).hot = s.hot := rfl
@[simp] theorem holdUntil_gated (s : State) (k c : Nat) : (holdUntil s k c).gated = s.gated := rfl
@[simp] theorem holdUntil_waking (s : State) (k c : Nat) : (holdUntil s k c).waking = s.waking := rfl
@[simp] theorem holdUntil_idleAt (s : State) (k c : Nat) : (holdUntil s k c).idleAt = s.idleAt := rfl
@[simp] theorem holdUntil_ptpBase (s : State) (k c : Nat) : (holdUntil s k c).ptpBase = s.ptpBase := rfl
@[simp] theorem holdUntil_ptpRate (s : State) (k c : Nat) : (holdUntil s k c).ptpRate = s.ptpRate := rfl
@[simp] theorem holdUntil_ptpAt (s : State) (k c : Nat) : (holdUntil s k c).ptpAt = s.ptpAt := rfl
@[simp] theorem holdUntil_ptpWrote (s : State) (k c : Nat) : (holdUntil s k c).ptpWrote = s.ptpWrote := rfl
@[simp] theorem holdUntil_cycOn (s : State) (k c : Nat) : (holdUntil s k c).cycOn = s.cycOn := rfl
@[simp] theorem holdUntil_cycDue (s : State) (k c : Nat) : (holdUntil s k c).cycDue = s.cycDue := rfl
@[simp] theorem holdUntil_cycTick (s : State) (k c : Nat) : (holdUntil s k c).cycTick = s.cycTick := rfl
@[simp] theorem holdUntil_cycHold (s : State) (k c : Nat) : (holdUntil s k c).cycHold = s.cycHold := rfl
@[simp] theorem holdUntil_tlOps (s : State) (k c : Nat) : (holdUntil s k c).tlOps = s.tlOps := rfl
@[simp] theorem holdUntil_groupOps (s : State) (k c : Nat) : (holdUntil s k c).groupOps = s.groupOps := rfl
@[simp] theorem holdUntil_tlNote (s : State) (k c : Nat) : (holdUntil s k c).tlNote = s.tlNote := rfl
@[simp] theorem holdUntil_frames (s : State) (k c : Nat) : (holdUntil s k c).frames = s.frames := rfl
@[simp] theorem holdUntil_sent (s : State) (k c : Nat) : (holdUntil s k c).sent = s.sent := rfl
@[simp] theorem holdUntil_meters (s : State) (k c : Nat) : (holdUntil s k c).meters = s.meters := rfl
@[simp] theorem holdUntil_gateAt (s : State) (k c : Nat) : (holdUntil s k c).gateAt = s.gateAt := rfl
@[simp] theorem holdUntil_gateOn (s : State) (k c : Nat) : (holdUntil s k c).gateOn = s.gateOn := rfl
@[simp] theorem holdUntil_sendAt (s : State) (k c : Nat) : (holdUntil s k c).sendAt = s.sendAt := rfl
@[simp] theorem holdUntil_latches (s : State) (k c : Nat) : (holdUntil s k c).latches = s.latches := rfl
@[simp] theorem holdUntil_staging (s : State) (k c : Nat) : (holdUntil s k c).staging = s.staging := rfl
@[simp] theorem holdUntil_applied (s : State) (k c : Nat) : (holdUntil s k c).applied = s.applied := rfl
@[simp] theorem holdUntil_missed (s : State) (k c : Nat) : (holdUntil s k c).missed = s.missed := rfl
@[simp] theorem holdUntil_lastBeat (s : State) (k c : Nat) : (holdUntil s k c).lastBeat = s.lastBeat := rfl
@[simp] theorem holdUntil_sentRecs (s : State) (k c : Nat) : (holdUntil s k c).sentRecs = s.sentRecs := rfl
@[simp] theorem holdUntil_unacked (s : State) (k c : Nat) : (holdUntil s k c).unacked = s.unacked := rfl
@[simp] theorem holdUntil_acks (s : State) (k c : Nat) : (holdUntil s k c).acks = s.acks := rfl
@[simp] theorem holdUntil_outHb (s : State) (k c : Nat) : (holdUntil s k c).outHb = s.outHb := rfl
@[simp] theorem holdUntil_sending (s : State) (k c : Nat) : (holdUntil s k c).sending = s.sending := rfl
@[simp] theorem holdUntil_roleDue (s : State) (k c : Nat) : (holdUntil s k c).roleDue = s.roleDue := rfl
@[simp] theorem holdUntil_errlog (s : State) (k c : Nat) : (holdUntil s k c).errlog = s.errlog := rfl
@[simp] theorem holdUntil_errLost (s : State) (k c : Nat) : (holdUntil s k c).errLost = s.errLost := rfl
@[simp] theorem holdUntil_offline (s : State) (k c : Nat) : (holdUntil s k c).offline = s.offline := rfl
@[simp] theorem holdUntil_traceSeq (s : State) (k c : Nat) : (holdUntil s k c).traceSeq = s.traceSeq := rfl
@[simp] theorem holdUntil_traceUse (s : State) (k c : Nat) : (holdUntil s k c).traceUse = s.traceUse := rfl
@[simp] theorem holdUntil_wbs (s : State) (k c : Nat) : (holdUntil s k c).wbs = s.wbs := rfl
@[simp] theorem holdUntil_heldWbs (s : State) (k c : Nat) : (holdUntil s k c).heldWbs = s.heldWbs := rfl
@[simp] theorem holdUntil_acqAt (s : State) (k c : Nat) : (holdUntil s k c).acqAt = s.acqAt := rfl
@[simp] theorem holdUntil_flash (s : State) (k c : Nat) : (holdUntil s k c).flash = s.flash := rfl
@[simp] theorem holdUntil_faultLow (s : State) (k c : Nat) : (holdUntil s k c).faultLow = s.faultLow := rfl
@[simp] theorem holdUntil_imgVersion (s : State) (k c : Nat) : (holdUntil s k c).imgVersion = s.imgVersion := rfl
@[simp] theorem holdUntil_imgProfile (s : State) (k c : Nat) : (holdUntil s k c).imgProfile = s.imgProfile := rfl
@[simp] theorem holdUntil_rollback (s : State) (k c : Nat) : (holdUntil s k c).rollback = s.rollback := rfl
@[simp] theorem holdUntil_tripped (s : State) (k c : Nat) : (holdUntil s k c).tripped = s.tripped := rfl
@[simp] theorem holdUntil_l2Poison (s : State) (k c : Nat) : (holdUntil s k c).l2Poison = s.l2Poison := rfl
@[simp] theorem holdUntil_l1Poison (s : State) (k c : Nat) : (holdUntil s k c).l1Poison = s.l1Poison := rfl
@[simp] theorem holdUntil_slotNow (s : State) (k c : Nat) : (holdUntil s k c).slotNow = s.slotNow := rfl
@[simp] theorem holdUntil_tried (s : State) (k c : Nat) : (holdUntil s k c).tried = s.tried := rfl
@[simp] theorem holdUntil_lateDisp (s : State) (k c : Nat) : (holdUntil s k c).lateDisp = s.lateDisp := rfl
@[simp] theorem holdUntil_viewPool (s : State) (k c : Nat) : (holdUntil s k c).viewPool = s.viewPool := rfl
@[simp] theorem holdUntil_viewFail (s : State) (k c : Nat) : (holdUntil s k c).viewFail = s.viewFail := rfl
@[simp] theorem holdUntil_engLate (s : State) (k c : Nat) : (holdUntil s k c).engLate = s.engLate := rfl
@[simp] theorem holdUntil_slipKept (s : State) (k c : Nat) : (holdUntil s k c).slipKept = s.slipKept := rfl
@[simp] theorem holdUntil_barOps (s : State) (k c : Nat) : (holdUntil s k c).barOps = s.barOps := rfl
@[simp] theorem holdUntil_pubOps (s : State) (k c : Nat) : (holdUntil s k c).pubOps = s.pubOps := rfl
@[simp] theorem holdUntil_wires (s : State) (k c : Nat) : (holdUntil s k c).wires = s.wires := rfl
@[simp] theorem holdUntil_ticks (s : State) (k c : Nat) : (holdUntil s k c).ticks = s.ticks := rfl
@[simp] theorem holdUntil_errFound (s : State) (k c : Nat) : (holdUntil s k c).errFound = s.errFound := rfl
@[simp] theorem holdUntil_events (s : State) (k c : Nat) : (holdUntil s k c).events = s.events := rfl
@[simp] theorem holdUntil_heldRecs (s : State) (k c : Nat) : (holdUntil s k c).heldRecs = s.heldRecs := rfl

/-! setSpr and setMode. -/

@[simp] theorem setSpr_host (t : Thread) (i : Nat) (v : Word) : (setSpr t i v).host = t.host := rfl
@[simp] theorem setSpr_pc (t : Thread) (i : Nat) (v : Word) : (setSpr t i v).pc = t.pc := rfl
@[simp] theorem setSpr_gbase (t : Thread) (i : Nat) (v : Word) : (setSpr t i v).gbase = t.gbase := rfl
@[simp] theorem setSpr_gsize (t : Thread) (i : Nat) (v : Word) : (setSpr t i v).gsize = t.gsize := rfl
@[simp] theorem setSpr_tbase (t : Thread) (i : Nat) (v : Word) : (setSpr t i v).tbase = t.tbase := rfl
@[simp] theorem setSpr_tcount (t : Thread) (i : Nat) (v : Word) : (setSpr t i v).tcount = t.tcount := rfl
@[simp] theorem setSpr_gpr (t : Thread) (i : Nat) (v : Word) : (setSpr t i v).gpr = t.gpr := rfl
@[simp] theorem setSpr_tiles (t : Thread) (i : Nat) (v : Word) : (setSpr t i v).tiles = t.tiles := rfl
@[simp] theorem setSpr_segs (t : Thread) (i : Nat) (v : Word) : (setSpr t i v).segs = t.segs := rfl
@[simp] theorem setSpr_shadow (t : Thread) (i : Nat) (v : Word) : (setSpr t i v).shadow = t.shadow := rfl
@[simp] theorem setSpr_spr (t : Thread) (i : Nat) (v : Word) : (setSpr t i v).spr = t.spr.putD i 0 v := rfl
@[simp] theorem setSpr_uiq (t : Thread) (i : Nat) (v : Word) : (setSpr t i v).uiq = t.uiq := rfl
@[simp] theorem setSpr_uiAt (t : Thread) (i : Nat) (v : Word) : (setSpr t i v).uiAt = t.uiAt := rfl
@[simp] theorem setSpr_uiNew (t : Thread) (i : Nat) (v : Word) : (setSpr t i v).uiNew = t.uiNew := rfl
@[simp] theorem setSpr_again (t : Thread) (i : Nat) (v : Word) : (setSpr t i v).again = t.again := rfl
@[simp] theorem setSpr_trapDue (t : Thread) (i : Nat) (v : Word) : (setSpr t i v).trapDue = t.trapDue := rfl
@[simp] theorem setSpr_stamps (t : Thread) (i : Nat) (v : Word) : (setSpr t i v).stamps = t.stamps := rfl
@[simp] theorem setSpr_run (t : Thread) (i : Nat) (v : Word) : (setSpr t i v).run = t.run := rfl
@[simp] theorem setSpr_earliest (t : Thread) (i : Nat) (v : Word) : (setSpr t i v).earliest = t.earliest := rfl
@[simp] theorem setSpr_flight (t : Thread) (i : Nat) (v : Word) : (setSpr t i v).flight = t.flight := rfl
@[simp] theorem setSpr_sb (t : Thread) (i : Nat) (v : Word) : (setSpr t i v).sb = t.sb := rfl
@[simp] theorem setSpr_fpUntil (t : Thread) (i : Nat) (v : Word) : (setSpr t i v).fpUntil = t.fpUntil := rfl
@[simp] theorem setSpr_mailAt (t : Thread) (i : Nat) (v : Word) : (setSpr t i v).mailAt = t.mailAt := rfl
@[simp] theorem setSpr_stAccept (t : Thread) (i : Nat) (v : Word) : (setSpr t i v).stAccept = t.stAccept := rfl
@[simp] theorem setSpr_stPerform (t : Thread) (i : Nat) (v : Word) : (setSpr t i v).stPerform = t.stPerform := rfl
@[simp] theorem setSpr_groups (t : Thread) (i : Nat) (v : Word) : (setSpr t i v).groups = t.groups := rfl
@[simp] theorem setSpr_held (t : Thread) (i : Nat) (v : Word) : (setSpr t i v).held = t.held := rfl
@[simp] theorem setSpr_barArm (t : Thread) (i : Nat) (v : Word) : (setSpr t i v).barArm = t.barArm := rfl
@[simp] theorem setSpr_lastIssue (t : Thread) (i : Nat) (v : Word) : (setSpr t i v).lastIssue = t.lastIssue := rfl
@[simp] theorem setSpr_placedAt (t : Thread) (i : Nat) (v : Word) : (setSpr t i v).placedAt = t.placedAt := rfl
@[simp] theorem setSpr_share (t : Thread) (i : Nat) (v : Word) : (setSpr t i v).share = t.share := rfl
@[simp] theorem setSpr_node (t : Thread) (i : Nat) (v : Word) : (setSpr t i v).node = t.node := rfl
@[simp] theorem setSpr_rival (t : Thread) (i : Nat) (v : Word) : (setSpr t i v).rival = t.rival := rfl
@[simp] theorem setSpr_sprout (t : Thread) (i : Nat) (v : Word) : (setSpr t i v).sprout = t.sprout := rfl
@[simp] theorem setSpr_released (t : Thread) (i : Nat) (v : Word) : (setSpr t i v).released = t.released := rfl
@[simp] theorem setSpr_deferred (t : Thread) (i : Nat) (v : Word) : (setSpr t i v).deferred = t.deferred := rfl
@[simp] theorem setSpr_park (t : Thread) (i : Nat) (v : Word) : (setSpr t i v).park = t.park := rfl
@[simp] theorem setSpr_auditSkip (t : Thread) (i : Nat) (v : Word) : (setSpr t i v).auditSkip = t.auditSkip := rfl
@[simp] theorem setSpr_trapOld (t : Thread) (i : Nat) (v : Word) : (setSpr t i v).trapOld = t.trapOld := rfl
@[simp] theorem setMode_host (t : Thread) (lo n v : Nat) : (setMode t lo n v).host = t.host := rfl
@[simp] theorem setMode_pc (t : Thread) (lo n v : Nat) : (setMode t lo n v).pc = t.pc := rfl
@[simp] theorem setMode_gbase (t : Thread) (lo n v : Nat) : (setMode t lo n v).gbase = t.gbase := rfl
@[simp] theorem setMode_gsize (t : Thread) (lo n v : Nat) : (setMode t lo n v).gsize = t.gsize := rfl
@[simp] theorem setMode_tbase (t : Thread) (lo n v : Nat) : (setMode t lo n v).tbase = t.tbase := rfl
@[simp] theorem setMode_tcount (t : Thread) (lo n v : Nat) : (setMode t lo n v).tcount = t.tcount := rfl
@[simp] theorem setMode_gpr (t : Thread) (lo n v : Nat) : (setMode t lo n v).gpr = t.gpr := rfl
@[simp] theorem setMode_tiles (t : Thread) (lo n v : Nat) : (setMode t lo n v).tiles = t.tiles := rfl
@[simp] theorem setMode_segs (t : Thread) (lo n v : Nat) : (setMode t lo n v).segs = t.segs := rfl
@[simp] theorem setMode_shadow (t : Thread) (lo n v : Nat) : (setMode t lo n v).shadow = t.shadow := rfl
@[simp] theorem setMode_uiq (t : Thread) (lo n v : Nat) : (setMode t lo n v).uiq = t.uiq := rfl
@[simp] theorem setMode_uiAt (t : Thread) (lo n v : Nat) : (setMode t lo n v).uiAt = t.uiAt := rfl
@[simp] theorem setMode_uiNew (t : Thread) (lo n v : Nat) : (setMode t lo n v).uiNew = t.uiNew := rfl
@[simp] theorem setMode_again (t : Thread) (lo n v : Nat) : (setMode t lo n v).again = t.again := rfl
@[simp] theorem setMode_trapDue (t : Thread) (lo n v : Nat) : (setMode t lo n v).trapDue = t.trapDue := rfl
@[simp] theorem setMode_stamps (t : Thread) (lo n v : Nat) : (setMode t lo n v).stamps = t.stamps := rfl
@[simp] theorem setMode_run (t : Thread) (lo n v : Nat) : (setMode t lo n v).run = t.run := rfl
@[simp] theorem setMode_earliest (t : Thread) (lo n v : Nat) : (setMode t lo n v).earliest = t.earliest := rfl
@[simp] theorem setMode_flight (t : Thread) (lo n v : Nat) : (setMode t lo n v).flight = t.flight := rfl
@[simp] theorem setMode_sb (t : Thread) (lo n v : Nat) : (setMode t lo n v).sb = t.sb := rfl
@[simp] theorem setMode_fpUntil (t : Thread) (lo n v : Nat) : (setMode t lo n v).fpUntil = t.fpUntil := rfl
@[simp] theorem setMode_mailAt (t : Thread) (lo n v : Nat) : (setMode t lo n v).mailAt = t.mailAt := rfl
@[simp] theorem setMode_stAccept (t : Thread) (lo n v : Nat) : (setMode t lo n v).stAccept = t.stAccept := rfl
@[simp] theorem setMode_stPerform (t : Thread) (lo n v : Nat) : (setMode t lo n v).stPerform = t.stPerform := rfl
@[simp] theorem setMode_groups (t : Thread) (lo n v : Nat) : (setMode t lo n v).groups = t.groups := rfl
@[simp] theorem setMode_held (t : Thread) (lo n v : Nat) : (setMode t lo n v).held = t.held := rfl
@[simp] theorem setMode_barArm (t : Thread) (lo n v : Nat) : (setMode t lo n v).barArm = t.barArm := rfl
@[simp] theorem setMode_lastIssue (t : Thread) (lo n v : Nat) : (setMode t lo n v).lastIssue = t.lastIssue := rfl
@[simp] theorem setMode_placedAt (t : Thread) (lo n v : Nat) : (setMode t lo n v).placedAt = t.placedAt := rfl
@[simp] theorem setMode_share (t : Thread) (lo n v : Nat) : (setMode t lo n v).share = t.share := rfl
@[simp] theorem setMode_node (t : Thread) (lo n v : Nat) : (setMode t lo n v).node = t.node := rfl
@[simp] theorem setMode_rival (t : Thread) (lo n v : Nat) : (setMode t lo n v).rival = t.rival := rfl
@[simp] theorem setMode_sprout (t : Thread) (lo n v : Nat) : (setMode t lo n v).sprout = t.sprout := rfl
@[simp] theorem setMode_released (t : Thread) (lo n v : Nat) : (setMode t lo n v).released = t.released := rfl
@[simp] theorem setMode_deferred (t : Thread) (lo n v : Nat) : (setMode t lo n v).deferred = t.deferred := rfl
@[simp] theorem setMode_park (t : Thread) (lo n v : Nat) : (setMode t lo n v).park = t.park := rfl
@[simp] theorem setMode_auditSkip (t : Thread) (lo n v : Nat) : (setMode t lo n v).auditSkip = t.auditSkip := rfl
@[simp] theorem setMode_trapOld (t : Thread) (lo n v : Nat) : (setMode t lo n v).trapOld = t.trapOld := rfl

end Sys2Proof.Machine
end

