-- ==== Sys2Proof/Laws/Tab.lean ====
section
/-! SUPPORT. Laws of sparse tables: what a lookup finds after a put, a delete or a change, which hold of every list, and that
the operations keep the canonical form. -/

namespace Sys2Proof.Tab

variable {α : Type}

theorem get?_put (t : Tab α) (k j : Nat) (v : α) : get? (put t k v) j = if k = j then some v else get? t j := by
  induction t with
  | nil => simp only [put, get?]; split <;> (try split) <;> (first | rfl | omega)
  | cons p r ih =>
    obtain ⟨i, x⟩ := p
    simp only [put]
    split
    · simp only [get?, ih]; split <;> (try split) <;> (try split) <;> (first | rfl | omega)
    · split
      · subst i; simp only [get?]; split <;> (try split) <;> (first | rfl | omega)
      · simp only [get?]; split <;> (try split) <;> (try split) <;> (try split) <;> (first | rfl | omega)

theorem get?_dropLe (t : Tab α) (k j : Nat) (h : k < j) : get? (dropLe t k) j = get? t j := by
  induction t with
  | nil => rfl
  | cons p r ih =>
    obtain ⟨i, x⟩ := p
    simp only [dropLe]
    split
    · rw [ih]; simp only [get?]; split <;> (first | rfl | omega)
    · rfl

theorem get?_dropLe_le (t : Tab α) (k j : Nat) (h : j ≤ k) : get? (dropLe t k) j = none := by
  induction t with
  | nil => rfl
  | cons p r ih =>
    obtain ⟨i, x⟩ := p
    simp only [dropLe]
    split
    · exact ih
    · simp only [get?]; split <;> (try split) <;> (first | rfl | omega)

theorem get?_del (t : Tab α) (k j : Nat) : get? (del t k) j = if k = j then none else get? t j := by
  induction t with
  | nil => simp only [del, get?]; split <;> rfl
  | cons p r ih =>
    obtain ⟨i, x⟩ := p
    simp only [del]
    split
    · simp only [get?, ih]; split <;> (try split) <;> (try split) <;> (first | rfl | omega)
    · split
      · subst i
        by_cases hj : j ≤ k
        · rw [get?_dropLe_le _ _ _ hj]; simp only [get?]; split <;> (try split) <;> (try split) <;> (first | rfl | omega)
        · rw [get?_dropLe _ _ _ (by omega)]; simp only [get?]; split <;> (try split) <;> (first | rfl | omega)
      · simp only [get?]; split <;> (try split) <;> (try split) <;> (try split) <;> (first | rfl | omega)

@[simp] theorem get?_put_self (t : Tab α) (k : Nat) (v : α) : get? (put t k v) k = some v := by simp [get?_put]

theorem get?_put_ne (t : Tab α) (k j : Nat) (v : α) (h : k ≠ j) : get? (put t k v) j = get? t j := by simp [get?_put, h]

@[simp] theorem get?_del_self (t : Tab α) (k : Nat) : get? (del t k) k = none := by simp [get?_del]

theorem get?_del_ne (t : Tab α) (k j : Nat) (h : k ≠ j) : get? (del t k) j = get? t j := by simp [get?_del, h]

theorem getD_put (t : Tab α) (k j : Nat) (v d : α) : getD (put t k v) j d = if k = j then v else getD t j d := by
  simp only [getD, get?_put]; split <;> rfl

theorem getD_putD [DecidableEq α] (t : Tab α) (k j : Nat) (v d : α) :
    getD (putD t k d v) j d = if k = j then v else getD t j d := by
  simp only [putD]
  split
  · next h => subst h; simp only [getD, get?_del]; split <;> rfl
  · exact getD_put t k j v d

theorem get?_modify (t : Tab α) (k j : Nat) (f : α → α) :
    get? (modify t k f) j = if k = j then (get? t j).map f else get? t j := by
  simp only [modify]
  split
  · next v hv => rw [get?_put]; split
                 · next h => subst h; rw [hv]; rfl
                 · rfl
  · next hv => split
               · next h => subst h; rw [hv]; rfl
               · rfl

/-! The canonical form. -/

theorem sorted_cons (p : Nat × α) (r : Tab α) : sorted (p :: r) = true ↔ (∀ q ∈ r, p.1 < q.1) ∧ sorted r = true := by
  induction r generalizing p with
  | nil => simp [sorted]
  | cons q s ih =>
    simp only [sorted, Bool.and_eq_true, decide_eq_true_eq, List.mem_cons, forall_eq_or_imp]
    constructor
    · rintro ⟨h1, h2⟩
      exact ⟨⟨h1, fun x hx => Nat.lt_trans h1 (((ih q).mp h2).1 x hx)⟩, h2⟩
    · rintro ⟨⟨h1, _⟩, h2⟩
      exact ⟨h1, h2⟩

theorem mem_put {t : Tab α} {k : Nat} {v : α} {q : Nat × α} (h : q ∈ put t k v) : q = (k, v) ∨ q ∈ t := by
  induction t with
  | nil => exact .inl (by simpa [put] using h)
  | cons p r ih =>
    obtain ⟨i, x⟩ := p
    simp only [put] at h
    split at h
    · rcases List.mem_cons.mp h with h | h
      · exact .inr (h ▸ List.mem_cons_self)
      · exact (ih h).imp_right (List.mem_cons_of_mem _)
    · split at h
      · rcases List.mem_cons.mp h with h | h
        · exact .inl h
        · exact .inr (List.mem_cons_of_mem _ h)
      · exact (List.mem_cons.mp h)

theorem sorted_put {t : Tab α} (k : Nat) (v : α) (h : sorted t = true) : sorted (put t k v) = true := by
  induction t with
  | nil => rfl
  | cons p r ih =>
    obtain ⟨i, x⟩ := p
    have h' := (sorted_cons _ _).mp h
    simp only [put]
    split
    · refine (sorted_cons _ _).mpr ⟨fun q hq => ?_, ih h'.2⟩
      rcases mem_put hq with rfl | hq
      · assumption
      · exact h'.1 q hq
    · split
      · next e => subst e; exact (sorted_cons _ _).mpr ⟨h'.1, h'.2⟩
      · refine (sorted_cons _ _).mpr ⟨fun q hq => ?_, h⟩
        rcases List.mem_cons.mp hq with rfl | hq
        · show k < i; omega
        · have := h'.1 q hq; simp only at this; show k < q.1; omega

theorem dropLe_sublist (t : Tab α) (k : Nat) : (dropLe t k).Sublist t := by
  induction t with
  | nil => exact .slnil
  | cons p r ih =>
    obtain ⟨i, x⟩ := p
    simp only [dropLe]
    split
    · exact ih.cons _
    · exact List.Sublist.refl _

theorem del_sublist (t : Tab α) (k : Nat) : (del t k).Sublist t := by
  induction t with
  | nil => exact .slnil
  | cons p r ih =>
    obtain ⟨i, x⟩ := p
    simp only [del]
    split
    · exact ih.cons_cons _
    · split
      · exact (dropLe_sublist r k).cons _
      · exact List.Sublist.refl _

theorem sorted_sublist {t u : Tab α} (hs : t.Sublist u) (h : sorted u = true) : sorted t = true := by
  induction hs with
  | slnil => rfl
  | cons _ _ ih => exact ih ((sorted_cons _ _).mp h).2
  | cons_cons a hs ih =>
    have h' := (sorted_cons _ _).mp h
    exact (sorted_cons _ _).mpr ⟨fun q hq => h'.1 q (hs.subset hq), ih h'.2⟩

theorem wf_nil [DecidableEq α] (d : α) : wf d [] = true := rfl

theorem wf_sublist [DecidableEq α] {d : α} {t u : Tab α} (hs : t.Sublist u) (h : wf d u = true) : wf d t = true := by
  simp only [wf, Bool.and_eq_true, List.all_eq_true] at *
  exact ⟨sorted_sublist hs h.1, fun q hq => h.2 q (hs.subset hq)⟩

theorem wf_putD [DecidableEq α] {d : α} {t : Tab α} (k : Nat) (v : α) (h : wf d t = true) : wf d (putD t k d v) = true := by
  simp only [putD]
  split
  · exact wf_sublist (del_sublist t k) h
  · next hv =>
    simp only [wf, Bool.and_eq_true, List.all_eq_true] at *
    refine ⟨sorted_put k v h.1, fun q hq => ?_⟩
    rcases mem_put hq with rfl | hq
    · simpa using hv
    · exact h.2 q hq

theorem wf_filter [DecidableEq α] {d : α} {t : Tab α} (p : Nat × α → Bool) (h : wf d t = true) : wf d (t.filter p) = true :=
  wf_sublist List.filter_sublist h

/-- Writing what a key reads as changes nothing. -/
theorem putD_getD [DecidableEq α] {d : α} {t : Tab α} (k : Nat) (h : wf d t = true) : putD t k d (getD t k d) = t := by
  have key : ∀ u : Tab α, sorted u = true → (∀ q ∈ u, q.2 ≠ d) → putD u k d (getD u k d) = u := by
    intro u
    induction u with
    | nil => intro _ _; simp [putD, getD, get?, del]
    | cons p r ih =>
      obtain ⟨i, x⟩ := p
      intro hs hd
      have hs' := (sorted_cons _ _).mp hs
      have hr := ih hs'.2 (fun q hq => hd q (List.mem_cons_of_mem _ hq))
      by_cases h1 : i < k
      · have hg : getD ((i, x) :: r) k d = getD r k d := by simp [getD, get?, h1]
        rw [hg]
        simp only [putD] at hr ⊢
        split
        · next e => rw [if_pos e] at hr; simp [del, h1, hr]
        · next e => rw [if_neg e] at hr; simp [put, h1, hr]
      · by_cases h2 : i = k
        · subst h2
          have hg : getD ((i, x) :: r) i d = x := by simp [getD, get?]
          have hx : x ≠ d := hd (i, x) List.mem_cons_self
          rw [hg, putD, if_neg hx]; simp [put]
        · have hg : getD ((i, x) :: r) k d = d := by simp [getD, get?, h1, h2]
          rw [hg, putD, if_pos rfl]; simp [del, h1, h2]
  simp only [wf, Bool.and_eq_true, List.all_eq_true, bne_iff_ne] at h
  exact key t h.1 h.2

end Sys2Proof.Tab
end

