-- ==== Sys2Proof/Laws/Ops.lean ====
section
/-! SUPPORT. What the shared operations over threads, registers, fields and the agenda do: one lemma each. -/

namespace Sys2Proof.Machine

/-! Threads. -/

theorem thr_setThr (s : State) (k j : Nat) (t : Thread) : thr (setThr s k t) j = if k = j then some t else thr s j :=
  Tab.get?_put _ _ _ _

@[simp] theorem thr_setThr_self (s : State) (k : Nat) (t : Thread) : thr (setThr s k t) k = some t := by simp [thr_setThr]

theorem thr_setThr_ne (s : State) (k j : Nat) (t : Thread) (h : k ≠ j) : thr (setThr s k t) j = thr s j := by simp [thr_setThr, h]

theorem thr_modThr (s : State) (k j : Nat) (f : Thread → Thread) :
    thr (modThr s k f) j = if k = j then (thr s j).map f else thr s j := Tab.get?_modify _ _ _ _

theorem thr_modThr_self {s : State} {k : Nat} {t : Thread} (f : Thread → Thread) (h : thr s k = some t) :
    thr (modThr s k f) k = some (f t) := by simp [thr_modThr, h]

theorem thr_modThr_ne (s : State) (k j : Nat) (f : Thread → Thread) (h : k ≠ j) : thr (modThr s k f) j = thr s j := by
  simp [thr_modThr, h]

/-- Changing a thread that exists is setting it. -/
theorem modThr_eq {s : State} {k : Nat} {t : Thread} (f : Thread → Thread) (h : thr s k = some t) :
    modThr s k f = setThr s k (f t) := by
  simp only [modThr, setThr, Tab.modify]
  rw [show s.threads.get? k = some t from h]

theorem modThr_none {s : State} {k : Nat} (f : Thread → Thread) (h : thr s k = none) : modThr s k f = s := by
  simp only [modThr, Tab.modify]
  rw [show s.threads.get? k = none from h]

@[simp] theorem thr_sched (s : State) (due : Nat) (i : Instr) (k : Nat) : thr (sched s due i) k = thr s k := rfl
@[simp] theorem thr_unsched (s : State) (p : Instr → Bool) (k : Nat) : thr (unsched s p) k = thr s k := rfl
@[simp] theorem thr_tick (s : State) (k : Nat) : thr (tick s) k = thr s k := rfl
@[simp] theorem thr_wrMem (s : State) (a : Nat) (b : Byte) (k : Nat) : thr (wrMem s a b) k = thr s k := rfl
@[simp] theorem thr_wrCtl (s : State) (a : Nat) (v : Word) (k : Nat) : thr (wrCtl s a v) k = thr s k := rfl
@[simp] theorem thr_setCtlF (s : State) (a lo n v k : Nat) : thr (setCtlF s a lo n v) k = thr s k := rfl
@[simp] theorem thr_setSprPart (s : State) (p i : Nat) (v : Word) (k : Nat) : thr (setSprPart s p i v) k = thr s k := rfl
@[simp] theorem thr_perfBump (s : State) (p e k : Nat) : thr (perfBump s p e) k = thr s k := rfl

/-! Fields of words. -/

theorem bits_lt (w : Word) (lo n : Nat) : bits w lo n < 2 ^ n := Nat.mod_lt _ (Nat.two_pow_pos n)

theorem wd_toNat (n : Nat) (h : n < 2 ^ 64) : (wd n).toNat = n := by simp [wd]; omega

theorem setBits_toNat (w : Word) (lo n v : Nat) (h : lo + n ≤ 64) :
    (setBits w lo n v).toNat = w.toNat % 2 ^ lo + (v % 2 ^ n) * 2 ^ lo + w.toNat / 2 ^ (lo + n) * 2 ^ (lo + n) := by
  have hw := w.isLt
  have h1 : w.toNat % 2 ^ lo < 2 ^ lo := Nat.mod_lt _ (Nat.two_pow_pos _)
  have h2 : v % 2 ^ n < 2 ^ n := Nat.mod_lt _ (Nat.two_pow_pos _)
  have hp : (2 : Nat) ^ (lo + n) * 2 ^ (64 - (lo + n)) = 2 ^ 64 := by rw [← Nat.pow_add]; congr 1; omega
  have h3 : w.toNat / 2 ^ (lo + n) < 2 ^ (64 - (lo + n)) := by
    rw [Nat.div_lt_iff_lt_mul (Nat.two_pow_pos _), Nat.mul_comm, hp]; exact hw
  have h4 : w.toNat % 2 ^ lo + (v % 2 ^ n) * 2 ^ lo < 2 ^ (lo + n) := by
    rw [Nat.pow_add]
    calc w.toNat % 2 ^ lo + (v % 2 ^ n) * 2 ^ lo < 2 ^ lo + (v % 2 ^ n) * 2 ^ lo := by omega
      _ = 2 ^ lo * (v % 2 ^ n + 1) := by rw [Nat.mul_add, Nat.mul_comm (v % 2 ^ n)]; omega
      _ ≤ 2 ^ lo * 2 ^ n := Nat.mul_le_mul_left _ h2
  have h5 : w.toNat % 2 ^ lo + (v % 2 ^ n) * 2 ^ lo + w.toNat / 2 ^ (lo + n) * 2 ^ (lo + n) < 2 ^ 64 := by
    rw [← hp]
    calc _ < 2 ^ (lo + n) + w.toNat / 2 ^ (lo + n) * 2 ^ (lo + n) := by omega
      _ = 2 ^ (lo + n) * (w.toNat / 2 ^ (lo + n) + 1) := by rw [Nat.mul_add, Nat.mul_comm (w.toNat / 2 ^ (lo + n))]; omega
      _ ≤ 2 ^ (lo + n) * 2 ^ (64 - (lo + n)) := Nat.mul_le_mul_left _ h3
  simp only [setBits, BitVec.toNat_ofNat]
  exact Nat.mod_eq_of_lt h5

/-- A field just written reads back. -/
theorem bits_setBits (w : Word) (lo n v : Nat) (h : lo + n ≤ 64) : bits (setBits w lo n v) lo n = v % 2 ^ n := by
  rw [bits, setBits_toNat w lo n v h, Nat.pow_add]
  have h1 : w.toNat % 2 ^ lo < 2 ^ lo := Nat.mod_lt _ (Nat.two_pow_pos _)
  have e : w.toNat % 2 ^ lo + (v % 2 ^ n) * 2 ^ lo + w.toNat / (2 ^ lo * 2 ^ n) * (2 ^ lo * 2 ^ n) =
      w.toNat % 2 ^ lo + 2 ^ lo * (v % 2 ^ n + 2 ^ n * (w.toNat / (2 ^ lo * 2 ^ n))) := by ring
  rw [e, Nat.add_mul_div_left _ _ (Nat.two_pow_pos _), Nat.div_eq_of_lt h1, Nat.zero_add, Nat.add_mul_mod_self_left, Nat.mod_mod]

/-- A field apart from the one written stays. -/
theorem bits_setBits_low (w : Word) (lo n v a m : Nat) (h : lo + n ≤ 64) (d : a + m ≤ lo) :
    bits (setBits w lo n v) a m = bits w a m := by
  have ha : (2 : Nat) ^ lo = 2 ^ a * (2 ^ m * 2 ^ (lo - a - m)) := by rw [← Nat.pow_add, ← Nat.pow_add]; congr 1; omega
  have e : ∀ x y : Nat, (x % 2 ^ lo + 2 ^ lo * y) / 2 ^ a % 2 ^ m = x / 2 ^ a % 2 ^ m := by
    intro x y
    have h1 : x % 2 ^ lo + 2 ^ lo * y = x % 2 ^ lo + 2 ^ a * (2 ^ m * (2 ^ (lo - a - m) * y)) := by rw [ha]; ring
    rw [h1, Nat.add_mul_div_left _ _ (Nat.two_pow_pos _), Nat.add_mul_mod_self_left]
    conv_rhs => rw [← Nat.mod_add_div x (2 ^ lo)]
    have h2 : x % 2 ^ lo + 2 ^ lo * (x / 2 ^ lo) = x % 2 ^ lo + 2 ^ a * (2 ^ m * (2 ^ (lo - a - m) * (x / 2 ^ lo))) := by
      conv_lhs => rw [show (2 : Nat) ^ lo * (x / 2 ^ lo) = 2 ^ a * (2 ^ m * (2 ^ (lo - a - m) * (x / 2 ^ lo))) by
        conv_lhs => rw [show (2 : Nat) ^ lo * (x / 2 ^ lo) = (2 ^ a * (2 ^ m * 2 ^ (lo - a - m))) * (x / 2 ^ lo) by rw [← ha]]
        ring]
    rw [h2, Nat.add_mul_div_left _ _ (Nat.two_pow_pos _), Nat.add_mul_mod_self_left]
  simp only [bits]
  rw [setBits_toNat w lo n v h]
  have h3 : w.toNat % 2 ^ lo + v % 2 ^ n * 2 ^ lo + w.toNat / 2 ^ (lo + n) * 2 ^ (lo + n) =
      w.toNat % 2 ^ lo + 2 ^ lo * (v % 2 ^ n + 2 ^ n * (w.toNat / 2 ^ (lo + n))) := by
    rw [show (2 : Nat) ^ (lo + n) = 2 ^ lo * 2 ^ n from Nat.pow_add _ _ _]; ring
  rw [h3, e]

theorem bits_setBits_high (w : Word) (lo n v a m : Nat) (h : lo + n ≤ 64) (d : lo + n ≤ a) :
    bits (setBits w lo n v) a m = bits w a m := by
  simp only [bits]
  congr 1
  have hp : (2 : Nat) ^ a = 2 ^ (lo + n) * 2 ^ (a - (lo + n)) := by rw [← Nat.pow_add]; congr 1; omega
  rw [hp, ← Nat.div_div_eq_div_mul, ← Nat.div_div_eq_div_mul]
  congr 1
  rw [setBits_toNat w lo n v h]
  have h1 : w.toNat % 2 ^ lo < 2 ^ lo := Nat.mod_lt _ (Nat.two_pow_pos _)
  have h2 : v % 2 ^ n < 2 ^ n := Nat.mod_lt _ (Nat.two_pow_pos _)
  have h4 : w.toNat % 2 ^ lo + (v % 2 ^ n) * 2 ^ lo < 2 ^ (lo + n) := by
    rw [Nat.pow_add]
    calc w.toNat % 2 ^ lo + (v % 2 ^ n) * 2 ^ lo < 2 ^ lo + (v % 2 ^ n) * 2 ^ lo := by omega
      _ = 2 ^ lo * (v % 2 ^ n + 1) := by rw [Nat.mul_add, Nat.mul_comm (v % 2 ^ n)]; omega
      _ ≤ 2 ^ lo * 2 ^ n := Nat.mul_le_mul_left _ h2
  rw [Nat.mul_comm (w.toNat / 2 ^ (lo + n)), Nat.add_mul_div_left _ _ (Nat.two_pow_pos _), Nat.div_eq_of_lt h4, Nat.zero_add]

theorem bit_eq_bits (w : Word) (i : Nat) : bit w i = (bits w i 1 == 1) := rfl

/-! Special registers and control space. -/

theorem getSpr_setSpr (t : Thread) (i j : Nat) (v : Word) : getSpr (setSpr t i v) j = if i = j then v else getSpr t j :=
  Tab.getD_putD _ _ _ _ _

@[simp] theorem getSpr_setSpr_self (t : Thread) (i : Nat) (v : Word) : getSpr (setSpr t i v) i = v := by simp [getSpr_setSpr]

theorem getSpr_setMode (t : Thread) (lo n v i : Nat) (h : i ≠ rMODE) : getSpr (setMode t lo n v) i = getSpr t i := by
  rw [setMode, getSpr_setSpr, if_neg (Ne.symm h)]

theorem mode_setMode (t : Thread) (lo n v : Nat) : getSpr (setMode t lo n v) rMODE = setBits (getSpr t rMODE) lo n v := by
  rw [setMode, getSpr_setSpr_self]

theorem rdCtl_wrCtl (s : State) (a b : Nat) (v : Word) : rdCtl (wrCtl s a v) b = if a = b then v else rdCtl s b :=
  Tab.getD_putD _ _ _ _ _

theorem ctlF_wrCtl_ne (s : State) (a b lo n : Nat) (v : Word) (h : a ≠ b) : ctlF (wrCtl s a v) b lo n = ctlF s b lo n := by
  simp [ctlF, rdCtl_wrCtl, h]

theorem ctlF_setCtlF (s : State) (a lo n v : Nat) (h : lo + n ≤ 64) : ctlF (setCtlF s a lo n v) a lo n = v % 2 ^ n := by
  simp [ctlF, setCtlF, rdCtl_wrCtl, bits_setBits _ _ _ _ h]

theorem ctlF_setCtlF_ne (s : State) (a b lo n v x y : Nat) (h : a ≠ b) : ctlF (setCtlF s a lo n v) b x y = ctlF s b x y := by
  simp [ctlF, setCtlF, rdCtl_wrCtl, h]

theorem sprPart_setSprPart (s : State) (p i q j : Nat) (v : Word) :
    sprPart (setSprPart s p i v) q j = if p * 256 + i = q * 256 + j then v else sprPart s q j := Tab.getD_putD _ _ _ _ _

/-! General registers. -/

theorem isShadow_eq (t u : Thread) (h : uihOf u = uihOf t) (n : Nat) : isShadow u n = isShadow t n := by simp [isShadow, h]

/-- What writing a register does to every register; g0 stays 0 and the write is discarded. -/
theorem gprOf_setGpr (t : Thread) (n m : Nat) (v : Word) :
    gprOf (setGpr t n v) m = if n = m ∧ n ≠ 0 then v else gprOf t m := by
  have hu : uihOf (setGpr t n v) = uihOf t := by simp only [setGpr]; split; rfl; split <;> rfl
  have hsh := isShadow_eq t (setGpr t n v) hu
  simp only [gprOf, hsh]
  by_cases hm : m = 0
  · subst hm
    rw [if_pos rfl, if_pos rfl, if_neg (by omega)]
  · simp only [if_neg hm, setGpr]
    by_cases hn : n = 0
    · simp [hn]
    · simp only [if_neg hn]
      by_cases hs : isShadow t n = true
      · simp only [if_pos hs]
        by_cases hs' : isShadow t m = true
        · simp only [if_pos hs', Tab.getD_putD]
          have h1 : 124 ≤ n := by simp [isShadow] at hs; exact hs.2
          have h2 : 124 ≤ m := by simp [isShadow] at hs'; exact hs'.2
          by_cases e : n = m
          · simp [e, hm]
          · simp [e, show n - 124 ≠ m - 124 by omega]
        · have e : n ≠ m := fun e => hs' (e ▸ hs)
          simp [hs', e]
      · simp only [if_neg hs]
        by_cases hs' : isShadow t m = true
        · have e : n ≠ m := fun e => hs (e ▸ hs')
          simp [hs', e]
        · simp only [if_neg hs', Tab.getD_putD]
          by_cases e : n = m
          · simp [e, hm]
          · simp [e]

@[simp] theorem gprOf_zero (t : Thread) : gprOf t 0 = 0 := rfl

/-- With no fixed-latency result under way, a register reads as it stands. -/
theorem readG_idle (s : State) (t : Thread) (n : Nat) (h : t.flight = []) : readG s t n = gprOf t n := by simp [readG, h]

/-! The agenda. -/

theorem mem_agendaPut (p q : Nat × Instr) (l : List (Nat × Instr)) : q ∈ agendaPut p l ↔ q = p ∨ q ∈ l := by
  induction l with
  | nil => simp [agendaPut]
  | cons r l ih =>
    simp only [agendaPut]
    split
    · simp only [List.mem_cons, ih]
      constructor <;> (intro h; rcases h with h | h | h <;> simp [h])
    · simp

theorem mem_sched (s : State) (due : Nat) (i : Instr) (q : Nat × Instr) :
    q ∈ (sched s due i).agenda ↔ q = (due, i) ∨ q ∈ s.agenda := mem_agendaPut _ _ _

/-! Results. -/

/-- A scoreboarded result in one equation: the thread's scoreboard, the agenda and the name counter. -/
theorem putScored_eq {s : State} {k : Nat} {t : Thread} (due : Nat) (regs : List (Nat × Word)) (tiles : List Nat)
    (h : thr s k = some t) :
    putScored s k due regs tiles =
      sched { setThr s k { t with sb := t.sb ++ [⟨s.nextId, due, (regs.filter (fun r => r.1 != 0)).map (fun r => (regId t r.1, r.2)), tiles⟩] }
        with nextId := s.nextId + 1 } due (.scoreboardResultArrival k s.nextId) := by
  simp only [putScored, modThr_eq _ h]

/-- A fixed-latency result in one equation. -/
theorem putFixed_eq {s : State} {k : Nat} {t : Thread} (lat n : Nat) (v : Word) (h : thr s k = some t) (hn : n ≠ 0) :
    putFixed s k lat n v = setThr s k { setGpr t n v with
      flight := ⟨regId t n, gprOf t n, s.clk + lat⟩ :: t.flight.filter (fun x => x.reg != regId t n && s.clk < x.ready) } := by
  simp only [putFixed, modThr_eq _ h, if_neg hn]

theorem putFixed_zero (s : State) (k lat : Nat) (v : Word) : putFixed s k lat 0 v = modThr s k (fun t => t) := by
  simp [putFixed]

/-- The end of a thread, beyond its own state: only the agenda. -/
theorem beginEnd_frame (s : State) (k : Nat) :
    beginEnd s k = { s with threads := (beginEnd s k).threads, agenda := (beginEnd s k).agenda } := by
  simp only [beginEnd]
  split
  · rfl
  · split <;> rfl

/-- A post beyond the queue of posts: only the agenda, for the mailbox's turn. -/
theorem postLate_frame (s : State) (p : Nat) (msg : List Byte) (late : Nat) :
    postLate s p msg late = { s with posts := s.posts ++ [⟨0, some p, 0, msg, s.clk + late⟩], agenda := (postLate s p msg late).agenda } := by
  simp only [postLate]
  split <;> rfl

theorem postRaw_frame (s : State) (p : Nat) (msg : List Byte) :
    postRaw s p msg = { s with posts := s.posts ++ [⟨0, some p, 0, msg, s.clk⟩], agenda := (postRaw s p msg).agenda } :=
  postLate_frame s p msg 0

end Sys2Proof.Machine
end

