-- ==== Sys2Proof/Laws/Memory.lean ====
section
/-! SUPPORT. Memory: what a byte reads as after a write, that every operation over memory keeps the canonical form, and which
operations leave memory alone. -/

namespace Sys2Proof.Machine

/-! One byte, and ranges. -/

theorem rdMem_wrMem (s : State) (a x : Nat) (b : Byte) : rdMem (wrMem s a b) x = if a = x then b else rdMem s x :=
  Tab.getD_putD _ _ _ _ _

theorem wf_wrMem {s : State} (a : Nat) (b : Byte) (h : Memory.wf s.mem = true) : Memory.wf (wrMem s a b).mem = true :=
  Tab.wf_putD a b h

theorem rdMem_wrMemBytes_out (s : State) (a x : Nat) (bs : List Byte) (h : x < a ∨ a + bs.length ≤ x) :
    rdMem (wrMemBytes s a bs) x = rdMem s x := by
  induction bs generalizing s a with
  | nil => rfl
  | cons b r ih =>
    simp only [List.length_cons] at h
    rw [wrMemBytes, ih _ _ (by omega), rdMem_wrMem, if_neg (by omega)]

theorem rdMem_wrMemBytes_in (s : State) (a i : Nat) (bs : List Byte) (b : Byte) (h : bs[i]? = some b) :
    rdMem (wrMemBytes s a bs) (a + i) = b := by
  induction bs generalizing s a i with
  | nil => simp at h
  | cons c r ih =>
    rw [wrMemBytes]
    cases i with
    | zero =>
      simp only [List.getElem?_cons_zero, Option.some.injEq] at h
      rw [rdMem_wrMemBytes_out _ _ _ _ (by omega), rdMem_wrMem, if_pos (by omega), h]
    | succ n =>
      have e : a + (n + 1) = a + 1 + n := by omega
      rw [e]
      exact ih _ _ _ (by simpa using h)

theorem wf_wrMemBytes {s : State} (a : Nat) (bs : List Byte) (h : Memory.wf s.mem = true) :
    Memory.wf (wrMemBytes s a bs).mem = true := by
  induction bs generalizing s a with
  | nil => exact h
  | cons b r ih => exact ih _ (wf_wrMem _ _ h)

/-- Writing bytes changes memory alone. -/
theorem wrMemBytes_frame (s : State) (a : Nat) (bs : List Byte) : wrMemBytes s a bs = { s with mem := (wrMemBytes s a bs).mem } := by
  induction bs generalizing s a with
  | nil => rfl
  | cons b r ih =>
    rw [wrMemBytes]
    exact (ih (wrMem s a b) (a + 1)).trans rfl

theorem toBytes_length (n v : Nat) : (toBytes n v).length = n := by
  induction n generalizing v with
  | zero => rfl
  | succ n ih => simp [toBytes, ih]

theorem ofBytes_toBytes (n v : Nat) : ofBytes (toBytes n v) = v % 256 ^ n := by
  induction n generalizing v with
  | zero => simp [toBytes, ofBytes, Nat.mod_one]
  | succ n ih =>
    have h : v % 256 ^ (n + 1) = v % 256 + 256 * (v / 256 % 256 ^ n) := by
      rw [Nat.pow_succ, Nat.mul_comm (256 ^ n) 256, Nat.mod_mul]
    simp [toBytes, ofBytes, ih, h]

theorem upFrom_length (a n : Nat) : (upFrom a n).length = n := by
  induction n generalizing a with
  | zero => rfl
  | succ n ih => simp [upFrom, ih]

theorem mem_upFrom (a n x : Nat) : x ∈ upFrom a n ↔ a ≤ x ∧ x < a + n := by
  induction n generalizing a with
  | zero => simp [upFrom]
  | succ n ih => simp only [upFrom, List.mem_cons, ih]; omega

theorem upFrom_getElem? (a n i : Nat) : (upFrom a n)[i]? = if i < n then some (a + i) else none := by
  induction n generalizing a i with
  | zero => simp [upFrom]
  | succ n ih =>
    cases i with
    | zero => simp [upFrom]
    | succ i => simp only [upFrom, List.getElem?_cons_succ, ih]; split <;> split <;> (first | (congr 1; omega) | omega | rfl)

theorem wf_wrMemN {s : State} (a n v : Nat) (h : Memory.wf s.mem = true) : Memory.wf (wrMemN s a n v).mem = true :=
  wf_wrMemBytes _ _ h

theorem wf_reset : Memory.wf State.reset.mem = true := rfl

/-! Folds that leave memory alone. -/

theorem mem_foldl {β : Type} (f : State → β → State) (hf : ∀ s b, (f s b).mem = s.mem) (l : List β) (s : State) :
    (l.foldl f s).mem = s.mem := by
  induction l generalizing s with
  | nil => rfl
  | cons b r ih => exact (ih _).trans (hf _ _)

theorem wf_foldl {β : Type} (f : State → β → State) (hf : ∀ s b, Memory.wf s.mem = true → Memory.wf (f s b).mem = true)
    (l : List β) (s : State) (h : Memory.wf s.mem = true) : Memory.wf (l.foldl f s).mem = true := by
  induction l generalizing s with
  | nil => exact h
  | cons b r ih => exact ih _ (hf _ _ h)

/-! What leaves memory alone. -/

theorem mem_postLate (s : State) (p : Nat) (msg : List Byte) (late : Nat) : (postLate s p msg late).mem = s.mem := by rw [postLate_frame]

theorem mem_postRaw (s : State) (p : Nat) (msg : List Byte) : (postRaw s p msg).mem = s.mem := mem_postLate _ _ _ _

theorem mem_postUnit (s : State) (p c r u : Nat) (i : Word) : (postUnit s p c r u i).mem = s.mem := mem_postRaw _ _ _

theorem mem_postThread (s : State) (k : Nat) (t : Thread) (c : Nat) (i w : Word) : (postThread s k t c i w).mem = s.mem := by
  simp only [postThread]
  split
  · rfl
  · split
    · exact mem_postRaw _ _ _
    · exact mem_postRaw _ _ _

/-- The same as setCtlF_mem, kept from being unfolded. -/
theorem mem_setCtlF (s : State) (a lo n v : Nat) : (setCtlF s a lo n v).mem = s.mem := (fun _ => rfl) ()

theorem mem_wrCtl (s : State) (a : Nat) (v : Word) : (wrCtl s a v).mem = s.mem := (fun _ => rfl) ()

theorem mem_ite (c : Prop) [Decidable c] (a b : State) (m : Tab Byte) (ha : a.mem = m) (hb : b.mem = m) :
    (if c then a else b).mem = m := by
  split
  · exact ha
  · exact hb

theorem mem_logEvent (s : State) (p c r a b : Nat) (i : Word) : (logEvent s p c r a b i).mem = s.mem := rfl

theorem mem_beginEnd (s : State) (k : Nat) : (beginEnd s k).mem = s.mem := by rw [beginEnd_frame]

theorem mem_withdrawWait (s : State) (k : Nat) : (withdrawWait s k).mem = s.mem := by
  simp only [withdrawWait]
  split
  · rfl
  · split
    · rfl
    · split
      · simp only [withdrawGroup]
        split <;> rfl
      all_goals rfl

theorem mem_killMatrix (s : State) (k : Nat) : (killMatrix s k).mem = s.mem := by
  simp only [killMatrix]
  exact mem_foldl _ (fun a q => by split <;> rfl) _ _

theorem mem_killQuiet (s : State) (k : Nat) : (killQuiet s k).mem = s.mem := by
  simp only [killQuiet]
  split
  · rfl
  · split
    · rfl
    · rw [mem_beginEnd]
      simp only [markRivalEnd]
      split <;> exact (mem_killMatrix _ _).trans (mem_withdrawWait _ _)

theorem mem_killThread (s : State) (k c : Nat) (i w : Word) : (killThread s k c i w).mem = s.mem := by
  simp only [killThread]
  split
  · rfl
  · exact (mem_killQuiet _ _).trans (mem_postThread _ _ _ _ _ _)

theorem mem_takeTrap (s : State) (k c : Nat) (i w : Word) : (takeTrap s k c i w).mem = s.mem := by
  simp only [takeTrap]
  split
  · rfl
  · split
    · rfl
    · split
      · exact mem_killThread _ _ _ _ _
      · rfl

theorem mem_retireAt (s : State) (k n c : Nat) (d : Option (Word × Bool)) : (retireAt s k n c d).mem = s.mem := by
  simp only [retireAt]
  split <;> rfl

theorem mem_retire (s : State) (k n : Nat) (b : Bool) (d : Option (Word × Bool)) : (retire s k n b d).mem = s.mem := by
  simp only [retire]
  split
  · rfl
  · split
    · exact (mem_takeTrap _ _ _ _ _).trans (mem_retireAt _ _ _ _ _)
    · exact mem_retireAt _ _ _ _ _

theorem mem_enterWait (s : State) (k n : Nat) (w : WaitReq) : (enterWait s k n w).mem = s.mem := by
  simp only [enterWait]
  split
  · rfl
  · split <;> rfl

theorem mem_enterFault (s : State) (k n c d e a w : Nat) : (enterFault s k n c d e a w).mem = s.mem := by
  simp only [enterFault]
  split
  · rfl
  · split
    · exact mem_takeTrap _ _ _ _ _
    · rw [mem_enterWait, mem_postLate]

theorem mem_putFixed (s : State) (k lat n : Nat) (v : Word) : (putFixed s k lat n v).mem = s.mem := rfl

theorem mem_putScored (s : State) (k due : Nat) (regs : List (Nat × Word)) (tiles : List Nat) :
    (putScored s k due regs tiles).mem = s.mem := rfl

theorem mem_noteStore (s : State) (k : Nat) (g : Put) : (noteStore s k g).mem = s.mem := rfl

theorem mem_logError (s : State) (a i p : Nat) (u : Bool) (c : Nat) : (logError s a i p u c).mem = s.mem := rfl

theorem mem_injectAt (s : State) (a i p : Nat) (l : List Nat) : (injectAt s a i p l).mem = s.mem := by
  simp only [injectAt]
  split <;> rfl

theorem mem_writeArray (s : State) (a i p n : Nat) : (writeArray s a i p n).mem = s.mem := mem_injectAt _ _ _ _ _

theorem mem_dueTrap (s : State) (k c : Nat) (i : Word) : (dueTrap s k c i).mem = s.mem := rfl

theorem mem_holdWb (s : State) (key : Nat) : (holdWb s key).mem = s.mem := mem_ite _ _ _ _ rfl rfl

theorem mem_findEcc {s s1 : State} {a i p : Nat} {u : Bool} (h : findEcc s a i p = some (s1, u)) : s1.mem = s.mem := by
  simp only [findEcc, Option.map_eq_some_iff] at h
  obtain ⟨_, _, h⟩ := h
  cases h
  rfl

theorem mem_readSector (s : State) (w : Option Nat) (p u a i q : Nat) : (readSector s w p u a i q).1.mem = s.mem := by
  simp only [readSector]
  split
  · rfl
  · next s1 ue h =>
    have hl : (logError s1 a i (errAddr s a (q * 32)) ue (errContext w)).mem = s.mem := (mem_logError _ _ _ _ _ _).trans (mem_findEcc h)
    split <;> exact hl

/-- A fold over pairs whose steps keep a property of the first part. -/
theorem foldl_fst {α β : Type} (P : State → Prop) (f : State × α → β → State × α) (hf : ∀ x b, P x.1 → P (f x b).1)
    (l : List β) (x : State × α) (h : P x.1) : P (l.foldl f x).1 := by
  induction l generalizing x with
  | nil => exact h
  | cons b r ih => exact ih _ (hf _ _ h)

theorem mem_readSectors (s : State) (w : Option Nat) (p u a i : Nat) (qs : List Nat) : (readSectors s w p u a i qs).1.mem = s.mem := by
  simp only [readSectors]
  split
  · rfl
  · exact foldl_fst (α := List Nat) (fun x => x.mem = s.mem) _ (fun x b hx => (mem_readSector _ _ _ _ _ _ _).trans hx) qs (s, []) rfl

theorem mem_badEcc (s : State) (b : Tab Bool) : ({ s with badEcc := b } : State).mem = s.mem := rfl

theorem mem_crcCheck (s : State) (loc : Nat) : (crcCheck s loc).1.mem = s.mem := by
  unfold crcCheck
  split <;> rfl

theorem mem_l2Evict (s : State) (e : L2Way) : (l2Evict s e).mem = s.mem := by
  unfold l2Evict
  extract_lets loc u p keys s0 r src s1 s2 s3
  have h1 : s1.mem = s.mem := mem_readSectors _ _ _ _ _ _ _
  have h2 : s2.mem = s.mem := mem_ite _ _ _ _ h1 ((mem_postRaw _ _ _).trans h1)
  exact mem_ite _ _ _ _ (mem_ite _ _ _ _ ((mem_writeArray _ _ _ _ _).trans ((mem_crcCheck _ _).trans h2)) h2)
    (mem_ite _ _ _ _ rfl rfl)

theorem mem_l2Sets (s : State) (b : Tab (List L2Way)) : ({ s with l2Sets := b } : State).mem = s.mem := rfl

theorem mem_l2Use (s : State) (p u loc : Nat) (d k : Bool) : (l2Use s p u loc d k).1.mem = s.mem := by
  unfold l2Use
  extract_lets ways name
  split
  · exact mem_l2Sets _ _
  · split
    · exact mem_l2Sets _ _
    · exact (mem_l2Evict _ _).trans (mem_l2Sets _ _)

theorem mem_l2Fill (s : State) (w : Option Nat) (p u loc : Nat) (qs : List Nat) : (l2Fill s w p u loc qs).1.mem = s.mem := by
  unfold l2Fill
  exact (mem_readSectors _ _ _ _ _ _ _).trans (mem_ite _ _ _ _ (perfBump_mem _ _ _) rfl)

theorem mem_clearPoison (s : State) (p v loc n : Nat) : (clearPoison s p v loc n).mem = s.mem :=
  mem_foldl _ (fun s b => by split <;> rfl) _ _

theorem mem_copies (s : State) (b : Tab Bool) : ({ s with copies := b } : State).mem = s.mem := rfl

/-- What a write does behind its port, beside the bytes: no byte of memory. -/
theorem mem_portWrote (s : State) (p v loc n : Nat) : (portWrote s p v loc n).mem = s.mem := by
  unfold portWrote
  extract_lets s1 r s2
  have h1 : s1.mem = s.mem := mem_clearPoison _ _ _ _ _
  have hr : r.1.mem = s.mem := (mem_l2Use _ _ _ _ _ _).trans ((mem_copies _ _).trans h1)
  have h2 : s2.mem = s.mem := by
    unfold s2
    split
    · exact hr
    · exact (mem_l2Fill _ _ _ _ _ _).trans hr
  clear_value s1 r s2
  split
  · exact (mem_injectAt _ _ _ _ _).trans ((mem_writeArray _ _ _ _ _).trans h2)
  · split <;> exact (mem_writeArray _ _ _ _ _).trans h1

theorem mem_l1Carry (s : State) (key : Nat) (b : Bool) : (l1Carry s key b).mem = s.mem := by
  unfold l1Carry
  split <;> rfl

theorem mem_l1Fill (s : State) (c p v va loc ctx : Nat) : (l1Fill s c p v va loc ctx).mem = s.mem := by
  unfold l1Fill
  extract_lets line pl chain lev s1
  have h1 : s1.mem = s.mem := mem_foldl _ (fun a j => mem_l1Carry _ _ _) _ _
  exact (mem_foldl _ (fun a b => by split <;> rfl) _ _).trans h1

theorem mem_l1d (s : State) (b : Tab L1Byte) : ({ s with l1d := b } : State).mem = s.mem := rfl

theorem mem_l1Bytes (s : State) (c p v ctx : Nat) (l : List Nat) (va : Nat) (bs : List Byte) :
    (l1Bytes s c p v ctx l va bs).mem = s.mem := by
  induction bs generalizing s va with
  | nil => rfl
  | cons b r ih => exact ih _ _

theorem mem_l1Write (s : State) (c p v va ctx : Nat) (bs : List Byte) : (l1Write s c p v va ctx bs).mem = s.mem := by
  unfold l1Write
  extract_lets s1
  exact (mem_l1d s1 _).trans (mem_l1Bytes _ _ _ _ _ _ _ _)

theorem mem_l1Drop (s : State) (key : Nat) : (l1Drop s key).mem = s.mem := rfl

theorem mem_makeVersion (s : State) (c : Option Nat) (p v va loc : Nat) : (makeVersion s c p v va loc).mem = s.mem := by
  unfold makeVersion
  generalize upFrom 0 64 = l64
  generalize upFrom 0 8 = l8
  generalize upFrom 0 2 = l2
  extract_lets pl line byteAt s1 s2
  have h1 : s1.mem = s.mem := by unfold s1; exact mem_foldl _ (by intro _ _; rfl) _ _
  have h2 : s2.mem = s1.mem := by unfold s2; exact mem_foldl _ (by intro _ _; rfl) _ _
  refine mem_ite _ _ _ _ rfl ?_
  exact Eq.trans (mem_foldl _ (by intro _ _; rfl) _ _) (h2.trans h1)

theorem mem_windowWake (s : State) (c : Nat) : (windowWake s c).1.mem = s.mem := by
  simp only [windowWake]
  split
  · split <;> rfl
  · rfl

theorem mem_acquireAt (s : State) (k : Nat) (t : Thread) (n : Nat) : (acquireAt s k t n).1.mem = s.mem := by
  simp only [acquireAt]
  split <;> rfl

theorem mem_quietRead (s : State) (p loc : Nat) : (quietRead s p loc).mem = s.mem := by
  unfold quietRead
  exact mem_ite _ _ _ _ (mem_readSectors _ _ _ _ _ _ _) (mem_readSectors _ _ _ _ _ _ _)

theorem mem_walkReads (s : State) (p v : Nat) : (walkReads s p v).mem = s.mem := by
  unfold walkReads
  exact mem_ite _ _ _ _ rfl (mem_foldl _ (fun a b => mem_quietRead a p b) _ _)

theorem mem_tlbPut (s : State) (port : Nat) (e : TlbEntry) : (tlbPut s port e).mem = s.mem := rfl

theorem mem_tlbNow (s : State) (port : Nat) : (tlbNow s port).mem = s.mem := by
  unfold tlbNow
  split
  · rfl
  · exact mem_foldl _ (fun a e => mem_tlbPut _ _ _) _ _

theorem mem_newWalk (s : State) (port p v : Nat) : (newWalk s port p v).2.2.mem = s.mem :=
  (mem_walkReads _ _ _).trans (mem_ite _ _ _ _ (perfBump_mem _ _ _) rfl)

theorem mem_lookUp (s : State) (port p v : Nat) : (lookUp s port p v).2.2.mem = s.mem := by
  unfold lookUp
  extract_lets s0
  have h0 : s0.mem = s.mem := mem_tlbNow _ _
  split
  · exact h0
  · split
    · exact h0
    · exact (mem_newWalk _ _ _ _).trans h0

/-- What a translation that succeeds leaves, and one that fails: the same memory. -/
theorem mem_granted {v kind loc w : Nat} {s1 : State} {q : Option TlbEntry × Nat × State} (h : granted v kind q = .ok (loc, w, s1)) :
    s1.mem = q.2.2.mem := by
  unfold granted at h
  split at h
  · cases h
  · split at h
    · cases h; rfl
    · cases h

theorem mem_translate {s s1 : State} {port p v kind loc w : Nat} (h : translate s port p v kind = .ok (loc, w, s1)) :
    s1.mem = s.mem := by
  unfold translate at h
  split at h
  · split at h
    · cases h; rfl
    · cases h
  · exact (mem_granted h).trans (mem_lookUp _ _ _ _)

theorem mem_l2Read (s : State) (w : Option Nat) (cl p v loc n : Nat) (keep : Bool) : (l2Read s w cl p v loc n keep).s.mem = s.mem := by
  unfold l2Read
  extract_lets chain u r f e lat c
  have hr : r.1.mem = s.mem := mem_l2Use _ _ _ _ _ _
  have hf : f.1.mem = s.mem := by
    unfold f
    split
    · exact hr
    · exact (mem_l2Fill _ _ _ _ _ _).trans hr
  have he : e.1.mem = s.mem := (mem_readSectors _ _ _ _ _ _ _).trans hf
  have hc : c.1.mem = s.mem := by
    unfold c
    split
    · exact he
    · exact (mem_crcCheck _ _).trans he
  exact mem_ite _ _ _ _ ((mem_copies _ _).trans hc) hc

theorem mem_memRead (s : State) (w : Option Nat) (cl p v loc n : Nat) (far : Bool) : (memRead s w cl p v loc n far).s.mem = s.mem := by
  unfold memRead
  split
  · exact mem_l2Read _ _ _ _ _ _ _ _
  · extract_lets e c
    have he : e.1.mem = s.mem := by unfold e; split <;> exact mem_readSectors _ _ _ _ _ _ _
    show c.1.mem = s.mem
    unfold c
    split
    · exact (mem_crcCheck _ _).trans he
    · exact he

/-! The canonical form through the stores. -/

theorem wf_wrVersion {s : State} (p v loc : Nat) (b : Byte) (h : Memory.wf s.mem = true) :
    Memory.wf (wrVersion s p v loc b).mem = true := by
  simp only [wrVersion]
  split
  · exact wf_wrMem _ _ h
  · split
    · exact wf_wrMem _ _ h
    · exact h

theorem wf_wrVersionBytes {s : State} (p v loc : Nat) (bs : List Byte) (h : Memory.wf s.mem = true) :
    Memory.wf (wrVersionBytes s p v loc bs).mem = true := by
  induction bs generalizing s loc with
  | nil => exact h
  | cons b r ih => exact ih _ (wf_wrVersion _ _ _ _ h)

theorem wf_poisonHome {s : State} (p loc src unit : Nat) (bs : List Byte) (h : Memory.wf s.mem = true) :
    Memory.wf (poisonHome s p loc src unit bs).mem = true := by
  simp only [poisonHome, mem_postUnit]
  exact wf_wrMemBytes _ _ h

theorem wf_of_mem {s s1 : State} (e : s1.mem = s.mem) (h : Memory.wf s.mem = true) : Memory.wf s1.mem = true := e.symm ▸ h

theorem wf_ite {c : Prop} [Decidable c] {a b : State} (ha : Memory.wf a.mem = true) (hb : Memory.wf b.mem = true) :
    Memory.wf (if c then a else b).mem = true := by
  split
  · exact ha
  · exact hb

/-! Write-backs. -/

theorem wf_traceWrite {s : State} (slice : Nat) (w : WriteBack) (h : Memory.wf s.mem = true) :
    Memory.wf (traceWrite s slice w).mem = true := by
  unfold traceWrite
  exact wf_wrMemBytes _ _ h

theorem wf_traceLog {s : State} (slice : Nat) (w : WriteBack) (h : Memory.wf s.mem = true) :
    Memory.wf (traceLog s slice w).mem = true := by
  unfold traceLog
  exact wf_ite (wf_traceWrite _ _ h) (wf_traceWrite _ _ h)

/-- The state that a write-back on its way leaves, whatever becomes of it. -/
def traceState : TraceAct → State
  | .go s => s
  | .held s _ => s
  | .diverge s _ => s
  | .failed s _ => s

theorem wf_traceJudge {s : State} (line : Nat) (w : WriteBack) (hits : List WriteBack) (h : Memory.wf s.mem = true) :
    Memory.wf (traceState (traceJudge s line w hits)).mem = true := by
  have hf (l : List WriteBack) (slice : Nat) : Memory.wf (l.foldl (fun a o => traceLog a slice o) s).mem = true :=
    wf_foldl _ (fun a b hb => wf_traceLog _ _ hb) _ _ h
  unfold traceJudge
  extract_lets slice fresh next s1
  split
  · exact h
  · split
    · split
      · exact h
      · exact hf _ _
    · split
      · split
        · exact h
        · split <;> exact h
      · exact h

theorem wf_traceCheck {s : State} (key line : Nat) (w : WriteBack) (h : Memory.wf s.mem = true) :
    Memory.wf (traceState (traceCheck s key line w)).mem = true := by
  unfold traceCheck
  split
  · next q _ =>
    have hj := wf_traceJudge line q.1 q.2 h
    split
    · next h1 => exact (congrArg (fun r => Memory.wf (traceState r).mem = true) h1).mp hj
    · exact hj
  · extract_lets hits s1
    have h1 : Memory.wf s1.mem = true := by
      unfold s1
      split
      · exact wf_of_mem (perfBump_mem _ _ _) h
      · exact h
    have hj := wf_traceJudge line w hits h1
    split
    · next h2 => exact (congrArg (fun r => Memory.wf (traceState r).mem = true) h2).mp hj
    · exact hj

theorem mem_dirtyErrors (s : State) (c : Nat) (l : List Nat) : (dirtyErrors s c l).1.mem = s.mem := by
  unfold dirtyErrors
  split
  · rfl
  · refine foldl_fst (fun x => x.mem = s.mem) _ (fun x b hx => ?_) l (s, []) rfl
    split
    · exact hx
    · next hf =>
      split
      · exact (mem_findEcc hf).trans hx
      · exact (mem_logError _ _ _ _ _ _).trans ((mem_findEcc hf).trans hx)

theorem mem_ownerError (s : State) (c p v ctx va q : Nat) : (ownerError s c p v ctx va q).mem = s.mem := by
  unfold ownerError
  extract_lets k live s1
  have h1 : s1.mem = s.mem := mem_logError _ _ _ _ _ _
  exact mem_ite _ _ _ _ ((modThr_mem _ _ _).trans h1) ((mem_postRaw _ _ _).trans h1)

theorem wf_wbPerform {s : State} (key loc : Nat) (dirty bad : List Nat) (h : Memory.wf s.mem = true) :
    Memory.wf (wbPerform s key loc dirty bad).mem = true := by
  unfold wbPerform
  extract_lets c p v a halves e lost carried owned s2 s3 s4 s5
  have he : Memory.wf e.1.mem = true := wf_of_mem (mem_dirtyErrors _ _ _) h
  have h2 : Memory.wf s2.mem = true := wf_of_mem (mem_makeVersion _ _ _ _ _ _) he
  have h3 : Memory.wf s3.mem = true := by
    refine wf_foldl _ (fun m x hm => ?_) _ _ h2
    split
    · exact wf_wrVersion _ _ _ _ hm
    · exact hm
  have h4 : Memory.wf s4.mem = true := wf_foldl _ (fun m x hm => wf_of_mem (mem_portWrote _ _ _ _ _) hm) _ _ h3
  have h5 : Memory.wf s5.mem = true := by
    unfold s5
    exact wf_of_mem (mem_foldl _ (by intro _ _; rfl) _ _) h4
  clear_value s5
  split
  · exact wf_of_mem (mem_ownerError _ _ _ _ _ _ _) h5
  · exact h5

/-- A write-back, whatever becomes of it, keeps the canonical form. -/
theorem wf_wbBad {s : State} (key i : Nat) (bad : List Nat) (h : Memory.wf s.mem = true) :
    Memory.wf (traceState (wbBad s key i bad).1).mem = true := by
  unfold wbBad
  extract_lets c p v a s0 dirty
  have h0 : Memory.wf s0.mem = true := wf_of_mem (mem_ite _ _ _ _ (mem_walkReads _ _ _) rfl) h
  clear_value s0
  split
  · exact h0
  · next loc _ =>
    extract_lets x fig at_
    have hx : Memory.wf x.1.mem = true := by
      unfold x
      split
      · exact h0
      · exact wf_of_mem (mem_crcCheck _ _) h0
    split
    · exact h0
    · next i0 _ =>
      extract_lets ctx
      split
      · exact hx
      · have ht := wf_traceCheck key (l2Line p v loc) ⟨c, ctx, loc + i0, dirty.length, at_, stampAt s at_, false⟩ hx
        split
        · next h1 => exact wf_wbPerform _ _ _ _ ((congrArg (fun r => Memory.wf (traceState r).mem = true) h1).mp ht)
        · exact ht

theorem wf_l1Evict {s : State} (key : Nat) (h : Memory.wf s.mem = true) : Memory.wf (l1Evict s key).mem = true := by
  have hw := wf_wbBad key 0 [] h
  unfold l1Evict wbLine
  split <;> next he =>
    rw [he] at hw
    first
      | exact wf_ite hw hw
      | exact wf_of_mem (mem_holdWb _ _) hw
      | exact wf_of_mem (mem_dueTrap _ _ _ _) hw

theorem wf_l1Use {s : State} (key : Nat) (keep : Bool) (h : Memory.wf s.mem = true) : Memory.wf (l1Use s key keep).mem = true := by
  unfold l1Use
  extract_lets c a ways held rest s1
  have h1 : Memory.wf s1.mem = true := h
  split
  · exact h1
  · split
    · exact wf_l1Evict _ h1
    · exact h1

theorem wf_l1Take {s : State} (k c p v va loc : Nat) (keep : Bool) (h : Memory.wf s.mem = true) :
    Memory.wf (l1Take s k c p v va loc keep).mem = true := by
  unfold l1Take
  extract_lets lev s1
  have h1 : s1.mem = s.mem := mem_ite _ _ _ _ rfl (mem_writeArray _ _ _ _ _)
  exact wf_l1Use _ _ (wf_of_mem ((mem_injectAt _ _ _ _ _).trans ((mem_l1Fill _ _ _ _ _ _ _).trans h1)) h)

theorem wf_prefetchLine {s : State} (k c p v va : Nat) (h : Memory.wf s.mem = true) :
    Memory.wf (prefetchLine s k c p v va).mem = true := by
  unfold prefetchLine
  split
  · exact h
  · split
    · exact h
    · next ht =>
      have h1 := wf_of_mem (mem_translate ht) h
      split
      · exact h
      · exact wf_l1Take _ _ _ _ _ _ _ (wf_of_mem (mem_l2Read _ _ _ _ _ _ _ _) h1)

theorem wf_prefetchGranule {s : State} (port p v va : Nat) (h : Memory.wf s.mem = true) :
    Memory.wf (prefetchGranule s port p v va).mem = true := by
  unfold prefetchGranule
  split
  · exact h
  · split
    · exact h
    · next ht =>
      have h1 := wf_of_mem (mem_translate ht) h
      split
      · exact h
      · exact wf_foldl _ (fun a b ha => wf_of_mem (mem_l2Read _ _ _ _ _ _ _ _) ha) _ _ h1

theorem wf_afterHint {s : State} (k p v va : Nat) (loc : Option Nat) (h : Memory.wf s.mem = true) :
    Memory.wf (afterHint s k p v va loc).mem = true := by
  unfold afterHint
  extract_lets c
  split
  · exact wf_ite h (wf_prefetchLine _ _ _ _ _ h)
  · exact wf_prefetchGranule _ _ _ _ h
  · split
    · exact wf_l1Evict _ h
    · exact h
  · split
    · exact wf_ite (wf_of_mem (mem_l2Use _ _ _ _ _ _) h) h
    · exact h
  · exact h

/-! Stores. -/

theorem wf_l1Store {s : State} (k c p v va : Nat) (bs : List Byte) (h : Memory.wf s.mem = true) :
    Memory.wf (l1Store s k c p v va bs).mem = true := by
  unfold l1Store
  extract_lets s1 s2
  have h1 : Memory.wf s1.mem = true := wf_of_mem ((mem_injectAt _ _ _ _ _).trans ((mem_writeArray _ _ _ _ _).trans (mem_l1Write _ _ _ _ _ _ _))) h
  have h2 : Memory.wf s2.mem = true := wf_l1Use _ _ h1
  exact wf_ite (wf_l1Evict _ h2) (wf_afterHint _ _ _ _ _ h2)

theorem wf_dramStore {s : State} {k : Nat} {t : Thread} {v va size : Nat} {bs : List Byte} {g : Put}
    (h : Memory.wf s.mem = true) (hg : dramStore s k t v va size bs = .ok g) : Memory.wf g.s.mem = true := by
  unfold dramStore at hg
  extract_lets p c at hg
  split at hg
  · split at hg
    · cases hg
    · next loc w s1 ht =>
      split at hg
      · cases hg
      · cases hg
        exact wf_afterHint _ _ _ _ _ (wf_of_mem (mem_portWrote _ _ _ _ _) (wf_wrMemBytes _ _ (wf_of_mem (mem_translate ht) h)))
  · split at hg
    · cases hg
      exact wf_l1Store _ _ _ _ _ _ h
    · split at hg
      · cases hg
      · next loc w s1 ht =>
        split at hg
        · cases hg
        · cases hg
          exact wf_l1Store _ _ _ _ _ _ (wf_of_mem ((mem_makeVersion _ _ _ _ _ _).trans (mem_translate ht)) h)

/-! Stores to device control space, and the stores as a whole. -/

theorem mem_due (s : State) (due : Nat) (i : Instr) : (sched s due i).mem = s.mem := (fun _ => rfl) ()

theorem rfl_mem (s : State) : s.mem = s.mem := rfl

theorem mem_cycleStore (s : State) (o : Nat) (v : Word) : (cycleStore s o v).mem = s.mem := by
  unfold cycleStore
  dsimp only
  repeat' (first | with_reducible exact rfl_mem _ | with_reducible refine mem_ite _ _ _ _ ?_ ?_)
  all_goals simp only [mem_due, mem_setCtlF, mem_wrCtl]

theorem mem_ptpStore (s : State) (o : Nat) (v : Word) : (ptpStore s o v).mem = s.mem := by
  unfold ptpStore
  dsimp only
  repeat' (first | with_reducible exact rfl_mem _ | with_reducible refine mem_ite _ _ _ _ ?_ ?_ | split)
  all_goals simp only [mem_due, mem_wrCtl]

theorem mem_testaStore (s : State) (o : Nat) (v : Word) : (testaStore s o v).mem = s.mem := by
  unfold testaStore
  dsimp only
  repeat' (first | with_reducible exact rfl_mem _ | with_reducible refine mem_ite _ _ _ _ ?_ ?_ | split)
  all_goals simp only [mem_wrCtl]

theorem mem_bootStore (s : State) (o : Nat) (v : Word) : (bootStore s o v).mem = s.mem := by
  unfold bootStore
  repeat' (first | with_reducible exact rfl_mem _ | with_reducible refine mem_ite _ _ _ _ ?_ ?_ | split)
  all_goals simp only [mem_due, mem_wrCtl]

theorem mem_chainApply (s : State) (a : Nat) (v : Word) : (chainApply s a v).mem = s.mem := by
  unfold chainApply
  extract_lets n o off
  clear_value n o off
  repeat' (first | with_reducible exact rfl_mem _ | with_reducible refine mem_ite _ _ _ _ ?_ ?_ | split)
  all_goals simp only [mem_due, mem_setCtlF, mem_wrCtl]

theorem mem_chainStore (s : State) (a : Nat) (v : Word) : (chainStore s a v).mem = s.mem := rfl

theorem mem_partStore (s : State) (p o : Nat) (v : Word) : (partStore s p o v).mem = s.mem := by
  unfold partStore
  dsimp only
  repeat' (first | with_reducible exact rfl_mem _ | with_reducible refine mem_ite _ _ _ _ ?_ ?_ | split)
  all_goals simp only [mem_due, mem_setCtlF, mem_wrCtl, poolRefresh]

theorem mem_chanStore (s : State) (p c o : Nat) (v : Word) : (chanStore s p c o v).mem = s.mem := by
  unfold chanStore
  dsimp only
  repeat' (first | with_reducible exact rfl_mem _ | with_reducible refine mem_ite _ _ _ _ ?_ ?_ | split)
  all_goals simp only [unsched_mem, mem_wrCtl]

theorem mem_twinStore (s : State) (p e o : Nat) (v : Word) : (twinStore s p e o v).mem = s.mem := by
  unfold twinStore
  dsimp only
  repeat' (first | with_reducible exact rfl_mem _ | with_reducible refine mem_ite _ _ _ _ ?_ ?_ | split)
  all_goals simp only [mem_setCtlF, mem_wrCtl]

theorem mem_regionStore (s : State) (p i o : Nat) (v : Word) : (regionStore s p i o v).mem = s.mem := by
  unfold regionStore
  extract_lets e lo hi obj sp overlaps bad
  exact mem_ite _ _ _ _ rfl (mem_wrCtl _ _ _)

theorem mem_streamStore (s : State) (o : Nat) (v : Word) : (streamStore s o v).mem = s.mem := by
  unfold streamStore
  dsimp only
  repeat' (first | with_reducible exact rfl_mem _ | with_reducible refine mem_ite _ _ _ _ ?_ ?_ | split)
  all_goals simp only [mem_due, mem_wrCtl]

theorem mem_portStore (s : State) (p o : Nat) (v : Word) : (portStore s p o v).mem = s.mem := by
  unfold portStore
  dsimp only
  repeat' (first | with_reducible exact rfl_mem _ | with_reducible refine mem_ite _ _ _ _ ?_ ?_ | split)
  all_goals simp only [mem_due, mem_wrCtl]

theorem mem_egressStore (s : State) (a : Nat) (v : Word) : (egressStore s a v).mem = s.mem := by
  unfold egressStore
  repeat' (first | with_reducible exact rfl_mem _ | with_reducible refine mem_ite _ _ _ _ ?_ ?_ | split)
  all_goals simp only [mem_wrCtl]

/-- A store to device control space writes no byte of memory. -/
theorem mem_ctlStore (s : State) (a : Nat) (v : Word) : (ctlStore s a v).mem = s.mem := by
  unfold ctlStore
  dsimp only
  repeat' (with_reducible refine mem_ite _ _ _ _ ?_ ?_)
  all_goals first
    | with_reducible exact rfl_mem _
    | with_reducible exact mem_cycleStore _ _ _
    | with_reducible exact mem_ptpStore _ _ _
    | with_reducible exact mem_testaStore _ _ _
    | with_reducible exact mem_bootStore _ _ _
    | with_reducible exact mem_wrCtl _ _ _
    | with_reducible exact mem_chainStore _ _ _
    | with_reducible exact mem_partStore _ _ _ _
    | with_reducible exact mem_chanStore _ _ _ _ _
    | with_reducible exact mem_twinStore _ _ _ _ _
    | with_reducible exact mem_regionStore _ _ _ _ _
    | with_reducible exact mem_streamStore _ _ _
    | with_reducible exact mem_portStore _ _ _ _
    | with_reducible exact mem_egressStore _ _ _

theorem mem_holdOp {s s1 : State} {p v : Nat} {op : OutOp} (h : holdOp s p v op = some s1) : s1.mem = s.mem := by
  simp only [holdOp] at h
  split at h
  · cases h
  · cases h; rfl

theorem wf_hold {s : State} {p v : Nat} {op : OutOp} {g : Put} {e : Bad} (h : Memory.wf s.mem = true)
    (hg : (match holdOp s p v op with
      | none => (.error e : Except Bad Put)
      | some s1 => .ok ⟨s1, 0, false⟩) = .ok g) : Memory.wf g.s.mem = true := by
  split at hg
  · cases hg
  · next ho => cases hg; exact (mem_holdOp ho) ▸ h

theorem wf_portStore {s : State} (p v loc n : Nat) (bs : List Byte) (h : Memory.wf s.mem = true) :
    Memory.wf (portWrote (wrVersionBytes (makeVersion s none p v loc loc) p v loc bs) p v loc n).mem = true :=
  wf_of_mem (mem_portWrote _ _ _ _ _) (wf_wrVersionBytes _ _ _ _ (wf_of_mem (mem_makeVersion _ _ _ _ _ _) h))

theorem wf_storePiece {s : State} {k : Nat} {t : Thread} {v : Nat} {ptr : Word} {size a : Nat} {bs : List Byte} {g : Put}
    (h : Memory.wf s.mem = true) (hg : storePiece s k t v ptr size a bs = .ok g) : Memory.wf g.s.mem = true := by
  unfold storePiece at hg
  extract_lets n p hold at hg
  have hh : ∀ u, hold u = .ok g → Memory.wf g.s.mem = true := fun u hu => wf_hold h hu
  split at hg
  · cases hg
  · exact wf_dramStore h hg
  · split at hg
    · cases hg
    · split at hg
      · exact hh () hg
      · cases hg; exact wf_of_mem (mem_ctlStore _ _ _) h
  · extract_lets loc w fig x u s1 at hg
    have hw : Memory.wf w.1.mem = true := by
      unfold w
      split
      · exact wf_of_mem (mem_windowWake _ _) h
      · exact h
    have hx : Memory.wf x.1.mem = true := by
      unfold x
      split
      · exact hw
      · exact wf_of_mem (mem_crcCheck _ _) hw
    split at hg
    · exact hh () hg
    · split at hg
      · cases hg
      · cases hg; exact wf_portStore _ _ _ _ _ hx

theorem wf_storeParts {s : State} {k : Nat} {t : Thread} {v : Nat} {ptr : Word} {size : Nat} {l : List (Nat × Nat)}
    {bs : List Byte} {g : Put} (h : Memory.wf s.mem = true) (hg : storeParts s k t v ptr size l bs = .ok g) :
    Memory.wf g.s.mem = true := by
  induction l generalizing s bs g with
  | nil => cases hg; exact h
  | cons q r ih =>
    obtain ⟨a, n⟩ := q
    simp only [storeParts] at hg
    split at hg
    · cases hg
    · next g1 h1 =>
      split at hg
      · cases hg
      · next g2 h2 => cases hg; exact ih (g := g2) (wf_storePiece h h1) h2

/-- A store through a pointer, wherever it goes, keeps the canonical form. -/
theorem wf_storePtr {s : State} {k : Nat} {t : Thread} {ptr : Word} {bs : List Byte} {need : Rights} {g : Put}
    (h : Memory.wf s.mem = true) (hg : storePtr s k t ptr bs need = .ok g) : Memory.wf g.s.mem = true := by
  simp only [storePtr] at hg
  split at hg
  · cases hg
  · simp only [storeRange, storeElemsRange] at hg
    split at hg
    · cases hg
    · split at hg
      · cases hg
      · next hp => cases hg; exact wf_storeParts h hp

theorem wf_setWord {w : PortWord} (p n v : Nat) (h : Memory.wf w.s.mem = true) : Memory.wf (setWord w p n v).mem = true :=
  wf_of_mem (mem_portWrote _ _ _ _ _) (wf_wrVersionBytes _ _ _ _ (wf_of_mem (mem_makeVersion _ _ _ _ _ _) h))

end Sys2Proof.Machine
end

