-- ==== Sys2Proof/Laws/PerInstr.lean ====
section
/-! SUPPORT. The family Rebuild: the decoder's table builds every instruction back from the opcode, the operand bits and the
tail that the encoder's table gives it. -/

namespace Sys2Proof.Laws

open Sys2Proof.Machine

theorem extract_low {w n : Nat} (x : BitVec w) (y : BitVec n) : (x ++ y).extractLsb' 0 n = y := by
  ext i hi
  simp [BitVec.getLsbD_append, hi]

theorem extract_high {w n : Nat} (x : BitVec w) (y : BitVec n) (s m : Nat) :
    (x ++ y).extractLsb' (n + s) m = x.extractLsb' s m := by
  ext i hi
  simp [BitVec.getLsbD_append, show ¬ (n + s + i < n) by omega, show n + s + i - n = s + i by omega]

theorem extract_all {n : Nat} (x : BitVec n) : x.extractLsb' 0 n = x := by
  ext i hi
  simp

theorem bit_high {w n : Nat} (x : BitVec w) (y : BitVec n) (s : Nat) : (x ++ y).getLsbD (n + s) = x.getLsbD s := by
  simp [BitVec.getLsbD_append]

theorem top_bit (q : Bool) (a b c : BitVec 7) : (BitVec.ofBool q ++ a ++ b ++ c : BitVec 22).getLsbD 21 = q :=
  (bit_high (BitVec.ofBool q ++ a ++ b) c 14).trans ((bit_high (BitVec.ofBool q ++ a) b 7).trans
    ((bit_high (BitVec.ofBool q) a 0).trans (by simp)))

theorem rForm_rBody (f : RForm) : rForm (rBody f) f.t = f := by
  obtain ⟨d, a, b, q, t⟩ := f
  have h1 : (BitVec.ofBool q ++ b ++ a ++ d : BitVec 22).extractLsb' 0 7 = d := extract_low _ _
  have h2 : (BitVec.ofBool q ++ b ++ a ++ d : BitVec 22).extractLsb' 7 7 = a :=
    (extract_high (BitVec.ofBool q ++ b ++ a) d 0 7).trans (extract_low _ _)
  have h3 : (BitVec.ofBool q ++ b ++ a ++ d : BitVec 22).extractLsb' 14 7 = b :=
    (extract_high (BitVec.ofBool q ++ b ++ a) d 7 7).trans ((extract_high (BitVec.ofBool q ++ b) a 0 7).trans (extract_low _ _))
  simp only [rForm, rBody, h1, h2, h3, top_bit]

theorem mForm_mBody (f : MForm) : mForm (mBody f) f.t = f := by
  obtain ⟨d, a, b, q, t⟩ := f
  have h := rForm_rBody ⟨d, a, b, q, t⟩
  simp only [rForm, rBody, RForm.mk.injEq] at h
  simp only [mForm, mBody, h]

theorem bForm_bBody (f : BForm) : bForm (bBody f) f.t = f := by
  obtain ⟨a, b, o, t⟩ := f
  have h1 : (o ++ b ++ a : BitVec 22).extractLsb' 0 7 = a := extract_low _ _
  have h2 : (o ++ b ++ a : BitVec 22).extractLsb' 7 7 = b := (extract_high (o ++ b) a 0 7).trans (extract_low _ _)
  have h3 : (o ++ b ++ a : BitVec 22).extractLsb' 14 8 = o :=
    (extract_high (o ++ b) a 7 8).trans ((extract_high o b 0 8).trans (extract_all _))
  simp only [bForm, bBody, h1, h2, h3]

theorem xForm_xBody (f : XForm) : xForm (xBody f) f.t = f := by
  obtain ⟨d, a, o, t⟩ := f
  have h := bForm_bBody ⟨d, a, o, t⟩
  simp only [bForm, bBody, BForm.mk.injEq] at h
  simp only [xForm, xBody, h]

theorem lForm_lBody (f : LForm) : lForm (lBody f) f.t = f := by
  obtain ⟨d, o, t⟩ := f
  have h1 : (o ++ d : BitVec 22).extractLsb' 0 7 = d := extract_low _ _
  have h2 : (o ++ d : BitVec 22).extractLsb' 7 15 = o := (extract_high o d 0 15).trans (extract_all _)
  simp only [lForm, lBody, h1, h2]
/-- The operand bits carry Q in their highest. -/
theorem rBody_q (f : RForm) : (rBody f).getLsbD 21 = f.q := top_bit f.q f.b f.a f.d
theorem mBody_q (f : MForm) : (mBody f).getLsbD 21 = f.q := top_bit f.q f.disp f.a f.d


/-- The decoder's table gives an instruction back from what the encoder's table makes of it, where Q and MOD are of a form its
entry has. -/
def Rebuild.Statement (i : Instr) : Prop :=
  ∀ e, enc i = some e → (e.q = true ∨ e.body.getLsbD 21 = false) → e.mods = true → build e.op e.body e.tail = some i

/-- An instruction without an encoding. -/
theorem Rebuild.none_of {i : Instr} (h : enc i = none) : Rebuild.Statement i := by
  intro e he
  rw [h] at he
  cases he

/-- An instruction whose opcode has one row. -/
theorem Rebuild.plain (op : BitVec 8) {i j : Instr} {e : Enc} (he : enc i = some e) (ho : e.op = op)
    (hb : build op e.body e.tail = some j) (hj : j = i) : Rebuild.Statement i := by
  intro e' h' _ _
  rw [he] at h'
  cases h'
  rw [ho, hb, hj]

theorem Rebuild.add (f : RForm) : Rebuild.Statement (.add f) := Rebuild.plain 0x01 rfl rfl rfl (congrArg Instr.add (rForm_rBody f))
theorem Rebuild.sub (f : RForm) : Rebuild.Statement (.sub f) := Rebuild.plain 0x02 rfl rfl rfl (congrArg Instr.sub (rForm_rBody f))
theorem Rebuild.mul (f : RForm) : Rebuild.Statement (.mul f) := Rebuild.plain 0x03 rfl rfl rfl (congrArg Instr.mul (rForm_rBody f))
theorem Rebuild.mulh (f : RForm) : Rebuild.Statement (.mulh f) := Rebuild.plain 0x04 rfl rfl rfl (congrArg Instr.mulh (rForm_rBody f))
theorem Rebuild.div (f : RForm) : Rebuild.Statement (.div f) := Rebuild.plain 0x05 rfl rfl rfl (congrArg Instr.div (rForm_rBody f))
theorem Rebuild.rem (f : RForm) : Rebuild.Statement (.rem f) := Rebuild.plain 0x06 rfl rfl rfl (congrArg Instr.rem (rForm_rBody f))
theorem Rebuild.and (f : RForm) : Rebuild.Statement (.and f) := Rebuild.plain 0x07 rfl rfl rfl (congrArg Instr.and (rForm_rBody f))
theorem Rebuild.or (f : RForm) : Rebuild.Statement (.or f) := Rebuild.plain 0x08 rfl rfl rfl (congrArg Instr.or (rForm_rBody f))
theorem Rebuild.xor (f : RForm) : Rebuild.Statement (.xor f) := Rebuild.plain 0x09 rfl rfl rfl (congrArg Instr.xor (rForm_rBody f))
theorem Rebuild.shl (f : RForm) : Rebuild.Statement (.shl f) := Rebuild.plain 0x0A rfl rfl rfl (congrArg Instr.shl (rForm_rBody f))
theorem Rebuild.shr (f : RForm) : Rebuild.Statement (.shr f) := Rebuild.plain 0x0B rfl rfl rfl (congrArg Instr.shr (rForm_rBody f))
theorem Rebuild.sar (f : RForm) : Rebuild.Statement (.sar f) := Rebuild.plain 0x0C rfl rfl rfl (congrArg Instr.sar (rForm_rBody f))
theorem Rebuild.min (f : RForm) : Rebuild.Statement (.min f) := Rebuild.plain 0x10 rfl rfl rfl (congrArg Instr.min (rForm_rBody f))
theorem Rebuild.max (f : RForm) : Rebuild.Statement (.max f) := Rebuild.plain 0x11 rfl rfl rfl (congrArg Instr.max (rForm_rBody f))
theorem Rebuild.slt (f : RForm) : Rebuild.Statement (.slt f) := Rebuild.plain 0x12 rfl rfl rfl (congrArg Instr.slt (rForm_rBody f))
theorem Rebuild.sel (f : RForm) : Rebuild.Statement (.sel f) := Rebuild.plain 0x13 rfl rfl rfl (congrArg Instr.sel (rForm_rBody f))
theorem Rebuild.addsat (f : RForm) : Rebuild.Statement (.addsat f) := Rebuild.plain 0x14 rfl rfl rfl (congrArg Instr.addsat (rForm_rBody f))
theorem Rebuild.subsat (f : RForm) : Rebuild.Statement (.subsat f) := Rebuild.plain 0x15 rfl rfl rfl (congrArg Instr.subsat (rForm_rBody f))
theorem Rebuild.clz (f : RForm) : Rebuild.Statement (.clz f) := Rebuild.plain 0x16 rfl rfl rfl (congrArg Instr.clz (rForm_rBody f))
theorem Rebuild.bext (f : RForm) : Rebuild.Statement (.bext f) := Rebuild.plain 0x17 rfl rfl rfl (congrArg Instr.bext (rForm_rBody f))
theorem Rebuild.bins (f : RForm) : Rebuild.Statement (.bins f) := Rebuild.plain 0x18 rfl rfl rfl (congrArg Instr.bins (rForm_rBody f))
theorem Rebuild.lea (f : RForm) : Rebuild.Statement (.lea f) := Rebuild.plain 0x19 rfl rfl rfl (congrArg Instr.lea (rForm_rBody f))
theorem Rebuild.li (f : LForm) : Rebuild.Statement (.li f) := Rebuild.plain 0x1A rfl rfl rfl (congrArg Instr.li (lForm_lBody f))
theorem Rebuild.fadd (f : RForm) : Rebuild.Statement (.fadd f) := Rebuild.plain 0x20 rfl rfl rfl (congrArg Instr.fadd (rForm_rBody f))
theorem Rebuild.fsub (f : RForm) : Rebuild.Statement (.fsub f) := Rebuild.plain 0x21 rfl rfl rfl (congrArg Instr.fsub (rForm_rBody f))
theorem Rebuild.fmul (f : RForm) : Rebuild.Statement (.fmul f) := Rebuild.plain 0x22 rfl rfl rfl (congrArg Instr.fmul (rForm_rBody f))
theorem Rebuild.ffma (f : RForm) : Rebuild.Statement (.ffma f) := Rebuild.plain 0x23 rfl rfl rfl (congrArg Instr.ffma (rForm_rBody f))
theorem Rebuild.fdiv (f : RForm) : Rebuild.Statement (.fdiv f) := Rebuild.plain 0x24 rfl rfl rfl (congrArg Instr.fdiv (rForm_rBody f))
theorem Rebuild.fsqrt (f : RForm) : Rebuild.Statement (.fsqrt f) := Rebuild.plain 0x25 rfl rfl rfl (congrArg Instr.fsqrt (rForm_rBody f))
theorem Rebuild.fmin (f : RForm) : Rebuild.Statement (.fmin f) := Rebuild.plain 0x26 rfl rfl rfl (congrArg Instr.fmin (rForm_rBody f))
theorem Rebuild.fmax (f : RForm) : Rebuild.Statement (.fmax f) := Rebuild.plain 0x27 rfl rfl rfl (congrArg Instr.fmax (rForm_rBody f))
theorem Rebuild.flt (f : RForm) : Rebuild.Statement (.flt f) := Rebuild.plain 0x28 rfl rfl rfl (congrArg Instr.flt (rForm_rBody f))
theorem Rebuild.fcvt (f : RForm) : Rebuild.Statement (.fcvt f) := Rebuild.plain 0x29 rfl rfl rfl (congrArg Instr.fcvt (rForm_rBody f))
theorem Rebuild.beq (f : BForm) : Rebuild.Statement (.beq f) := Rebuild.plain 0x30 rfl rfl rfl (congrArg Instr.beq (bForm_bBody f))
theorem Rebuild.bne (f : BForm) : Rebuild.Statement (.bne f) := Rebuild.plain 0x31 rfl rfl rfl (congrArg Instr.bne (bForm_bBody f))
theorem Rebuild.blt (f : BForm) : Rebuild.Statement (.blt f) := Rebuild.plain 0x32 rfl rfl rfl (congrArg Instr.blt (bForm_bBody f))
theorem Rebuild.bge (f : BForm) : Rebuild.Statement (.bge f) := Rebuild.plain 0x33 rfl rfl rfl (congrArg Instr.bge (bForm_bBody f))
theorem Rebuild.jmp (f : JForm) : Rebuild.Statement (.jmp f) := Rebuild.plain 0x34 rfl rfl rfl rfl
theorem Rebuild.jal (f : JForm) : Rebuild.Statement (.jal f) := Rebuild.plain 0x35 rfl rfl rfl rfl
theorem Rebuild.jr (f : RForm) : Rebuild.Statement (.jr f) := by
  intro e h hq _
  cases (show some _ = some e from h)
  have hq : ¬ (rBody f).getLsbD 21 = true := by simpa [rEnc, mEnc] using hq
  change build 0x36 (rBody f) f.t = _
  exact congrArg some ((if_neg hq).trans (congrArg Instr.jr (rForm_rBody f)))
theorem Rebuild.jrLink (f : RForm) : Rebuild.Statement (.jrLink f) := by
  intro e h _ _
  rw [enc] at h
  split at h
  · next hq =>
    cases h
    change build 0x36 (rBody f) f.t = _
    exact congrArg some ((if_pos ((rBody_q f).trans hq)).trans (congrArg Instr.jrLink (rForm_rBody f)))
  · cases h
theorem Rebuild.loop (f : MForm) : Rebuild.Statement (.loop f) := Rebuild.plain 0x37 rfl rfl rfl (congrArg Instr.loop (mForm_mBody f))
theorem Rebuild.nop (f : ZForm) : Rebuild.Statement (.nop f) := Rebuild.plain 0x38 rfl rfl rfl rfl
theorem Rebuild.tend (f : ZForm) : Rebuild.Statement (.tend f) := Rebuild.plain 0x39 rfl rfl rfl rfl
theorem Rebuild.trap (f : MForm) : Rebuild.Statement (.trap f) := by
  intro e h hq _
  cases (show some _ = some e from h)
  have hq : ¬ (mBody f).getLsbD 21 = true := by simpa [rEnc, mEnc] using hq
  change build 0x3A (mBody f) f.t = _
  exact congrArg some ((if_neg hq).trans (congrArg Instr.trap (mForm_mBody f)))
theorem Rebuild.brk (f : MForm) : Rebuild.Statement (.brk f) := by
  intro e h _ _
  rw [enc] at h
  split at h
  · next hq =>
    cases h
    change build 0x3A (mBody f) f.t = _
    exact congrArg some ((if_pos ((mBody_q f).trans hq)).trans (congrArg Instr.brk (mForm_mBody f)))
  · cases h
theorem Rebuild.eret (f : ZForm) : Rebuild.Statement (.eret f) := Rebuild.plain 0x3B rfl rfl rfl rfl
theorem Rebuild.uiret (f : ZForm) : Rebuild.Statement (.uiret f) := Rebuild.plain 0x3C rfl rfl rfl rfl
theorem Rebuild.ld8 (f : MForm) : Rebuild.Statement (.ld8 f) := Rebuild.plain 0x40 rfl rfl rfl (congrArg Instr.ld8 (mForm_mBody f))
theorem Rebuild.ld16 (f : MForm) : Rebuild.Statement (.ld16 f) := Rebuild.plain 0x41 rfl rfl rfl (congrArg Instr.ld16 (mForm_mBody f))
theorem Rebuild.ld32 (f : MForm) : Rebuild.Statement (.ld32 f) := Rebuild.plain 0x42 rfl rfl rfl (congrArg Instr.ld32 (mForm_mBody f))
theorem Rebuild.ld64 (f : MForm) : Rebuild.Statement (.ld64 f) := Rebuild.plain 0x43 rfl rfl rfl (congrArg Instr.ld64 (mForm_mBody f))
theorem Rebuild.st8 (f : MForm) : Rebuild.Statement (.st8 f) := Rebuild.plain 0x44 rfl rfl rfl (congrArg Instr.st8 (mForm_mBody f))
theorem Rebuild.st16 (f : MForm) : Rebuild.Statement (.st16 f) := Rebuild.plain 0x45 rfl rfl rfl (congrArg Instr.st16 (mForm_mBody f))
theorem Rebuild.st32 (f : MForm) : Rebuild.Statement (.st32 f) := Rebuild.plain 0x46 rfl rfl rfl (congrArg Instr.st32 (mForm_mBody f))
theorem Rebuild.st64 (f : MForm) : Rebuild.Statement (.st64 f) := Rebuild.plain 0x47 rfl rfl rfl (congrArg Instr.st64 (mForm_mBody f))
theorem Rebuild.ldacq (f : MForm) : Rebuild.Statement (.ldacq f) := Rebuild.plain 0x48 rfl rfl rfl (congrArg Instr.ldacq (mForm_mBody f))
theorem Rebuild.strel (f : MForm) : Rebuild.Statement (.strel f) := Rebuild.plain 0x49 rfl rfl rfl (congrArg Instr.strel (mForm_mBody f))
theorem Rebuild.ldfe (f : MForm) : Rebuild.Statement (.ldfe f) := Rebuild.plain 0x4A rfl rfl rfl (congrArg Instr.ldfe (mForm_mBody f))
theorem Rebuild.stfe (f : MForm) : Rebuild.Statement (.stfe f) := Rebuild.plain 0x4B rfl rfl rfl (congrArg Instr.stfe (mForm_mBody f))
theorem Rebuild.fechk (f : MForm) : Rebuild.Statement (.fechk f) := Rebuild.plain 0x4C rfl rfl rfl (congrArg Instr.fechk (mForm_mBody f))
theorem Rebuild.fence (f : MForm) : Rebuild.Statement (.fence f) := Rebuild.plain 0x4D rfl rfl rfl (congrArg Instr.fence (mForm_mBody f))
theorem Rebuild.cachectl (f : RForm) : Rebuild.Statement (.cachectl f) := Rebuild.plain 0x4E rfl rfl rfl (congrArg Instr.cachectl (rForm_rBody f))
theorem Rebuild.amoadd (f : RForm) : Rebuild.Statement (.amoadd f) := Rebuild.plain 0x50 rfl rfl rfl (congrArg Instr.amoadd (rForm_rBody f))
theorem Rebuild.amobit (f : RForm) : Rebuild.Statement (.amobit f) := Rebuild.plain 0x51 rfl rfl rfl (congrArg Instr.amobit (rForm_rBody f))
theorem Rebuild.amomin (f : RForm) : Rebuild.Statement (.amomin f) := Rebuild.plain 0x52 rfl rfl rfl (congrArg Instr.amomin (rForm_rBody f))
theorem Rebuild.amomax (f : RForm) : Rebuild.Statement (.amomax f) := Rebuild.plain 0x53 rfl rfl rfl (congrArg Instr.amomax (rForm_rBody f))
theorem Rebuild.amoswap (f : RForm) : Rebuild.Statement (.amoswap f) := Rebuild.plain 0x54 rfl rfl rfl (congrArg Instr.amoswap (rForm_rBody f))
theorem Rebuild.cas (f : RForm) : Rebuild.Statement (.cas f) := Rebuild.plain 0x55 rfl rfl rfl (congrArg Instr.cas (rForm_rBody f))
theorem Rebuild.faddaU (f : RForm) : Rebuild.Statement (.faddaU f) := by
  intro e h hq _
  cases (show some _ = some e from h)
  have hq : ¬ (rBody f).getLsbD 21 = true := by simpa [rEnc, mEnc] using hq
  change build 0x56 (rBody f) f.t = _
  exact congrArg some ((if_neg hq).trans (congrArg Instr.faddaU (rForm_rBody f)))
theorem Rebuild.faddaO (f : RForm) : Rebuild.Statement (.faddaO f) := by
  intro e h _ _
  rw [enc] at h
  split at h
  · next hq =>
    cases h
    change build 0x56 (rBody f) f.t = _
    exact congrArg some ((if_pos ((rBody_q f).trans hq)).trans (congrArg Instr.faddaO (rForm_rBody f)))
  · cases h
theorem Rebuild.fmaxa (f : RForm) : Rebuild.Statement (.fmaxa f) := Rebuild.plain 0x57 rfl rfl rfl (congrArg Instr.fmaxa (rForm_rBody f))
theorem Rebuild.acq (f : RForm) : Rebuild.Statement (.acq f) := by
  intro e h hq _
  cases (show some _ = some e from h)
  have hq : ¬ (rBody f).getLsbD 21 = true := by simpa [rEnc, mEnc] using hq
  change build 0x58 (rBody f) f.t = _
  exact congrArg some ((if_neg hq).trans (congrArg Instr.acq (rForm_rBody f)))
theorem Rebuild.acqSh (f : RForm) : Rebuild.Statement (.acqSh f) := by
  intro e h _ _
  rw [enc] at h
  split at h
  · next hq =>
    cases h
    change build 0x58 (rBody f) f.t = _
    exact congrArg some ((if_pos ((rBody_q f).trans hq)).trans (congrArg Instr.acqSh (rForm_rBody f)))
  · cases h
theorem Rebuild.acqGrant (x y : Nat) : Rebuild.Statement (.acqGrant x y) := Rebuild.none_of rfl
theorem Rebuild.rel (f : RForm) : Rebuild.Statement (.rel f) := Rebuild.plain 0x59 rfl rfl rfl (congrArg Instr.rel (rForm_rBody f))
theorem Rebuild.bmove (f : RForm) : Rebuild.Statement (.bmove f) := Rebuild.plain 0x5A rfl rfl rfl (congrArg Instr.bmove (rForm_rBody f))
theorem Rebuild.bfill (f : RForm) : Rebuild.Statement (.bfill f) := Rebuild.plain 0x5B rfl rfl rfl (congrArg Instr.bfill (rForm_rBody f))
theorem Rebuild.tcfgWrite (f : RForm) : Rebuild.Statement (.tcfgWrite f) := by
  intro e h hq _
  cases (show some _ = some e from h)
  have hq : ¬ (rBody f).getLsbD 21 = true := by simpa [rEnc, mEnc] using hq
  change build 0x60 (rBody f) f.t = _
  exact congrArg some ((if_neg hq).trans (congrArg Instr.tcfgWrite (rForm_rBody f)))
theorem Rebuild.tcfgRead (f : RForm) : Rebuild.Statement (.tcfgRead f) := by
  intro e h _ _
  rw [enc] at h
  split at h
  · next hq =>
    cases h
    change build 0x60 (rBody f) f.t = _
    exact congrArg some ((if_pos ((rBody_q f).trans hq)).trans (congrArg Instr.tcfgRead (rForm_rBody f)))
  · cases h
theorem Rebuild.tld (f : RForm) : Rebuild.Statement (.tld f) := Rebuild.plain 0x61 rfl rfl rfl (congrArg Instr.tld (rForm_rBody f))
theorem Rebuild.tst (f : RForm) : Rebuild.Statement (.tst f) := Rebuild.plain 0x62 rfl rfl rfl (congrArg Instr.tst (rForm_rBody f))
theorem Rebuild.tgather (f : RForm) : Rebuild.Statement (.tgather f) := Rebuild.plain 0x63 rfl rfl rfl (congrArg Instr.tgather (rForm_rBody f))
theorem Rebuild.tscatter (f : RForm) : Rebuild.Statement (.tscatter f) := Rebuild.plain 0x64 rfl rfl rfl (congrArg Instr.tscatter (rForm_rBody f))
theorem Rebuild.tscaddU (f : RForm) : Rebuild.Statement (.tscaddU f) := by
  intro e h hq _
  cases (show some _ = some e from h)
  have hq : ¬ (rBody f).getLsbD 21 = true := by simpa [rEnc, mEnc] using hq
  change build 0x65 (rBody f) f.t = _
  exact congrArg some ((if_neg hq).trans (congrArg Instr.tscaddU (rForm_rBody f)))
theorem Rebuild.tscaddO (f : RForm) : Rebuild.Statement (.tscaddO f) := by
  intro e h _ _
  rw [enc] at h
  split at h
  · next hq =>
    cases h
    change build 0x65 (rBody f) f.t = _
    exact congrArg some ((if_pos ((rBody_q f).trans hq)).trans (congrArg Instr.tscaddO (rForm_rBody f)))
  · cases h
theorem Rebuild.tmovr (f : RForm) : Rebuild.Statement (.tmovr f) := Rebuild.plain 0x66 rfl rfl rfl (congrArg Instr.tmovr (rForm_rBody f))
theorem Rebuild.tmovs (f : RForm) : Rebuild.Statement (.tmovs f) := Rebuild.plain 0x67 rfl rfl rfl (congrArg Instr.tmovs (rForm_rBody f))
theorem Rebuild.tbcast (f : RForm) : Rebuild.Statement (.tbcast f) := Rebuild.plain 0x68 rfl rfl rfl (congrArg Instr.tbcast (rForm_rBody f))
theorem Rebuild.vadd (f : RForm) : Rebuild.Statement (.vadd f) := Rebuild.plain 0x70 rfl rfl rfl (congrArg Instr.vadd (rForm_rBody f))
theorem Rebuild.vsub (f : RForm) : Rebuild.Statement (.vsub f) := Rebuild.plain 0x71 rfl rfl rfl (congrArg Instr.vsub (rForm_rBody f))
theorem Rebuild.vmul (f : RForm) : Rebuild.Statement (.vmul f) := Rebuild.plain 0x72 rfl rfl rfl (congrArg Instr.vmul (rForm_rBody f))
theorem Rebuild.vfma (f : RForm) : Rebuild.Statement (.vfma f) := Rebuild.plain 0x73 rfl rfl rfl (congrArg Instr.vfma (rForm_rBody f))
theorem Rebuild.vmin (f : RForm) : Rebuild.Statement (.vmin f) := Rebuild.plain 0x74 rfl rfl rfl (congrArg Instr.vmin (rForm_rBody f))
theorem Rebuild.vmax (f : RForm) : Rebuild.Statement (.vmax f) := Rebuild.plain 0x75 rfl rfl rfl (congrArg Instr.vmax (rForm_rBody f))
theorem Rebuild.vlog (f : RForm) : Rebuild.Statement (.vlog f) := Rebuild.plain 0x76 rfl rfl rfl (congrArg Instr.vlog (rForm_rBody f))
theorem Rebuild.vshr (f : RForm) : Rebuild.Statement (.vshr f) := Rebuild.plain 0x77 rfl rfl rfl (congrArg Instr.vshr (rForm_rBody f))
theorem Rebuild.vcmp (f : RForm) : Rebuild.Statement (.vcmp f) := Rebuild.plain 0x78 rfl rfl rfl (congrArg Instr.vcmp (rForm_rBody f))
theorem Rebuild.vsel (f : RForm) : Rebuild.Statement (.vsel f) := Rebuild.plain 0x79 rfl rfl rfl (congrArg Instr.vsel (rForm_rBody f))
theorem Rebuild.vcvt (f : RForm) : Rebuild.Statement (.vcvt f) := Rebuild.plain 0x7A rfl rfl rfl (congrArg Instr.vcvt (rForm_rBody f))
theorem Rebuild.vrecip (f : RForm) : Rebuild.Statement (.vrecip f) := Rebuild.plain 0x7B rfl rfl rfl (congrArg Instr.vrecip (rForm_rBody f))
theorem Rebuild.vrsqrt (f : RForm) : Rebuild.Statement (.vrsqrt f) := Rebuild.plain 0x80 rfl rfl rfl (congrArg Instr.vrsqrt (rForm_rBody f))
theorem Rebuild.vexp2 (f : RForm) : Rebuild.Statement (.vexp2 f) := Rebuild.plain 0x81 rfl rfl rfl (congrArg Instr.vexp2 (rForm_rBody f))
theorem Rebuild.vred (f : RForm) : Rebuild.Statement (.vred f) := Rebuild.plain 0x82 rfl rfl rfl (congrArg Instr.vred (rForm_rBody f))
theorem Rebuild.vargmax (f : RForm) : Rebuild.Statement (.vargmax f) := Rebuild.plain 0x83 rfl rfl rfl (congrArg Instr.vargmax (rForm_rBody f))
theorem Rebuild.vquant (f : RForm) : Rebuild.Statement (.vquant f) := Rebuild.plain 0x84 rfl rfl rfl (congrArg Instr.vquant (rForm_rBody f))
theorem Rebuild.vdeq (f : RForm) : Rebuild.Statement (.vdeq f) := Rebuild.plain 0x85 rfl rfl rfl (congrArg Instr.vdeq (rForm_rBody f))
theorem Rebuild.bqadd (f : RForm) : Rebuild.Statement (.bqadd f) := Rebuild.plain 0x86 rfl rfl rfl (congrArg Instr.bqadd (rForm_rBody f))
theorem Rebuild.mma (f : RForm) : Rebuild.Statement (.mma f) := Rebuild.plain 0x87 rfl rfl rfl (congrArg Instr.mma (rForm_rBody f))
theorem Rebuild.mmasp (f : RForm) : Rebuild.Statement (.mmasp f) := Rebuild.plain 0x88 rfl rfl rfl (congrArg Instr.mmasp (rForm_rBody f))
theorem Rebuild.matrixEntryStart (x : Nat) : Rebuild.Statement (.matrixEntryStart x) := Rebuild.none_of rfl
theorem Rebuild.matrixKstepBoundary (x : Nat) : Rebuild.Statement (.matrixKstepBoundary x) := Rebuild.none_of rfl
theorem Rebuild.matrixEntryComplete (x : Nat) : Rebuild.Statement (.matrixEntryComplete x) := Rebuild.none_of rfl
theorem Rebuild.tlook (f : RForm) : Rebuild.Statement (.tlook f) := Rebuild.plain 0x90 rfl rfl rfl (congrArg Instr.tlook (rForm_rBody f))
theorem Rebuild.tset (f : RForm) : Rebuild.Statement (.tset f) := by
  intro e h hq _
  cases (show some _ = some e from h)
  have hq : ¬ (rBody f).getLsbD 21 = true := by simpa [rEnc, mEnc] using hq
  change build 0x91 (rBody f) f.t = _
  exact congrArg some ((if_neg hq).trans (congrArg Instr.tset (rForm_rBody f)))
theorem Rebuild.tsetInvalidate (f : RForm) : Rebuild.Statement (.tsetInvalidate f) := by
  intro e h _ _
  rw [enc] at h
  split at h
  · next hq =>
    cases h
    change build 0x91 (rBody f) f.t = _
    exact congrArg some ((if_pos ((rBody_q f).trans hq)).trans (congrArg Instr.tsetInvalidate (rForm_rBody f)))
  · cases h
theorem Rebuild.bfmt (f : RForm) : Rebuild.Statement (.bfmt f) := by
  intro e h hq _
  cases (show some _ = some e from h)
  have hq : ¬ (rBody f).getLsbD 21 = true := by simpa [rEnc, mEnc] using hq
  change build 0x92 (rBody f) f.t = _
  exact congrArg some ((if_neg hq).trans (congrArg Instr.bfmt (rForm_rBody f)))
theorem Rebuild.bfmtRead (f : RForm) : Rebuild.Statement (.bfmtRead f) := by
  intro e h _ _
  rw [enc] at h
  split at h
  · next hq =>
    cases h
    change build 0x92 (rBody f) f.t = _
    exact congrArg some ((if_pos ((rBody_q f).trans hq)).trans (congrArg Instr.bfmtRead (rForm_rBody f)))
  · cases h
theorem Rebuild.sgset (f : RForm) : Rebuild.Statement (.sgset f) := Rebuild.plain 0x93 rfl rfl rfl (congrArg Instr.sgset (rForm_rBody f))
theorem Rebuild.probe (f : RForm) : Rebuild.Statement (.probe f) := Rebuild.plain 0x94 rfl rfl rfl (congrArg Instr.probe (rForm_rBody f))
theorem Rebuild.spawn (f : RForm) : Rebuild.Statement (.spawn f) := Rebuild.plain 0xA0 rfl rfl rfl (congrArg Instr.spawn (rForm_rBody f))
theorem Rebuild.take (f : RForm) : Rebuild.Statement (.take f) := Rebuild.plain 0xA1 rfl rfl rfl (congrArg Instr.take (rForm_rBody f))
theorem Rebuild.gjoin (f : RForm) : Rebuild.Statement (.gjoin f) := Rebuild.plain 0xA2 rfl rfl rfl (congrArg Instr.gjoin (rForm_rBody f))
theorem Rebuild.gleave (f : RForm) : Rebuild.Statement (.gleave f) := Rebuild.plain 0xA3 rfl rfl rfl (congrArg Instr.gleave (rForm_rBody f))
theorem Rebuild.gbar (f : RForm) : Rebuild.Statement (.gbar f) := Rebuild.plain 0xA4 rfl rfl rfl (congrArg Instr.gbar (rForm_rBody f))
theorem Rebuild.tcadd (f : RForm) : Rebuild.Statement (.tcadd f) := Rebuild.plain 0xA5 rfl rfl rfl (congrArg Instr.tcadd (rForm_rBody f))
theorem Rebuild.tcwait (f : RForm) : Rebuild.Statement (.tcwait f) := by
  intro e h _ hm
  cases (show some _ = some e from h)
  have hm : tailMod f.t = 0 := by simpa [rEnc, m0] using hm
  change build 0xA6 (rBody f) f.t = _
  exact congrArg some (((if_neg (show ¬ tailMod f.t = 1 by omega)).trans (if_neg (show ¬ tailMod f.t = 2 by omega))).trans (congrArg Instr.tcwait (rForm_rBody f)))
theorem Rebuild.tcwaitArm (f : RForm) : Rebuild.Statement (.tcwaitArm f) := by
  intro e h _ _
  rw [enc] at h
  split at h
  · next hq =>
    cases h
    have hm : tailMod f.t = 1 := by simpa [mIs] using hq
    change build 0xA6 (rBody f) f.t = _
    exact congrArg some ((if_pos hm).trans (congrArg Instr.tcwaitArm (rForm_rBody f)))
  · cases h
theorem Rebuild.tcwaitDisarm (f : RForm) : Rebuild.Statement (.tcwaitDisarm f) := by
  intro e h _ _
  rw [enc] at h
  split at h
  · next hq =>
    cases h
    have hm : tailMod f.t = 2 := by simpa [mIs] using hq
    change build 0xA6 (rBody f) f.t = _
    exact congrArg some (((if_neg (show ¬ tailMod f.t = 1 by omega)).trans (if_pos hm)).trans (congrArg Instr.tcwaitDisarm (rForm_rBody f)))
  · cases h
theorem Rebuild.tcset (f : RForm) : Rebuild.Statement (.tcset f) := Rebuild.plain 0xA7 rfl rfl rfl (congrArg Instr.tcset (rForm_rBody f))
theorem Rebuild.csend (f : RForm) : Rebuild.Statement (.csend f) := Rebuild.plain 0xA8 rfl rfl rfl (congrArg Instr.csend (rForm_rBody f))
theorem Rebuild.channelWordArrive (x y : Nat) : Rebuild.Statement (.channelWordArrive x y) := Rebuild.none_of rfl
theorem Rebuild.crecv (f : RForm) : Rebuild.Statement (.crecv f) := Rebuild.plain 0xA9 rfl rfl rfl (congrArg Instr.crecv (rForm_rBody f))
theorem Rebuild.channelCreditReturn (x y : Nat) : Rebuild.Statement (.channelCreditReturn x y) := Rebuild.none_of rfl
theorem Rebuild.cpoll (f : RForm) : Rebuild.Statement (.cpoll f) := Rebuild.plain 0xAA rfl rfl rfl (congrArg Instr.cpoll (rForm_rBody f))
theorem Rebuild.launch (f : RForm) : Rebuild.Statement (.launch f) := Rebuild.plain 0xAB rfl rfl rfl (congrArg Instr.launch (rForm_rBody f))
theorem Rebuild.fork (f : RForm) : Rebuild.Statement (.fork f) := Rebuild.plain 0xB0 rfl rfl rfl (congrArg Instr.fork (rForm_rBody f))
theorem Rebuild.choose (f : RForm) : Rebuild.Statement (.choose f) := by
  intro e h hq _
  cases (show some _ = some e from h)
  have hq : ¬ (rBody f).getLsbD 21 = true := by simpa [rEnc, mEnc] using hq
  change build 0xB1 (rBody f) f.t = _
  exact congrArg some ((if_neg hq).trans (congrArg Instr.choose (rForm_rBody f)))
theorem Rebuild.chooseMin (f : RForm) : Rebuild.Statement (.chooseMin f) := by
  intro e h _ _
  rw [enc] at h
  split at h
  · next hq =>
    cases h
    change build 0xB1 (rBody f) f.t = _
    exact congrArg some ((if_pos ((rBody_q f).trans hq)).trans (congrArg Instr.chooseMin (rForm_rBody f)))
  · cases h
theorem Rebuild.wend (f : RForm) : Rebuild.Statement (.wend f) := Rebuild.plain 0xB2 rfl rfl rfl (congrArg Instr.wend (rForm_rBody f))
theorem Rebuild.wjoin (f : RForm) : Rebuild.Statement (.wjoin f) := Rebuild.plain 0xB3 rfl rfl rfl (congrArg Instr.wjoin (rForm_rBody f))
theorem Rebuild.kick (f : RForm) : Rebuild.Statement (.kick f) := Rebuild.plain 0xC0 rfl rfl rfl (congrArg Instr.kick (rForm_rBody f))
theorem Rebuild.kickApply (x : Nat) (y : Word) (z u : Nat) : Rebuild.Statement (.kickApply x y z u) := Rebuild.none_of rfl
theorem Rebuild.binit (f : RForm) : Rebuild.Statement (.binit f) := Rebuild.plain 0xC1 rfl rfl rfl (congrArg Instr.binit (rForm_rBody f))
theorem Rebuild.bwait (f : RForm) : Rebuild.Statement (.bwait f) := by
  intro e h _ hm
  cases (show some _ = some e from h)
  have hm : tailMod f.t = 0 := by simpa [rEnc, m0] using hm
  change build 0xC2 (rBody f) f.t = _
  exact congrArg some (((if_neg (show ¬ tailMod f.t = 1 by omega)).trans (if_neg (show ¬ tailMod f.t = 2 by omega))).trans (congrArg Instr.bwait (rForm_rBody f)))
theorem Rebuild.bwaitArm (f : RForm) : Rebuild.Statement (.bwaitArm f) := by
  intro e h _ _
  rw [enc] at h
  split at h
  · next hq =>
    cases h
    have hm : tailMod f.t = 1 := by simpa [mIs] using hq
    change build 0xC2 (rBody f) f.t = _
    exact congrArg some ((if_pos hm).trans (congrArg Instr.bwaitArm (rForm_rBody f)))
  · cases h
theorem Rebuild.bwaitDisarm (f : RForm) : Rebuild.Statement (.bwaitDisarm f) := by
  intro e h _ _
  rw [enc] at h
  split at h
  · next hq =>
    cases h
    have hm : tailMod f.t = 2 := by simpa [mIs] using hq
    change build 0xC2 (rBody f) f.t = _
    exact congrArg some (((if_neg (show ¬ tailMod f.t = 1 by omega)).trans (if_pos hm)).trans (congrArg Instr.bwaitDisarm (rForm_rBody f)))
  · cases h
theorem Rebuild.btest (f : RForm) : Rebuild.Statement (.btest f) := Rebuild.plain 0xC3 rfl rfl rfl (congrArg Instr.btest (rForm_rBody f))
theorem Rebuild.seqwait (f : RForm) : Rebuild.Statement (.seqwait f) := Rebuild.plain 0xC4 rfl rfl rfl (congrArg Instr.seqwait (rForm_rBody f))
theorem Rebuild.publish (f : RForm) : Rebuild.Statement (.publish f) := Rebuild.plain 0xC5 rfl rfl rfl (congrArg Instr.publish (rForm_rBody f))
theorem Rebuild.sread (f : MForm) : Rebuild.Statement (.sread f) := by
  intro e h _ _
  rw [enc] at h
  split at h
  · next hq =>
    cases h
    change build 0xD0 (mBody f) f.t = _
    exact congrArg some ((if_pos ((mBody_q f).trans hq)).trans (congrArg Instr.sread (mForm_mBody f)))
  · cases h
theorem Rebuild.sreadStatus (f : MForm) : Rebuild.Statement (.sreadStatus f) := by
  intro e h hq _
  cases (show some _ = some e from h)
  have hq : ¬ (mBody f).getLsbD 21 = true := by simpa [rEnc, mEnc] using hq
  change build 0xD0 (mBody f) f.t = _
  exact congrArg some ((if_neg hq).trans (congrArg Instr.sreadStatus (mForm_mBody f)))
theorem Rebuild.swrite (f : MForm) : Rebuild.Statement (.swrite f) := Rebuild.plain 0xD1 rfl rfl rfl (congrArg Instr.swrite (mForm_mBody f))
theorem Rebuild.cwait (f : RForm) : Rebuild.Statement (.cwait f) := Rebuild.plain 0xD2 rfl rfl rfl (congrArg Instr.cwait (rForm_rBody f))
theorem Rebuild.rdptp (f : RForm) : Rebuild.Statement (.rdptp f) := Rebuild.plain 0xD3 rfl rfl rfl (congrArg Instr.rdptp (rForm_rBody f))
theorem Rebuild.rdcyc (f : RForm) : Rebuild.Statement (.rdcyc f) := Rebuild.plain 0xD4 rfl rfl rfl (congrArg Instr.rdcyc (rForm_rBody f))
theorem Rebuild.mfs (f : XForm) : Rebuild.Statement (.mfs f) := Rebuild.plain 0xE0 rfl rfl rfl (congrArg Instr.mfs (xForm_xBody f))
theorem Rebuild.mts (f : XForm) : Rebuild.Statement (.mts f) := Rebuild.plain 0xE1 rfl rfl rfl (congrArg Instr.mts (xForm_xBody f))
theorem Rebuild.sbindWrite (f : RForm) : Rebuild.Statement (.sbindWrite f) := by
  intro e h hq _
  cases (show some _ = some e from h)
  have hq : ¬ (rBody f).getLsbD 21 = true := by simpa [rEnc, mEnc] using hq
  change build 0xE2 (rBody f) f.t = _
  exact congrArg some ((if_neg hq).trans (congrArg Instr.sbindWrite (rForm_rBody f)))
theorem Rebuild.sbindRead (f : RForm) : Rebuild.Statement (.sbindRead f) := by
  intro e h _ _
  rw [enc] at h
  split at h
  · next hq =>
    cases h
    change build 0xE2 (rBody f) f.t = _
    exact congrArg some ((if_pos ((rBody_q f).trans hq)).trans (congrArg Instr.sbindRead (rForm_rBody f)))
  · cases h
theorem Rebuild.slotwWrite (f : RForm) : Rebuild.Statement (.slotwWrite f) := by
  intro e h hq _
  cases (show some _ = some e from h)
  have hq : ¬ (rBody f).getLsbD 21 = true := by simpa [rEnc, mEnc] using hq
  change build 0xE3 (rBody f) f.t = _
  exact congrArg some ((if_neg hq).trans (congrArg Instr.slotwWrite (rForm_rBody f)))
theorem Rebuild.slotwRead (f : RForm) : Rebuild.Statement (.slotwRead f) := by
  intro e h _ _
  rw [enc] at h
  split at h
  · next hq =>
    cases h
    change build 0xE3 (rBody f) f.t = _
    exact congrArg some ((if_pos ((rBody_q f).trans hq)).trans (congrArg Instr.slotwRead (rForm_rBody f)))
  · cases h
theorem Rebuild.ptinv (f : RForm) : Rebuild.Statement (.ptinv f) := by
  intro e h _ hm
  cases (show some _ = some e from h)
  have hm : tailMod f.t = 0 := by simpa [rEnc, m0] using hm
  change build 0xE4 (rBody f) f.t = _
  exact congrArg some ((if_neg (show ¬ tailMod f.t = 1 by omega)).trans (congrArg Instr.ptinv (rForm_rBody f)))
theorem Rebuild.ptinvAll (f : RForm) : Rebuild.Statement (.ptinvAll f) := by
  intro e h _ _
  rw [enc] at h
  split at h
  · next hq =>
    cases h
    have hm : tailMod f.t = 1 := by simpa [mIs] using hq
    change build 0xE4 (rBody f) f.t = _
    exact congrArg some ((if_pos hm).trans (congrArg Instr.ptinvAll (rForm_rBody f)))
  · cases h
theorem Rebuild.mbsend (f : RForm) : Rebuild.Statement (.mbsend f) := Rebuild.plain 0xE5 rfl rfl rfl (congrArg Instr.mbsend (rForm_rBody f))
theorem Rebuild.mailboxArrive (x y : Nat) (z : List Byte) : Rebuild.Statement (.mailboxArrive x y z) := Rebuild.none_of rfl
theorem Rebuild.mbrecv (f : RForm) : Rebuild.Statement (.mbrecv f) := by
  intro e h _ hm
  cases (show some _ = some e from h)
  have hm : tailMod f.t = 0 := by simpa [rEnc, m0] using hm
  change build 0xE6 (rBody f) f.t = _
  exact congrArg some (((if_neg (show ¬ tailMod f.t = 1 by omega)).trans (if_neg (show ¬ tailMod f.t = 2 by omega))).trans (congrArg Instr.mbrecv (rForm_rBody f)))
theorem Rebuild.mbrecvArm (f : RForm) : Rebuild.Statement (.mbrecvArm f) := by
  intro e h _ _
  rw [enc] at h
  split at h
  · next hq =>
    cases h
    have hm : tailMod f.t = 1 := by simpa [mIs] using hq
    change build 0xE6 (rBody f) f.t = _
    exact congrArg some ((if_pos hm).trans (congrArg Instr.mbrecvArm (rForm_rBody f)))
  · cases h
theorem Rebuild.mbrecvDisarm (f : RForm) : Rebuild.Statement (.mbrecvDisarm f) := by
  intro e h _ _
  rw [enc] at h
  split at h
  · next hq =>
    cases h
    have hm : tailMod f.t = 2 := by simpa [mIs] using hq
    change build 0xE6 (rBody f) f.t = _
    exact congrArg some (((if_neg (show ¬ tailMod f.t = 1 by omega)).trans (if_pos hm)).trans (congrArg Instr.mbrecvDisarm (rForm_rBody f)))
  · cases h
theorem Rebuild.spill (f : RForm) : Rebuild.Statement (.spill f) := Rebuild.plain 0xE7 rfl rfl rfl (congrArg Instr.spill (rForm_rBody f))
theorem Rebuild.fill (f : RForm) : Rebuild.Statement (.fill f) := Rebuild.plain 0xE8 rfl rfl rfl (congrArg Instr.fill (rForm_rBody f))
theorem Rebuild.trapEntry (x y : Nat) (z u : Word) : Rebuild.Statement (.trapEntry x y z u) := Rebuild.none_of rfl
theorem Rebuild.uiDelivery (x : Nat) : Rebuild.Statement (.uiDelivery x) := Rebuild.none_of rfl
theorem Rebuild.waitLimitExpiry (x : Nat) : Rebuild.Statement (.waitLimitExpiry x) := Rebuild.none_of rfl
theorem Rebuild.threadEnd (x : Nat) : Rebuild.Statement (.threadEnd x) := Rebuild.none_of rfl
theorem Rebuild.dispatcherFaultReply (x : Nat) (y : Word) (z : Nat) : Rebuild.Statement (.dispatcherFaultReply x y z) := Rebuild.none_of rfl
theorem Rebuild.dispatchPlace (x : Nat) : Rebuild.Statement (.dispatchPlace x) := Rebuild.none_of rfl
theorem Rebuild.rivalPlace (x : Nat) : Rebuild.Statement (.rivalPlace x) := Rebuild.none_of rfl
theorem Rebuild.preemptPark (x : Nat) : Rebuild.Statement (.preemptPark x) := Rebuild.none_of rfl
theorem Rebuild.huskSpill (x : Nat) : Rebuild.Statement (.huskSpill x) := Rebuild.none_of rfl
theorem Rebuild.huskAutoFill (x : Nat) : Rebuild.Statement (.huskAutoFill x) := Rebuild.none_of rfl
theorem Rebuild.sproutLocalStart (x : Nat) : Rebuild.Statement (.sproutLocalStart x) := Rebuild.none_of rfl
theorem Rebuild.sproutSteal (x : Nat) : Rebuild.Statement (.sproutSteal x) := Rebuild.none_of rfl
theorem Rebuild.translationWalk (x : Nat) (y : Word) (z : Nat) : Rebuild.Statement (.translationWalk x y z) := Rebuild.none_of rfl
theorem Rebuild.faultReply (x : Nat) (y : Word) (z : Nat) : Rebuild.Statement (.faultReply x y z) := Rebuild.none_of rfl
theorem Rebuild.postRetry (x : Nat) : Rebuild.Statement (.postRetry x) := Rebuild.none_of rfl
theorem Rebuild.loadValueQueueStuck (x : Nat) : Rebuild.Statement (.loadValueQueueStuck x) := Rebuild.none_of rfl
theorem Rebuild.chainEntryRead (x : Nat) : Rebuild.Statement (.chainEntryRead x) := Rebuild.none_of rfl
theorem Rebuild.chainEntryReread (x : Nat) : Rebuild.Statement (.chainEntryReread x) := Rebuild.none_of rfl
theorem Rebuild.chainEntryNotReady (x : Nat) : Rebuild.Statement (.chainEntryNotReady x) := Rebuild.none_of rfl
theorem Rebuild.engineChunk (x : Nat) : Rebuild.Statement (.engineChunk x) := Rebuild.none_of rfl
theorem Rebuild.chainFaultReply (x : Nat) (y : Word) (z : Nat) : Rebuild.Statement (.chainFaultReply x y z) := Rebuild.none_of rfl
theorem Rebuild.entryCompletion (x : Nat) : Rebuild.Statement (.entryCompletion x) := Rebuild.none_of rfl
theorem Rebuild.followOnMma (x : Nat) : Rebuild.Statement (.followOnMma x) := Rebuild.none_of rfl
theorem Rebuild.mcastGroupClose (x : Nat) : Rebuild.Statement (.mcastGroupClose x) := Rebuild.none_of rfl
theorem Rebuild.chainStart (x : Nat) : Rebuild.Statement (.chainStart x) := Rebuild.none_of rfl
theorem Rebuild.chainStop (x : Nat) : Rebuild.Statement (.chainStop x) := Rebuild.none_of rfl
theorem Rebuild.chainResync (x : Nat) : Rebuild.Statement (.chainResync x) := Rebuild.none_of rfl
theorem Rebuild.boundaryTick : Rebuild.Statement (.boundaryTick) := Rebuild.none_of rfl
theorem Rebuild.scanRelease : Rebuild.Statement (.scanRelease) := Rebuild.none_of rfl
theorem Rebuild.egressCheck (x : Nat) : Rebuild.Statement (.egressCheck x) := Rebuild.none_of rfl
theorem Rebuild.jobDeadlineMiss (x : Nat) : Rebuild.Statement (.jobDeadlineMiss x) := Rebuild.none_of rfl
theorem Rebuild.cycleDomainStart : Rebuild.Statement (.cycleDomainStart) := Rebuild.none_of rfl
theorem Rebuild.cycleDomainStop : Rebuild.Statement (.cycleDomainStop) := Rebuild.none_of rfl
theorem Rebuild.ptpDisciplineLost : Rebuild.Statement (.ptpDisciplineLost) := Rebuild.none_of rfl
theorem Rebuild.ptpDisciplineRestored : Rebuild.Statement (.ptpDisciplineRestored) := Rebuild.none_of rfl
theorem Rebuild.ptpStep (x : Word) : Rebuild.Statement (.ptpStep x) := Rebuild.none_of rfl
theorem Rebuild.ptpAdjust (x : Word) : Rebuild.Statement (.ptpAdjust x) := Rebuild.none_of rfl
theorem Rebuild.gateListControlStore (x : Nat) (y : Word) : Rebuild.Statement (.gateListControlStore x y) := Rebuild.none_of rfl
theorem Rebuild.gateListEntry (x : Nat) : Rebuild.Statement (.gateListEntry x) := Rebuild.none_of rfl
theorem Rebuild.frameReceived (x : Nat) (y : List Byte) (z : Nat) : Rebuild.Statement (.frameReceived x y z) := Rebuild.none_of rfl
theorem Rebuild.txFrameSend (x : Nat) : Rebuild.Statement (.txFrameSend x) := Rebuild.none_of rfl
theorem Rebuild.egressFrameBuild (x y : Nat) : Rebuild.Statement (.egressFrameBuild x y) := Rebuild.none_of rfl
theorem Rebuild.linkChange (x : Nat) (y : Bool) : Rebuild.Statement (.linkChange x y) := Rebuild.none_of rfl
theorem Rebuild.laneLoss (x : Nat) : Rebuild.Statement (.laneLoss x) := Rebuild.none_of rfl
theorem Rebuild.replicationSend (x : Nat) : Rebuild.Statement (.replicationSend x) := Rebuild.none_of rfl
theorem Rebuild.replicationRecordReceive (x : List Byte) : Rebuild.Statement (.replicationRecordReceive x) := Rebuild.none_of rfl
theorem Rebuild.heartbeatReceive (x : Word) (y : Nat) (z : Word) (u v : Nat) : Rebuild.Statement (.heartbeatReceive x y z u v) := Rebuild.none_of rfl
theorem Rebuild.heartbeatMissed (x : Word) : Rebuild.Statement (.heartbeatMissed x) := Rebuild.none_of rfl
theorem Rebuild.slotShed (x : Nat) : Rebuild.Statement (.slotShed x) := Rebuild.none_of rfl
theorem Rebuild.shedClear (x : Nat) : Rebuild.Statement (.shedClear x) := Rebuild.none_of rfl
theorem Rebuild.thermalRankingUpdate (x : List Byte) : Rebuild.Statement (.thermalRankingUpdate x) := Rebuild.none_of rfl
theorem Rebuild.thermalDisplacement (x : Nat) : Rebuild.Statement (.thermalDisplacement x) := Rebuild.none_of rfl
theorem Rebuild.coreGate (x : Nat) : Rebuild.Statement (.coreGate x) := Rebuild.none_of rfl
theorem Rebuild.coreWake (x : Nat) : Rebuild.Statement (.coreWake x) := Rebuild.none_of rfl
theorem Rebuild.thermalTrip : Rebuild.Statement (.thermalTrip) := Rebuild.none_of rfl
theorem Rebuild.thermmodeWrite (x : Word) : Rebuild.Statement (.thermmodeWrite x) := Rebuild.none_of rfl
theorem Rebuild.viewSweep (x y : Nat) : Rebuild.Statement (.viewSweep x y) := Rebuild.none_of rfl
theorem Rebuild.viewFold (x y : Nat) : Rebuild.Statement (.viewFold x y) := Rebuild.none_of rfl
theorem Rebuild.shadowFrameWriteout (x y z : Nat) : Rebuild.Statement (.shadowFrameWriteout x y z) := Rebuild.none_of rfl
theorem Rebuild.heldMbsendRetry (x : Nat) : Rebuild.Statement (.heldMbsendRetry x) := Rebuild.none_of rfl
theorem Rebuild.patrolScrub (x : Nat) : Rebuild.Statement (.patrolScrub x) := Rebuild.none_of rfl
theorem Rebuild.dirtyLineUnowned (x y : Nat) (z : Word) : Rebuild.Statement (.dirtyLineUnowned x y z) := Rebuild.none_of rfl
theorem Rebuild.traceConflictLog (x : Nat) : Rebuild.Statement (.traceConflictLog x) := Rebuild.none_of rfl
theorem Rebuild.tracectlWrite (x : Word) : Rebuild.Statement (.tracectlWrite x) := Rebuild.none_of rfl
theorem Rebuild.slabHardFault (x : Nat) : Rebuild.Statement (.slabHardFault x) := Rebuild.none_of rfl
theorem Rebuild.machineCheck (x y z : Nat) : Rebuild.Statement (.machineCheck x y z) := Rebuild.none_of rfl
theorem Rebuild.dramChannelFailure (x : Nat) : Rebuild.Statement (.dramChannelFailure x) := Rebuild.none_of rfl
theorem Rebuild.watchdogExpiry (x : Nat) : Rebuild.Statement (.watchdogExpiry x) := Rebuild.none_of rfl
theorem Rebuild.wdoglimWrite (x : Nat) (y : Word) : Rebuild.Statement (.wdoglimWrite x y) := Rebuild.none_of rfl
theorem Rebuild.perfselWrite (x : Nat) (y : Word) : Rebuild.Statement (.perfselWrite x y) := Rebuild.none_of rfl
theorem Rebuild.auditWrite (x : Nat) (y : Word) : Rebuild.Statement (.auditWrite x y) := Rebuild.none_of rfl
theorem Rebuild.errinjWrite (x : Word) : Rebuild.Statement (.errinjWrite x) := Rebuild.none_of rfl
theorem Rebuild.errlogClear : Rebuild.Statement (.errlogClear) := Rebuild.none_of rfl
theorem Rebuild.eventRingReadAdvance (x : Nat) (y : Word) : Rebuild.Statement (.eventRingReadAdvance x y) := Rebuild.none_of rfl
theorem Rebuild.serviceThreadStart (x : Nat) : Rebuild.Statement (.serviceThreadStart x) := Rebuild.none_of rfl
theorem Rebuild.controlSpaceStore (x : Nat) (y : Word) : Rebuild.Statement (.controlSpaceStore x y) := Rebuild.none_of rfl
theorem Rebuild.boot : Rebuild.Statement (.boot) := Rebuild.none_of rfl
theorem Rebuild.attestationRequest (x : Word) : Rebuild.Statement (.attestationRequest x) := Rebuild.none_of rfl
theorem Rebuild.attestationDone : Rebuild.Statement (.attestationDone) := Rebuild.none_of rfl
theorem Rebuild.scoreboardResultArrival (x y : Nat) : Rebuild.Statement (.scoreboardResultArrival x y) := Rebuild.none_of rfl
theorem Rebuild.replicationAck (x : Nat) (y : Option Nat) : Rebuild.Statement (.replicationAck x y) := Rebuild.none_of rfl

end Sys2Proof.Laws
end

