-- ==== Sys2Proof/Laws/Run.lean ====
section
/-! SUPPORT. What the run of an instruction is once its thread issues it, by the outcome of its own effect, and what the checks
before it mean when they pass. -/

namespace Sys2Proof.Machine

/-! Issue. -/

theorem issues_iff (i : Instr) (s : State) (k : Nat) (t : Thread) :
    issues i s k t = true ↔ s.cur = some k ∧ thr s k = some t ∧ gate i s k t = none ∧ redundOf t = 0 := by
  simp [issues, and_assoc]

theorem issues_thr {i : Instr} {s : State} {k : Nat} {t : Thread} (h : issues i s k t = true) : thr s k = some t :=
  ((issues_iff i s k t).mp h).2.1

/-- A thread outside a redundant pair that issues an instruction makes its effect, and the outcome is carried out. -/
theorem run_of_issues {i : Instr} {s : State} {k : Nat} {t : Thread} (f : State → Nat → Thread → Act)
    (h : issues i s k t = true) : run i s f = .next (tick (conclude s k (wordsOf i) t (f s k t))) := by
  obtain ⟨h1, h2, h3, h4⟩ := (issues_iff i s k t).mp h
  simp only [run, h1, h2, h3, effect, h4]

/-- A check that stops an instruction gives its outcome. -/
theorem run_of_gate {i : Instr} {s : State} {k : Nat} {t : Thread} {a : Act} (f : State → Nat → Thread → Act)
    (h1 : s.cur = some k) (h2 : thr s k = some t) (h3 : gate i s k t = some a) :
    run i s f = .next (tick (conclude s k (wordsOf i) t a)) := by
  simp only [run, h1, h2, h3]

/-- A run refuses nothing, and faults only where no thread is issuing. -/
theorem run_next_or_fault (i : Instr) (s : State) (f : State → Nat → Thread → Act) :
    (∃ s1, run i s f = .next s1) ∨ run i s f = .fault .noThread := by
  simp only [run]
  split
  · exact .inr rfl
  · split
    · exact .inr rfl
    · split <;> exact .inl ⟨_, rfl⟩

theorem run_next {i : Instr} {s s1 : State} {f : State → Nat → Thread → Act} (h : run i s f = .next s1) :
    ∃ k t a, s.cur = some k ∧ thr s k = some t ∧ (gate i s k t = some a ∨ gate i s k t = none ∧ a = effect i s k t f) ∧
      s1 = tick (conclude s k (wordsOf i) t a) := by
  simp only [run] at h
  split at h
  · cases h
  · next k hk =>
    split at h
    · cases h
    · next t ht =>
      split at h
      · next a ha => cases h; exact ⟨k, t, a, hk, ht, .inl ha, rfl⟩
      · next hn => cases h; exact ⟨k, t, _, hk, ht, .inr ⟨hn, rfl⟩, rfl⟩

/-! Outcomes. -/

@[simp] theorem conclude_next (s0 : State) (k n : Nat) (t : Thread) (s : State) :
    conclude s0 k n t (.next s) = retire s k n (stepDue t) none := rfl
@[simp] theorem conclude_jump (s0 : State) (k n : Nat) (t : Thread) (s : State) (w : Word) (b : Bool) :
    conclude s0 k n t (.jump s w b) = retire s k n (stepDue t) (some (w, b)) := rfl
@[simp] theorem conclude_trap (s0 : State) (k n : Nat) (t : Thread) (s : State) (c : Nat) (i : Word) :
    conclude s0 k n t (.trap s c i) = raise s k c i t.pc := rfl
@[simp] theorem conclude_trapPast (s0 : State) (k n : Nat) (t : Thread) (s : State) (c : Nat) (i : Word) :
    conclude s0 k n t (.trapPast s c i) = raise s k c i (pcAdd t.pc (4 * n)) := rfl
@[simp] theorem conclude_wait (s0 : State) (k n : Nat) (t : Thread) (s : State) (w : WaitReq) :
    conclude s0 k n t (.wait s w) = enterWait s k n w := rfl
@[simp] theorem conclude_gone (s0 : State) (k n : Nat) (t : Thread) (s : State) :
    conclude s0 k n t (.gone s) = modThr { s with free := max s.free s0.free } k (fun u => { u with again := none }) := rfl
@[simp] theorem conclude_blocked (s0 : State) (k n : Nat) (t : Thread) (s : State) (c d e a w : Nat) :
    conclude s0 k n t (.blocked s c d e a w) = enterFault s k n c d e a w := rfl

/-- An effect that completes, as the statements say it. -/
theorem does_of_next {i : Instr} {s s1 : State} {k : Nat} {t : Thread} {f : State → Nat → Thread → Act}
    (he : exec i s = run i s f) (h : issues i s k t = true) (hf : f s k t = .next s1) : Does i s k t s1 := by
  rw [Does, he, run_of_issues f h, hf]
  rfl

theorem goes_of_jump {i : Instr} {s s1 : State} {k : Nat} {t : Thread} {w : Word} {b : Bool} {f : State → Nat → Thread → Act}
    (he : exec i s = run i s f) (h : issues i s k t = true) (hf : f s k t = .jump s1 w b) : Goes i s k t s1 w b := by
  rw [Goes, he, run_of_issues f h, hf]
  rfl

theorem traps_of_trap {i : Instr} {s s1 : State} {k c : Nat} {t : Thread} {w : Word} {f : State → Nat → Thread → Act}
    (he : exec i s = run i s f) (h : issues i s k t = true) (hf : f s k t = .trap s1 c w) : Traps i s s1 k c w t.pc := by
  rw [Traps, he, run_of_issues f h, hf]
  rfl

theorem traps_of_trapPast {i : Instr} {s s1 : State} {k c : Nat} {t : Thread} {w : Word} {f : State → Nat → Thread → Act}
    (he : exec i s = run i s f) (h : issues i s k t = true) (hf : f s k t = .trapPast s1 c w) :
    Traps i s s1 k c w (pcAdd t.pc (4 * wordsOf i)) := by
  rw [Traps, he, run_of_issues f h, hf]
  rfl

theorem waits_of_wait {i : Instr} {s s1 : State} {k : Nat} {t : Thread} {w : WaitReq} {f : State → Nat → Thread → Act}
    (he : exec i s = run i s f) (h : issues i s k t = true) (hf : f s k t = .wait s1 w) :
    exec i s = .next (tick (enterWait s1 k (wordsOf i) w)) := by
  rw [he, run_of_issues f h, hf]
  rfl

/-! The end of an instruction. -/

/-- Outside loops and single steps, completing moves the PC past the instruction and makes the thread ready. -/
theorem retire_straight {s : State} {k n : Nat} {t : Thread} (h : thr s k = some t) (hd : ldepthOf t = 0) :
    retire s k n false none = setThr s k { t with pc := pcAdd t.pc (4 * n), run := .ready, again := none } := by
  simp [retire, retireAt, h, loopEnd, hd]

/-- A transfer that may not end a loop body: the target is the next PC, resolved 4 clk later at the earliest. -/
theorem retire_jump {s : State} {k n : Nat} {t : Thread} (w : Word) (h : thr s k = some t) :
    retire s k n false (some (w, false)) = setThr s k
      { t with pc := w, run := .ready, again := none, earliest := max t.earliest (s.clk + 4) } := by
  simp [retire, retireAt, h]

theorem raise_eq_takeTrap {s : State} {k cause : Nat} {info tpc : Word} (h : cause ≠ 0x26) :
    raise s k cause info tpc = takeTrap s k cause info tpc := by
  simp only [raise, if_neg h]
  split
  · next hn => simp [takeTrap, hn]
  · rfl

/-- A trap that enters its handler, in one equation. -/
theorem takeTrap_enters {s : State} {k cause : Nat} {info tpc : Word} {t : Thread} (h : thr s k = some t)
    (hr : t.run = .ready) (hth : thOf t = false) (hv : getSpr t rTVEC ≠ 0) :
    takeTrap s k cause info tpc = setThr s k
      { setMode (setSpr (setSpr (setSpr (settle t) rTCAUSE (wd cause)) rTPC tpc) rTINFO info) 1 1 1 with
        pc := wd (bits (getSpr t rTVEC) 0 52), run := .ready, again := none, trapDue := none, trapOld := some (s.clk, t.pc, t.spr),
        earliest := max (s.clk + 4) (max (settleAt s t) t.earliest) } := by
  simp [takeTrap, h, hr, hth]
  exact fun e => absurd e hv

/-- A trap that does not is a kill. -/
theorem takeTrap_kills {s : State} {k cause : Nat} {info tpc : Word} {t : Thread} (h : thr s k = some t) (hr : t.run ≠ .ending)
    (hc : thOf t = true ∨ getSpr t rTVEC = 0) : takeTrap s k cause info tpc = killThread s k cause tpc tpc := by
  have hc' : (thOf t || getSpr t rTVEC == 0) = true := by simpa using hc
  simp only [takeTrap, h, hr, hc', if_true, if_false]

/-! The checks. -/

/-- What it means that no check stops an instruction with an encoding. -/
theorem gate_none {i : Instr} {e : Enc} {s : State} {k : Nat} {t : Thread} (he : enc i = some e) (h : gate i s k t = none) :
    (t.host && hostLacks e.op) = false ∧ (privilegedOp e.op && !supOf t) = false ∧
    (∀ x ∈ regFields e, x.2.2 < t.gsize ∨ isShadow t x.2.2 = true) ∧ (∀ x ∈ tileFields e, x.2.2.1 < t.tcount) ∧
    pendingUntil t ((regFields e).map (fun x => x.2.2) ++ impliedRegs e) ≤ s.clk ∧
    (∀ x ∈ tileFields e, mustWait (locksOf s k t) x.2.2.1 x.2.2.2 = false) := by
  simp only [gate, he] at h
  split at h
  · cases h
  · next h1 =>
    split at h
    · cases h
    · next h2 =>
      split at h
      · cases h
      · next h3 =>
        split at h
        · cases h
        · next h4 =>
          split at h
          · cases h
          · split at h
            · cases h
            · next h5 =>
              split at h
              · cases h
              · next h6 =>
                refine ⟨by simpa using h1, by simpa using h2, fun x hx => ?_, fun x hx => ?_, by omega, fun x hx => ?_⟩
                · have := List.find?_eq_none.mp h3 x hx
                  simp only [Bool.and_eq_true, decide_eq_true_eq, Bool.not_eq_true'] at this
                  by_cases hs : isShadow t x.2.2 = true
                  · exact .inr hs
                  · exact .inl (by rcases Nat.lt_or_ge x.2.2 t.gsize with g | g; exact g; exact absurd ⟨g, by simpa using hs⟩ this)
                · have := List.find?_eq_none.mp h4 x hx
                  simpa using this
                · have := List.find?_eq_none.mp h6 x hx
                  simpa using this

end Sys2Proof.Machine
end

