-- ==== Sys2Proof/Tests/Slice0.lean ====
section
/-! SUPPORT. Tests: words decoded, ill-formed terms, single steps of small states, and witnesses for the hypotheses of the
statements. Words are laid out from the spec's encodings (03 R62 to R69 and the opcode table); expected results are those of
the spec's own examples or worked out from its rules by hand. -/

set_option Elab.async false

namespace Sys2Proof.Tests

open Sys2Proof.Machine

/-! Decoding: one word for every encoded instruction, its fields set to D = 5, A = 6, B = 7 where it has them. -/

def decodes (l : List (List IWord × Instr)) : Bool := l.all (fun p => decide (decode false p.1 = .ok p.2 ∧ encode p.2 = p.1))

theorem test_decode_row0 : decodes [
    ([0x070C1404], .add ⟨5, 6, 7, false, .none⟩),
    ([0x070C1408], .sub ⟨5, 6, 7, false, .none⟩),
    ([0x070C140C], .mul ⟨5, 6, 7, false, .none⟩),
    ([0x070C1410], .mulh ⟨5, 6, 7, false, .none⟩),
    ([0x070C1414], .div ⟨5, 6, 7, false, .none⟩),
    ([0x070C1418], .rem ⟨5, 6, 7, false, .none⟩),
    ([0x070C141C], .and ⟨5, 6, 7, false, .none⟩),
    ([0x070C1420], .or ⟨5, 6, 7, false, .none⟩),
    ([0x070C1424], .xor ⟨5, 6, 7, false, .none⟩),
    ([0x070C1428], .shl ⟨5, 6, 7, false, .none⟩),
    ([0x070C142C], .shr ⟨5, 6, 7, false, .none⟩),
    ([0x070C1430], .sar ⟨5, 6, 7, false, .none⟩)] = true := by decide +kernel

theorem test_decode_row1 : decodes [
    ([0x070C1440], .min ⟨5, 6, 7, false, .none⟩),
    ([0x070C1444], .max ⟨5, 6, 7, false, .none⟩),
    ([0x070C1448], .slt ⟨5, 6, 7, false, .none⟩),
    ([0x070C144C], .sel ⟨5, 6, 7, false, .none⟩),
    ([0x070C1450], .addsat ⟨5, 6, 7, false, .none⟩),
    ([0x070C1454], .subsat ⟨5, 6, 7, false, .none⟩),
    ([0x000C1458], .clz ⟨5, 6, 0, false, .none⟩),
    ([0x070C145C], .bext ⟨5, 6, 7, false, .none⟩),
    ([0x070C1460], .bins ⟨5, 6, 7, false, .none⟩),
    ([0x070C1464], .lea ⟨5, 6, 7, false, .none⟩),
    ([0x00061468], .li ⟨5, 3, .none⟩)] = true := by decide +kernel

theorem test_decode_row2 : decodes [
    ([0x070C1480], .fadd ⟨5, 6, 7, false, .none⟩),
    ([0x070C1484], .fsub ⟨5, 6, 7, false, .none⟩),
    ([0x070C1488], .fmul ⟨5, 6, 7, false, .none⟩),
    ([0x070C148C], .ffma ⟨5, 6, 7, false, .none⟩),
    ([0x070C1490], .fdiv ⟨5, 6, 7, false, .none⟩),
    ([0x000C1494], .fsqrt ⟨5, 6, 0, false, .none⟩),
    ([0x070C1498], .fmin ⟨5, 6, 7, false, .none⟩),
    ([0x070C149C], .fmax ⟨5, 6, 7, false, .none⟩),
    ([0x070C14A0], .flt ⟨5, 6, 7, false, .none⟩),
    ([0x090C14A4], .fcvt ⟨5, 6, 9, false, .none⟩)] = true := by decide +kernel

theorem test_decode_row3 : decodes [
    ([0x090E18C0], .beq ⟨6, 7, 9, .none⟩),
    ([0x090E18C4], .bne ⟨6, 7, 9, .none⟩),
    ([0x090E18C8], .blt ⟨6, 7, 9, .none⟩),
    ([0x090E18CC], .bge ⟨6, 7, 9, .none⟩),
    ([0x000024D0], .jmp ⟨9, .none⟩),
    ([0x000024D4], .jal ⟨9, .none⟩),
    ([0x000C00D8], .jr ⟨0, 6, 0, false, .none⟩),
    ([0x800C14D8], .jrLink ⟨5, 6, 0, true, .none⟩),
    ([0x030C00DC], .loop ⟨0, 6, 3, false, .none⟩),
    ([0x0048D0E0], .nop ⟨4660, .none⟩),
    ([0x000000E4], .tend ⟨0, .none⟩),
    ([0x030000E8], .trap ⟨0, 0, 3, false, .none⟩),
    ([0x830000E8], .brk ⟨0, 0, 3, true, .none⟩),
    ([0x000000EC], .eret ⟨0, .none⟩),
    ([0x000000F0], .uiret ⟨0, .none⟩)] = true := by decide +kernel

theorem test_decode_row4 : decodes [
    ([0x030C1500], .ld8 ⟨5, 6, 3, false, .none⟩),
    ([0x030C1504], .ld16 ⟨5, 6, 3, false, .none⟩),
    ([0x030C1508], .ld32 ⟨5, 6, 3, false, .none⟩),
    ([0x030C150C], .ld64 ⟨5, 6, 3, false, .none⟩),
    ([0x030C1510], .st8 ⟨5, 6, 3, false, .none⟩),
    ([0x030C1514], .st16 ⟨5, 6, 3, false, .none⟩),
    ([0x030C1518], .st32 ⟨5, 6, 3, false, .none⟩),
    ([0x030C151C], .st64 ⟨5, 6, 3, false, .none⟩),
    ([0x030C1520], .ldacq ⟨5, 6, 3, false, .none⟩),
    ([0x030C1524], .strel ⟨5, 6, 3, false, .none⟩),
    ([0x030C1528], .ldfe ⟨5, 6, 3, false, .none⟩),
    ([0x030C152C], .stfe ⟨5, 6, 3, false, .none⟩),
    ([0x030C1530], .fechk ⟨5, 6, 3, false, .none⟩),
    ([0x03000134], .fence ⟨0, 0, 3, false, .none⟩),
    ([0x070C0138], .cachectl ⟨0, 6, 7, false, .none⟩)] = true := by decide +kernel

theorem test_decode_row5 : decodes [
    ([0x070C1540], .amoadd ⟨5, 6, 7, false, .none⟩),
    ([0x070C1544], .amobit ⟨5, 6, 7, false, .none⟩),
    ([0x070C1548], .amomin ⟨5, 6, 7, false, .none⟩),
    ([0x070C154C], .amomax ⟨5, 6, 7, false, .none⟩),
    ([0x070C1550], .amoswap ⟨5, 6, 7, false, .none⟩),
    ([0x070C1554], .cas ⟨5, 6, 7, false, .none⟩),
    ([0x070C1558], .faddaU ⟨5, 6, 7, false, .none⟩),
    ([0x870C0158], .faddaO ⟨0, 6, 7, true, .none⟩),
    ([0x070C155C], .fmaxa ⟨5, 6, 7, false, .none⟩),
    ([0x000C0160], .acq ⟨0, 6, 0, false, .none⟩),
    ([0x800C0160], .acqSh ⟨0, 6, 0, true, .none⟩),
    ([0x000C0164], .rel ⟨0, 6, 0, false, .none⟩),
    ([0x070C1568], .bmove ⟨5, 6, 7, false, .none⟩),
    ([0x070C156C], .bfill ⟨5, 6, 7, false, .none⟩)] = true := by decide +kernel

theorem test_decode_row6 : decodes [
    ([0x07001580], .tcfgWrite ⟨5, 0, 7, false, .none⟩),
    ([0x800C1580], .tcfgRead ⟨5, 6, 0, true, .none⟩),
    ([0x070C1584], .tld ⟨5, 6, 7, false, .none⟩),
    ([0x070C1588], .tst ⟨5, 6, 7, false, .none⟩),
    ([0x070C158C], .tgather ⟨5, 6, 7, false, .none⟩),
    ([0x070C1590], .tscatter ⟨5, 6, 7, false, .none⟩),
    ([0x070C1594], .tscaddU ⟨5, 6, 7, false, .none⟩),
    ([0x870C1594], .tscaddO ⟨5, 6, 7, true, .none⟩),
    ([0x070C1598], .tmovr ⟨5, 6, 7, false, .none⟩),
    ([0x070C159C], .tmovs ⟨5, 6, 7, false, .none⟩),
    ([0x070015A0], .tbcast ⟨5, 0, 7, false, .none⟩)] = true := by decide +kernel

theorem test_decode_row7 : decodes [
    ([0x070C15C0], .vadd ⟨5, 6, 7, false, .none⟩),
    ([0x070C15C4], .vsub ⟨5, 6, 7, false, .none⟩),
    ([0x070C15C8], .vmul ⟨5, 6, 7, false, .none⟩),
    ([0x070C15CC], .vfma ⟨5, 6, 7, false, .none⟩),
    ([0x070C15D0], .vmin ⟨5, 6, 7, false, .none⟩),
    ([0x070C15D4], .vmax ⟨5, 6, 7, false, .none⟩),
    ([0x070C15D8], .vlog ⟨5, 6, 7, false, .none⟩),
    ([0x070C15DC], .vshr ⟨5, 6, 7, false, .none⟩),
    ([0x070C15E0], .vcmp ⟨5, 6, 7, false, .none⟩),
    ([0x070C15E4], .vsel ⟨5, 6, 7, false, .none⟩),
    ([0x000C15E8], .vcvt ⟨5, 6, 0, false, .none⟩),
    ([0x000C15EC], .vrecip ⟨5, 6, 0, false, .none⟩)] = true := by decide +kernel

theorem test_decode_row8 : decodes [
    ([0x000C1600], .vrsqrt ⟨5, 6, 0, false, .none⟩),
    ([0x000C1604], .vexp2 ⟨5, 6, 0, false, .none⟩),
    ([0x000C1608], .vred ⟨5, 6, 0, false, .none⟩),
    ([0x000C160C], .vargmax ⟨5, 6, 0, false, .none⟩),
    ([0x870C1610], .vquant ⟨5, 6, 7, true, .none⟩),
    ([0x000C1614], .vdeq ⟨5, 6, 0, false, .none⟩),
    ([0x070C1618], .bqadd ⟨5, 6, 7, false, .none⟩),
    ([0x070C161C], .mma ⟨5, 6, 7, false, .none⟩),
    ([0x070C1620], .mmasp ⟨5, 6, 7, false, .none⟩)] = true := by decide +kernel

theorem test_decode_row9 : decodes [
    ([0x000C1640], .tlook ⟨5, 6, 0, false, .none⟩),
    ([0x070C1644], .tset ⟨5, 6, 7, false, .none⟩),
    ([0x87001644], .tsetInvalidate ⟨5, 0, 7, true, .none⟩),
    ([0x070C1648], .bfmt ⟨5, 6, 7, false, .none⟩),
    ([0x800C1648], .bfmtRead ⟨5, 6, 0, true, .none⟩),
    ([0x070C164C], .sgset ⟨5, 6, 7, false, .none⟩),
    ([0x000C1650], .probe ⟨5, 6, 0, false, .none⟩)] = true := by decide +kernel

theorem test_decode_rowA : decodes [
    ([0x000C1680], .spawn ⟨5, 6, 0, false, .none⟩),
    ([0x000C1684], .take ⟨5, 6, 0, false, .none⟩),
    ([0x000C0288], .gjoin ⟨0, 6, 0, false, .none⟩),
    ([0x000C028C], .gleave ⟨0, 6, 0, false, .none⟩),
    ([0x000C1690], .gbar ⟨5, 6, 0, false, .none⟩),
    ([0x070C1694], .tcadd ⟨5, 6, 7, false, .none⟩),
    ([0x070C1698], .tcwait ⟨5, 6, 7, false, .none⟩),
    ([0x070C169C], .tcset ⟨5, 6, 7, false, .none⟩),
    ([0x070C02A0], .csend ⟨0, 6, 7, false, .none⟩),
    ([0x000C16A4], .crecv ⟨5, 6, 0, false, .none⟩),
    ([0x000C16A8], .cpoll ⟨5, 6, 0, false, .none⟩),
    ([0x000C16AC], .launch ⟨5, 6, 0, false, .none⟩)] = true := by decide +kernel

theorem test_decode_rowB : decodes [
    ([0x070C16C0], .fork ⟨5, 6, 7, false, .none⟩),
    ([0x070C16C4], .choose ⟨5, 6, 7, false, .none⟩),
    ([0x800C16C4], .chooseMin ⟨5, 6, 0, true, .none⟩),
    ([0x000C02C8], .wend ⟨0, 6, 0, false, .none⟩),
    ([0x000C16CC], .wjoin ⟨5, 6, 0, false, .none⟩)] = true := by decide +kernel

theorem test_decode_rowC : decodes [
    ([0x070C0300], .kick ⟨0, 6, 7, false, .none⟩),
    ([0x070C1704], .binit ⟨5, 6, 7, false, .none⟩),
    ([0x070C1708], .bwait ⟨5, 6, 7, false, .none⟩),
    ([0x000C170C], .btest ⟨5, 6, 0, false, .none⟩),
    ([0x070C1710], .seqwait ⟨5, 6, 7, false, .none⟩),
    ([0x000C1714], .publish ⟨5, 6, 0, false, .none⟩)] = true := by decide +kernel

theorem test_decode_rowD : decodes [
    ([0x830C1740], .sread ⟨5, 6, 3, true, .none⟩),
    ([0x030C1740], .sreadStatus ⟨5, 6, 3, false, .none⟩),
    ([0x030C1744], .swrite ⟨5, 6, 3, false, .none⟩),
    ([0x00001748], .cwait ⟨5, 0, 0, false, .none⟩),
    ([0x0000174C], .rdptp ⟨5, 0, 0, false, .none⟩),
    ([0x00001750], .rdcyc ⟨5, 0, 0, false, .none⟩)] = true := by decide +kernel

theorem test_decode_rowE : decodes [
    ([0x03001780], .mfs ⟨5, 0, 3, .none⟩),
    ([0x030C0384], .mts ⟨0, 6, 3, .none⟩),
    ([0x070C1788], .sbindWrite ⟨5, 6, 7, false, .none⟩),
    ([0x800C1788], .sbindRead ⟨5, 6, 0, true, .none⟩),
    ([0x070C178C], .slotwWrite ⟨5, 6, 7, false, .none⟩),
    ([0x800C178C], .slotwRead ⟨5, 6, 0, true, .none⟩),
    ([0x000C0390], .ptinv ⟨0, 6, 0, false, .none⟩),
    ([0x070C0394], .mbsend ⟨0, 6, 7, false, .none⟩),
    ([0x000C1798], .mbrecv ⟨5, 6, 0, false, .none⟩),
    ([0x000C179C], .spill ⟨5, 6, 0, false, .none⟩),
    ([0x070C17A0], .fill ⟨5, 6, 7, false, .none⟩)] = true := by decide +kernel

/-- The forms that MOD selects, in three words. -/
theorem test_decode_mod : decodes [
    ([0x070C169A, 0x00000001, 0], .tcwaitArm ⟨5, 6, 7, false, .ext ⟨1, 0, 0x0, 0, 0, 0, 0, false⟩⟩),
    ([0x000C169A, 0x00000002, 0], .tcwaitDisarm ⟨5, 6, 0, false, .ext ⟨2, 0, 0x0, 0, 0, 0, 0, false⟩⟩),
    ([0x070C170A, 0x00000001, 0], .bwaitArm ⟨5, 6, 7, false, .ext ⟨1, 0, 0x0, 0, 0, 0, 0, false⟩⟩),
    ([0x000C170A, 0x00000002, 0], .bwaitDisarm ⟨5, 6, 0, false, .ext ⟨2, 0, 0x0, 0, 0, 0, 0, false⟩⟩),
    ([0x00000392, 0x00000001, 0], .ptinvAll ⟨0, 0, 0, false, .ext ⟨1, 0, 0x0, 0, 0, 0, 0, false⟩⟩),
    ([0x0000179A, 0x00000001, 0], .mbrecvArm ⟨5, 0, 0, false, .ext ⟨1, 0, 0x0, 0, 0, 0, 0, false⟩⟩),
    ([0x0000179A, 0x00000002, 0], .mbrecvDisarm ⟨5, 0, 0, false, .ext ⟨2, 0, 0x0, 0, 0, 0, 0, false⟩⟩)] = true := by decide +kernel

/-- Literals, IMM16, a mask, and both (03 R59, R60, R63, R66, R67, R69). -/
theorem test_decode_tails : decodes [
    ([0x000C1405, 0x55667788, 0x11223344], .add ⟨5, 6, 0, false, .lit 0x1122334455667788⟩),
    ([0x800C1406, 0x80010000, 0], .add ⟨5, 6, 0, true, .ext ⟨0, 0, 0x8001, 0, 0, 0, 0, false⟩⟩),
    ([0x000C150E, 0xFFF80000, 0], .ld64 ⟨5, 6, 0, false, .ext ⟨0, 0, 0xFFF8, 0, 0, 0, 0, false⟩⟩),
    ([0x030405C2, 0x00000001, 0x00230000], .vadd ⟨1, 2, 3, false, .ext ⟨1, 0, 0x0, 0, 0, 0, 3, true⟩⟩),
    ([0x800405E7, 0x00000400, 0, 0x00000001, 0x80000000], .vsel ⟨1, 2, 0, true, .extLit ⟨0, 4, 0, 0, 0, 0, 0, false⟩ 0x8000000000000001⟩)] = true := by decide +kernel

/-- Words refused, by cause and place (03 R73): a reserved opcode, an opcode the host lacks, a must-be-zero bit, a form with no
meaning, an undefined MOD, hint word [12], and an instruction cut short. -/
theorem test_decode_refused :
    decode false [0x000003FC] = .bad 0x01 0 2 ∧ decode true [0x030405C0] = .bad 0x01 0 2 ∧ decode false [0x870C140C] = .bad 0x02 0 31 ∧
    decode false [0xC00C1428] = .bad 0x07 0 24 ∧ decode false [0x070C1406, 0x00000001, 0] = .bad 0x07 1 0 ∧
    decode false [0x070C1406, 0x00000000, 0x00001000] = .bad 0x03 2 12 ∧ decode false [0x070C1406, 0] = .short 1 := by decide +kernel

/-! Well-formedness: for each check an ill-formed term, beside a well-formed one that differs in that alone. -/

def xt (mod : BitVec 8) (c : BitVec 7) (imm : BitVec 16) : Tail := .ext ⟨mod, c, imm, 0, 0, 0, 0, false⟩

def apart (good bad : Instr) : Bool := WellFormed good && !WellFormed bad

/-- Forms (03 R73 step 5). -/
theorem test_illformed_forms :
    (apart (.fadd ⟨5, 6, 0, false, .lit 1⟩) (.fsqrt ⟨5, 6, 0, false, .lit 1⟩) &&
     apart (.add ⟨5, 6, 0, false, .lit 1⟩) (.add ⟨5, 6, 0, true, .lit 1⟩) &&
     apart (.shl ⟨5, 6, 63, true, .none⟩) (.shl ⟨5, 6, 64, true, .none⟩) &&
     apart (.shl ⟨5, 6, 0, true, xt 0 0 63⟩) (.shl ⟨5, 6, 0, true, xt 0 0 64⟩) &&
     apart (.fcvt ⟨5, 6, 17, false, .none⟩) (.fcvt ⟨5, 6, 18, false, .none⟩) &&
     apart (.fence ⟨0, 0, 4, false, .none⟩) (.fence ⟨0, 0, 5, false, .none⟩) &&
     apart (.faddaO ⟨0, 6, 7, true, .none⟩) (.faddaO ⟨5, 6, 7, true, .none⟩) &&
     apart (.sgset ⟨7, 6, 7, false, .none⟩) (.sgset ⟨8, 6, 7, false, .none⟩) &&
     apart (.vadd ⟨1, 2, 0, true, .lit 1⟩) (.vadd ⟨1, 2, 0, false, .lit 1⟩) &&
     apart (.vquant ⟨1, 2, 0, true, .lit 1⟩) (.vquant ⟨1, 2, 0, false, .lit 1⟩) &&
     apart (.slt ⟨5, 6, 7, false, xt 1 0 0⟩) (.slt ⟨5, 6, 7, false, xt 2 0 0⟩) &&
     apart (.fcvt ⟨5, 6, 0, false, xt 4 0 0⟩) (.fcvt ⟨5, 6, 0, false, xt 1 0 0⟩) &&
     apart (.amoadd ⟨5, 6, 7, false, xt 16 0 0⟩) (.amoadd ⟨5, 6, 7, false, xt 32 0 0⟩) &&
     apart (.vadd ⟨1, 2, 3, false, .ext ⟨0, 0, 0, 0, 0, 0, 4, true⟩⟩) (.mma ⟨1, 2, 3, false, .ext ⟨0, 0, 0, 0, 0, 0, 4, true⟩⟩)) = true := by
  decide +kernel

/-- Must-be-zero fields (03 R73 step 6), and terms of no encoding. -/
theorem test_illformed_zeros :
    (apart (.jr ⟨0, 6, 0, false, .none⟩) (.jr ⟨1, 6, 0, false, .none⟩) &&
     apart (.cwait ⟨5, 0, 0, false, .none⟩) (.cwait ⟨5, 1, 0, false, .none⟩) &&
     apart (.clz ⟨5, 6, 0, false, .none⟩) (.clz ⟨5, 6, 1, false, .none⟩) &&
     apart (.mul ⟨5, 6, 7, false, .none⟩) (.mul ⟨5, 6, 7, true, .none⟩) &&
     apart (.jrLink ⟨5, 6, 0, true, .none⟩) (.jrLink ⟨5, 6, 0, false, .none⟩) &&
     apart (.add ⟨5, 6, 0, false, .lit 1⟩) (.add ⟨5, 6, 7, false, .lit 1⟩) &&
     apart (.add ⟨5, 6, 0, true, xt 0 0 1⟩) (.add ⟨5, 6, 1, true, xt 0 0 1⟩) &&
     apart (.ld64 ⟨5, 6, 0, false, xt 0 0 1⟩) (.ld64 ⟨5, 6, 1, false, xt 0 0 1⟩) &&
     apart (.beq ⟨5, 6, 0, xt 0 0 1⟩) (.beq ⟨5, 6, 1, xt 0 0 1⟩) &&
     apart (.jmp ⟨0, xt 0 0 1⟩) (.jmp ⟨1, xt 0 0 1⟩) &&
     apart (.li ⟨5, 0, xt 0 0 1⟩) (.li ⟨5, 1, xt 0 0 1⟩) &&
     apart (.fechk ⟨5, 6, 0, false, xt 0 9 0⟩) (.ld64 ⟨5, 6, 0, false, xt 0 9 0⟩) &&
     apart (.lea ⟨5, 6, 7, false, xt 0 0 1⟩) (.sub ⟨5, 6, 7, false, xt 0 0 1⟩) &&
     apart (.vadd ⟨1, 2, 3, false, xt 0 0 0⟩) (.vadd ⟨1, 2, 3, false, .ext ⟨0, 0, 0, 0, 0, 0, 4, false⟩⟩) &&
     apart (.eret ⟨0, .none⟩) (.eret ⟨1, .none⟩) && apart (.nop ⟨1, .none⟩) (.boot) &&
     apart (.tcwaitArm ⟨5, 6, 7, false, xt 1 0 0⟩) (.tcwaitArm ⟨5, 6, 7, false, .none⟩)) = true := by
  decide +kernel

/-! Small states. -/

/-- A valid segment with every right. -/
def seg (base limit : Nat) : BitVec 128 := BitVec.ofNat 128 (base + 2 ^ 52 + limit * 2 ^ 64 + 63 * 2 ^ 116)

/-- A thread of core 0 at 0x1000 with 64 registers and 8 tiles; sg0 covers every address, sg1 has no rights, sg2 is invalid. -/
def th (gpr spr : Tab Word) : Thread :=
  { host := false, pc := 0x1000, gbase := 0, gsize := 64, tbase := 0, tcount := 8, gpr := gpr, tiles := [],
    segs := [(0, seg 0 (2 ^ 52 - 1)), (1, BitVec.ofNat 128 (2 ^ 52 + 0xFF * 2 ^ 64))], shadow := [], spr := spr, uiq := [],
    uiAt := 0, uiNew := 0, again := none, trapDue := none, trapOld := none, stamps := [], run := .ready, earliest := 0, flight := [], sb := [], fpUntil := 0, mailAt := 0, stAccept := 0, stPerform := 0,
    groups := [], held := [], barArm := none, lastIssue := none, placedAt := 0, share := none, node := none, rival := 0,
    sprout := false, released := false, deferred := [], park := .none, auditSkip := false }

/-- The machine with core 0 in partition 0, bound to one slab, and one thread, which issues. -/
def mc (t : Thread) : State :=
  { State.reset with
    agenda := [], threads := [(0, t)], cur := some 0, ctl := [(remapHdr 0, 1)], binding := [(0, 0xFFFFFFFFFFFF0000)] }

/-- A host thread, and its machine. -/
def hostTh (gpr spr : Tab Word) : Thread := { th gpr spr with host := true, tcount := 0 }
def mcHost (t : Thread) : State := { mc t with threads := [(8192, t)], cur := some 8192 }

/-- Thread 0 of a state issues an instruction. -/
def can (s : State) (i : Instr) : Bool :=
  match thr s 0 with
  | some t => issues i s 0 t
  | none => false

/-- An instruction gives a next state that has a property. -/
def gives (s : State) (i : Instr) (p : State → Bool) : Bool :=
  match exec i s with
  | .next u => p u
  | _ => false

/-- Register n of thread 0, as a consumer will read it once every result has arrived. -/
def reg (u : State) (n : Nat) : Word := ((thr u 0).map (fun t => gprOf (settle t) n)).getD 0
def spr (u : State) (n : Nat) : Word := ((thr u 0).map (fun t => getSpr t n)).getD 0
def pcAt (u : State) : Word := ((thr u 0).map (fun t => t.pc)).getD 0

/-- A trap handler's address in TVEC. -/
def vec : Tab Word := [(rTVEC, 0x8000)]

/-- The trap taken: cause, information, TPC. -/
def trapped (u : State) (c i p : Word) : Bool :=
  spr u rTCAUSE == c && spr u rTINFO == i && spr u rTPC == p && pcAt u == 0x8000 && bit (spr u rMODE) 1

/-- R format on D = 5, A = 6, B = 7, with Q, and with a tail. -/
def r : RForm := ⟨5, 6, 7, false, .none⟩
def rq : RForm := ⟨5, 6, 7, true, .none⟩
def ra : RForm := ⟨5, 6, 0, false, .none⟩
def rt (t : Tail) : RForm := ⟨5, 6, 7, false, t⟩
def m : MForm := ⟨5, 6, 0, false, .none⟩

/-! Integer opcodes (06): the spec's worked cases. -/

def ab (a b : Word) : State := mc (th [(6, a), (7, b)] vec)

theorem test_add_wraps : gives (ab 0xFFFFFFFFFFFFFFFF 2) (.add r) (fun u => reg u 5 == 1 && pcAt u == 0x1004) = true := by decide +kernel
theorem test_sub_wraps : gives (ab 0 1) (.sub r) (fun u => reg u 5 == 0xFFFFFFFFFFFFFFFF) = true := by decide +kernel
theorem test_and_imm : gives (ab 0xF0F0 0) (.and ⟨5, 6, 0x7F, true, .none⟩) (fun u => reg u 5 == 0x70) = true := by decide +kernel
theorem test_min_signed : gives (ab 5 0) (.min ⟨5, 6, 0x7F, true, .none⟩) (fun u => reg u 5 == 0xFFFFFFFFFFFFFFFF) = true := by decide +kernel
theorem test_min_unsigned :
    gives (ab 5 0) (.min ⟨5, 6, 0, true, xt 1 0 0xFFFF⟩) (fun u => reg u 5 == 5) = true := by decide +kernel
theorem test_addsat_signed :
    gives (ab 0x7FFFFFFFFFFFFFF0 100) (.addsat r) (fun u => reg u 5 == 0x7FFFFFFFFFFFFFFF) = true := by decide +kernel
theorem test_subsat_unsigned : gives (ab 3 5) (.subsat (rt (xt 1 0 0))) (fun u => reg u 5 == 0) = true := by decide +kernel
theorem test_slt_unsigned : gives (ab 0xFFFFFFFFFFFFFFFF 1) (.slt (rt (xt 1 0 0))) (fun u => reg u 5 == 0) = true := by decide +kernel
theorem test_sar_top : gives (ab 0x8000000000000000 63) (.sar r) (fun u => reg u 5 == 0xFFFFFFFFFFFFFFFF) = true := by decide +kernel
theorem test_shl_traps : gives (ab 1 64) (.shl r) (fun u => trapped u 0x07 64 0x1000 && reg u 5 == 0) = true := by decide +kernel
theorem test_mulh_mixed :
    gives (ab 0xFFFFFFFFFFFFFFFF 0xFFFFFFFFFFFFFFFF) (.mulh (rt (xt 2 0 0))) (fun u => reg u 5 == 0xFFFFFFFFFFFFFFFF) = true := by
  decide +kernel
theorem test_div_overflow :
    gives (ab 0x8000000000000000 0xFFFFFFFFFFFFFFFF) (.div r) (fun u => reg u 5 == 0x8000000000000000) = true := by decide +kernel
theorem test_rem_sign : gives (ab 0xFFFFFFFFFFFFFFF9 2) (.rem r) (fun u => reg u 5 == 0xFFFFFFFFFFFFFFFF) = true := by decide +kernel
theorem test_div_zero : gives (ab 7 0) (.div r) (fun u => trapped u 0x0D 0 0x1000) = true := by decide +kernel
theorem test_bext : gives (ab 0x0F70 0x0804) (.bext r) (fun u => reg u 5 == 0xF7) = true := by decide +kernel
theorem test_bext_signed : gives (ab 0x0F70 0x0804) (.bext rq) (fun u => reg u 5 == 0xFFFFFFFFFFFFFFF7) = true := by decide +kernel
theorem test_bins : gives (ab 0xAB 0x0804) (.bins r) (fun u => reg u 5 == 0xAB0) = true := by decide +kernel
theorem test_bins_traps : gives (ab 0xAB 0x4001) (.bins r) (fun u => trapped u 0x1E 0x4001 0x1000) = true := by decide +kernel
theorem test_lea : gives (ab 0x100 3) (.lea (rt (xt 3 0 0xFFFF))) (fun u => reg u 5 == 0x117) = true := by decide +kernel
theorem test_clz_zero : gives (ab 0 0) (.clz ra) (fun u => reg u 5 == 64) = true := by decide +kernel
theorem test_sel_discard : gives (ab 1 2) (.sel ⟨0, 6, 7, false, .none⟩) (fun u => reg u 0 == 0 && pcAt u == 0x1004) = true := by decide +kernel
theorem test_li_negative : gives (ab 0 0) (.li ⟨5, 0x7FFF, .none⟩) (fun u => reg u 5 == 0xFFFFFFFFFFFFFFFF) = true := by decide +kernel

/-! Witnesses: integer, floating and control-flow statements. -/

def all (s : State) (l : List Instr) : Bool := l.all (can s)

theorem witness_IntegerResults :
    (straight (th [(6, 1), (7, 63)] vec) &&
     all (ab 1 63) [.add r, .sub r, .and r, .or r, .xor r, .shl r, .shr r, .sar r, .min r, .max r, .slt r, .mul r, .li ⟨5, 1, .none⟩,
       .mulh r, .mulh (rt (xt 1 0 0)), .mulh (rt (xt 2 0 0))] &&
     opbAlu (ab 1 63) (th [(6, 1), (7, 63)] vec) r false == 63) = true := by decide +kernel

theorem witness_SaturatingArithmetic : all (ab 1 63) [.addsat r, .subsat r, .addsat (rt (xt 1 0 0)), .subsat rq] = true := by decide +kernel

theorem witness_LeadingZeros : (all (ab 0 0) [.clz ra] && all (ab 1 0) [.clz ra] && tailMod (xt 1 0 0) != 0) = true := by decide +kernel

theorem witness_FieldsAndAddresses :
    (all (ab 1 0x4000) [.bext r, .bext rq, .bins r, .lea r] && !fieldBad 0x4000 && !fieldBad 0x013F) = true := by decide +kernel

theorem witness_SelectResult : all (ab 1 2) [.sel r, .sel ⟨0, 6, 7, false, .none⟩, .sel ⟨6, 6, 7, false, .none⟩] = true := by decide +kernel

theorem witness_IntegerTrapsAndDivision :
    (all (ab 1 64) [.shl r, .shr r, .sar r, .div r, .rem r, .bext r, .bins r] && fieldBad 64 && all (ab 1 0) [.div r, .rem r]) = true := by
  decide +kernel

/-- FPCTL with traps for invalid operation (2) and overflow (4) enabled. -/
def fpTraps : Thread := th [(6, 0x7FF0000000000001), (7, 0x3FF0000000000000)] [(rTVEC, 0x8000), (rFPCTL, 0x14)]
def fpBig : Thread := th [(6, 0x7FEFFFFFFFFFFFFF), (7, 0x7FEFFFFFFFFFFFFF)] [(rTVEC, 0x8000), (rFPCTL, 0x14)]

theorem test_fadd_inexact :
    gives (ab 0x3FF0000000000000 0x4000000000000000) (.fadd r) (fun u => reg u 5 == 0x4008000000000000 && spr u rFPFLAGS == 0) = true := by
  decide +kernel
theorem test_fdiv_by_zero :
    gives (ab 0x3FF0000000000000 0x8000000000000000) (.fdiv r) (fun u => reg u 5 == 0xFFF0000000000000 && spr u rFPFLAGS == 2) = true := by
  decide +kernel
theorem test_fadd_invalid_traps :
    gives (mc fpTraps) (.fadd r) (fun u => u.agenda == [(8, .trapEntry 0 0x1C 0 0x1000)] && spr u rFPFLAGS == 1 && reg u 5 == 0) = true := by decide +kernel
theorem test_fmin_zeros :
    gives (ab 0x8000000000000000 0) (.fmin r) (fun u => reg u 5 == 0x8000000000000000) = true := by decide +kernel

theorem witness_FloatResults :
    (all (ab 0x3FF0000000000000 0x4000000000000000) [.fadd r, .fsub r, .fmul r, .ffma r, .fdiv r, .fsqrt ra, .fmin r, .fmax r, .flt r,
       .fcvt ⟨5, 6, 0, false, .none⟩, .fadd rq, .fdiv rq, .fsqrt ⟨5, 6, 0, true, .none⟩] &&
     fpCause 0 (fpAdd fp64 0 0x3FF0000000000000 0x4000000000000000).flags == none &&
     fpCause 0 (fpDiv fp64 0 0x3FF0000000000000 0).flags == none &&
     can (mc fpTraps) (.fadd r) && fpCause (fpctlOf fpTraps) (fpAdd fp64 0 0x7FF0000000000001 0x3FF0000000000000).flags == some 0x1C &&
     can (mc fpBig) (.fadd r) && (fpCause (fpctlOf fpBig) (fpAdd fp64 0 0x7FEFFFFFFFFFFFFF 0x7FEFFFFFFFFFFFFF).flags).isSome) = true := by
  decide +kernel

theorem test_beq_taken : gives (ab 4 4) (.beq ⟨6, 7, 0xFE, .none⟩) (fun u => pcAt u == 0xFF8) = true := by decide +kernel
theorem test_jal_link : gives (ab 4 4) (.jal ⟨4, .none⟩) (fun u => pcAt u == 0x1010 && reg u 1 == 0x1004) = true := by decide +kernel
theorem test_jr_traps : gives (ab 0x10000000000000 0) (.jr ⟨0, 6, 0, false, .none⟩) (fun u => trapped u 0x22 0x10000000000000 0x1000) = true := by
  decide +kernel

theorem witness_ControlTransfers :
    (all (ab 4 4) [.beq ⟨6, 7, 2, .none⟩, .bne ⟨6, 7, 2, .none⟩, .blt ⟨6, 7, 2, .none⟩, .bge ⟨6, 7, 0, xt 1 0 2⟩, .jmp ⟨4, .none⟩, .jal ⟨4, .none⟩,
       .jr ⟨0, 6, 0, false, .none⟩, .jrLink ⟨5, 6, 0, true, .none⟩, .nop ⟨0, .none⟩] &&
     all (ab 0x10000000000000 4) [.jr ⟨0, 6, 0, false, .none⟩, .jrLink ⟨5, 6, 0, true, .none⟩]) = true := by decide +kernel

/-- A thread in n loops whose innermost, at level n − 1, ends at the instruction at 0x1000. -/
def looping (n count : Nat) : Thread :=
  th [] [(rMODE, BitVec.ofNat 64 (n * 16)), (rLOOPCNT + (n - 1), BitVec.ofNat 64 count), (rLOOPTOP + (n - 1), 0x800),
    (rLOOPEND + (n - 1), 0x1000)]

def lp (t : Tail) : MForm := ⟨0, 6, 0, false, t⟩

theorem test_loop_skips : gives (ab 0 0) (.loop ⟨0, 6, 8, false, .none⟩) (fun u => pcAt u == 0x1020) = true := by decide +kernel
theorem test_loop_again : gives (mc (looping 1 3)) (.nop ⟨0, .none⟩) (fun u => pcAt u == 0x800 && spr u rLOOPCNT == 2) = true := by decide +kernel

theorem witness_HardwareLoops :
    (can (ab 0x100000000 0) (.loop ⟨0, 6, 8, false, .none⟩) && can (ab 1 0) (.loop ⟨0, 6, 0, false, .none⟩) &&
     can (ab 0 0) (.loop ⟨0, 6, 8, false, .none⟩) && can (ab 1 0) (.loop ⟨0, 6, 8, false, .none⟩) &&
     can (mc { looping 4 9 with gpr := [(6, 1)] }) (.loop ⟨0, 6, 8, false, .none⟩) && ldepthOf (looping 4 9) == 4 &&
     ldepthOf (looping 1 2) == 1 && ldepthOf (looping 4 1) == 4 && pcAdd 0x1000 4 == pcAdd (getSpr (looping 1 1) rLOOPEND) 4) = true := by
  decide +kernel

/-! Traps, returns and special registers. -/

def mode (n : Nat) : Thread := th [(6, 0x54)] [(rMODE, BitVec.ofNat 64 n), (rTVEC, 0x8000), (rTPC, 0x2000), (rUIPC, 0x3000)]

theorem test_trap : gives (mc (mode 0)) (.trap ⟨0, 0, 0x7F, false, .none⟩) (fun u => trapped u 0x08 0xFFFFFFFFFFFFFFFF 0x1004) = true := by
  decide +kernel
theorem test_eret : gives (mc (mode 2)) (.eret ⟨0, .none⟩) (fun u => pcAt u == 0x2000 && spr u rMODE == 0) = true := by decide +kernel
theorem test_eret_outside : gives (mc (mode 0)) (.eret ⟨0, .none⟩) (fun u => trapped u 0x0F 0 0x1000) = true := by decide +kernel
theorem test_uiret : gives (mc (mode 4)) (.uiret ⟨0, .none⟩) (fun u => pcAt u == 0x3000 && spr u rMODE == 0) = true := by decide +kernel
theorem test_mts_mode : gives (mc (mode 0)) (.mts ⟨0, 6, 0x08, .none⟩) (fun u => trapped u 0x18 0x08 0x1000) = true := by decide +kernel
theorem test_mfs_pc : gives (mc (mode 0)) (.mfs ⟨5, 0, 0, .none⟩) (fun u => reg u 5 == 0x1000) = true := by decide +kernel
theorem test_single_step :
    gives (mc (mode 0x80)) (.nop ⟨0, .none⟩) (fun u => trapped u 0x0A 0x1000 0x1004) = true := by decide +kernel

theorem witness_TrapEntry :
    (!thOf (mode 0) && getSpr (mode 0) rTVEC != 0 && thr (mc (mode 0)) 0 == some (mode 0) && thOf (mode 2) &&
     getSpr (th [] []) rTVEC == 0 && (mode 2).rival == 0) = true := by decide +kernel

theorem witness_SoftwareTrapsAndReturns :
    (all (mc (mode 0)) [.trap ⟨0, 0, 0x7F, false, .none⟩, .brk ⟨0, 0, 0, true, .none⟩, .eret ⟨0, .none⟩, .uiret ⟨0, .none⟩] &&
     can (mc (mode 2)) (.eret ⟨0, .none⟩) && thOf (mode 2) && can (mc (mode 4)) (.uiret ⟨0, .none⟩) && uihOf (mode 4) &&
     can (mc (mode 6)) (.uiret ⟨0, .none⟩) && uihOf (mode 6) && thOf (mode 6)) = true := by decide +kernel

def flagsLate : Thread := { mode 0 with fpUntil := 0 }

theorem witness_SpecialReads :
    (all (mc (mode 0)) [.mfs ⟨5, 0, 0x2C, .none⟩, .mfs ⟨5, 0, 0x7F, .none⟩, .mfs ⟨5, 0, 0x8E, .none⟩, .mfs ⟨5, 0, 0x80, .none⟩,
       .mfs ⟨5, 0, 0x8D, .none⟩, .mfs ⟨5, 0, 0x2B, .none⟩, .mfs ⟨5, 0, 0x22, .none⟩] &&
     !supOf (mode 0) && supOf (mode 1) && can (mc (mode 1)) (.mfs ⟨5, 0, 0x8D, .none⟩) && !flagsDue (mc (mode 0)) 0 (mode 0) &&
     (hostTh [] []).host) = true := by decide +kernel

theorem witness_SpecialWrites :
    (all (mc (mode 0)) [.mts ⟨0, 6, 0x2C, .none⟩, .mts ⟨0, 6, 0x80, .none⟩, .mts ⟨0, 6, 0x01, .none⟩, .mts ⟨0, 6, 0x08, .none⟩,
       .mts ⟨0, 6, 0x09, .none⟩, .mts ⟨0, 6, 0x22, .none⟩] && can (mc (mode 1)) (.mts ⟨0, 6, 0x8D, .none⟩) && sprHw 0x01 &&
     sprRefuses (mc (mode 0)) (mode 0) 0x08 0x55 && !sprRefuses (mc (mode 0)) (mode 0) 0x08 0x48 && !sprHw 0x09 &&
     !sprRefuses (mc (mode 0)) (mode 0) 0x09 0x54 && !sprHw 0x22 && !sprRefuses (mc (mode 0)) (mode 0) 0x22 0x15 &&
     !sprRefuses (mc (mode 1)) (mode 1) 0x8D 0x55) = true := by decide +kernel

/-- Both partitions at the ends of the range, and both values of the bits that the steps ask about. -/
theorem witness_RegisterWriteSteps :
    (bit (1 : Word) 0 != bit (thermmode State.reset) 0 && bit (0x18 : Word) 4 && bit (0x18 : Word) 3 &&
     bits (State.reset.dspr.getD rERRLOGSEL 0) 16 2 != 3 && bit (0x100 : Word) 8 &&
     bits (0x400 : Word) 10 8 != ctlF State.reset (ringCtl 15) 10 8) = true := by decide +kernel

/-! Memory. -/

def scr : Word := 0x8000000000000
def at_ (p v : Word) : State := mc (th [(5, v), (6, p)] vec)

theorem test_store_load :
    gives (at_ scr 0x1122334455667788) (.st64 m) (fun u => rdMemN u (0x8000000000000) 8 == 0x1122334455667788 &&
      rdMem u 0x8000000000000 == 0x88 && rdMem u 0x8000000000007 == 0x11) = true := by decide +kernel
theorem test_ld8_signed :
    gives { at_ scr 0 with mem := [(0x8000000000000, 0x80)] } (.ld8 ⟨5, 6, 0, true, .none⟩) (fun u => reg u 5 == 0xFFFFFFFFFFFFFF80) = true := by
  decide +kernel
theorem test_ld64_misaligned : gives (at_ (scr + 4) 0) (.ld64 m) (fun u => trapped u 0x23 (scr + 4) 0x1000) = true := by decide +kernel
theorem test_st64_no_right :
    gives (at_ 0x2000000000000000 0) (.st64 m) (fun u => trapped u 0x21 0x2000000000000000 0x1000) = true := by decide +kernel

theorem witness_AddressChecks :
    ((ea (th [] []) (scr + 8) 8 needR).toOption == some 0x8000000000008 &&
     (ea (th [] []) 0xFFFFFFFFFFFFF 1 { needRW with x := true }).toOption == some 0xFFFFFFFFFFFFF &&
     (all (at_ 0x4000000000000000 0) [.ld8 m, .ld16 m, .ld32 m, .ld64 m, .st8 m, .st16 m, .st32 m, .st64 m]) &&
     [1, 2, 4, 8].all (fun n => (ea (th [] []) 0x4000000000000000 n needR).toOption == none &&
       (ea (th [] []) 0x4000000000000000 n needW).toOption == none)) = true := by decide +kernel

def ldPtr (s : State) (p : Word) (n : Nat) : Bool :=
  match thr s 0 with
  | some t => (loadPtr s 0 t p n needR).toOption.isSome
  | none => false
def stPtr (s : State) (p : Word) (bs : List Byte) : Bool :=
  match thr s 0 with
  | some t => (storePtr s 0 t p bs needW).toOption.isSome
  | none => false
def placed (s : State) (kind : Nat) (p : Word) (n : Nat) : Option Place :=
  (thr s 0).bind (fun t => (place s t p kind p.toNat n).toOption)

theorem witness_LoadsAndStores :
    (all (at_ scr 0) [.ld8 m, .ld16 m, .ld32 m, .ld64 m, .ld8 ⟨5, 6, 0, true, .none⟩, .st8 m, .st16 m, .st32 m, .st64 m] &&
     [1, 2, 4, 8].all (fun n => ldPtr (at_ scr 0) scr n && stPtr (at_ scr 0) scr (toBytes n 5)) &&
     placed (at_ scr 0) 1 scr 64 == some (.scratch 0 0x8000000000000) && (at_ scr 0).crcBad.isEmpty &&
     (placed (at_ scr 0) 1 (scr + 0x7FFF8) 16).isNone && (placed (at_ scr 0) 1 (scr + 0x7FFF8) 8).isSome &&
     placed (at_ scr 0) 1 0x9000000000000 64 == some (.pim 0x9000000000000)) = true := by decide +kernel

/-- One page of translated DRAM in the cluster's translation cache: addresses 0x10000 to 0x1FFFF at frame 2. -/
def paged (s : State) : State := { s with tlb := [(0, [⟨0, 1, false, true, true, true, true, 2⟩])] }
def dram (v : Word) : State := paged (at_ 0x10040 v)

theorem test_dram_store_then_load :
    (match dramStore (dram 0) 0 (th [] []) 0 0x10040 8 (toBytes 8 0x0102030405060708) with
     | .ok g => rdMem g.s 0x20040 == 0 && (match dramLoad g.s 0 (th [] []) 0 0x10044 2 0 2 with
         | .ok h => h.bytes == [0x04, 0x03]
         | .error _ => false)
     | .error _ => false) = true := by decide +kernel

theorem witness_DramAccess :
    (translateAny (dram 0) (clusterOf 0) 0 0x10040 == some 0x20040 && (dram 0).badEcc.isEmpty && !isHostKey 0 &&
     (dramLoad (dram 0) 0 (th [] []) 0 0x10040 64 0 64).toOption.isSome &&
     (dramStore (dram 0) 0 (th [] []) 0 0x10040 64 (toBytes 64 1)).toOption.isSome && (dram 0).hint == 0 && (dram 0).l1dSets.isEmpty &&
     placed (at_ scr 0) 0 scr 8 == some (.scratch 0 0x8000000000000) && ldPtr (at_ scr 0) scr 8) = true := by decide +kernel

theorem witness_EffectFrames :
    (thr (at_ scr 0) 0 == some (th [(5, 0), (6, scr)] vec) && ldepthOf (th [(5, 0), (6, scr)] vec) == 0 && (at_ scr 0).badEcc.isEmpty &&
     !bit ((at_ scr 0).dspr.getD rERRINJ 0) 12 && ldPtr (at_ scr 0) scr 8 && ldPtr (dram 0) 0x10040 8 && ldPtr (dram 0) 0x10040 64 &&
     (dram 0).hint == 0 && (dram 0).l1dSets.isEmpty) = true := by decide +kernel

theorem witness_MemoryReadAfterWrite :
    (Memory.wf (wrMemN State.reset 5 2 0x0100).mem && rdMemN (wrMemN State.reset 5 2 0x0100) 5 2 == 0x0100 && decide (7 ≤ 7)) = true := by
  decide +kernel

/-! Atomics. -/

def isOk : PortRes → Bool
  | .ok _ => true
  | _ => false
def atom (s : State) (p : Word) (n : Nat) : Bool :=
  match thr s 0 with
  | some t => (ea t p n needAtomic).toOption == some p.toNat && isOk (atomicWord s 0 t p p.toNat n)
  | none => false
/-- The word at scr holds w; D = d, B = b. -/
def atw (d b : Word) (w : Nat) : State := { mc (th [(5, d), (6, scr), (7, b)] vec) with mem := (wrMemN State.reset 0x8000000000000 8 w).mem }

theorem test_amoadd : gives (atw 0 3 0xFFFFFFFFFFFFFFFF) (.amoadd r)
    (fun u => reg u 5 == 0xFFFFFFFFFFFFFFFF && rdMemN u 0x8000000000000 8 == 2) = true := by decide +kernel
theorem test_cas_fails : gives (atw 1 3 2) (.cas r) (fun u => reg u 5 == 2 && rdMemN u 0x8000000000000 8 == 2) = true := by decide +kernel
theorem test_amomin32 : gives (atw 0 0xFFFFFFFF 1) (.amomin (rt (xt 0x10 0 0)))
    (fun u => reg u 5 == 1 && rdMemN u 0x8000000000000 8 == 0xFFFFFFFF) = true := by decide +kernel

theorem witness_Atomics :
    (all (atw 0 3 1) [.amoadd r, .amobit r, .amomin r, .amomax r, .amoswap r, .cas r, .faddaU r, .fmaxa r] &&
     all (atw 0 3 1) [.amoadd (rt (xt 16 0 0)), .amobit (rt (xt 2 0 0)), .amobit (rt (xt 1 0 0)), .amomax (rt (xt 1 0 0)), .fmaxa (rt (xt 1 0 0))] &&
     [4, 8].all (atom (atw 0 3 1) scr) && (fmtFloat (amoFmt r)).width / 8 == 8 &&
     placed (atw 0 3 1) 2 scr 8 == some (.scratch 0 0x8000000000000)) = true := by decide +kernel

/-! Ordering, full/empty words, sync objects, block operations. -/

def isDone : WbRes → Bool
  | .done _ _ => true
  | _ => false
def released (s : State) (scope : Nat) : Bool := ((thr s 0).map (fun t => isDone (releaseAt s 0 t scope))).getD false
def portRd (s : State) (p : Word) (n : Nat) : Bool := ((thr s 0).map (fun t => match portRead s 0 t p 0 p.toNat n with | .ok _ => true | _ => false)).getD false
def portWr (s : State) (p : Word) (bs : List Byte) : Bool :=
  ((thr s 0).map (fun t => match portWrite true s 0 t p p.toNat bs with | .ok _ => true | _ => false)).getD false

theorem witness_AcquireRelease :
    (all (at_ scr 0) [.ldacq m, .ldacq ⟨5, 6, 0, false, xt 1 0 0⟩, .ldacq ⟨5, 6, 0, false, xt 2 0 0⟩, .ldacq ⟨5, 6, 0, false, xt 4 0 0⟩, .strel m,
       .strel ⟨5, 6, 0, false, xt 4 0 0⟩, .fence ⟨0, 0, 0, false, .none⟩, .fence ⟨0, 0, 4, false, .none⟩] &&
     ldPtr (at_ scr 0) scr 8 && portRd (at_ scr 0) scr 8 && [0, 1, 2, 4].all (released (at_ scr 0)) &&
     stPtr (at_ scr 0) scr (toBytes 8 5) && portWr (at_ scr 0) scr (toBytes 8 5) &&
     all (ab 0x10040 0) [.cachectl ⟨0, 6, 7, false, .none⟩] && all (ab 0x10040 64) [.cachectl ⟨0, 6, 7, false, xt 1 0 0⟩] &&
     (ea (th [] []) (0x10040 + 64 - 1) 1 needR).toOption.isSome &&
     issues (.cachectl ⟨0, 6, 7, false, xt 1 0 0⟩) (mcHost (hostTh [(6, 0x40), (7, 64)] [])) 8192 (hostTh [(6, 0x40), (7, 64)] [])) = true := by
  decide +kernel

/-- Segment 1 covers all too, so that a range can end in another segment than it begins in. -/
def ranged (b : Word) : Thread := { th [(6, 0x10040), (7, b)] vec with segs := [(0, seg 0 (2 ^ 52 - 1)), (1, seg 0 (2 ^ 52 - 1))] }
theorem test_cachectl_leaves : gives (mc (ranged (2 ^ 61))) (.cachectl ⟨0, 6, 7, false, xt 1 0 0⟩) (fun u => trapped u 0x20 0x200000000001003F 0x1000) = true := by
  decide +kernel
theorem witness_AcquireRelease_ranges :
    (can (mc (ranged (2 ^ 61))) (.cachectl ⟨0, 6, 7, false, xt 1 0 0⟩) && (ea (ranged 0) 0x10040 1 needR).toOption.isSome &&
     (ea (ranged 0) 0x200000000001003F 1 needR).toOption.isSome && decide (2 ^ 61 ≤ 0x10040 + 2 ^ 61)) = true := by decide +kernel

/-- The full/empty word at DRAM location 0x20040. -/
def feFull (s : State) : State := { s with tags := [(0x20040 / 8, true)] }
def feAt (s : State) (need : Rights) : Option Bool :=
  (thr s 0).bind (fun t => match feWord s 0 t 0x10040 need with
    | .ok w => some (tagOf w.s (partOf t) w.view w.loc)
    | _ => none)

theorem test_ldfe : gives (feFull (dram 0)) (.ldfe m) (fun u => tagOf u 0 0 0x20040 == false && reg u 5 == 0) = true := by decide +kernel
theorem test_stfe : gives (dram 0x77) (.stfe m) (fun u => tagOf u 0 0 0x20040 && rdMem u 0x20040 == 0x77) = true := by decide +kernel
theorem test_ldfe_waits :
    gives (dram 0) (.ldfe m) (fun u => ((thr u 0).bind waitOf).map (fun w => (w.kind, w.cause)) == some (.feLoad, 0x33)) = true := by
  decide +kernel

/-- A dirty byte of core 0's L1D at 0x10080. -/
def soiled : State := { dram 0 with l1d := [(l1Key 0 0 0 0x10080, ⟨0xAB, true, 3, false⟩)] }
def releasedAt (s : State) : Option Nat := (thr s 0).bind (fun t => match releaseAt s 0 t 3 with
  | .done _ c => some c
  | _ => none)

theorem witness_FullEmptyWords :
    (all (feFull (dram 0)) [.ldfe m, .fechk ⟨5, 6, 0, false, xt 0 9 0⟩] && all (dram 0) [.stfe m, .ldfe m] &&
     feAt (feFull (dram 0)) needFe == some true && feAt (feFull (dram 0)) needFeRead == some true && feAt (dram 0) needFe == some false &&
     released (dram 0) 3 && releasedAt (dram 0) == some 0 && (releasedAt soiled).map (fun c => decide (0 < c)) == some true && can soiled (.stfe m)) = true := by decide +kernel

/-- Region 0 of partition 0 binds the page at 0x10000 to the object at 0x10040. -/
def bound (s : State) : State :=
  { s with ctl := s.ctl ++ [(regionEnt 0 0, 0x10001), (regionEnt 0 0 + 8, 1), (regionEnt 0 0 + 16, 0x10040)] }
def holding (t : Thread) : Thread := { t with held := [(0x20040, 0)] }
def objS : State := bound (dram 0)
def objHeld : State := bound (paged (mc (holding (th [(6, 0x10040), (7, 0x10080)] vec))))

theorem test_acq : gives objS (.acq ⟨0, 6, 0, false, .none⟩) (fun u => (objOf u 0x20040).holders == [0] && (objOf u 0x20040).excl) = true := by
  decide +kernel
theorem test_rel_not_held : gives objS (.rel ⟨0, 6, 0, false, .none⟩) (fun u => trapped u 0x3B 0x10040 0x1000) = true := by decide +kernel

def objAt (s : State) (p : Word) : Option Nat :=
  (thr s 0).bind (fun t => match objectWord s 0 t p with
    | .ok w => some w.loc
    | _ => none)

/-- Thread 64 waits for the object. -/
def waiting (k : WaitKind) (key : Nat) (arg : Word) (t : Thread) : Thread :=
  { t with run := .waiting { kind := k, key := key, arg := arg, dst := 5, cause := 0x33, info := 0, since := 0, deadline := none, order := 0, words := 1 } }
def objWaited : State := { objS with threads := [(1, waiting .object 0x20040 0 (th [] vec))], cur := none }

theorem witness_SyncObjects :
    (all objS [.acq ⟨0, 6, 0, false, .none⟩, .acqSh ⟨0, 6, 0, true, .none⟩, .rel ⟨0, 6, 0, false, .none⟩] && objAt objS 0x10040 == some 0x20040 &&
     !(boundRanges objS 0 0x20040).isEmpty && grantable objS.clk (objOf objS 0x20040) true && grantable objS.clk (objOf objS 0x20040) false &&
     (objWaiters objS 0x20040).isEmpty && isDone (grantObject objS 0 0x20040 false) && isDone (grantObject objS 0 0x20040 true) &&
     can objHeld (.rel ⟨0, 6, 0, false, .none⟩) && objAt objHeld 0x10040 == some 0x20040 && !(boundRanges objHeld 0 0x20040).isEmpty &&
     ((thr objHeld 0).map (fun t => (isDone (releaseObject objHeld 0 t 0x20040).1, (releaseObject objHeld 0 t 0x20040).2))) == some (true, false) &&
     ((objWaiters objWaited 0x20040).map (fun q => q.1)) == [1] && isDone (grantObject objWaited 1 0x20040 false) &&
     can objHeld (.faddaO ⟨0, 6, 7, true, .none⟩) && atom objHeld 0x10040 8 &&
     ((thr objHeld 0).map (fun t => (orderedAt objHeld 0 t 0x10040 0 0x20040 1 0).toOption.isSome)) == some true) = true := by decide +kernel

/-- The three answers of an ordered update: a failed object, ORDLOG off, ORDLOG on. -/
def upd : Ordered := ⟨0, 0x20040, 0x20080, 1, 0, 0, 0, 0, 0, 0⟩
theorem witness_SyncObjects_updates :
    ((objOf { objS with objs := [(0x20040, ⟨[], false, true, 0⟩)] } 0x20040).failed && !(objOf objS 0x20040).failed &&
     !bit (sprPart objS 0 rORDLOG) 52 && bit (sprPart { objS with pspr := [(rORDLOG, 0x10000000000000)] } 0 rORDLOG) 52 &&
     decide ((buffered objS 0 (sliceOf 0x20080)).length < 16)) = true := by decide +kernel

def blk (d a n : Word) : State := mc (th [(5, d), (6, a), (7, n)] vec)

theorem test_bfill : gives (blk scr 0xAA 3) (.bfill r)
    (fun u => rdMemN u 0x8000000000000 4 == 0x0000AA && reg u 5 == scr + 3 && reg u 7 == 0) = true := by decide +kernel

theorem witness_BlockOperations :
    (all (blk scr scr 0) [.bmove r, .bmove ⟨5, 5, 7, false, .none⟩, .bfill r] && all (blk scr (scr + 64) 8) [.bmove r, .bfill r] &&
     (match blockChunk (blk scr 0xAA 64) 0 (th [(5, scr), (6, 0xAA), (7, 64)] vec) r false false 0xAA ⟨scr, 0, 64⟩ with
      | .ok q => decide (q.2.1 = ⟨scr + 64, 0, 0⟩)
      | .error _ => false) &&
     (match blockChunk (blk scr (scr + 64) 8) 0 (th [(5, scr), (6, scr + 64), (7, 8)] vec) r true false 0 ⟨scr, scr + 64, 8⟩ with
      | .ok q => decide (q.2.1 = ⟨scr + 8, scr + 72, 0⟩)
      | .error _ => false)) = true := by decide +kernel

/-! Waits, interrupts, errors, the cycle domain, the testa link and the Ethernet ports: events. -/

def flying (t : Thread) : Thread := { t with sb := [⟨7, 40, [(9, 0x55)], []⟩] }
def uiTh (t : Thread) : Thread :=
  { t with uiq := [(1, 2)], spr := [(rMODE, 0x08), (rTVEC, 0x8000), (rUIVEC, 0x9000)] }
/-- Waits for a group since clk 0, with its limit at clk 0. -/
def timedOut (d : Option Nat) (t : Thread) : Thread :=
  { t with run := .waiting { kind := .group, key := 5, arg := 0, dst := 5, cause := 0x36, info := 5, since := 0, deadline := d, order := 0, words := 1 } }

theorem test_result_arrives :
    gives (mc (flying (th [(9, 1)] []))) (.scoreboardResultArrival 0 7) (fun u => reg u 9 == 0x55 && ((thr u 0).map (fun t => t.sb)) == some []) = true := by
  decide +kernel
theorem test_ui_delivery :
    gives (mc (uiTh (th [] []))) (.uiDelivery 0) (fun u => reg u 124 == 1 && reg u 125 == 2 && spr u rUIPC == 0x1000 && pcAt u == 0x9000) = true := by
  decide +kernel
theorem test_wait_limit : gives (mc (timedOut (some 0) (th [] vec))) (.waitLimitExpiry 0)
    (fun u => ((thr u 0).map (fun t => (t.run, t.trapDue, t.pc))) == some (.ready, some (0x36, 5), 0x1000)) = true := by decide +kernel

def waitFacts (s : State) : Bool :=
  ((thr s 0).bind (fun t => (waitOf t).map (fun w => !waitDone s 0 t w && decide (w.kind ≠ .redundant)))).getD false

theorem witness_ThreadEvents :
    (findPending (flying (th [] [])) 7 == some ⟨7, 40, [(9, 0x55)], []⟩ && waitFacts (mc (timedOut (some 0) (th [] vec))) &&
     (waitOf (timedOut none (th [] vec))).isSome && ({ th [] [] with node := some 4 } : Thread).node == some 4 && decide (0x25 ≠ 0x26) &&
     uienOf (uiTh (hostTh [] [])) && !thOf (uiTh (hostTh [] [])) && !uihOf (uiTh (hostTh [] [])) && (uiTh (hostTh [] [])).host &&
     getSpr (uiTh (hostTh [] [])) rUIVEC != 0 && getSpr { uiTh (hostTh [] []) with spr := [(rMODE, 8)] } rUIVEC == 0 &&
     uienOf (uiTh (th [] [])) && (uiTh (th [] [])).host == false && decide ((uiTh (th [] [])).uiNew < (uiTh (th [] [])).uiq.length) &&
     (th [] []).stamps.isEmpty) = true := by decide +kernel

def base0 : State := { State.reset with agenda := [] }
def eccS : State := { base0 with badEcc := [(eccKey 8 0 0, true)] }
/-- A dirty byte of core 0's L1D at 0x10040. -/
def dirtyS : State := { paged (mc (th [] vec)) with l1d := [(l1Key 0 0 0 0x10040, ⟨0xAB, true, 3, false⟩)] }
def heldS : State := { dirtyS with heldWbs := [l1Key 0 0 0 0x10040] }

theorem test_scrub_poisons : gives eccS (.patrolScrub 0) (fun u => u.poison.get? 0 == some true && u.badEcc == [] && u.mem == []) = true := by
  decide +kernel
theorem test_unowned_line_poisons :
    gives dirtyS (.dirtyLineUnowned 0 0 0x10040) (fun u => u.poison.get? (0x20040 / 32) == some true) = true := by decide +kernel
theorem test_held_write_back :
    gives heldS (.traceConflictLog (wbSlice heldS (l1Key 0 0 0 0x10040))) (fun u => rdMem u 0x20040 == 0xAB && u.heldWbs == []) = true := by
  decide +kernel
theorem test_machine_check :
    gives (mc (th [] vec)) (.machineCheck 0x7E 3 5) (fun u => rdCtl u (machineBase + 8) == 0x5037E && rdCtl u machineBase == 1) = true := by
  decide +kernel

def goes : TraceAct × Nat → Bool
  | (.go _, _) => true
  | _ => false

theorem witness_ErrorEvents :
    (((findEcc eccS 8 (channelOf 0) 0).map (fun q => q.2)) == some true && (findEcc eccS 8 (channelOf 32) 1).isNone &&
     partOfCore dirtyS 0 == some 0 && translateAny dirtyS (clusterOf 0) 0 (lineOf 0x10040) == some 0x20040 &&
     goes (wbBad dirtyS (l1Key 0 0 0 0x10040) 0 (((dirtyBytes dirtyS (l1Key 0 0 0 0x10040)).map (fun i => 0x10040 / 32 + i / 32)).eraseDups)) &&
     goes (wbLine heldS (l1Key 0 0 0 0x10040) 0) && heldS.heldWbs == [l1Key 0 0 0 0x10040] &&
     ((dirtyS.l1d.get? (l1Key 0 0 0 0x10040)).map (fun b => b.dirty)) == some true && coreUsesHalf (mc (th [] vec)) 0 0 &&
     decide (0 < 288) && (thr (mc (th [] vec)) 8192).isNone && { base0 with tripped := true }.tripped &&
     ((mc (th [] vec)).threads.all (fun q => ((waitOf q.2).map (fun w => waitsOnUnit 1 0 w)).getD false == false))) = true := by decide +kernel

/-- The cycle domain runs with a period of 1000 ns, a tick due at 5000 ns. -/
def cyc : State := { mc (th [] vec) with cycOn := true, cycDue := 5000, ctl := [(cycleBase, 0x1000003E8)] }
def nodeRec (late : Bool) : Node :=
  { vaddr := 0x40000, part := 0, entry := 0x1000, args := 0, count := 1, shapex := 0, shapey := 0, pri := 0, flags := 0, gprs8 := 0, tiles := 0,
    share := 0, space := 0, budget := 0, preds := 0, succs := 0, succlist := 0, stamp := 0, tline := 0, tinc := 0, origin := 0, deadline := 5,
    state := 3, lastst := 0, started := 0, ended := 0, sprouts := 0, first := 0, qclk := 0, nextTid := 0, inCycle := 0, stampin := 2 ^ 48 - 1,
    view := 0, rollbacks := 0, held61 := false, missed := late, no40 := false, no7A := false, hint := 0, hintCore := 0, segs := [], promise := 0,
    live := 1, firstSet := true }
def noded (late : Bool) (s : State) : State := { s with nodes := [(0x50000, nodeRec late)] }
/-- Port 2 runs a list of two entries whose first has no time. -/
def gateS : State :=
  { base0 with ctl := [(gateBlock 2 + 8, 2 ^ 21 + 2 * 1024), (gateBlock 2 + 0x2000, 0x0F), (gateBlock 2 + 0x2008, 100 * 2 ^ 32 + 0x55)] }

theorem test_egress_check : gives base0 (.egressCheck 0) (fun u => (u.posts.map (fun q => fieldOf q.msg 0 1)) == [0x60]) = true := by decide +kernel
theorem test_gate_entry : gives gateS (.gateListEntry 2) (fun u => gatesNow u 2 == 0x55 && u.gateAt == [(2, 2)]) = true := by decide +kernel

theorem witness_BoundaryTick :
    (cyc.cycOn && roleOf cyc != 2 && !linkEn cyc && cyc.roleDue == 0 && pubCount base0 0 1 == 0 && pubCount base0 0 1 != 1 &&
     [true, false].all (fun b => ((noded b base0).nodes.get? 0x50000).map (fun n => n.missed) == some b) &&
     bit (gateOper gateS 2) 21 && liveEntry gateS 2 (gateOper gateS 2) 0 == some 1 && gateS.frames.isEmpty) = true := by decide +kernel

/-- The link is enabled with four lanes; a send of the output image is under way; entry 2 is replicated. -/
def linkS (role : Nat) : State :=
  { base0 with ctl := [(testaBase, 0xF4)], dspr := [(rROLE, BitVec.ofNat 64 role)], sending := [(1, 7, 0x3FF000)] }
def recS (seq : Nat) : List Byte := toBytes 4 seq ++ List.replicate 28 0

theorem test_replication_send : gives (linkS 1) (.replicationSend 1)
    (fun u => txSeq u == 1 && (u.sentRecs.map (fun q => (q.1, fieldOf q.2 0xC 4, fieldOf q.2 0x10 2))) == [(1, 0x3FF000, 4096)]) = true := by
  decide +kernel
theorem test_record_gap : gives (linkS 2) (.replicationRecordReceive (recS 3))
    (fun u => (u.posts.map (fun q => (fieldOf q.msg 0 1, fieldOf q.msg 8 8))) == [(0x6C, 1)] && rxSeq u == 0) = true := by decide +kernel
theorem test_takeover : gives { linkS 2 with missed := 1 } (.heartbeatMissed 9)
    (fun u => roleOf u == 1 && promoOf u == 9 && (u.posts.map (fun q => fieldOf q.msg 0 1)) == [0x6B]) = true := by decide +kernel

theorem witness_TestaLink :
    (linkEn (linkS 1) && linkEn (linkS 2) && fieldOf (recS 1) 0 4 == (rxSeq (linkS 2) + 1) % 2 ^ 32 &&
     decide (1 < seqDiff (fieldOf (recS 3) 0 4) (rxSeq (linkS 2))) && decide (seqDiff (fieldOf (recS 3) 0 4) (rxSeq (linkS 2)) < 2 ^ 31) &&
     decide (seqDiff (4 % 2 ^ 32) (ackSeq (linkS 1)) < 2 ^ 31) && (linkS 1).sending.get? 1 == some (7, 0x3FF000) && linkLanes (linkS 1) != 0 &&
     decide (0x3FF000 < (twinBases (linkS 1) 0 1).2.2) && ctlF (linkS 1) testaBase 4 4 != 15 - 1 % 16 && roleOf (linkS 1) == 1 &&
     decide (bits (0 : Word) 0 48 < promoOf { linkS 1 with ctl := (linkS 1).ctl ++ [(testaBase + 0x18, 5)] }) && (linkS 2).missed == 0 &&
     roleOf (linkS 2) == 2) = true := by decide +kernel

def portS (en : Nat) : State := { base0 with ctl := [(portBase 3, BitVec.ofNat 64 en)] }
def short : List Byte := List.replicate 20 0
/-- A good frame of 64 bytes without a VLAN tag. -/
def good : List Byte := withFcs (List.replicate 60 0)
def sendingS (x : Frame) : State := { portS 0x14 with frames := [x] }
def frame0 : Frame := ⟨3, 7, List.replicate 60 0, 0, none⟩
def egressS (n : Nat) : State :=
  { portS 0x14 with ctl := [(portBase 3, 0x14), (egressBase 3, 2 ^ 63), (egressBase 3 + 0x18, BitVec.ofNat 64 (n * 2 ^ 32))] }

theorem test_fcs : fcsGood good = true := by decide +kernel
theorem test_short_frame_dropped :
    gives (portS 0x14) (.frameReceived 3 short 9) (fun u => rdCtl u (portBase 3 + 0x38) == 1 && u.mem.isEmpty) = true := by decide +kernel
theorem test_send_frame : gives (sendingS frame0) (.txFrameSend 3)
    (fun u => (u.sent.map (fun f => f.bytes.length)) == [64] && u.frames.isEmpty) = true := by decide +kernel
theorem test_egress_build : gives (egressS 46) (.egressFrameBuild 3 0) (fun u => (u.frames.map (fun f => f.bytes.length)) == [64]) = true := by
  decide +kernel

theorem witness_EthernetPorts :
    (portEn (portS 0x14) 3 && decide (short.length < 64) && decide (64 ≤ good.length) && decide (good.length ≤ 1522) && fcsGood good &&
     (rxParse good).isNone && !portJumbo (portS 0x14) 3 && portUp (sendingS frame0) 3 && decide ((sendingS frame0).sendAt.getD 3 0 ≤ (sendingS frame0).clk) &&
     pickFrame (sendingS frame0) 3 == some frame0 && frame0.desc.isNone && roleOf (sendingS frame0) != 2 && portEn (egressS 46) 3 &&
     bit (rdCtl (egressS 46) (egressBase 3)) 63 && nextEntryDue (egressS 46) 3 == none && tickDue (egressS 46) == none &&
     gatesNow (egressS 46) 3 == 255 && (let z := { egressS 0 with ctl := [(portBase 3, 0x14), (egressBase 3, 2 ^ 63), (egressBase 3 + 0x18, 2 ^ 32 - 1)] }
       decide (4 * 2 ^ 20 < ctlF z (egressBase 3 + 0x18) 0 32 + ctlF z (egressBase 3 + 0x18) 32 16) && bit (rdCtl z (egressBase 3)) 63)) = true := by
  decide +kernel

/-! Tiles: formats 0 INT8, 3 INT32, 5 FP4, 9 BF16, 10 FP32, 12 MASK, 13 RAW8. -/

/-- A configuration of a format, rows and columns. -/
def tc (fmt rows cols : Nat) : Word := BitVec.ofNat 64 (fmt + (rows - 1) * 16 + cols * 512)
/-- Thread 0 with gang width 1, tiles 5, 6, 7 and 4. -/
def tt (d a b c : Tile) (gpr : Tab Word) : Thread :=
  { th gpr [(rTVEC, 0x8000), (rGANG, 1)] with tiles := [(4, c), (5, d), (6, a), (7, b)] }
def ts (d a b c : Tile) : State := mc (tt d a b c [])
def i8 (l : Tab Nat) : Tile := ⟨tc 0 1 2, l⟩
def i32 (l : Tab Nat) : Tile := ⟨tc 3 1 2, l⟩
def f32 (l : Tab Nat) : Tile := ⟨tc 10 1 2, l⟩
def mask (l : Tab Nat) : Tile := ⟨tc 12 1 2, l⟩
def elem (u : State) (n i : Nat) : Nat := ((thr u 0).map (fun t => elemAt (tileOf t n) i)).getD 0
/-- R format with PE and predicate tile 4. -/
def rpe : RForm := ⟨5, 6, 7, false, .ext { mod := 0, c := 0, imm := 0xFFFF, ha := 0, hb := 0, hr := 0, pe := true, pt := 4 }⟩

theorem test_vadd_wraps : gives (ts (i8 []) (i8 [(0, 100), (1, 0xFF)]) (i8 [(0, 100), (1, 1)]) (i8 [])) (.vadd r)
    (fun u => elem u 5 0 == 200 && elem u 5 1 == 0) = true := by decide +kernel
theorem test_vadd_sat : gives (ts (i8 []) (i8 [(0, 100), (1, 0x80)]) (i8 [(0, 100), (1, 0xFF)]) (i8 [])) (.vadd (rt (xt 1 0 0xFFFF)))
    (fun u => elem u 5 0 == 127 && elem u 5 1 == 0x80) = true := by decide +kernel
theorem test_vmul_masked : gives (ts (i8 [(0, 9), (1, 9)]) (i8 [(0, 3), (1, 5)]) (i8 [(0, 7), (1, 5)]) (mask [(1, 1)])) (.vmul rpe)
    (fun u => elem u 5 0 == 9 && elem u 5 1 == 25) = true := by decide +kernel
theorem test_vfma : gives (ts (f32 [(0, 0x3F800000)]) (f32 [(0, 0x40000000)]) (f32 [(0, 0x40400000)]) (i8 [])) (.vfma r)
    (fun u => elem u 5 0 == 0x40E00000 && elem u 5 1 == 0) = true := by decide +kernel
theorem test_vadd_shape : gives (ts (i8 []) ⟨tc 0 2 2, []⟩ (i8 []) (i8 [])) (.vadd r) (fun u => trapped u 0x14 6 0x1000) = true := by decide +kernel

def ff : Thread := { tt (f32 []) (f32 [(0, 0x7F800001)]) (f32 []) (i8 []) [] with spr := [(rTVEC, 0x8000), (rFPCTL, 0x14), (rGANG, 1)] }
theorem test_vadd_traps : gives (mc ff) (.vadd r) (fun u => trapped u 0x1C 0 0x1000 && elem u 5 0 == 0 && spr u rFPFLAGS == 1) = true := by
  decide +kernel

def agree (t : Thread) (f : RForm) (ok : Nat → Bool) : Bool := (firstBad (agreeChecks t f ok ++ satBad (.vadd f) t f)).isNone

theorem witness_VectorArithmetic :
    (all (ts (i8 []) (i8 []) (i8 []) (i8 [])) [.vadd r, .vsub r, .vmul r, .vmin r, .vmax r, .vadd rq, .vmul (rt (xt 1 0 0xFFFF))] &&
     all (ts (f32 []) (f32 []) (f32 []) (mask [])) [.vadd r, .vsub r, .vmul r, .vmin r, .vmax r, .vfma r, .vfma rpe] &&
     agree (tt (i8 []) (i8 []) (i8 []) (i8 []) []) r arithFmt && agree (tt (f32 []) (f32 []) (f32 []) (mask []) []) rpe isFloatFmt &&
     straight (tt (i8 []) (i8 []) (i8 []) (i8 []) []) && !fpTrapsOn (fpctlOf (tt (i8 []) (i8 []) (i8 []) (i8 []) [])) &&
     can (ts (i8 []) ⟨tc 0 2 2, []⟩ (i8 []) (i8 [])) (.vadd r) &&
     firstBad (agreeChecks (tt (i8 []) ⟨tc 0 2 2, []⟩ (i8 []) (i8 []) []) r arithFmt) == some (0x14, 6) &&
     can (mc ff) (.vadd r) && agree ff r arithFmt &&
     fpCause (fpctlOf ff) ((enabledElems ff r (f32 [])).foldl
       (fun m n => m ||| (flushed (fpctlOf ff) 10 fpAdd (elemAt (f32 [(0, 0x7F800001)]) n) (elemB (mc ff) ff r 10 n)).flags) 0) == some 0x1C) = true := by
  decide +kernel

theorem test_vcmp : gives (ts (mask []) (i8 [(0, 0xFF), (1, 3)]) (i8 [(0, 1), (1, 3)]) (i8 [])) (.vcmp r)
    (fun u => elem u 5 0 == 1 && elem u 5 1 == 0) = true := by decide +kernel
theorem test_vsel : gives (ts (i8 []) (i8 [(0, 1), (1, 2)]) (i8 [(0, 3), (1, 4)]) (mask [(1, 1)])) (.vsel (rt (xt 0 4 0xFFFF)))
    (fun u => elem u 5 0 == 3 && elem u 5 1 == 2) = true := by decide +kernel
theorem test_vshr_signed : gives (mc (tt (i8 []) (i8 [(0, 0x84)]) (i8 []) (i8 []) [(7, 1)])) (.vshr rq) (fun u => elem u 5 0 == 0xC2) = true := by
  decide +kernel
theorem test_vcvt : gives (ts (f32 []) (i8 [(0, 0xFD)]) (i8 []) (i8 [])) (.vcvt ra) (fun u => elem u 5 0 == 0xC0400000) = true := by decide +kernel
theorem test_vrecip : gives (ts (f32 []) (f32 [(0, 0x40800000)]) (i8 []) (i8 [])) (.vrecip ra) (fun u => elem u 5 0 == 0x3E800000) = true := by
  decide +kernel

theorem witness_VectorElementwise :
    (all (ts (i8 []) (i8 []) (i8 []) (mask [])) [.vlog r, .vlog rpe, .vshr rq, .vcvt ra, .vsel (rt (xt 0 4 0xFFFF))] &&
     all (ts (f32 []) (f32 []) (f32 []) (mask [])) [.vrecip ra, .vrsqrt ra, .vexp2 ra, .vcvt ra, .vsel (rt (xt 0 4 0xFFFF))] &&
     all (ts (mask []) (i8 []) (i8 []) (mask [])) [.vcmp r, .vcmp rq, .vcmp rpe] && all (ts (mask []) (f32 []) (f32 []) (mask [])) [.vcmp r] &&
     agree (tt (i8 []) (i8 []) (i8 []) (mask []) []) r (fun _ => true) && (firstBad (agreeTwo (tt (f32 []) (f32 []) (f32 []) (mask []) []) ra isFloatFmt)).isNone &&
     (firstBad (agreeTwo (tt (i8 []) (i8 []) (f32 []) (mask []) []) ra isIntFmt)).isNone) = true := by decide +kernel

theorem test_tcfg : gives (mc (tt (i8 [(0, 7)]) (i8 []) (i8 []) (i8 []) [(7, tc 3 2 4)])) (.tcfgWrite ⟨5, 0, 7, false, .none⟩)
    (fun u => elem u 5 0 == 0 && ((thr u 0).map (fun t => (tileOf t 5).cfg)) == some (tc 3 2 4)) = true := by decide +kernel
theorem test_tmovr : gives (mc (tt (i8 []) (i8 []) (i8 []) (i8 []) [(6, 0x1FE), (7, 1)])) (.tmovr r)
    (fun u => elem u 5 0 == 0 && elem u 5 1 == 0xFE) = true := by decide +kernel
theorem test_tmovs : gives (mc (tt (i8 []) (i8 [(1, 0xFE)]) (i8 []) (i8 []) [(7, 1)])) (.tmovs r) (fun u => reg u 5 == 0xFE) = true := by
  decide +kernel
theorem test_tbcast : gives (mc (tt (i8 []) (i8 []) (i8 []) (i8 []) [(7, 0x1FE)])) (.tbcast ⟨5, 0, 7, false, .none⟩)
    (fun u => elem u 5 0 == 0xFE && elem u 5 1 == 0xFE) = true := by decide +kernel

def movT : Thread := tt (i8 []) (i8 []) (i8 []) (mask []) [(6, tc 3 2 4), (7, 1)]
theorem witness_TileMoves :
    (all (mc movT) [.tcfgWrite ⟨5, 0, 6, false, .none⟩, .tcfgRead ra, .tmovr r, .tmovr rpe, .tmovs r, .tmovs rq, .tbcast ⟨5, 0, 7, false, .none⟩] &&
     cfgRefused (opbImm (mc movT) movT ⟨5, 0, 6, false, .none⟩) == false && cfgRefused (opbImm (mc movT) movT ⟨5, 0, 7, false, .none⟩) &&
     all (mc movT) [.tcfgWrite ⟨5, 0, 7, false, .none⟩] && (i8 []).cfg != 0 && (firstBad (maskFmt movT rpe ++ maskShape movT rpe (i8 []))).isNone &&
     !selBad movT (i8 []) 1 && enabledAt movT r 1 && straight movT) = true := by decide +kernel

/-- INT8 tiles at a row start of the scratchpad: gpr A = scr, gpr B = 2 (the stride); tile B an INT32 index. -/
def tm (d b : Tile) : Thread := tt d (i8 []) b (mask []) [(6, scr), (7, 2)]
def tms (d b : Tile) (bytes : Tab Byte) : State := { mc (tm d b) with mem := bytes }
def words32 : Tab Byte := [(0x8000000000000, 7), (0x8000000000008, 9)]

theorem test_tld : gives (tms ⟨tc 0 2 2, []⟩ (i8 []) [(0x8000000000001, 0x11), (0x8000000000002, 0x22)]) (.tld r)
    (fun u => elem u 5 0 == 0 && elem u 5 1 == 0x11 && elem u 5 2 == 0x22) = true := by decide +kernel
theorem test_tst : gives (tms ⟨tc 0 2 2, [(0, 1), (3, 4)]⟩ (i8 []) []) (.tst r) (fun u => rdMemN u 0x8000000000000 4 == 0x04000001) = true := by
  decide +kernel
theorem test_tgather : gives (tms (i32 []) (i32 [(0, 2)]) words32) (.tgather r) (fun u => elem u 5 0 == 9 && elem u 5 1 == 7) = true := by
  decide +kernel
theorem test_tscatter : gives (tms (i32 [(0, 5), (1, 6)]) (i32 []) []) (.tscatter r) (fun u => rdMemN u 0x8000000000000 4 == 6) = true := by
  decide +kernel
theorem test_tscadd : gives (tms (i32 [(0, 5), (1, 6)]) (i32 []) words32) (.tscaddU r) (fun u => rdMemN u 0x8000000000000 4 == 18) = true := by
  decide +kernel

def act0 : Act := .trap State.reset 0 0
/-- The addresses that the check pass of an indexed access hands on, as tagged traps. -/
def handed (s : State) (t : Thread) (cause kind : Nat) (need : Rights) (add : Bool) : Option (List (Nat × Word × Nat)) :=
  match indexAct s t r cause kind need add (fun _ _ => none) (fun _ _ _ => none)
    (fun _ l => .trap s (l.length + 1000) (BitVec.ofNat 64 (l.foldl (fun m e => m * 16 + e.2.2 % 16) 1))) with
  | .trap _ c v => if c = 1002 ∧ v = 0x180 then some [(0, scr + 8, 0x8000000000008), (1, scr, 0x8000000000000)] else none
  | _ => none

theorem witness_TileMemory :
    (let x := i32 [(0, 5), (1, 6)]
     let s := tms x (i32 [(0, 2)]) words32
     let t := tm x (i32 [(0, 2)])
     let l : List (Nat × Word × Nat) := [(0, scr + 8, 0x8000000000008), (1, scr, 0x8000000000000)]
     all s [.tld r, .tst r, .tgather r, .tscatter r, .tscaddU r, .tscaddO r] &&
     (firstBad (unconfigured t (5 :: maskNums r) ++ maskFmt t r ++ maskShape t r x)).isNone &&
     (rowChecks s t scr 2 8 4 3 0 needR 0 1).toOption == some [0x8000000000000] && (rowChecks s t scr 2 8 4 3 1 needW 0 1).toOption == some [0x8000000000000] &&
     (loadRows s 0 t r x scr 2 0 [0x8000000000000] [] 0).toOption.isSome && (storeRows s 0 t r x scr 2 0 [0x8000000000000] ⟨s, 0, false⟩).toOption.isSome &&
     handed s t 0x5B 0 needR false == some l && handed s t 0x5C 1 needW false == some l && handed s t 0x5C 2 needAtomic true == some l &&
     (gatherGo 0 t 4 s l [] 0).toOption.isSome && (scatterGo 0 t 4 x l ⟨s, 0, false⟩).toOption.isSome && isOk (scaddGo 0 t x false scr l s 0)) = true := by
  decide +kernel

/-- An ordered scattered add to the region of the object that the thread holds. -/
def ordT : Thread := holding (tt (i32 [(0, 5)]) (i8 []) (i32 []) (mask []) [(6, 0x10080)])
def ordS : State := bound (paged (mc ordT))
theorem witness_TileMemory_ordered :
    (all ordS [.tscaddO r] && boundTo ordS 0 0x10080 == some 0x20040 && (ordT.held.get? 0x20040).isSome &&
     isOk (scaddGo 0 ordT (i32 [(0, 5)]) true 0x10080 [(0, 0x10080, 0x10080), (1, 0x10080, 0x10080)] ordS 0)) = true := by decide +kernel

/-! Reductions, scales, the matrix engine. -/

def col (fmt : Nat) : Tile := ⟨tc fmt 1 1, []⟩
theorem test_vred_sum : gives (ts (col 3) (i8 [(0, 100), (1, 0xFF)]) (i8 []) (i8 [])) (.vred ra) (fun u => elem u 5 0 == 99) = true := by decide +kernel
theorem test_vred_max : gives (ts (col 0) (i8 [(0, 100), (1, 0xFF)]) (i8 []) (i8 [])) (.vred ⟨5, 6, 0, false, xt 2 0 0⟩) (fun u => elem u 5 0 == 100) = true := by
  decide +kernel
theorem test_vargmax : gives (ts (col 3) (i8 [(0, 0xFF), (1, 1)]) (i8 []) (i8 [])) (.vargmax ra) (fun u => elem u 5 0 == 1) = true := by decide +kernel

/-- FP4, 1 row of 8, scale tile 4, with a band scale; the FP32 tile and the scale tile of the same rows. -/
def fp4 (band : Nat) (l : Tab Nat) : Tile := ⟨tc 5 1 8 + BitVec.ofNat 64 (4 * 2 ^ 18 + 2 ^ 23 + band * 2 ^ 24), l⟩
def wide (l : Tab Nat) : Tile := ⟨tc 10 1 8, l⟩
def scales (l : Tab Nat) : Tile := ⟨tc 13 1 1, l⟩

/-- Code 0b0111 is 6, scale byte 0x60 is 1, band 0x3F80 is 1. -/
theorem test_vdeq : gives (ts (wide []) (fp4 0x3F80 [(0, 7), (1, 9)]) (i8 []) (scales [(0, 0x60)])) (.vdeq ra)
    (fun u => elem u 5 0 == 0x40C00000 && elem u 5 1 == 0xBF000000) = true := by decide +kernel
theorem test_vquant_zero : gives (ts (fp4 0 [(0, 7)]) (wide []) (i8 []) (scales [])) (.vquant ra) (fun u => elem u 5 0 == 0) = true := by decide +kernel

def quietT (x y z c : Tile) : Thread := tt x y z c []
theorem witness_Reductions :
    (all (ts (col 3) (i8 []) (i8 []) (mask [])) [.vred ra, .vred ⟨5, 6, 0, false, xt 1 0 0⟩, .vred ⟨5, 6, 0, true, .none⟩, .vargmax ra] &&
     all (ts (wide []) (fp4 0 []) (i8 []) (scales [])) [.vdeq ra] && all (ts (fp4 0 []) (wide []) (i8 []) (scales [])) [.vquant ra, .vquant rq] &&
     all (ts (fp4 0 []) (fp4 0 []) (wide []) (scales [])) [.bqadd ⟨5, 5, 7, false, .none⟩] &&
     vredPair 0 3 && columnOf (col 3) (i8 []) && sameShape (wide []) (fp4 0 []) &&
     (firstBad (scaleChecks (quietT (fp4 0 []) (wide []) (i8 []) (scales [])) 5 true)).isNone &&
     (lockWait (ts (fp4 0 []) (wide []) (i8 []) (scales [])) 0 (quietT (fp4 0 []) (wide []) (i8 []) (scales [])) [(4, true)]).isNone &&
     (upFrom 0 8).all (fun n => finite (wideVal (quietT (fp4 0 []) (wide []) (i8 []) (scales [])) (wide []) n)) &&
     finite (wideVal (quietT (fp4 0 []) (wide []) (i8 []) (scales [])) (wide [(0, 0x7F800000)]) 0) == false &&
     finite (fpDecode fp32 0) && (upFrom 0 8).all (fun n => finite (scaledVal (quietT (fp4 0 []) (wide []) (i8 []) (scales [])) 1 (fp4 0 []) n).val) &&
     !fpTrapsOn (fpctlOf (quietT (fp4 0 []) (wide []) (i8 []) (scales [])))) = true := by decide +kernel

/-- An INT8 product: A 1 × 2, B 1 × 2 (one output column), D INT32. -/
def mt (a b : Tab Nat) : State := ts (col 3) (i8 a) (i8 b) (i8 [])
def after1 (u : State) (i : Instr) : State := match exec i u with | .next v => v | _ => u

theorem test_mma_enters : gives (mt [] []) (.mma r)
    (fun u => (u.matops.map (fun q => (q.2.tile, q.2.left))) == [(5, 1)] && ((queueOf u 0).map (fun e => (e.d, e.a, e.b))) == [(5, 6, 7)]) = true := by
  decide +kernel

def running : State := after1 (after1 (mt [(0, 3), (1, 0xFF)] [(0, 5), (1, 7)]) (.mma r)) (.matrixEntryStart 0)
theorem test_matrix_result : gives running (.matrixEntryComplete 0) (fun u => elem u 5 0 == 8 && u.matops == []) = true := by decide +kernel

def left2 (s : State) : State := { s with matops := s.matops.map (fun q => (q.1, { q.2 with left := 2 })) }
/-- Sparse: A 1 × 8 of 64 with NSP = 8, its metadata in tile 4 strictly rising; B 1 × 64. -/
def sparseT : Thread :=
  quietT (col 3) ⟨tc 0 1 8 + BitVec.ofNat 64 (8 * 2 ^ 40 + 4 * 2 ^ 48), []⟩ ⟨tc 0 1 64, []⟩ ⟨tc 1 1 8, [(1, 1), (2, 2), (3, 3), (4, 4), (5, 5), (6, 6), (7, 7)]⟩
def lastStep (s : State) : State := setQueue s 0 ((queueOf s 0).map (fun e => { e with done := 3 }))

theorem witness_MatrixOperations :
    (all (mt [] []) [.mma r, .mma (rt (xt 8 0 0))] && (firstBad (matChecks (quietT (col 3) (i8 []) (i8 []) (i8 [])) 5 6 7 false)).isNone &&
     (lockWait (mt [] []) 0 (quietT (col 3) (i8 []) (i8 []) (i8 [])) (matExtra (quietT (col 3) (i8 []) (i8 []) (i8 [])) 6 7 false)).isNone &&
     matFull (mt [] []) 0 == false && all (mt [] []) [.mmasp r] && (firstBad (matChecks (quietT (col 3) (i8 []) (i8 []) (i8 [])) 5 6 7 true)).isSome &&
     all (mc sparseT) [.mmasp r] && (firstBad (matChecks sparseT 5 6 7 true)).isNone && (lockWait (mc sparseT) 0 sparseT (matExtra sparseT 6 7 true)).isNone &&
     (queueOf running 0).all (fun e => e.started && decide (e.done + 1 < e.steps) && (running.matops.get? e.op).isSome) &&
     (queueOf running 0).length == 1 && (queueOf (lastStep running) 0).all (fun e => e.started && decide (e.steps ≤ e.done + 1)) &&
     ((queueOf (left2 running) 0).map (fun e => ((thr running e.thread).isSome, ((left2 running).matops.get? e.op).map (fun m => m.left)))) == [(true, some 2)] &&
     ((slabsOf running 0).findIdx? (fun x => x == 0)) == some 0 && running.badEcc.isEmpty && running.matops.all (fun q => q.2.badA.isEmpty) && tileFmt (col 3) == 3) = true := by decide +kernel

/-- A slab's queue is full: eight entries are in it. -/
theorem witness_MatrixOperations_full :
    ((queueOf running 0).length == 1 && (queueOf running 0).all (fun e => matFull (setQueue (mt [] []) 0 (List.replicate 8 e)) 0)) = true := by
  decide +kernel

/-! Scratchpad tags, bank formats, segments, translations, stamped access. -/

/-- A = an address, B = a slot or value; the tag of 0x10000 in slot 3. -/
def tagS (a b : Word) : State := { mc (th [(6, a), (7, b)] vec) with tagTab := [(tagKeyOf (mc (th [] [])) 0 3, BitVec.ofNat 64 (32 + 2 ^ 41))] }

theorem test_tlook : gives (tagS 0x10040 0) (.tlook ra) (fun u => reg u 5 == 3) = true := by decide +kernel
theorem test_tset_moves : gives (tagS 0x10040 5) (.tset r) (fun u => tagFind u 0 32 == some 5 && !bit (tagEntry u 0 3) 41 && reg u 5 == 0) = true := by
  decide +kernel
theorem test_tset_traps : gives (tagS 0x10040 256) (.tset r) (fun u => trapped u 0x07 256 0x1000) = true := by decide +kernel
theorem test_bfmt : gives (tagS 3 0x13) (.bfmt r) (fun u => u.bankFmt.getD (bankKey u 0 3) 0xD == 0x13 && reg u 5 == 0xD) = true := by decide +kernel

def tiv : RForm := ⟨5, 6, 7, true, .none⟩
theorem witness_TagsAndBankFormats :
    (all (tagS 0x10040 5) [.tlook ra, .tset r, .tsetInvalidate tiv] && all (tagS 0x10040 256) [.tset r, .tsetInvalidate tiv] &&
     all (tagS 3 0x13) [.bfmt r, .bfmtRead tiv] && all (tagS 3 0x33) [.bfmt r] &&
     (ea (th [] []) 0x10040 1 needNone).toOption == some 0x10040 && decide (5 < slotCount (tagS 0 0) 0) && decide (slotCount (tagS 0 0) 0 ≤ 256) &&
     bits (tagEntry (tagS 0 0) 0 3) 0 42 == 0x10040 / 2048 + 2 ^ 41 && tagFind (tagS 0 0) 0 32 == some 3 && tagFind (tagS 0 0) 0 33 == none &&
     (upFrom 0 256).all (fun n => bits (tagEntry (tagS 0 0) 0 n) 0 42 != 33 + 2 ^ 41) && decide (3 < 16 * gangOf (tagS 0 0) 0)) = true := by decide +kernel

/-- A = the segment's low half, B its high half. -/
def sgT (g : BitVec 128) (md : Nat) : Thread := th [(6, g.extractLsb' 0 64), (7, g.extractLsb' 64 64)] [(rMODE, BitVec.ofNat 64 md), (rTVEC, 0x8000)]
def sgF (d : BitVec 7) (par : BitVec 8) : RForm := ⟨d, 6, 7, false, xt par 0 0xFFFF⟩

theorem test_sgset : gives (mc (sgT (seg 0x1000 0xFFF) 0)) (.sgset (sgF 3 0)) (fun u => ((thr u 0).map (fun t => segOf t 3)) == some (seg 0x1000 0xFFF)) = true := by
  decide +kernel
theorem test_sgset_sg0 : gives (mc (sgT (seg 0x1000 0xFFF) 0)) (.sgset (sgF 0 0)) (fun u => trapped u 0x21 0 0x1000) = true := by decide +kernel
theorem test_probe_ea : gives (mc (th [(6, scr), (7, 0x0801)] vec)) (.probe (rt (xt 2 0 0xFFFF))) (fun u => reg u 5 == 0x8000000000000) = true := by
  decide +kernel
theorem test_ptinv : gives (paged (ab 0x10040 0)) (.ptinv ⟨0, 6, 0, false, .none⟩) (fun u => tlbFind u 0 0 0x10040 == none) = true := by decide +kernel

def superT : Thread := th [(6, 0x10040), (7, 0x0801)] [(rMODE, 1), (rTVEC, 0x8000)]
theorem witness_SegmentsAndTranslations :
    (all (mc (sgT (seg 0x1000 0xFFF) 0)) [.sgset (sgF 3 0), .sgset (sgF 0 0), .sgset (sgF 3 8)] && all (mc (sgT (seg 0x1000 0xFFF) 1)) [.sgset (sgF 3 8)] &&
     all (mc (sgT (seg (2 ^ 52 - 1) 5) 0)) [.sgset (sgF 3 0)] && segBad (seg (2 ^ 52 - 1) 5) && !segBad (seg 0x1000 0xFFF) && segValid (seg 0 (2 ^ 52 - 1)) &&
     segWithin (seg 0x1000 0xFFF) (seg 0 (2 ^ 52 - 1)) && !segWithin (seg 0 (2 ^ 52 - 1)) (seg 0x1000 0xFFF) && !segT (seg 0x1000 0xFFF) &&
     all (mc (th [(6, 3), (7, 0x0801)] vec)) [.probe ra, .probe (rt (xt 1 0 0xFFFF)), .probe (rt (xt 2 0 0xFFFF)), .probe (rt (xt 3 0 0xFFFF))] &&
     can (mc superT) (.probe (rt (xt 3 0 0xFFFF))) && supOf superT && (ea superT 0x10040 8 (probeRights 0x0801)).toOption.isSome &&
     (tlbFind (paged (mc superT)) (portOf 0) (partOf superT) 0x10040).isSome && can (paged (mc superT)) (.probe (rt (xt 3 0 0xFFFF))) &&
     (tlbFind (mc superT) (portOf 0) (partOf superT) 0x10040).isNone && (walk (mc superT) 0 0x10040).isNone &&
     all (ab 0x10040 0) [.ptinv ⟨0, 6, 0, false, .none⟩, .ptinvAll ⟨0, 0, 0, false, xt 1 0 0xFFFF⟩] &&
     all (ab (2 ^ 51) 0) [.ptinv ⟨0, 6, 0, false, .none⟩]) = true := by decide +kernel

/-- A walk in flight, due at a clk, for the page of 0x10040. -/
def walkingS (due : Nat) (s : State) : State := { s with tlb := [], walks := [(0, [⟨0, 1, some ⟨0, 1, false, true, true, true, true, 2⟩, due, false⟩])] }
theorem witness_SegmentsAndTranslations_walks :
    ((lookUp (mc superT) 0 0 0x10040).1.isNone && (lookUp (paged (mc superT)) 0 0 0x10040).1.isSome && (lookUp (walkingS 100 (mc superT)) 0 0 0x10040).2.1 == 100 &&
    ((mc superT).walks.getD 0 []).isEmpty && (mc superT).badEcc.isEmpty) = true := by decide +kernel

/-- A stamped word at 16 above a header at the segment's base in the scratchpad: STAMP 5 and valid (bit 48), LIMIT 9. -/
def stT (v : Word) : Thread := { th [(5, v), (6, 0x4000000000000010)] vec with segs := [(0, seg 0 (2 ^ 52 - 1)), (2, seg 0x8000000000000 0xFFFF)] }
def stS (valid limit now : Nat) : State :=
  { mc (stT 0x77) with
    mem := (wrMemN State.reset 0x8000000000000 16 (5 + valid * 2 ^ 48 + limit * 2 ^ 64)).mem,
    ctl := [(cycleBase + 0x18, BitVec.ofNat 64 now), (remapHdr 0, 1)] }
def ss : MForm := ⟨5, 6, 3, false, .none⟩

theorem test_sread_stale : gives (stS 1 1 7) (.sread m) (fun u => trapped u 0x2A 2 0x1000) = true := by decide +kernel
theorem test_swrite_late : gives (stS 1 9 7) (.swrite m) (fun u => trapped u 0x6E 5 0x1000) = true := by decide +kernel

def hdrOf (s : State) (kind : Nat) : Option Got :=
  (thr s 0).bind (fun t => match portRead s 0 t 0x4000000000000010 kind (headerAddr t 0x4000000000000010) 16 with
    | .ok g => some g
    | _ => none)
def bodyOf (g : Got) : Bool :=
  ((thr g.s 0).map (fun t => match portRead g.s 0 t 0x4000000000000010 0 0x8000000000010 8 with
    | .ok _ => true
    | _ => false)).getD false
def writes (s : State) (v : Nat) : Bool :=
  ((thr s 0).map (fun t => match portWrite false s 0 t 0x4000000000000010 0x8000000000010 (toBytes 8 0x77) with
    | .ok w => (match portWrite false w.s 0 t 0x4000000000000010 (headerAddr t 0x4000000000000010) (toBytes 6 0 ++ toBytes 2 (v / 2 * 2 + 1)) with
      | .ok _ => true
      | _ => false)
    | _ => false)).getD false

theorem witness_StampedAccess :
    (all (stS 1 9 7) [.sread m, .sreadStatus ss, .swrite m] && all (stS 0 9 7) [.sread m, .sreadStatus ss, .swrite m] &&
     (ea (stT 0x77) 0x4000000000000010 8 needSRead).toOption == some 0x8000000000010 &&
     (ea (stT 0x77) 0x4000000000000010 8 needSWrite).toOption == some 0x8000000000010 && decide (16 ≤ ptrOff 0x4000000000000010) &&
     viewOf (stT 0x77) == 0 && ((hdrOf (stS 1 9 7) 0).map bodyOf) == some true &&
     ((hdrOf (stS 1 9 7) 0).map (fun h => fieldOf h.bytes 6 2 % 2 == 1 && decide ((nowStamp h.s + 2 ^ 48 - fieldOf h.bytes 0 6) % 2 ^ 48 ≤ fieldOf h.bytes 8 4))) == some true &&
     ((hdrOf (stS 0 9 7) 0).map (fun h => fieldOf h.bytes 6 2 % 2)) == some 0 && (hdrOf (stS 1 9 7) 1).isSome &&
     decide (stampinOf (stS 1 9 7) (stT 0x77) < 5) && writes (stS 0 9 7) 0) = true := by decide +kernel

/-- A thread of a node, whose read of stamp 7 completes at clk c. -/
def readS (c : Nat) : State := { mc { th [] vec with node := some 0x50000, stamps := [(c, 7)] } with nodes := [(0x50000, nodeRec false)] }
theorem witness_StampedAccess_completed :
    ([0, 5].all (fun c => (readS c).threads.map (fun q => (q.1, q.2.node, q.2.stamps)) == [(0, some 0x50000, [(c, 7)])]) && ((readS 0).nodes.get? 0x50000).isSome &&
     decide (0 ≤ (readS 0).clk) && decide ((readS 5).clk < 5) && ((lowerAll (readS 0)).nodes.get? 0x50000).map (fun n => n.stampin) == some 7) = true := by decide +kernel

/-! Groups, twin entries, timelines, barrier objects, time and sequences. -/

def joined (c : Option Bool) (a b : Word) : Thread := { th [(6, a), (7, b)] vec with groups := match c with
  | some b => [(5, b)]
  | none => [] }
/-- Group 5 of partition 0: one member, counted, none arrived. -/
def grp (c : Option Bool) (m n : Nat) : State := { mc (joined c 5 0) with ctl := [(remapHdr 0, 1), (groupAt 5, BitVec.ofNat 64 (m + n * 2 ^ 14))] }
def atBar (arrived : Nat) : State :=
  { grp none 1 1 with
    threads := [(0, waiting .group 5 0 (joined (some true) 5 0))],
    ctl := [(remapHdr 0, 1), (groupAt 5, BitVec.ofNat 64 (1 + 2 ^ 14 + arrived * 2 ^ 28)), (groupAt 5 + 8, 4)] }

theorem test_gjoin : gives (grp none 3 3) (.gjoin ra) (fun u => groupMembers u 5 == 4 && groupCounted u 5 == 3) = true := by decide +kernel
theorem test_gleave_unjoined : gives (grp none 3 3) (.gleave ra) (fun u => trapped u 0x38 5 0x1000) = true := by decide +kernel
theorem test_gbar : gives (grp (some true) 3 3) (.gbar ra) (fun u => groupArrived u 5 == 1 && ((thr u 0).bind waitOf).isSome) = true := by decide +kernel
theorem test_group_settles : (groupPhase (settleGroup (atBar 1) 5) 5 == 5 && groupArrived (settleGroup (atBar 1) 5) 5 == 0 &&
    ((thr (settleGroup (atBar 1) 5) 0).map (fun t => t.pc)) == some 0x1004) = true := by decide +kernel

/-- Twin entry 3 of partition 0 is valid, with pending words or not. -/
def twinS (pend e : Nat) (s : State) : State :=
  { s with ctl := [(twinEnt 0 3, 0x10000), (twinEnt 0 3 + 8, 0x20000), (twinEnt 0 3 + 0x10, BitVec.ofNat 64 (0x1000 + 2 ^ 40 + pend * 2 ^ 48)), (remapHdr 0, 1)],
           threads := [(0, th [(6, BitVec.ofNat 64 e)] vec)] }
def inView (s : State) : State := { s with threads := s.threads.map (fun q => (q.1, { q.2 with spr := [(rTVEC, 0x8000), (rVIEW, 5)] })) }

/-- The state after a publish has reached the port. -/
def published (p : State → Bool) (u : State) : Bool :=
  match u.pubOps with
  | [o] => p (publishAt u o)
  | _ => false

theorem test_publish :
    gives (twinS 0 3 (mc (th [] []))) (.publish ra) (published (fun u => twinSel u 0 3 == 1 && pubCount u 0 3 == 1 && reg u 5 == 1)) = true := by
  decide +kernel
theorem test_publish_pending :
    gives (twinS 2 3 (mc (th [] []))) (.publish ra) (published (fun u => (thr u 0).bind (fun t => t.trapDue) == some (0x57, 3))) = true := by
  decide +kernel

/-- Twin entry 3, whose publish by thread 0 waits at the port. -/
def pubS (pend : Nat) : List State := [{ twinS pend 3 (mc (th [] [])) with threads := [(0, waiting .port 3 0 (th [] vec))] }]
/-- A thread of partition p, whose twin entry 1 is valid, publishes entry 1. -/
def twinS1 (p : Nat) : State :=
  { mc (th [(6, 1)] vec) with
    ctl := [(twinEnt p 1, 0x10000), (twinEnt p 1 + 8, 0x20000), (twinEnt p 1 + 0x10, BitVec.ofNat 64 (0x1000 + 2 ^ 40)), (remapHdr p, 1)] }
def inPart (s : State) : State := { s with threads := s.threads.map (fun q => (q.1, { q.2 with spr := [(rTVEC, 0x8000), (rPARTITION, 3)] })) }

theorem witness_GroupBarriers :
    (all (grp none 3 3) [.gjoin ra, .gleave ra, .gbar ra] && all (grp (some true) 3 3) [.gjoin ra, .gleave ra, .gbar ra] && all (grp (some false) 3 3) [.gleave ra] &&
     decide (groupMembers (grp none 3 3) 5 < 8192) && groupMembers (grp none 8192 3) 5 == 8192 && can (grp none 8192 3) (.gjoin ra) &&
     released (grp (some true) 3 3) 3 && straight (joined (some true) 5 0) && redundOf (joined (some true) 5 0) == 0 &&
     (groupWaiters (atBar 1) 5).map (fun q => q.1) == [0] && groupArrived (atBar 1) 5 == groupCounted (atBar 1) 5 &&
     groupArrived (atBar 0) 5 != groupCounted (atBar 0) 5 &&
     [0, 1, 3, 255, 256].all (fun e => can (twinS 0 e (mc (th [] []))) (.publish ra)) && twinValid (twinS 0 3 (mc (th [] []))) 0 3 &&
     !twinValid (twinS 0 3 (mc (th [] []))) 0 255 && [1, 3].all (fun e => can (inView (twinS 0 e (mc (th [] [])))) (.publish ra)) &&
     ((thr (inView (twinS 0 1 (mc (th [] [])))) 0).map viewOf) == some 5 && (holdOp (inView (twinS 0 1 (mc (th [] [])))) 0 5 ⟨2, 1, 0, 0, 0, [], 0x1000, 0⟩).isSome &&
     twinPending (twinS 2 3 (mc (th [] []))) 0 3 == 2 && twinPending (twinS 0 3 (mc (th [] []))) 0 3 == 0 && cycleEn cyc &&
     (pubS 0).all (fun s => twinPending s 0 3 == 0 && (s.sending.get? 3).isNone && ((thr s 0).map (fun t => straight t && redundOf t == 0 &&
       ((waitOf t).map (fun w => w.kind == .port && w.dst != 0)) == some true)) == some true) &&
     (pubS 2).all (fun s => twinPending s 0 3 == 2) && (twinS 0 3 (mc (th [] []))).sending.isEmpty &&
     can (inPart (twinS1 3)) (.publish ra) && twinValid (inPart (twinS1 3)) 3 1 && ((thr (inPart (twinS1 3)) 0).map partOf) == some 3 &&
     can { cyc with threads := [(0, th [] vec)], ctl := [(cycleBase, 0x1000003E8), (remapHdr 0, 1)] } (.publish ra) &&
     released (twinS 0 3 (mc (th [] []))) 4) = true := by decide +kernel

/-- Timeline 9 of partition 0 holds 100. -/
def tl (b : Word) (v : Nat) : State := { mc (th [(6, 9), (7, b)] vec) with ctl := [(remapHdr 0, 1), (timelineAt 9, BitVec.ofNat 64 v)] }
def sup (s : State) : State := { s with threads := s.threads.map (fun q => (q.1, { q.2 with spr := [(rMODE, 1), (rTVEC, 0x8000)] })) }
def armed (s : State) : State := { s with ctl := s.ctl ++ [(timelineAt 9 + 0x10, 0x2000)], tlNote := [(9, 0)] }
/-- Timeline 9 holds 100 and is armed for a value, in clk 5. -/
def fireS (v : Word) : State := { tl 5 100 with clk := 5, ctl := [(remapHdr 0, 1), (timelineAt 9, 100), (timelineAt 9 + 8, v), (timelineAt 9 + 0x10, 0x2000)], tlNote := [(9, 0)] }
def armedOther (s : State) : State := { armed s with tlNote := [(9, 64)] }

theorem test_tcadd_overflow : gives (tl 5 (2 ^ 64 - 1)) (.tcadd r) (fun u => (thr (settleTimelines u) 0).bind (fun t => t.trapDue) == some (0x34, 9)) = true := by decide +kernel
theorem test_timeline_fires : (((thr (timelineFire (fireS 100) 9) 0).map (fun t => t.uiq)) == some [(uiWord 2 9, 100)]) = true := by decide +kernel
theorem test_timeline_adds : (timelineValue (settleTimelines { tl 5 100 with tlOps := [⟨9, 1, 0, 5, some 0, 0, 0, 0⟩] }) 9 == 105) = true := by decide +kernel
theorem test_tcwait : gives (tl 101 100) (.tcwait r) (fun u => ((thr u 0).bind waitOf).map (fun w => (w.kind, w.cause)) == some (.timeline, 0x36)) = true := by
  decide +kernel

theorem witness_Timelines :
    (all (tl 5 100) [.tcadd r, .tcwait r, .tcwaitArm r, .tcwaitDisarm r] && can (sup (tl 5 100)) (.tcset r) && all (inView (tl 5 100)) [.tcadd r] &&
     all (armed (tl 5 100)) [.tcwaitArm r, .tcwaitDisarm r] && all (armedOther (tl 5 100)) [.tcwaitArm r, .tcwaitDisarm r] &&
     ((thr (tl 5 100) 0).map (fun t => viewOf t == 0 && timelineKey (tl 5 100) t 9 == some 9 && timelineKey (tl 5 100) t 4096 == none)) == some true &&
     can (sup (mc (th [(6, 4096)] vec))) (.tcset r) && released (tl 5 100) 3 && decide (timelineValue (tl 5 100) 9 + 5 < 2 ^ 64) &&
     decide (2 ^ 64 ≤ timelineValue (tl 5 (2 ^ 64 - 1)) 9 + 5) && ((thr (tl 5 100) 0).map (fun t => decide (t.run ≠ .ending))) == some true &&
     isHuskKey 0 == false && (thr (fireS 100) 0).map (fun t => t.uiq.length == 0 && t.uiAt != (fireS 100).clk) == some true && ctlF (fireS 100) (timelineAt 9 + 0x10) 13 1 == 1 &&
     decide ((rdCtl (fireS 100) (timelineAt 9 + 8)).toNat ≤ timelineValue (fireS 100) 9) && decide (timelineValue (fireS 100) 9 < (rdCtl (fireS 101) (timelineAt 9 + 8)).toNat) &&
     decide (5 ≤ timelineValue (tl 5 100) 9) && decide (timelineValue (tl 101 100) 9 < 101) &&
     can (tl 101 100) (.tcwait r) && ctlF (tl 5 100) (timelineAt 9 + 0x10) 13 1 == 0 && ctlF (armed (tl 5 100)) (timelineAt 9 + 0x10) 13 1 == 1 &&
     (armed (tl 5 100)).tlNote.get? 9 == some 0 && (armedOther (tl 5 100)).tlNote.get? 9 != some 0 &&
     (waiters (tl 5 100) (fun _ _ w => w.kind == .timeline && w.key == 9)).isEmpty) = true := by decide +kernel

/-- A barrier object at scr: expected bytes, landed bytes and phase. -/
def bar (b : Word) (expect landed phase : Nat) : State :=
  { mc (th [(6, scr), (7, b)] vec) with mem := (wrMemN State.reset 0x8000000000000 16 (expect + (landed + phase * 2 ^ 63) * 2 ^ 64)).mem }
def barFound (s : State) (need : Rights) : Option Nat := ((thr s 0).bind (fun t => (barObj s 0 t (.binit r) scr need).toOption)).map (fun o => o.loc)
def barWait (s : State) : State := { s with threads := [(0, waiting .barrier 0x8000000000000 0 (th [] vec))] }
def barArmed (s : State) : State := { s with threads := [(0, { th [] vec with barArm := some scr })] }

/-- An engine has a chunk to move in this clk. -/
def chunked (s : State) : State := { s with agenda := [(0, .engineChunk 0)] }

theorem test_binit : gives (bar 64 0 0 1) (.binit r) (fun u => barExpected u 0x8000000000000 == 64 && reg u 5 == 1) = true := by decide +kernel
theorem test_bwait_uninit : gives (bar 1 0 0 0) (.bwait r) (fun u => trapped u 0x3F scr 0x1000) = true := by decide +kernel
theorem test_barrier_flips : (barPhase (barLand (bar 0 64 60 0) 0 0 0 scr.toNat 0x8000000000000 4) 0x8000000000000 == 1 &&
    barLanded (barLand (bar 0 64 60 0) 0 0 0 scr.toNat 0x8000000000000 4) 0x8000000000000 == 0) = true := by decide +kernel

theorem witness_BarrierObjects :
    (all (bar 64 0 0 0) [.binit r, .bwait r, .bwaitArm r, .bwaitDisarm r, .btest r] && !chunkDue (bar 64 0 0 0) && chunkDue (chunked (bar 64 0 0 0)) &&
     all (chunked (bar 64 0 0 0)) [.binit r, .bwait r, .bwaitArm r, .bwaitDisarm r, .btest r] && (bar 0 64 60 0).husks.isEmpty &&
     ((thr (bar 64 0 0 0) 0).map (fun t => decide (t.run = .ready))) == some true && barFound (bar 64 0 0 0) needRW == some 0x8000000000000 &&
     barFound (bar 64 0 0 0) needR == some 0x8000000000000 && can (bar (2 ^ 63) 0 0 0) (.binit r) && barLanded (bar 1 64 3 0) 0x8000000000000 == 3 &&
     can (bar 1 64 3 0) (.binit r) && can (bar 1 64 3 0) (.bwait r) && barPhase (bar 1 64 3 0) 0x8000000000000 != 1 && barExpected (bar 1 64 3 0) 0x8000000000000 != 0 &&
     barPhase (bar 1 64 3 1) 0x8000000000000 == 1 && can (bar 1 0 0 0) (.bwait r) && barExpected (bar 1 0 0 0) 0x8000000000000 == 0 &&
     decide (barLanded (bar 0 64 3 0) 0x8000000000000 + 4 < barExpected (bar 0 64 3 0) 0x8000000000000) &&
     (bar 0 64 60 0).threads.all (fun q => q.2.barArm == none && (waitOf q.2).isNone) && ((barWait (bar 0 64 60 0)).threads.all (fun q =>
       ((waitOf q.2).map (fun w => w.kind == .barrier && w.key == 0x8000000000000 && w.arg == 0 && w.dst != 0)) == some true && q.2.barArm == none && straight q.2)) &&
     barPhase (barWait (bar 0 64 60 0)) 0x8000000000000 == 0 && ((barArmed (bar 0 64 0 0)).threads.all (fun q => q.2.barArm == some (BitVec.ofNat 64 0x8000000000000)))) = true := by
  decide +kernel

/-- Chain 3 of partition 0 is running with sequence 10 done. -/
def seqS (n b : Word) (st pt : Nat) : State :=
  { mc (th [(6, n), (7, b)] vec) with ctl := [(chainBase 3 + 0x10, BitVec.ofNat 64 (10 + st * 2 ^ 32 + pt * 2 ^ 48)), (remapHdr 0, 1)] }
def cycWaiting (s : State) : State := { s with threads := [(0, waiting .cycle 1 0x77 (th [] vec))] }

theorem test_rdcyc : gives (mc (th [] vec)) (.rdcyc ⟨5, 0, 0, false, xt 1 0 0xFFFF⟩) (fun u => reg u 5 == 0) = true := by decide +kernel
theorem test_seqwait_done : gives (seqS 3 9 1 0) (.seqwait r) (fun u => reg u 5 == 10) = true := by decide +kernel
theorem test_seqwait_owner : gives (seqS 3 9 1 2) (.seqwait r) (fun u => trapped u 0x59 3 0x1000) = true := by decide +kernel
theorem test_scan_release : gives (cycWaiting (mc (th [] []))) .scanRelease (fun u => reg u 5 == 0x77 && pcAt u == 0x1004) = true := by decide +kernel

theorem witness_TimeAndSequences :
    (straight (th [] vec) && all (mc (th [] vec)) [.rdcyc ⟨5, 0, 0, false, .none⟩, .rdcyc ⟨5, 0, 0, false, xt 1 0 0xFFFF⟩, .rdcyc ⟨5, 0, 0, false, xt 2 0 0xFFFF⟩,
       .rdptp ⟨5, 0, 0, false, .none⟩, .cwait ⟨5, 0, 0, false, .none⟩] && cycPeriodReg (mc (th [] vec)) == 0 && cycPeriodReg cyc != 0 &&
     can { cyc with ctl := cyc.ctl ++ [(remapHdr 0, 1)] } (.cwait ⟨5, 0, 0, false, .none⟩) &&
     (waiters (cycWaiting (mc (th [] []))) (fun _ _ w => w.kind == .cycle && w.key == 1)).map (fun q => q.1) == [0] &&
     all (seqS 3 9 1 0) [.seqwait r] && all (seqS 128 9 1 0) [.seqwait r] && all (seqS 3 9 0 0) [.seqwait r] && all (seqS 3 9 1 2) [.seqwait r] &&
     all (seqS 3 11 1 0) [.seqwait r] && seqDone (seqS 3 9 1 0) 3 9 && !seqDone (seqS 3 11 1 0) 3 11 && chainState (seqS 3 9 0 0) 3 == 0 &&
     chainState (seqS 3 9 1 2) 3 != 0 && chainPart (seqS 3 9 1 2) 3 != 0) = true := by decide +kernel

/-- PTP: disciplined and written now, or not; the domain locked or not. -/
def ptpS (good locked : Bool) : State :=
  { base0 with
    ctl := [(cycleBase, if locked then 0x4000003E8 else 0x3E8), (ptpBlock + 0x10, if good then 1 else 0)],
    ptpWrote := some 0 }
theorem witness_TimeAndSequences_clock :
    (ptpGood (ptpS true true) && cycLocked (ptpS true true) && !ptpGood (ptpS false true) && !cycLocked (ptpS true false) && decide (0 < cyclePeriod (ptpS true true)) &&
     (waiters (cycWaiting base0) (fun _ _ w => w.kind == .cycle)).map (fun q => q.1) == [0] && (waiters base0 (fun _ _ w => w.kind == .cycle)).isEmpty) = true := by
  decide +kernel

/-! Channels, mailboxes, fault replies, the watchdog. -/

/-- Channel 6 of partition 0, whose writer is the thread with TID 0 and whose reader is that with TID rd; A = 6. -/
def ch (rd b : Nat) : State :=
  { mc (th [(6, 6), (7, BitVec.ofNat 64 b)] vec) with
    ctl := [(remapHdr 0, 1), (chanEnt 0 6 + 0x10, BitVec.ofNat 64 (rd * 2 ^ 32)), (chanEnt 0 6 + 0x18, 1)] }
def full6 (s : State) : State := { s with chanUsed := [(6, 16)] }
def one6 (s : State) : State := { s with chanUsed := [(6, 1)], chanBuf := [(6, [0x99])] }
def way6 (s : State) : State := { s with chanUsed := [(6, 1)], chanWay := [(6, [(0, 0x99)])], chanBack := [(6, 1)] }
def chEnd (s : State) (rd : Bool) : Option Nat := chanEndpoint s 0 6 rd

theorem test_csend : gives (ch 0 0x42) (.csend ⟨0, 6, 7, false, .none⟩) (fun u => u.chanWay.getD 6 [] == [(0, 0x42)] && u.chanUsed.getD 6 0 == 1) = true := by
  decide +kernel
theorem test_crecv : gives (one6 (ch 0 0)) (.crecv ra) (fun u => reg u 5 == 0x99 && u.chanBuf == []) = true := by decide +kernel
theorem test_csend_waits : gives (full6 (ch 0 0)) (.csend ⟨0, 6, 7, false, .none⟩)
    (fun u => ((thr u 0).bind waitOf).map (fun w => (w.kind, w.cause)) == some (.chanSend, 0x30)) = true := by decide +kernel

theorem witness_Channels :
    (let cs : RForm := ⟨0, 6, 7, false, .none⟩
     all (ch 0 0) [.csend cs, .crecv ra, .cpoll ra] && all (full6 (ch 0 0)) [.csend cs] && all (one6 (ch 0 0)) [.crecv ra] && all (ch 1 0) [.csend cs, .crecv ra, .cpoll ra] &&
     all (mc (th [(6, 6)] vec)) [.csend cs, .crecv ra] && viewOf (th [] vec) == 0 &&
     chEnd (ch 0 0) false == some 0 && chEnd (ch 0 0) true == some 0 && chEnd (ch 1 0) false == some 0 && chEnd (ch 1 0) true == none &&
     chEnd (mc (th [] [])) true == none && decide (16 ≤ (full6 (ch 0 0)).chanUsed.getD 6 0) && released (ch 0 0) 3 && released (ch 1 0) 3 &&
     (one6 (ch 0 0)).chanBuf.getD 6 [] == [0x99] && (way6 (ch 0 0)).chanWay.getD (0 * 1024 + 6) [] == [(0, 0x99)] && (way6 (ch 0 0)).chanBack.getD 6 0 != 0) = true := by
  decide +kernel

/-- A = the target word, B = the message's address. -/
def mb (a b : Word) : State := mc (th [(6, a), (7, b)] vec)
def fullBox (s : State) : State := { s with mboxes := [(0, ⟨[], 16, none⟩)] }
def oneBox (s : State) : State := { s with mboxes := [(0, ⟨[List.replicate 64 7], 0, none⟩)] }
def kept : Held := ⟨0, none, 0, List.replicate 64 9, 0⟩
def posted : Held := ⟨0, some 0, 0, List.replicate 64 9, 0⟩
/-- The service thread of partition 0 is thread 0. -/
def svc (s : State) : State := { s with pspr := [(rSVCTHREAD, 0x4000)] }
def mbs : RForm := ⟨0, 6, 7, false, .none⟩

theorem test_mbsend : gives (mb 0 scr) (.mbsend mbs) (fun u => (mboxOf u 0).reserved == 1 && (u.agenda.map (fun q => q.1)) == [20]) = true := by decide +kernel
theorem test_mbrecv : gives (oneBox (mb scr 0)) (.mbrecv ra) (fun u => rdMemN u 0x8000000000000 8 == 0x0707070707070707 && (mboxOf u 0).msgs == []) = true := by
  decide +kernel
theorem test_mbsend_absent : gives (mb 1 scr) (.mbsend mbs) (fun u => trapped u 0x28 1 0x1000) = true := by decide +kernel
theorem test_arrive : gives (mb 0 0) (.mailboxArrive 0 0 [1, 2]) (fun u => (mboxOf u 0).msgs == [[1, 2]]) = true := by decide +kernel

/-- Thread 0 waits for a message, to scr. -/
def receiving (s : State) : State := { s with threads := [(0, waiting .mailRecv 0 scr (th [] vec))], cur := none }

theorem witness_Mailboxes :
    (let bad (s : State) (v : Word) : Option (Nat × Word) := (thr s 0).bind (fun t => mbsendBad s t (.mbsend mbs) v)
     let supS (a b : Word) : State := sup (mb a b)
     all (mb 0 scr) [.mbsend mbs] && bad (mb 0 scr) 0 == none && bad (mb 1 scr) 1 == some (0x28, 1) && all (mb 1 scr) [.mbsend mbs] &&
     (ea (th [] []) scr 64 needR).toOption == some 0x8000000000000 && mboxFull (fullBox (mb 0 scr)) 0 && !mboxFull (mb 0 scr) 0 && all (fullBox (mb 0 scr)) [.mbsend mbs] &&
     ldPtr (mb 0 scr) scr 64 && all (supS 0x18000 scr) [.mbsend mbs] && bad (supS 0x18000 scr) 0x18000 == none && bit (0x18000 : Word) 16 && ldPtr (supS 0x18000 scr) scr 64 &&
     all (inView (mb 0 scr)) [.mbsend mbs] && ldPtr (inView (mb 0 scr)) scr 64 && (holdOp (inView (mb 0 scr)) 0 5 ⟨3, 0, 64, 0, 0, [], 0, 0⟩).isSome &&
     all (mb scr 0) [.mbrecv ra, .mbrecvArm ⟨5, 0, 0, false, xt 1 0 0xFFFF⟩, .mbrecvDisarm ⟨5, 0, 0, false, xt 2 0 0xFFFF⟩] && all (oneBox (mb scr 0)) [.mbrecv ra] &&
     (ea (th [] []) scr 64 needW).toOption == some 0x8000000000000 &&
     (firstReceiver (mb 0 0) 0).isNone && ((firstReceiver (receiving (mb 0 0)) 0).map (fun q => q.1)) == some 0 && (mboxOf (receiving (mb 0 0)) 0).msgs.isEmpty &&
     (takeMessage (setMbox (receiving (mb 0 0)) 0 ⟨[List.replicate 64 7], 0, none⟩) 0 0 (th [] vec) scr (List.replicate 64 7) []).toOption.isSome &&
     decide (0 < { posted with next := 256 }.next) &&
     stPtr (oneBox (mb scr 0)) scr (List.replicate 64 7) && all (inView (mb scr 0)) [.mbrecv ra] && (mboxOf (mb 0 0) 0).notifier == none &&
     postsFor (svc (mb 0 0)) 0 posted && !mboxFull (svc (mb 0 0)) 0 && mboxFull (fullBox (svc (mb 0 0))) 0 && (mboxOf (fullBox (svc (mb 0 0))) 0).notifier == none &&
     kept.part.isNone && kept.core == 0) = true := by decide +kernel

/-- Thread 0 waits for the reply to token 4. -/
def faulted (arg : Word) : State :=
  { mc (waiting .translation 4 arg (th [] vec)) with tokens := [(4, 0, 0x24, 0x10040)] }
/-- The watchdog of partition 0 with a limit of 100 clk. -/
def dog (clk md : Nat) : State :=
  { mc (th [] [(rMODE, BitVec.ofNat 64 md)]) with pspr := [(rSVCTHREAD, 0x4000), (rWDOGLIM, 100)], clk := clk }

theorem test_reply_traps : gives (faulted 0) (.faultReply 0 4 1) (fun u => ((thr u 0).map (fun t => t.trapDue)) == some (some (0x24, 0x10040)) && u.tokens == []) = true := by decide +kernel
theorem test_watchdog : gives (dog 100 0) (.watchdogExpiry 0) (fun u => ((thr u 0).map (fun t => t.deferred)) == some [(0x7E, 100)]) = true := by
  decide +kernel

theorem witness_FaultRepliesAndWatchdog :
    (((thr (faulted 0) 0).bind waitOf).map (fun w => w.kind == .translation && w.key == 4) == some true &&
     (translate (paged (faulted 0)) (portOf 0) 0 0x10040 0).toOption.isSome && (translate (faulted 0) (portOf 0) 0 0x10040 0).toOption.isNone &&
     (faulted 0).tokens.get? 5 == none && (faulted 0).tokens.get? 4 == some (0, 0x24, 0x10040) && sprPart (faulted 0) 0 rWDOGLIM == 0 &&
     (sprPart (dog 100 0) 0 rWDOGLIM).toNat == 100 && (dog 100 0).wdog.getD 0 0 == 0 && svcThread (dog 100 0) 0 == some 0 && thOf (th [] [(rMODE, 2)]) &&
     !thOf (th [] [(rMODE, 0)])) = true := by decide +kernel

theorem witness_FaultRepliesAndWatchdog_walks :
    ((walkResult (paged (faulted 0x10040)) (portOf 0) 0 0x10040 0).toOption.isSome && (walkResult (faulted 0x10040) (portOf 0) 0 0x10040 0).toOption.isNone &&
     ((walkingS 0 (faulted 0)).walks.getD 0 []).all (fun x => x.due == 0 && walkFor 0 0x10040 x)) = true := by decide +kernel

/-! Slot tables, bindings, worlds. -/

/-- Supervisor, A and B. -/
def su (a b : Word) : State := sup (mc (th [(6, a), (7, b)] vec))
def host0 (a b : Word) : State := mcHost { hostTh [(6, a), (7, b)] [(rMODE, 1), (rTVEC, 0x8000)] with pc := 0x1000 }
def canH (s : State) (i : Instr) : Bool :=
  match thr s 8192 with
  | some t => issues i s 8192 t
  | none => false
/-- sbind: slab 2 whole, which cores 0 to 2 may name. -/
def bindTo : Word := 0xFFFFFFFFFFFF0202
def slotF (q : Bool) : RForm := ⟨5, 6, 7, q, .none⟩
def slotQ (s : State) (a v : Word) : Option (Nat × Word) × Option (Nat × Word) :=
  ((thr s 0).bind (fun t => slotBad s t a false), slotValueBad s a v)

theorem test_slotw_waits : gives (su 0x100 1) (.slotwWrite r) (fun u => reg u 5 == 0 && (u.slotReq.map (fun q => q.set)) == [[1, 5, 9, 13]]) = true := by
  decide +kernel
theorem test_sbind : gives (su 2 bindTo) (.sbindWrite r) (fun u => bindEntry u 2 == bindTo && reg u 5 == 0xFFFFFFFFFFFFFFFF) = true := by decide +kernel
theorem test_sbind_busy : gives (su 0 bindTo) (.sbindWrite r) (fun u => trapped u 0x1F 0 0x1000) = true := by decide +kernel

theorem witness_SlotsAndBindings :
    (all (su 0x100 1) [.slotwWrite r, .slotwRead tiv] && slotQ (su 0x100 1) 0x100 1 == (none, none) && slotQ (su 0x100 3) 0x100 3 == (none, some (0x07, 3)) &&
     all (su 0x100 3) [.slotwWrite r] && ((thr (su 0x100 1) 0).bind (fun t => slotBad (su 0x100 1) t 0x100 true)) == none && !coreIn (su 0x105 1) 0 5 &&
     base0.threads.isEmpty && all (su 2 bindTo) [.sbindWrite r, .sbindRead tiv] && all (su 128 bindTo) [.sbindWrite r] && all (su 2 0) [.sbindWrite r] &&
     bindOk (su 2 bindTo) 2 bindTo && !bindOk (su 2 0) 2 0 && bindOk (su 0 bindTo) 0 bindTo && all (su 0 bindTo) [.sbindWrite r] &&
     bit ((su 0 0).dspr.getD rBINDBASE 0) 0 == false && bits ((su 0 0).dspr.getD rBINDBASE 0) 8 4 == 0 &&
     can { su 2 bindTo with dspr := [(rBINDBASE, 1)] } (.sbindWrite r)) = true := by decide +kernel

/-- A = the number of rivals, B = the fork record at scr, whose rivals start at 0x2000. -/
def forkS (n : Word) : State :=
  { mc (th [(6, n), (7, scr)] vec) with
    mem := (wrMemN State.reset 0x8000000000000 32 0x2000).mem,
    ctl := [(remapHdr 0, 1), (poolEnt 0 0, 0x100001)] }
/-- Pod 3 of thread 0 with two rivals, views 1 and 2 with the scores of rivals 1 and 2. -/
def podS (st ended : Nat) (b : Word) (x y : Word) : State :=
  { mc (th [(6, 3), (7, b)] vec) with
    podOwner := [(3, 0)],
    ctl := [(remapHdr 0, 1), (viewEnt 0 1, BitVec.ofNat 64 (2 ^ 10 + 3 * 2 ^ 16 + 2 ^ 24)), (viewEnt 0 1 + 8, x),
      (viewEnt 0 2, BitVec.ofNat 64 (2 ^ 10 + 3 * 2 ^ 16 + 2 * 2 ^ 24)), (viewEnt 0 2 + 8, y),
      (podEnt 0 3, BitVec.ofNat 64 (3 + st * 2 ^ 16 + 2 * 2 ^ 24 + ended * 2 ^ 32))] }
def rivalT : Thread := { th [(6, 0x55)] [(rTVEC, 0x8000), (rVIEW, 1), (rWDEPTH, 1), (rPOD, 3)] with rival := 1 }
def zf : ZForm := ⟨0, .none⟩

theorem test_fork : gives (forkS 2) (.fork r) (fun u => reg u 5 == 0x101 && podCount u 0 1 == 2 && (u.rivals.map (fun q => q.index)) == [1, 2]) = true := by
  decide +kernel
theorem test_wjoin : gives (podS 1 2 0 0 0) (.wjoin ra) (fun u => podState u 0 3 == 2 && reg u 5 == 0) = true := by decide +kernel
theorem test_choose_min : gives (podS 2 2 0 5 0xFFFFFFFFFFFFFFFF) (.chooseMin tiv) (fun u => reg u 5 == 2 && podState u 0 3 == 0) = true := by decide +kernel
theorem test_choose_refused : gives (podS 2 2 3 5 6) (.choose r) (fun u => trapped u 0x47 3 0x1000) = true := by decide +kernel
theorem test_wend : gives (mc rivalT) (.wend ra) (fun u => ((thr u 0).map (fun t => decide (t.run = .ending))) == some true && viewScore u 0 1 == 0x55) = true := by
  decide +kernel
theorem test_tend : gives (mc (th [] vec)) (.tend zf) (fun u => ((thr u 0).map (fun t => decide (t.run = .ending))) == some true) = true := by decide +kernel

def own3 (s : State) : Bool := podIndex s 0 3 == some 3 && podOwnedBy s 0 3 0
theorem witness_Worlds :
    (all (forkS 2) [.fork r] && all (forkS 64) [.fork r] && all (forkS 1) [.fork r] && all (forkS 65) [.fork r] && ldPtr (forkS 2) scr 32 &&
     (forkRec (toBytes 32 0x2000)).good && bits (getSpr (th [] []) rWDEPTH) 0 3 != 4 && poolEn (forkS 2) 0 0 && (freePods (forkS 2) 0) == some 1 &&
     decide (64 ≤ (freeViews (forkS 64) 0).length) && released (forkS 2) 3 &&
     all (podS 1 1 0 0 0) [.wjoin ra, .choose r] && all (podS 1 2 0 0 0) [.wjoin ra] && own3 (podS 1 1 0 0 0) && decide (podEnded (podS 1 1 0 0 0) 0 3 < podCount (podS 1 1 0 0 0) 0 3) &&
     decide (podCount (podS 1 2 0 0 0) 0 3 ≤ podEnded (podS 1 2 0 0 0) 0 3) && podIndex (mc (th [] [])) 0 3 == none && all (mc (th [(6, 3)] vec)) [.wjoin ra] &&
     !podOwnedBy { podS 1 1 0 0 0 with podOwner := [(3, 64)] } 0 3 0 && can { podS 1 1 0 0 0 with podOwner := [(3, 64)] } (.wjoin ra) &&
     own3 (podS 2 2 1 5 6) && podState (podS 2 2 1 5 6) 0 3 == 2 && podState (podS 1 1 0 0 0) 0 3 != 2 &&
     all (podS 2 2 1 5 6) [.choose r, .chooseMin tiv] && all (podS 2 2 3 5 6) [.choose r] && all (podS 2 2 0 5 6) [.choose r] && all (podS 2 2 (-1) 5 6) [.choose r] &&
     soundRivals (podS 2 2 1 5 6) 0 3 == [(1, 1), (2, 2)] && rivalView (podS 2 2 1 5 6) 0 3 1 == some 1 && released (podS 2 2 1 5 6) 3 &&
     rivalBefore (podS 2 2 1 5 6) 0 false 0 (1, 1) (2, 2) && !rivalBefore (podS 2 2 1 5 6) 0 false 0 (2, 2) (1, 1) &&
     all (mc (th [] vec)) [.wend ra, .tend zf] && can (mc rivalT) (.wend ra) && podOf rivalT == 3 && !matBusy (mc rivalT) 0 &&
     chainsQuiet (wrCtl (mc rivalT) (viewEnt 0 1 + 8) 0x55) 0 1 && released (mc rivalT) 3 && all (svc (mc (th [] vec))) [.tend zf] && svcThread (svc (mc (th [] vec))) 0 == some 0 &&
     svcThread (mc (th [] vec)) 0 != some 0) = true := by decide +kernel

def viewSt (n : Nat) : State := { base0 with ctl := [(viewEnt 0 1, BitVec.ofNat 64 (n * 2 ^ 10))] }
def lineS : State := { viewSt 1 with vmem := [(verKey 0 1 0x20040, 7)] }
def rivalReq : RivalReq := ⟨0, 0, 1, 0, { th [] vec with rival := 1 }⟩
def rivalS : State := { mc (th [] vec) with rivals := [rivalReq], nodes := [(0, { nodeRec false with flags := 4, gprs8 := 8 })] }
def unR (s : State) : State := unsched s (fun i => i == .rivalPlace 0)

theorem witness_Worlds_views :
    (viewState (viewSt 3) 0 1 == 3 && viewState (viewSt 4) 0 1 == 4 && lineS.vmem.get? (verKey 0 1 (lineOf 0x20044)) != none &&
     lineS.vmem.get? (verKey 0 1 (lineOf 0x20084)) == none && shadowFind lineS 0 1 (lineOf 0x20044 / 4096) == none && !poolEn lineS 0 (poolOf lineS 0 1) && viewKind lineS 0 1 == 0 &&
     (base0.rivals.filter (fun r => r.part == 0)).isEmpty && (rivalCores (unR rivalS) rivalReq).head? == some 0 &&
     ((putRival (unR rivalS) rivalReq 0).map (fun s1 => s1.rivals == rivalS.rivals)) == some true && rivalS.tried.getD 0 0 == 0 &&
     { rivalS with tried := [(0, 1)] }.tried.getD 0 0 == 1 &&
     (rivalCores (unR { rivalS with binding := [] }) rivalReq).all (fun c => (putRival (unR { rivalS with binding := [] }) rivalReq c).isNone)) = true := by
  decide +kernel

/-- Pool 0 at 0x100000 has a map frame and a data frame; view 1 has no map entry, or one for the granule of 0x20040. -/
def poolS : State := { lineS with ctl := lineS.ctl ++ [(poolEnt 0 0, 0x100001), (poolEnt 0 0 + 8, 2)] }
def mappedS : State := wrMemN (wrMemN poolS (shadowBucket poolS 0 0 1 0x20) 8 (0x20 + 2 ^ 40 + 2 ^ 63)) (shadowBucket poolS 0 0 1 0x20 + 16) 4 1

theorem test_shadow_frame : gives poolS (.shadowFrameWriteout 0 1 0x20044) (fun u => rdMem u 0x101040 == 7 && u.vmem == []) = true := by decide +kernel

theorem witness_Worlds_frames :
    (lineS.vmem.get? (verKey 0 1 (lineOf 0x20044)) != none && poolOf poolS 0 1 == 0 && (shadowFind poolS 0 1 0x20).isNone && poolEn poolS 0 0 && poolMap poolS 0 0 == 1 &&
     firstFrom (fun j => rdMemN poolS (shadowBucket poolS 0 0 1 0x20 + 32 * j) 8 / 2 ^ 63 == 0) 0 8 == some 0 && freeFrame poolS 0 0 == some 1 &&
     shadowFind mappedS 0 1 0x20 == some (shadowBucket poolS 0 0 1 0x20) && mappedS.vmem == lineS.vmem &&
     decide (shadowBucket poolS 0 0 1 0x20 + 32 ≤ poolBase mappedS 0 0 + rdMemN mappedS (shadowBucket poolS 0 0 1 0x20 + 0x10) 4 * 4096 + 0x40)) = true := by
  decide +kernel

/-! Nodes, sprouts, dispatch, husks, thermal control. -/

/-- A node's record: entry 0x1000, one task, 64 registers; known is its STATE byte. -/
def record (known : Nat) : Nat := 0x1000 + 1 * 2 ^ 128 + 1 * 2 ^ 160 + 8 * 2 ^ 208 + known * 2 ^ 640
/-- A kernel of no words: ISA 1, 64 registers, ENTRY 0x1000. -/
def kern : Kernel := { part := 0, base := 0, length := 0x10000, note := toBytes 32 (1 + 8 * 2 ^ 32 + 0x1000 * 2 ^ 128), code := [] }
def launchS (known : Nat) : State :=
  { mc (th [(6, scr)] vec) with mem := (wrMemN State.reset 0x8000000000000 128 (record known)).mem, kernels := [kern] }
/-- A sprout record: entry 0x1000; the thread runs node 0x50000. -/
def sprS (n : Nat) : State :=
  { mc { th [(6, scr)] vec with node := some 0x50000 } with
    mem := (wrMemN State.reset 0x8000000000000 32 0x1000).mem,
    nodes := [(0x50000, nodeRec false)], deques := if n = 0 then [] else [(0, List.replicate n ⟨toBytes 32 0x1000, 0x50000, 0, 0, 0⟩)] }
def lastStatus (s : State) : Nat :=
  ((thr s 0).map (fun t => launchStatus s (some (partOf t)) ((upFrom 0x8000000000000 128).map (rdMem s)) (rdMem s 0x8000000000050).toNat)).getD 99

theorem test_launch : gives (launchS 0) (.launch ra) (fun u => reg u 5 == 0 && (u.nodes.map (fun q => (q.1, q.2.state, q.2.count))) == [(0x8000000000000, 2, 1)]) = true := by
  decide +kernel
theorem test_launch_queued : gives (launchS 2) (.launch ra) (fun u => reg u 5 == 0x0B && rdMem u 0x8000000000051 == 0x0B && u.nodes == []) = true := by decide +kernel
theorem test_spawn : gives (sprS 1) (.spawn ra) (fun u => reg u 5 == 2) = true := by decide +kernel
theorem test_spawn_full : gives (sprS 64) (.spawn ra) (fun u => trapped u 0x37 0 0x1000) = true := by decide +kernel
theorem test_take : gives (sprS 2) (.take ra) (fun u => reg u 5 == 1 && (u.deques.getD 0 []).length == 1) = true := by decide +kernel

theorem witness_NodesAndSprouts :
    (all (launchS 0) [.launch ra] && all (launchS 2) [.launch ra] && all (inView (launchS 0)) [.launch ra] && lastStatus (launchS 0) == 0 && lastStatus (launchS 2) == 0x0B &&
     (ea (th [] []) scr 128 needRW).toOption == some 0x8000000000000 && ldPtr (launchS 0) scr 128 && released (launchS 0) 3 &&
     ((thr (launchS 0) 0).bind (fun t => recordLoc (launchS 0) 0 t scr 0x8000000000000)) == some 0x8000000000000 && (nodeOf (launchS 0) 0x8000000000000).isNone &&
     nodeZeros (toBytes 128 (2 ^ 63)) == false && all (sprS 1) [.spawn ra, .take ra] && all (sprS 64) [.spawn ra] && all (sprS 0) [.take ra] && all (mc (th [(6, scr)] vec)) [.spawn ra] &&
     ldPtr (sprS 1) scr 32 && allZero ((toBytes 32 0x1000).drop 0x1A) && fieldOf (toBytes 32 0x1000) 0x18 2 == podOf (th [] []) &&
     (((sprS 2).deques.getD 0 []).getLast?).isSome && stPtr (sprS 2) scr (toBytes 32 0x1000)) = true := by decide +kernel

def startNode : Node := { nodeRec false with gprs8 := 8, count := 2 }
def dq (c n : Nat) (bound : Bool) : State :=
  { mc (th [] vec) with
    threads := [], cur := none, nodes := [(0x50000, startNode)], kernels := [kern],
    binding := [(0, 0xFFFFFFFFFFFF0000), (1, 0xFFFFFFFFFFFF0101)], slots := if bound then (List.range 16).map (fun i => (i, 5)) else [],
    ctl := [(remapHdr 0, 2), (remapHdr 0 + 16, 1)], deques := [(c, List.replicate n ⟨toBytes 32 0x1000, 0x50000, 0, 0, 0⟩)] }
def sprout0 : Sprout := ⟨toBytes 32 0x1000, 0x50000, 0, 0, 0⟩
def endingT : Thread := { th [] vec with run := .ending }
/-- The state after the release of a thread's end. -/
def relOf (s : State) : List State :=
  match (thr s 0).map (fun t => releaseAt s 0 t 3) with
  | some (.done s1 _) => [s1]
  | _ => []
def succS : State := { mc (th [] vec) with succWait := [(0, 0x50000, [], 4)], tokens := [(4, 0xC000, 0x24, 0x10040)] }
/-- The start block of partition 0: PC 0x2000, SP 0x7000, 64 registers on core 0, context 3, sg0 the whole space with R and X. -/
def startS (en : Nat) : State :=
  { base0 with
    binding := [(0, 0xFFFFFFFFFFFF0000)],
    ctl := [(partBase 0, BitVec.ofNat 64 (en * 4)), (partBase 0 + 8, 0x2000), (partBase 0 + 0x10, 0x7000),
      (partBase 0 + 0x18, BitVec.ofNat 64 (3 * 2 ^ 8 + 8 * 2 ^ 24)), (partBase 0 + 0x200, (seg 0 (2 ^ 52 - 1)).extractLsb' 0 64),
      (partBase 0 + 0x208, (seg 0 (2 ^ 52 - 1)).extractLsb' 64 64), (remapHdr 0, 1)] }

theorem test_sprout_start : gives (dq 0 1 false) (.sproutLocalStart 0) (fun u => u.deques.getD 0 [] == [] && (u.threads.map (fun q => (q.1, q.2.pc, q.2.sprout))) == [(0, 0x1000, true)]) = true := by
  decide +kernel
theorem test_service_start : gives (startS 0) (.serviceThreadStart 0)
    (fun u => (u.threads.map (fun q => (q.1, q.2.pc, q.2.gpr, supOf q.2))) == [(3, 0x2000, [(2, 0x7000)], true)] && svcThread u 0 == some 3) = true := by decide +kernel

theorem witness_ThreadStartsAndEnds :
    ((dq 0 1 false).deques.getD 1 [] == [] && (dq 0 1 false).deques.getD 0 [] == [sprout0] && (startSprout (dq 0 1 false) 0 sprout0).isSome &&
     (startSprout (dq 0 1 true) 0 sprout0).isNone && partOfCore (dq 1 1 false) 0 == some 0 && (dq 1 1 false).agenda.isEmpty && (dq 1 1 false).threads.isEmpty &&
     ctxFree (dq 1 1 false) 0 0 && stealFrom (dq 1 1 false) 0 0 == some 1 && (dq 1 1 false).deques.getD 1 [] == [sprout0] && partOfCore (dq 1 1 false) 7 == none &&
     endingT.run == .ending && endingT.held.isEmpty && endingT.groups.isEmpty && released (mc endingT) 3 && viewOf endingT == 0 && redundOf endingT == 0 &&
     (relOf (mc endingT)).all (fun q => q.viewEnd.isEmpty && !matBusy q 0 && q.tlNote.isEmpty && (ownedPods q 0 0).isEmpty && svcThread q 0 != some 0) &&
     endingT.node.isNone && decide ((th [] []).run ≠ .ending) && succS.succWait.find? (fun q => q.1 == 0 && q.2.2.2 == 5) == none &&
     succS.succWait.find? (fun q => q.1 == 0 && q.2.2.2 == 4) == some (0, 0x50000, [], 4) && startStatus (startS 1) 0 == 1 && startStatus (startS 0) 0 == 0) = true := by
  decide +kernel

/-- Two husk slots of partition 0 at 0x100000; slot 0 holds a husk of the thread's kind. -/
def huskT : Thread := { th [] vec with gbase := 64, tbase := 8, spr := [(rTVEC, 0x8000), (rGANG, 1)], node := some 0x50000 }
def hs (a b : Word) (n used : Nat) (h : Thread) : State :=
  { su a b with
    pspr := [(rHUSKBASE, BitVec.ofNat 64 (n + 16 * 2 ^ 16 + 2 ^ 52))],
    mem := if used = 0 then [] else ([(0x100000, 1), (0x100001, 1), (0x100002, 8), (0x100003, 8), (0x100007, 0xFF)].foldl
      (fun u (q : Nat × Nat) => wrMemN u q.1 1 q.2) (wrMemN (wrMemN State.reset (0x100040 + 8 * rGWIN) 1 8) (0x100040 + 8 * rTWIN) 1 8)).mem,
    husks := if used = 0 then [] else [(0x100000, ⟨h⟩)], nodes := [(0x50000, startNode)] }
/-- Thread 64 × 0 + 1 beside thread 0. -/
def two (s : State) (x : Thread) : State := { s with threads := s.threads ++ [(1, { x with gbase := 64, tbase := 8 })] }
def parked (p : Park) : Thread := { huskT with run := .parked, park := p }
/-- A node of priority 5 waits; every slot of core 0 is fixed to context 1. -/
def urgent (s : State) : State :=
  { s with
    nodes := [(0x50000, startNode), (0x60000, { nodeRec false with pri := 5, state := 2, count := 1, gprs8 := 8, qclk := 0, live := 0 })],
    slots := (List.range 16).map (fun i => (i, if i % 4 = 0 then 1 else if i % 4 = 1 then 5 else 2 ^ 15)), kernels := [kern] }
def spA : State := hs 0x100 0 2 1 huskT
def urgentS : State := urgent (two spA { huskT with placedAt := 3 })
def parkedS : State := two spA (parked .preempted)
def one5 : Node := { nodeRec false with pri := 5, state := 2, count := 1, gprs8 := 8, live := 0 }
def idle5 : Node := { one5 with budget := 1, flags := 8, inCycle := 1, held61 := true }
/-- What the dispatcher's try finds: 0 placed, 1 idle, 2 blocked, and whether work is left. -/
def tried (s : State) : Nat × Bool :=
  match tryNodes false (Sys2Proof.Machine.queued (resumeFilled s 0) 0) (resumeFilled s 0) with
  | .placed a => (0, dispatchLeft a 0)
  | .idle a => (1, dispatchLeft a 0)
  | .blocked a _ _ => (2, dispatchLeft a 0)
  | .forks a => (3, dispatchLeft a 0)
def dpS (n : Node) : State := { dq 0 0 false with nodes := [(0x60000, n)] }

theorem test_fill_empty : gives (hs 1 0x8000 2 1 huskT) (.fill r) (fun u => reg u 5 == 0x8000000000000001) = true := by decide +kernel
theorem test_spill_none : gives (hs 0x100 0 1 1 huskT) (.spill ra) (fun u => reg u 5 == 0x8000000000000001) = true := by decide +kernel
theorem test_preempt : gives urgentS (.preemptPark 0)
    (fun u => (u.threads.map (fun q => (q.1, q.2.park == .preempted))) == [(0, false), (1, true)]) = true := by decide +kernel

theorem witness_DispatchAndHusks :
    (all (hs 0 0x8000 2 1 huskT) [.fill r, .spill ra] && all (hs 1 0x8000 2 1 huskT) [.fill r] && all (hs 2 0x8000 2 1 huskT) [.fill r] && all (hs 1 0x80 2 1 huskT) [.fill r] &&
     huskEn spA 0 && huskCount spA 0 == 2 && fillStatus (hs 1 0x8000 2 1 huskT) 0 1 0 none == 1 && fillStatus (hs 0 0x8000 2 1 huskT) 0 0 0 none == 0 &&
     ((hs 0 0x8000 2 1 huskT).husks.get? (huskSlot spA 0 0)).isSome && (roomFor spA 0 huskT none).isSome && huskRead spA (huskSlot spA 0 0) huskT == (spA, false) &&
     all spA [.spill ra] && freeHusk (hs 0x100 0 1 1 huskT) 0 == none && all (hs 0x100 0 1 1 huskT) [.spill ra] && freeHusk spA 0 == some 1 && (thr spA 1).isNone &&
     coreIn spA 0 0 && svcThread spA 0 == none && !scanRuns spA 0 && all (two spA huskT) [.spill ra] && (thr (two spA huskT) 1).isSome && !matBusy (two spA huskT) 1 &&
     nextHusk (su 0 0) 0 == none && nextHusk spA 0 == some (0, 0) && (waitingNode spA 0).isNone && ((waitingNode urgentS 0).map (fun q => q.1)) == some 0x60000 &&
     (freeHusk urgentS 0).isSome && ((waitingNode urgentS 0).bind (fun q => preemption urgentS q.1 q.2)) == some [1] &&
     ((thr urgentS 1).map (fun x => x.park != .preempted && x.park != .spilling)) == some true && ((thr parkedS 1).map (fun x => x.park)) == some .preempted &&
     (waitingNode parkedS 0).isNone && ((waitingNode (urgent parkedS) 0).map (fun q => victim (urgent parkedS) q.1 (effPriority (urgent parkedS) q.2) (1, parked .preempted))) == some true &&
     tried (dpS one5) == (0, false) && tried (dpS idle5) == (1, true) && tried { urgentS with husks := [] } == (2, true) && (partRivals (dpS one5) 0).isEmpty &&
     (nextHusk (dpS one5) 0).isNone && (taskOn (dpS one5) 0x60000 one5 0 0).isSome) = true := by decide +kernel

/-- The parked thread, before the spill engine; the thread to be spilled waits for a result; a staged node of which no view is made. -/
def spillingS : State := two spA (parked .spilling)
def lateS : State := two spA { huskT with sb := [⟨7, 40, [], []⟩] }
def staged5 : Node := { one5 with flags := 1 }
theorem witness_DispatchAndHusks_spills :
    (all lateS [.spill ra] && ((thr lateS 1).map (fun x => decide (x.run = .ready) && x.park == .none)) == some true &&
     ((thr (parkThread lateS 1 .spilling) 1).map (fun u => decide ((parkThread lateS 1 .spilling).clk < u.earliest))) == some true && !matBusy (parkThread lateS 1 .spilling) 1 &&
     ((thr (parkThread (two spA huskT) 1 .spilling) 1).map (fun u => decide (u.earliest ≤ 0) &&
       (saveCheck (parkThread (two spA huskT) 1 .spilling) 1 (huskSlot (parkThread (two spA huskT) 1 .spilling) 0 1) u).2 == false)) == some true &&
     ((thr spillingS 1).map (fun x => decide (x.run = .parked) && x.park == .spilling && (saveCheck spillingS 1 (huskSlot spillingS 0 1) x).2 == false)) == some true &&
     freeHusk spillingS 0 == some 1 && freeHusk (urgent parkedS) 0 == some 1 && ((thr parkedS 1).map (fun x => decide (x.run = .parked))) == some true && !matBusy parkedS 1 &&
     tried (dpS staged5) == (3, true) && (({ dpS one5 with tried := [(0, 1)] } : State).tried.getD 0 0) == 1 && (dpS one5).clk == 0 && (roomFor spA 0 (huskThread spA 0 (huskSlot spA 0 0)) none).isSome &&
     (huskRead spA (huskSlot spA 0 0) (huskThread spA 0 (huskSlot spA 0 0))).2 == false) = true := by decide +kernel

/-- Core 0 is hot, or not; THERMMODE 2 sheds, 3 gates; entry 13 belongs to kind kd of context 1. -/
def hotS (md kd : Nat) (hot : Bool) : State :=
  { two spA huskT with
    dspr := [(rTHERMMODE, BitVec.ofNat 64 (md + 90 * 2 ^ 16 + 100 * 2 ^ 8))], hot := if hot then [(0, true)] else [],
    slots := [(1, BitVec.ofNat 64 (kd + 4)), (5, BitVec.ofNat 64 (kd + 4)), (9, BitVec.ofNat 64 (kd + 4)), (13, BitVec.ofNat 64 (kd + 4))] }
/-- No thread on core 0, which has been idle. -/
def idleS : State := { hotS 3 1 false with threads := [], clk := 100000, cur := none }
/-- A displaced thread of core 1, and core 0 free in rank order. -/
def displaced (md : Nat) : State :=
  { hotS md 1 false with
    threads := [(64, parked .displaced)], binding := [(0, 0xFFFFFFFFFFFF0000), (1, 0xFFFFFFFFFFFF0101)],
    ctl := [(remapHdr 0, 2), (remapHdr 0 + 16, 1)], cur := none }

theorem test_shed : gives (hotS 2 2 true) (.slotShed 0) (fun u => slotEntry u 0 13 == 0x8006 && slotEntry u 0 9 == 6) = true := by decide +kernel
theorem test_displacement : gives (displaced 2) (.thermalDisplacement 64) (fun u => ((thr u 0).map (fun x => (x.pc, x.gbase))) == some (0x1000, 64) && (thr u 64).isNone) = true := by
  decide +kernel

theorem witness_ThermalControl :
    (!thermOn base0 && (List.replicate 128 (0 : Byte)).length == 128 && thermOn (hotS 2 2 true) && !packGate (hotS 2 2 true) && packGate (hotS 3 2 true) &&
     (hotS 2 2 true).hot.getD 0 false && !(hotS 2 2 false).hot.getD 0 false && !thermExempt (hotS 2 2 true) 0 &&
     thermExempt { hotS 2 2 true with pspr := [(rSVCTHREAD, 0x4000)] } 0 && shedNext (hotS 2 2 true) 0 == some 13 && slotKind (slotEntry (hotS 2 2 true) 0 13) == 2 &&
     shedNext (hotS 2 1 true) 0 == some 13 && slotKind (slotEntry (hotS 2 1 true) 0 13) == 1 && (thr (hotS 2 1 true) 1).isSome &&
     mayGate idleS 0 && !mayGate (hotS 2 1 false) 0 && ((thr (displaced 2) 64).map (fun t => t.park)) == some .displaced && !matBusy (displaced 2) 64 &&
     ((displaceTo (displaced 2) 64 (parked .displaced)).map (fun q => q.1)) == some 0 && ((thr (displaced 2) 64).map (fun t => match releaseAt (displaced 2) 64 t 3 with
       | .done _ _ => true
       | _ => false)) == some true && (displaceTo { displaced 2 with hot := [(0, true)] } 64 (parked .displaced)).isNone) = true := by decide +kernel

theorem witness_ThermalControl_moved :
    (((thr { displaced 2 with threads := [(64, { parked (.moved 3) with run := .incoming })] } 64).map (fun t => t.park == .moved 3 && decide (t.run = .incoming) &&
       decide (t.earliest ≤ 0))) == some true && ((thr (displaced 2) 64).map (fun t => decide (t.run = .parked) && decide (t.earliest ≤ 0))) == some true) = true := by
  decide +kernel

/-! Chains, boot, control space. -/

/-- Chain 3 of partition 0: state st, head, EXP, KICKSEQ and DONESEQ. -/
def chainS (st hd ex kick don : Nat) (s : State) : State :=
  { s with ctl := [(chainBase 3, BitVec.ofNat 64 hd), (chainBase 3 + 8, BitVec.ofNat 64 (ex + kick * 2 ^ 32)),
      (chainBase 3 + 0x10, BitVec.ofNat 64 (don + st * 2 ^ 32)), (chainBase 3 + 0x18, 0), (remapHdr 0, 1)] }
def kickS (n v : Word) (st kick don : Nat) : State := chainS st 0x10000 (don + 1) kick don (mc (th [(6, n), (7, v)] vec))
def kf : RForm := ⟨0, 6, 7, false, .none⟩

theorem test_kick : gives (kickS 3 6 1 4 4) (.kick kf) (fun u => (u.agenda.map (fun q => q.1)) == [16]) = true := by decide +kernel
theorem test_kick_behind : gives (kickS 3 3 1 4 4) (.kick kf) (fun u => trapped u 0x5F 3 0x1000) = true := by decide +kernel
theorem test_kick_apply : gives (kickS 3 6 1 4 4) (.kickApply 3 6 9 0) (fun u => kickSeq u 3 == 6 && chainState u 3 == 2 && chainView u 3 == 9) = true := by
  decide +kernel

def chEntry : ChainEntry :=
  { addr := 0x10000, seq := 5, desc := [], view := 0, kicker := 0, moved := 0, token := none, cause := 0, phase := 1, buffer := 0, srcFmt := 0, dstFmt := 0,
    convert := false, faultAt := 0, lead := none }
def inFlight (e : ChainEntry) (s : State) : State := { s with chains := [(3, { chainAt base0 3 with entries := [e] })] }

theorem witness_ChainCommands :
    (all (kickS 3 6 1 4 4) [.kick kf] && all (kickS 128 6 1 4 4) [.kick kf] && all (kickS 3 6 0 4 4) [.kick kf] && all (kickS 3 3 1 4 4) [.kick kf] && all (kickS 3 4 1 4 4) [.kick kf] &&
     chainState (kickS 3 6 0 4 4) 3 == 0 && chainState (kickS 3 6 1 4 4) 3 == 1 && chainPart (kickS 3 6 1 4 4) 3 == 0 && seqDiff 6 (kickSeq (kickS 3 6 1 4 4) 3) == 2 &&
     decide (2 ^ 31 ≤ seqDiff 3 (kickSeq (kickS 3 3 1 4 4) 3)) && seqDiff 4 (kickSeq (kickS 3 4 1 4 4) 3) == 0 && kickGood (kickS 3 6 1 4 4) 3 0 &&
     !kickGood (kickS 3 6 0 4 4) 3 0 && kickGood (kickS 3 7 2 5 4) 3 0 && seqDiff 7 (kickSeq (kickS 3 7 2 5 4) 3) == 2 &&
     kickSeq (kickS 3 6 2 5 4) 3 != doneSeq (kickS 3 6 2 5 4) 3 && all (inView (kickS 3 6 2 5 4)) [.kick kf] && chainView (kickS 3 6 2 5 4) 3 != 5 && released (kickS 3 6 1 4 4) 3 &&
     chainState (kickS 3 6 4 4 4) 3 == 4 && (chainAt (kickS 3 6 2 5 4) 3).entries.isEmpty && (chainAt (inFlight chEntry (kickS 3 6 2 5 4)) 3).entries == [chEntry] &&
     { kickS 3 6 1 4 4 with ctl := [(chainBase 3 + 0x10, 0x3000100000000), (remapHdr 0, 1)] }.ctl.length == 2 &&
     can { kickS 3 6 1 4 4 with ctl := [(chainBase 3 + 0x10, 0x3000100000000), (remapHdr 0, 1)] } (.kick kf) &&
     chainPart { kickS 3 6 1 4 4 with ctl := [(chainBase 3 + 0x10, 0x3000100000000), (remapHdr 0, 1)] } 3 == 3) = true := by decide +kernel

/-- A kicker waits at its chain's engine. -/
def kicked (s : State) : State := { s with threads := [(0, waiting .port 3 6 (th [] vec))] }
theorem test_kick_done : (((thr (kickDone (kicked (kickS 3 6 1 4 4)) 0) 0).map (fun t => (t.pc, decide (t.run = .ready)))) == some (0x1004, true)) = true := by decide +kernel
theorem witness_ChainCommands_kicked :
    (((thr (kicked (kickS 3 6 1 4 4)) 0).map (fun t => (waitOf t).isSome && straight t && redundOf t == 0)) == some true && kickGood (kicked (kickS 3 6 1 4 4)) 3 0 &&
     kickGood (kicked (kickS 3 7 2 5 4)) 3 0 && chainView (kicked (kickS 3 7 2 5 4)) 3 != 5 && kickSeq (kicked (kickS 3 7 2 5 4)) 3 != doneSeq (kicked (kickS 3 7 2 5 4)) 3) = true := by
  decide +kernel

/-- The descriptor of a fill of 8 bytes at scr: SEQ, FLAGS. -/
def fillDesc (seq flags : Nat) : Nat :=
  seq + 5 * 2 ^ 32 + flags * 2 ^ 40 + 0x10040 * 2 ^ 64 + 0x1122334455667788 * 2 ^ 128 + 0x8000000000000 * 2 ^ 192 + 8 * 2 ^ 256
def desc0 (seq flags : Nat) : List Byte := toBytes 64 (fillDesc seq flags)
/-- Chain 3 runs; its entry 5 lies at 0x10000, which is page frame 2. -/
def runS (ex seq flags hd : Nat) : State :=
  paged { chainS 2 hd ex 5 4 (mc (th [] vec)) with mem := (wrMemN State.reset 0x20000 64 (fillDesc seq flags)).mem }
def fillE (phase : Nat) : ChainEntry := { chEntry with desc := desc0 5 0, phase := phase }
def flying3 (e : ChainEntry) : State := inFlight e (runS 6 5 0 0x10040)
def readE (s : State) : Option (List Byte) := (engRead 3 0 0 [(chainHead s 3, 64)] (setChain s 3 { chainAt s 3 with reading := false })).toOption.map (fun q => q.2.1)

theorem test_entry_starts : gives (runS 5 5 0 0x10000) (.chainEntryRead 3)
    (fun u => ((chainAt u 3).entries.map (fun e => (e.seq, e.phase))) == [(5, 1)] && chainHead u 3 == 0x10040 && chainExp u 3 == 6) = true := by decide +kernel
theorem test_entry_moves : (rdMemN (moveChunk (flying3 (fillE 1)) 3 (fillE 1)) 0x8000000000000 8 == 0x1122334455667788) = true := by decide +kernel
theorem test_entry_completes : gives (flying3 (fillE 4)) (.entryCompletion 3) (fun u => doneSeq u 3 == 5 && chainState u 3 == 1 && (chainAt u 3).entries == []) = true := by
  decide +kernel
theorem test_entry_bad : gives (runS 5 5 64 0x10000) (.chainEntryRead 3)
    (fun u => chainState u 3 == 4 && (u.posts.map (fun q => fieldOf q.msg 0 1)) == [0x51]) = true := by decide +kernel

def stalled : ChainEntry := { fillE 1 with token := some 9, cause := 0x57 }
/-- A follow-on INT8 product of thread 0: D tile 5, A tile 6, B tile 7 of 1 × 2, loaded from the two bytes moved. -/
def followE : ChainEntry :=
  { fillE 2 with desc := toBytes 64 (fillDesc 5 4 + (5 * 2 ^ 14 + 6 * 2 ^ 19 + 7 * 2 ^ 24 + 2 ^ 34) * 2 ^ 384) }
def followS : State := { flying3 followE with threads := [(0, tt (col 3) (i8 []) (i8 []) (i8 []) [])] }
def offerS : State := { flying3 { fillE 0 with desc := desc0 5 2 } with offers := [⟨3, 5, 7⟩] }
def planned (s : State) (e : ChainEntry) : Option (Nat × Nat × Nat) :=
  match planChunk s 3 e with
  | .ok c => (match chunkBytes 3 e c with
    | .ok q => (match chunkPlace 3 e q.1 c with
      | .ok p => some (c.len, p.2.1, p.2.2)
      | _ => none)
    | _ => none)
  | _ => none

/-- Entry 6 has ORDER, and entry 5 has not completed. -/
def orderS : State := paged { chainS 2 0x10000 6 6 4 (mc (th [] vec)) with mem := (wrMemN State.reset 0x20000 64 (fillDesc 6 16)).mem }
/-- The entry's fault has a token; the read at HEAD of the stalled chain has it. -/
def replyS : State := { flying3 stalled with tokens := [(9, 0x8003, 0x57, 0x10040)] }
def headS : State := { chainS 3 0x10000 5 5 4 base0 with chains := [(3, { chainAt base0 3 with token := some 9 })] }

theorem witness_ChainEntries :
    (mayRead (setChain (runS 5 5 0 0x10000) 3 { chainAt (runS 5 5 0 0x10000) 3 with reading := false }) 3 && !mayRead (runS 6 5 0 0x10000) 3 &&
     mayRead (runS 5 5 0 0x10008) 3 && chainHead (runS 5 5 0 0x10008) 3 % 64 != 0 && mayRead (runS 5 5 0 0x8000000000000) 3 && chainHead (runS 5 5 0 0x10000) 3 == 0x10000 &&
     readE (runS 5 5 0 0x10000) == some (desc0 5 0) && readE (runS 4 5 0 0x10000) == some (desc0 5 0) && deSeq (desc0 5 0) == chainExp (runS 5 5 0 0x10000) 3 &&
     deSeq (desc0 5 0) != chainExp (runS 4 5 0 0x10000) 3 && (chainAt (runS 4 5 0 0x10000) 3).wait == none && deFlag (desc0 5 16) 4 && allBefore (runS 5 5 16 0x10000) 3 &&
     readE (runS 5 5 16 0x10000) == some (desc0 5 16) && !allBefore orderS 3 && readE orderS == some (desc0 6 16) && mayRead orderS 3 && deSeq (desc0 6 16) == chainExp orderS 3 &&
     !entryBad orderS 0 (entryFrom orderS 3 (desc0 6 16)) && mayRead (runS 4 5 0 0x10000) 3 &&
     (let s := runS 5 5 0 0x10000
      !entryBad s 0 (entryFrom s 3 (desc0 5 0)) && entryBad s 0 (entryFrom s 3 (desc0 5 64)) && (entryFrom s 3 (desc0 5 0)).view == 0) && deNext (desc0 5 0) == 0x10040 &&
     !deFlag (desc0 5 0) 4 && !deFlag (desc0 5 0) 1 && chainState (runS 5 5 0 0x10000) 3 == 2 && chainState (kickS 3 6 1 4 4) 3 != 2 &&
     planned (flying3 (fillE 1)) (fillE 1) == some (8, 0x8000000000000, 0) && deAux (fillE 1).desc == 0 && decide (entryTotal (fillE 1) ≤ 0 + 8) && !deFlag (fillE 1).desc 2 &&
     (upFrom 0 128).all (fun m => !hasChunk (chainAt base0 m)) && 3 == 4 * 0 + ((flying3 (fillE 1)).engRot.getD 0 2 + 1) % 4 &&
     (chainAt { flying3 (fillE 1) with engRot := [(0, 2)] } 3).entries.find? canMove == some (fillE 1) &&
     (followers (flying3 (fillE 1)) 3 5).isEmpty && (flying3 (fillE 1)).engErr.isEmpty && (wakeWindows (flying3 (fillE 1)) [0x8000000000000]).2 == 0 &&
     (flying3 (fillE 1)).crcBad.isEmpty && (chainAt (flying3 (fillE 4)) 3).hold == none && (replyS.tokens.get? 9).isSome && (chainAt headS 3).token == some 9 &&
     chainState headS 3 == 3 && (chainAt (flying3 (fillE 4)) 3).entries == [fillE 4] &&
     rdCtl (flying3 (fillE 4)) (chainBase 3 + 0x20) == 0 && deTinc (fillE 4).desc == 0 && !deFlag (fillE 4).desc 0 && !deFlag (fillE 4).desc 3 &&
     (chainAt (flying3 stalled) 3).token == none && (chainAt (flying3 stalled) 3).entries.find? (fun e => e.token == some 9) == some stalled &&
     (chainAt (flying3 stalled) 3).entries.find? (fun e => e.token == some 8) == none && base0.offers.isEmpty && (entryOf offerS 3 5).isSome &&
     (offerS.offers.map (fun o => o.group)) == [7] && entryTotal { fillE 0 with desc := desc0 5 2 } != 0 &&
     (chainAt followS 3).entries.find? (fun e => e.phase == 2 || e.phase == 5) == some followE && (thr (flying3 followE) 0).isSome && (thr { flying3 followE with threads := [] } 0).isNone &&
     (followRows followS 3 followE 2 0x8000000000000 1).toOption.isSome && (lockWait followS 0 (tt (col 3) (i8 []) (i8 []) (i8 []) []) [(7, true)]).isNone &&
     (lockWait (dropFollowLock (injectTile followS 0 (tt (col 3) (i8 []) (i8 []) (i8 []) []) 7) 3 followE) 0 (tt (col 3) (i8 []) (i8 []) (i8 []) [])
       ([(5, true), (6, false), (7, false)] ++ matExtra (tt (col 3) (i8 []) (i8 []) (i8 []) []) 6 7 false)).isNone &&
     (firstBad (matChecks (tt (col 3) (i8 []) (i8 []) (i8 []) []) 5 6 7 false)).isNone && !matFull followS 0 &&
     !bankMismatch followS 0 0x8000000000000 2) = true := by decide +kernel

theorem witness_ChainEntries_waits :
    (mayRead (setChain (walkingS 100 (runS 5 5 0 0x10000)) 3 { chainAt (walkingS 100 (runS 5 5 0 0x10000)) 3 with reading := false }) 3 &&
     (match engRead 3 0 0 [(0x10000, 64)] (walkingS 100 (runS 5 5 0 0x10000)) with
       | .error (.wait _ due) => due == 100
       | _ => false) && (flying3 (fillE 1)).engLate.getD 3 0 == 0) = true := by decide +kernel

theorem test_boot_no_image : gives base0 .boot (fun u => u.faultLow && u.threads == []) = true := by decide +kernel
theorem test_attestation : gives base0 (.attestationRequest 0x1000) (fun u => ctlF u (bootBlock + 0x28) 0 2 == 2) = true := by decide +kernel

def attS : State := { base0 with ctl := [(bootBlock + 0x20, 0x1000), (bootBlock + 0x28, 2)] }
theorem witness_BootAndControl :
    (!imageGood base0 0 && !imageGood base0 0x1000000 && ctlF base0 (bootBlock + 0x28) 1 1 == 0 && bits (0x1000 : Word) 0 3 == 0 && bits (0x1001 : Word) 0 3 != 0 &&
     ctlF attS (bootBlock + 0x28) 1 1 == 1 && !ctlDefined 0xF000000000000 && ctlDefined (rankBase) && rankBase % 8 == 0 && (rankBase + 4) % 8 != 0 &&
     decide (10 ≤ bits (0x5000A : Word) 0 6) && decide (bits (0x5000A : Word) 0 6 ≤ 24) && bits (0x5000A : Word) 6 6 == 0 && bits (0x5000A : Word) 52 12 == 0) = true := by
  decide +kernel

/-- SHA-384 of "abc" and of no byte at all (FIPS 180-4's published values). -/
theorem test_sha384 : ((sha384 [0x61, 0x62, 0x63]).take 8 == [0xCB, 0x00, 0x75, 0x3F, 0x45, 0xA3, 0x5E, 0x8B] &&
    (sha384 []).take 8 == [0x38, 0xB0, 0x60, 0xA7, 0x51, 0xAC, 0x96, 0x38]) = true := by decide +kernel

/-- A header with no code: FORMAT, the header's length, ENTRY 0x2000, the digest of no byte. -/
def bootFlash : Tab Byte :=
  ((toBytes 8 (0x4B525A01 + 0x1560 * 2 ^ 32)).zipIdx.map (fun q => (q.2, q.1))) ++ [(0x19, 0x20)] ++ ((sha384 []).zipIdx.map (fun q => (0x40 + q.2, q.1)))
def bootS : State := { base0 with flash := bootFlash }
def bootHdr : List Byte := flashBytes bootS 0 0x1560

/-- What imageGood asks beside the keys and signatures, which constants without a body decide. -/
theorem witness_BootAndControl_header :
    (fieldOf bootHdr 0 4 == 0x4B525A01 && fieldOf bootHdr 4 4 == headerLen && allZero ((bootHdr.drop 0x29).take 23) && allZero (bootHdr.drop 0x155D) &&
     (bootHdr.drop 0x40).take 48 == sha384 (flashBytes bootS (0 + headerLen) (fieldOf bootHdr 0x20 8)) && decide (bootS.rollback ≤ fieldOf bootHdr 8 8) &&
     fieldOf bootHdr 0x18 8 == 0x2000) = true := by decide +kernel

/-! Encoding, issue, the step. -/

theorem witness_DecodeEncode :
    (WellFormed (.add r) && (enc (.add r)).isSome && decide (decode false (encode (.add r) ++ [7]) = .ok (.add r)) &&
     decide (decode true (encode (.add r)) = .ok (.add r)) && ((enc (.mma r)).map (fun e => hostLacks e.op)) == some true &&
     ((enc (.add r)).map (fun e => hostLacks e.op)) == some false) = true := by decide +kernel

def lateT : Thread := { th [] vec with sb := [⟨7, 40, [(regId (th [] []) 6, 5)], []⟩] }
def stepT (md : Nat) : Thread := th [] [(rMODE, BitVec.ofNat 64 (0x80 + md)), (rTVEC, 0x8000)]
def encOf (i : Instr) : List (Nat × Nat × Nat) := ((enc i).map regFields).getD []

theorem witness_IssueChecks :
    (((enc (.mma r)).map (fun e => hostLacks e.op)) == some true && (hostTh [] []).host && ((enc (.sbindWrite r)).map (fun e => e.op)) == some 0xE2 &&
     !supOf (th [] []) && ((enc (.add ⟨64, 6, 7, false, .none⟩)).map (fun e => (regFields e).any (fun x => decide (64 ≤ x.2.2)))) == some true &&
     ((enc (.vadd ⟨9, 6, 7, false, .none⟩)).map (fun e => (tileFields e).any (fun x => decide (8 ≤ x.2.2.1)))) == some true &&
     ((enc (.add r)).map (fun e => (regFields e).any (fun x => x.2.2 == 6))) == some true && !audited (mc lateT) 0 lateT &&
     (lateT.sb.map (fun p => (decide ((mc lateT).clk < p.due), p.regs))) == [(true, [(regId (th [] []) 6, 5)])] &&
     can (mc (stepT 0)) (.nop zf) && sstepOf (stepT 0) && ldepthOf (stepT 0) == 0 && getSpr (stepT 0) rTVEC != 0 && !thOf (stepT 0) && !uihOf (stepT 0) &&
     can (mc (stepT 2)) (.nop zf) && thOf (stepT 2) && can (mc (stepT 4)) (.nop zf) && uihOf (stepT 4)) = true := by decide +kernel

/-- The loader's thread right after reset, whose next word is add r5, r6, r7. -/
def loaded : State := State.reset.withFetchWord 32 0x070C1404
theorem test_first_step : (match step loaded with
    | .next u => pcAt u == pcAt loaded + 4 && reg u 5 == 0
    | _ => false) = true := by decide +kernel
/-- Its thread has a trap due; or a completion from an earlier clk. -/
def trapping : State := { loaded with threads := loaded.threads.map (fun q => (q.1, { q.2 with trapDue := some (0x24, 5) })) }
def told : State :=
  { loaded with clk := 4, threads := loaded.threads.map (fun q => (q.1, { q.2 with uiq := [(1, 2)], spr := [(rMODE, 9), (rUIVEC, 0x9000)] })) }
theorem test_decode_table_word : decodeTableWord 32 0x070C1404 = some (.add r) := by decide +kernel

theorem witness_StepRunsDecoded :
    (!loaded.tripped && (dueEvent loaded).isNone && nextSlot (atSlots loaded) == some (0, 0) && ((thr loaded 0).map (fun t => viewOf t == 0 && !t.auditSkip && t.deferred.isEmpty && !uiDue loaded t && t.trapDue.isNone)) == some true &&
     ((thr loaded 0).map (fun t => match fetch { loaded with bpos := 1 } 0 t with
       | .words s2 ws => ws == [0x070C1404] && s2.badEcc.isEmpty
       | _ => false)) == some true && atSlots loaded == loaded && nextSlot (atSlots trapping) == some (0, 0) &&
     ((thr (atSlots trapping) 0).map (fun t => t.trapDue)) == some (some (0x24, 5)) &&
     nextSlot (atSlots told) == some (0, 0) && ((thr (atSlots told) 0).map (fun t => t.trapDue.isNone && uiDue { atSlots told with bpos := 1 } t)) == some true &&
     !bit (loaded.dspr.getD rERRINJ 0) 12 && eventPhase .boot == 0 && decide (State.reset.agenda = [(0, .boot)]) &&
     (dueEvent { base0 with bpos := placesEnd }).isNone && (nextSlot (atSlots { base0 with bpos := placesEnd })).isNone && settled base0 &&
     base0.slotReq.isEmpty) = true := by decide +kernel

theorem witness_StepKeepsMemoryForm : Inv State.reset ∧ (match step State.reset with
    | .next _ => true
    | _ => false) = true := by
  constructor
  · show Memory.wf State.reset.mem = true
    rfl
  · decide +kernel

end Sys2Proof.Tests
end

section
/-! The step at an event that is due, and the state after reset (02 R28; 15 R340, R351; 20 R475). -/

namespace Sys2Proof.Machine

/-! The step at an event that is due. -/

theorem step_of_dueEvent {s s1 : State} {i : Instr} (ht : s.tripped = false) (hd : dueEvent s = some (i, s1)) :
    step s = exec i s1 := by
  simp [step, stepOnce, ht, hd]

/-- Of a phase-0 event, the clk alone decides whether it is due. -/
theorem dueEvent_of_phase_zero {s : State} {c : Nat} {i : Instr} {r : List (Nat × Instr)} (ha : s.agenda = (c, i) :: r)
    (hc : c ≤ s.clk) (hp : eventPhase i = 0) : dueEvent s = some (i, { s with agenda := r }) := by
  simp [dueEvent, ha, hc, hp]

/-! The state after reset. -/

@[simp] theorem thr_reset (k : Nat) : thr State.reset k = none := rfl
@[simp] theorem rdMem_reset (a : Nat) : rdMem State.reset a = 0 := rfl
@[simp] theorem slotEntry_reset (c i : Nat) : slotEntry State.reset c i = 0 := rfl

/-- The binding entry of an unbound core refers to no slab. -/
theorem slabRefs_unbound : slabRefs 0xFFFFFFFFFFFFFFFF = [] := by decide

@[simp] theorem gangOf_reset (c : Nat) : gangOf State.reset c = 0 := congrArg List.length slabRefs_unbound

/-- Boot is the first thing done after reset. -/
theorem step_reset : step State.reset = exec .boot { State.reset with agenda := [] } :=
  step_of_dueEvent rfl (dueEvent_of_phase_zero rfl (Nat.le_refl 0) rfl)

/-- Settles O60: what reset holds, field by field, and the boot event as the only one due. -/
theorem resetState : Obligations.ResetState :=
  ⟨wf_reset, thr_reset, gangOf_reset, slotEntry_reset, rfl, rfl, rfl, rdMem_reset, step_reset⟩

end Sys2Proof.Machine
end

section
/-! What the shared effects on a thread leave alone (02 R34, R35; 11 R493). -/

namespace Sys2Proof.Machine

/-! Frames of the effects on a thread. -/

theorem onlyThread_setThr (s : State) (k : Nat) (t : Thread) : OnlyThread s (setThr s k t) k :=
  ⟨fun j h => thr_setThr_ne s k j t (Ne.symm h), rfl⟩

theorem onlyThread_modThr (s : State) (k : Nat) (f : Thread → Thread) : OnlyThread s (modThr s k f) k :=
  ⟨fun j h => thr_modThr_ne s k j f (Ne.symm h), rfl⟩

/-- A register written, whatever its result's flight becomes, is the only register that changes. -/
theorem onlyReg_setGpr (t : Thread) (d : Nat) (v : Word) (fl : List Flight) :
    OnlyReg t { setGpr t d v with flight := fl } d := by
  refine ⟨fun n hn => ?_, ?_⟩
  · have h : gprOf { setGpr t d v with flight := fl } n = gprOf (setGpr t d v) n := rfl
    rw [h, gprOf_setGpr, if_neg fun e => hn e.1.symm]
  · simp only [setGpr]
    split
    · rfl
    · split <;> rfl

theorem onlyReg_refl (t : Thread) (d : Nat) : OnlyReg t t d := ⟨fun _ _ => rfl, rfl⟩

theorem putFixed_frame {s : State} {k : Nat} {t : Thread} (lat d : Nat) (v : Word) (h : thr s k = some t) :
    OnlyThread s (putFixed s k lat d v) k ∧ ∃ u, thr (putFixed s k lat d v) k = some u ∧ OnlyReg t u d := by
  by_cases hd : d = 0
  · subst hd
    rw [putFixed_zero]
    exact ⟨onlyThread_modThr s k _, t, thr_modThr_self _ h, onlyReg_refl t 0⟩
  · rw [putFixed_eq lat d v h hd]
    exact ⟨onlyThread_setThr s k _, _, thr_setThr_self s k _, onlyReg_setGpr t d v _⟩

theorem putScored_frame {s : State} {k : Nat} {t : Thread} (due : Nat) (regs : List (Nat × Word)) (tiles : List Nat)
    (h : thr s k = some t) :
    ∃ u, thr (putScored s k due regs tiles) k = some u ∧ u = { t with sb := u.sb } ∧
      (∀ j, j ≠ k → thr (putScored s k due regs tiles) j = thr s j) ∧
      putScored s k due regs tiles =
        { s with threads := (putScored s k due regs tiles).threads, agenda := (putScored s k due regs tiles).agenda, nextId := s.nextId + 1 } := by
  rw [putScored_eq due regs tiles h]
  exact ⟨_, thr_setThr_self s k _, rfl, fun j hj => thr_setThr_ne s k j _ (Ne.symm hj), rfl⟩

theorem enterWait_frame {s : State} {k : Nat} {t : Thread} (n : Nat) (w : WaitReq) (h : thr s k = some t) :
    ∃ u, thr (enterWait s k n w) k = some u ∧ u = { t with run := u.run, again := none } ∧
      (∀ j, j ≠ k → thr (enterWait s k n w) j = thr s j) ∧
      enterWait s k n w =
        { s with threads := (enterWait s k n w).threads, agenda := (enterWait s k n w).agenda, nextId := s.nextId + 1 } := by
  simp only [enterWait, h]
  split <;> exact ⟨_, thr_setThr_self _ k _, rfl, fun j hj => thr_setThr_ne _ k j _ (Ne.symm hj), rfl⟩

theorem retire_frame {s : State} {k : Nat} {t : Thread} (n : Nat) (h : thr s k = some t) (hd : ldepthOf t = 0) :
    OnlyThread s (retire s k n false none) k ∧
      thr (retire s k n false none) k = some { t with pc := pcAdd t.pc (4 * n), run := .ready, again := none } := by
  rw [retire_straight h hd]
  exact ⟨onlyThread_setThr s k _, thr_setThr_self s k _⟩

theorem holdUntil_frame {s : State} {k : Nat} {t : Thread} (c : Nat) (h : thr s k = some t) :
    OnlyThread s (holdUntil s k c) k ∧ thr (holdUntil s k c) k = some { t with earliest := max t.earliest c } :=
  ⟨onlyThread_modThr s k _, thr_modThr_self _ h⟩

theorem noteStore_frame {s : State} {k : Nat} {t : Thread} (g : Put) (h : thr s k = some t) :
    OnlyThread s (noteStore s k g) k ∧ ∃ u, thr (noteStore s k g) k = some u ∧
      u = { t with stAccept := u.stAccept, stPerform := u.stPerform } :=
  ⟨onlyThread_modThr s k _, _, thr_modThr_self _ h, rfl⟩

end Sys2Proof.Machine
end

section
/-! What a load that finds no error leaves alone (10 R222, R223; 03 R70). -/

namespace Sys2Proof.Machine

/-! Reads where no stored error waits to be found. -/

/-- No stored error waits to be found, and no injection is armed (10 R240; 18 R431). -/
structure ErrorFree (s : State) : Prop where
  noError : s.badEcc = []
  unarmed : bit (s.dspr.getD rERRINJ 0) 12 = false

/-- What a read that finds no error leaves as it is: threads, bytes, tags, the hint, the error registers and L1D. -/
structure ReadView where
  threads : Tab Thread
  mem     : Tab Byte
  vmem    : Tab Byte
  tags    : Tab Bool
  hint    : Nat
  dspr    : Tab Word
  badEcc  : Tab Bool
  l1d     : Tab L1Byte
  l1dSets : Tab (List L1Way)

def readView (s : State) : ReadView := ⟨s.threads, s.mem, s.vmem, s.tags, s.hint, s.dspr, s.badEcc, s.l1d, s.l1dSets⟩

theorem ErrorFree.of_readView {s s1 : State} (h : ErrorFree s) (e : readView s1 = readView s) : ErrorFree s1 :=
  ⟨(congrArg ReadView.badEcc e).trans h.noError,
   (congrArg (fun q => bit (q.dspr.getD rERRINJ 0) 12) e).trans h.unarmed⟩

theorem foldl_del_nil {α : Type} (key : Nat → Nat) (l : List Nat) :
    l.foldl (fun (b : Tab α) q => b.del (key q)) [] = [] := by
  induction l with
  | nil => rfl
  | cons q r ih => exact ih

section
variable {s : State} (h : ErrorFree s)
include h

theorem injectAt_errorFree (array inst line : Nat) (places : List Nat) : injectAt s array inst line places = s := by
  simp only [injectAt, h.unarmed, Bool.false_and, Bool.false_eq_true, if_false]

theorem writeArray_errorFree (array inst a n : Nat) : writeArray s array inst a n = s := by
  have hs : { s with badEcc := (sectorsIn a n).foldl (fun b q => b.del (eccKey array inst q)) s.badEcc } = s := by
    rw [h.noError, foldl_del_nil (eccKey array inst), ← h.noError]
  rw [writeArray, hs, injectAt_errorFree h]

theorem findEcc_errorFree (array inst q : Nat) : findEcc s array inst q = none := by
  rw [findEcc, h.noError]
  rfl

theorem readSectors_errorFree (who : Option Nat) (p u array inst : Nat) (qs : List Nat) :
    readSectors s who p u array inst qs = (s, []) := by
  simp [readSectors, h.noError]

theorem walkReads_errorFree (p v : Nat) : walkReads s p v = s := by simp [walkReads, h.noError]

theorem tagErrorL1_errorFree (k c p va : Nat) : tagErrorL1 s k c p va = s := by simp [tagErrorL1, h.noError]

theorem tagErrorL2_errorFree (who : Option Nat) (p v loc : Nat) : tagErrorL2 s who p v loc = s := by
  simp [tagErrorL2, h.noError]

theorem l1Ecc_errorFree (k c p v va n : Nat) : l1Ecc s k c p v va n = (s, .none) := by
  have hn : (sectorsOf va n).findSome? (fun q => (findEcc s 2 c q).map (fun r => (q, r))) = none := by
    simp [findEcc_errorFree h]
  rw [l1Ecc, hn]

end

/-! Translation. -/

theorem readView_foldl {β : Type} (f : State → β → State) (hf : ∀ s b, readView (f s b) = readView s) (l : List β) (s : State) :
    readView (l.foldl f s) = readView s := by
  induction l generalizing s with
  | nil => rfl
  | cons b r ih => exact (ih _).trans (hf _ _)

theorem readView_tlbNow (s : State) (port : Nat) : readView (tlbNow s port) = readView s := by
  unfold tlbNow
  split
  · rfl
  · exact readView_foldl (fun a e => tlbPut a port e) (fun _ _ => rfl) _ _

theorem readView_newWalk {s : State} (h : ErrorFree s) (port p v : Nat) : readView (newWalk s port p v).2.2 = readView s := by
  have hb : readView (if p < 16 then perfBump s p 5 else s) = readView s := by split <;> rfl
  show readView (walkReads (if p < 16 then perfBump s p 5 else s) p v) = readView s
  rw [walkReads_errorFree (h.of_readView hb), hb]

theorem readView_lookUp {s : State} (h : ErrorFree s) (port p v : Nat) : readView (lookUp s port p v).2.2 = readView s := by
  have h0 := readView_tlbNow s port
  unfold lookUp
  dsimp only
  split
  · exact h0
  · split
    · exact h0
    · exact (readView_newWalk (h.of_readView h0) _ _ _).trans h0

theorem granted_state {v kind loc w : Nat} {s1 : State} {q : Option TlbEntry × Nat × State} (h : granted v kind q = .ok (loc, w, s1)) :
    s1 = q.2.2 := by
  unfold granted at h
  split at h
  · cases h
  · split at h
    · cases h; rfl
    · cases h

theorem readView_translate {s s1 : State} {port p v kind loc w : Nat} (h : ErrorFree s)
    (ht : translate s port p v kind = .ok (loc, w, s1)) : readView s1 = readView s := by
  unfold translate at ht
  split at ht
  · split at ht
    · cases ht; rfl
    · cases ht
  · rw [granted_state ht, readView_lookUp h]

/-! L2 and the ports. -/

theorem readView_crcCheck (s : State) (loc : Nat) : readView (crcCheck s loc).1 = readView s := by
  unfold crcCheck
  split <;> rfl

/-- An eviction from L2 reads the line only where it is dirty, and writes it home or to its shadow frame. -/
theorem readView_l2Evict {s : State} (h : ErrorFree s) (e : L2Way) : readView (l2Evict s e) = readView s := by
  unfold l2Evict
  extract_lets loc u p keys s0 r src s1 s2 s3
  have h0 : readView s0 = readView s := by
    simp only [readView, s0, h.noError]
    rfl
  have hr : r = (s0, []) := readSectors_errorFree (h.of_readView h0) _ _ _ _ _ _
  have h2 : readView s2 = readView s := by
    simp only [s2, s1, src, hr]
    exact h0
  have h3 : readView s3 = readView s := by
    simp only [s3, readView, s0, h.noError]
    exact congrArg (fun b => ReadView.mk _ _ _ _ _ _ b _ _) (foldl_del_nil (eccKey 4 (sliceOf loc)) _)
  split
  · split
    · have hc := (readView_crcCheck s2 loc).trans h2
      rw [writeArray_errorFree (h.of_readView hc), hc]
    · exact h2
  · split
    · exact h3
    · exact h3

theorem readView_l2Use {s : State} (h : ErrorFree s) (p u loc : Nat) (dirty keep : Bool) :
    readView (l2Use s p u loc dirty keep).1 = readView s := by
  unfold l2Use
  dsimp only
  split
  · rfl
  · split
    · rfl
    · exact (readView_l2Evict (h.of_readView (by rfl)) _).trans rfl

theorem readView_l2Fill {s : State} (h : ErrorFree s) (who : Option Nat) (p u loc : Nat) (qs : List Nat) :
    readView (l2Fill s who p u loc qs).1 = readView s := by
  have hb : readView (if p < 16 then perfBump s p 4 else s) = readView s := by split <;> rfl
  rw [l2Fill, readSectors_errorFree (h.of_readView hb), hb]

theorem readView_l2Read {s : State} (h : ErrorFree s) (who : Option Nat) (cl p v loc n : Nat) (keep : Bool) :
    readView (l2Read s who cl p v loc n keep).s = readView s := by
  unfold l2Read
  extract_lets chain u r f e lat c
  have hr : readView r.1 = readView s := readView_l2Use h _ _ _ _ _
  have hf : readView f.1 = readView s := by
    simp only [f]
    split
    · exact hr
    · exact (readView_l2Fill (h.of_readView hr) _ _ _ _ _).trans hr
  have he : e = (f.1, []) := readSectors_errorFree (h.of_readView hf) _ _ _ _ _ _
  have hc : readView c.1 = readView s := by
    simp only [c, he]
    split
    · exact hf
    · exact (readView_crcCheck _ _).trans hf
  show readView (if 16 ≤ cl then _ else c.1) = readView s
  split <;> exact hc

theorem readView_memRead {s : State} (h : ErrorFree s) (who : Option Nat) (cl p v loc n : Nat) (far : Bool) :
    readView (memRead s who cl p v loc n far).s = readView s := by
  unfold memRead
  split
  · exact readView_l2Read h _ _ _ _ _ _ _
  · extract_lets e c
    have he : e = (s, []) := by
      simp only [e]
      split <;> exact readSectors_errorFree h _ _ _ _ _ _
    show readView c.1 = readView s
    simp only [c, he]
    split
    · exact readView_crcCheck _ _
    · rfl

theorem readView_demandLine {s : State} {who core : Option Nat} {cl fig p v va loc n : Nat} {r : State × Nat} (h : ErrorFree s)
    (hd : demandLine s who core cl fig p v va loc n = .ok r) : readView r.1 = readView s := by
  have ht : (if loc < dramTop then tagErrorL2 s who p v loc else s) = s := by
    rw [tagErrorL2_errorFree h, ite_self]
  simp only [demandLine, ht] at hd
  split at hd
  · cases hd
  · split at hd
    · cases hd
    · split at hd
      · cases hd
      · cases hd
        exact readView_memRead h _ _ _ _ _ _ _

/-- A fold that goes on only from a value: what its steps keep, it keeps. -/
theorem foldl_ok {ε α β : Type} (P : α → Prop) (f : Except ε α → β → Except ε α)
    (hf : ∀ x b r, f x b = .ok r → ∃ a, x = .ok a ∧ (P a → P r)) (l : List β) (x : Except ε α) (r : α)
    (h : l.foldl f x = .ok r) : ∃ a, x = .ok a ∧ (P a → P r) := by
  induction l generalizing x with
  | nil => exact ⟨r, h, id⟩
  | cons b l ih =>
    obtain ⟨c, hc, hcr⟩ := ih (f x b) h
    obtain ⟨a, ha, hac⟩ := hf x b c hc
    exact ⟨a, ha, fun hp => hcr (hac hp)⟩

theorem readView_demandRange {s : State} {who core : Option Nat} {cl fig p v va loc n : Nat} {r : State × Nat} (h : ErrorFree s)
    (hd : demandRange s who core cl fig p v va loc n = .ok r) : readView r.1 = readView s := by
  have hstep := foldl_ok (fun a : State × Nat => readView a.1 = readView s) _ (fun x q r hx => ?_) _ _ r hd
  · obtain ⟨a, ha, har⟩ := hstep
    cases ha
    exact har rfl
  · cases x with
    | error e => cases hx
    | ok a =>
      refine ⟨a, rfl, fun ha => ?_⟩
      dsimp only at hx
      cases hl : demandLine a.1 who core cl fig p v q.1 (loc + q.1 - va) q.2 with
      | error e => rw [hl] at hx; cases hx
      | ok b =>
        rw [hl] at hx
        cases hx
        exact (readView_demandLine (h.of_readView ha) hl).trans ha

theorem readView_windowWake (s : State) (c : Nat) : readView (windowWake s c).1 = readView s := by
  unfold windowWake
  dsimp only
  split
  · split <;> rfl
  · rfl

/-! L1D. -/

theorem l1Addr_l1Key (c p v : Nat) {a : Nat} (ha : a < 2 ^ 52) : l1Addr (l1Key c p v a) = a := by
  rw [l1Addr, l1Key, Nat.add_comm, Nat.add_mul_mod_self_right, Nat.mod_eq_of_lt ha]

/-- The place of a line's set among the sets of its core. -/
theorem l1Set_line_mod (c c' p v : Nat) {va : Nat} (hva : va < 2 ^ 52) :
    l1Set c (l1Addr (l1Key c' p v (lineOf va))) % 1024 = va / 64 % 1024 := by
  have hl : lineOf va < 2 ^ 52 := by simp only [lineOf]; omega
  rw [l1Addr_l1Key c' p v hl, l1Set, lineOf]
  omega

/-- What a load that finds no error leaves: all that readView names but L1D, whose bytes stay; of its sets only those at
these places may change. -/
structure LoadFrame (s s1 : State) (places : List Nat) : Prop where
  view : readView s1 = { readView s with l1d := s1.l1d, l1dSets := s1.l1dSets }
  kept : ∀ key b, s.l1d.get? key = some b → s1.l1d.get? key = some b
  sets : ∀ j, j % 1024 ∉ places → s1.l1dSets.getD j [] = s.l1dSets.getD j []

theorem LoadFrame.of_readView {s s1 : State} (places : List Nat) (e : readView s1 = readView s) : LoadFrame s s1 places := by
  have hd : s1.l1d = s.l1d := congrArg ReadView.l1d e
  have hs : s1.l1dSets = s.l1dSets := congrArg ReadView.l1dSets e
  refine ⟨?_, fun key b hb => hd ▸ hb, fun j _ => by rw [hs]⟩
  rw [e, hd, hs]
  rfl

theorem LoadFrame.trans {s s1 s2 : State} {l r : List Nat} (h1 : LoadFrame s s1 l) (h2 : LoadFrame s1 s2 r) :
    LoadFrame s s2 (l ++ r) := by
  refine ⟨?_, fun key b hb => h2.kept key b (h1.kept key b hb), fun j hj => ?_⟩
  · rw [h2.view, h1.view]
  · simp only [List.mem_append, not_or] at hj
    exact (h2.sets j hj.2).trans (h1.sets j hj.1)

theorem LoadFrame.errorFree {s s1 : State} {l : List Nat} (h : LoadFrame s s1 l) (he : ErrorFree s) : ErrorFree s1 :=
  ⟨(congrArg ReadView.badEcc h.view).trans he.noError,
   (congrArg (fun q => bit (q.dspr.getD rERRINJ 0) 12) h.view).trans he.unarmed⟩

theorem LoadFrame.hint {s s1 : State} {l : List Nat} (h : LoadFrame s s1 l) : s1.hint = s.hint := congrArg ReadView.hint h.view

theorem loadFrame_foldl {β : Type} (f : State → β → State) (hf : ∀ s b, LoadFrame s (f s b) []) (l : List β) (s : State) :
    LoadFrame s (l.foldl f s) [] := by
  induction l generalizing s with
  | nil => exact .of_readView [] rfl
  | cons b r ih => exact (hf s b).trans (ih (f s b))

theorem readView_l1Carry (s : State) (key : Nat) (bad : Bool) : readView (l1Carry s key bad) = readView s := by
  unfold l1Carry
  split <;> rfl

/-- A fill puts only bytes that L1D does not hold. -/
theorem loadFrame_l1Fill (s : State) (c p v va loc ctx : Nat) : LoadFrame s (l1Fill s c p v va loc ctx) [] := by
  unfold l1Fill
  extract_lets line pl chain lev s1
  have h1 : LoadFrame s s1 [] := loadFrame_foldl _ (fun a j => .of_readView [] (readView_l1Carry _ _ _)) _ _
  refine h1.trans (loadFrame_foldl _ (fun a i => ?_) _ _)
  split
  · exact .of_readView [] rfl
  · next hn =>
    refine ⟨rfl, fun key b hb => ?_, fun _ _ => rfl⟩
    have hk : l1Key c p lev (line + i) ≠ key := by
      rintro rfl
      rw [hn] at hb
      cases hb
    exact (Tab.get?_put_ne _ _ _ _ hk).trans hb

/-- Every set of L1D at this place among the sets of its core has room for one more line. -/
def RoomAt (s : State) (place : Nat) : Prop := ∀ j, j % 1024 = place → (s.l1dSets.getD j []).length < 10

theorem LoadFrame.roomAt {s s1 : State} {l : List Nat} {i : Nat} (h : LoadFrame s s1 l) (hi : i ∉ l) (hr : RoomAt s i) :
    RoomAt s1 i := fun j hj => by
  rw [h.sets j (hj ▸ hi)]
  exact hr j hj

/-- A line used in a set with room makes no line leave. -/
theorem l1Use_of_room {s : State} {key : Nat} (keep : Bool)
    (h : (s.l1dSets.getD (l1Set (l1Core key) (l1Addr key)) []).length < 10) :
    ∃ ways, l1Use s key keep = { s with l1dSets := s.l1dSets.put (l1Set (l1Core key) (l1Addr key)) ways } := by
  have hl : ((l1Ways s (l1Core key) (l1Addr key)).filter (fun e => e.line != key)).length < 10 :=
    Nat.lt_of_le_of_lt ((List.length_filter_le _ _).trans (List.length_filter_le _ _)) h
  simp only [l1Use, hl, if_true]
  exact ⟨_, rfl⟩

theorem loadFrame_l1Use {s : State} {c p v va : Nat} (keep : Bool) (hva : va < 2 ^ 52) (h : RoomAt s (va / 64 % 1024)) :
    LoadFrame s (l1Use s (l1Key c p v (lineOf va)) keep) [va / 64 % 1024] := by
  have hm := l1Set_line_mod (l1Core (l1Key c p v (lineOf va))) c p v hva
  obtain ⟨ways, hu⟩ := l1Use_of_room keep (h _ hm)
  rw [hu]
  refine ⟨rfl, fun _ _ hb => hb, fun j hj => ?_⟩
  rw [Tab.getD, Tab.get?_put_ne _ _ _ _ fun e => hj (by rw [← e, hm]; exact List.mem_singleton_self _)]
  rfl

theorem loadFrame_l1Take {s : State} {k c p v va loc : Nat} (keep : Bool) (he : ErrorFree s) (hva : va < 2 ^ 52)
    (hr : RoomAt s (va / 64 % 1024)) : LoadFrame s (l1Take s k c p v va loc keep) [va / 64 % 1024] := by
  have hw : (if l1Line s c p (fillLevel s c p v va loc) (lineOf va) then s else writeArray s 2 c (lineOf va) 64) = s := by
    rw [writeArray_errorFree he, ite_self]
  have hf := loadFrame_l1Fill s c p v va loc (ctxOf k)
  simp only [l1Take, hw, injectAt_errorFree (hf.errorFree he)]
  exact hf.trans (loadFrame_l1Use keep hva (hf.roomAt (by simp) hr))

/-! Loads. -/

/-- A hint that asks for no more than the line does nothing after the access (03 R70). -/
theorem afterHint_of_lt_two {s : State} (h : s.hint < 2) (k p v va : Nat) (loc : Option Nat) : afterHint s k p v va loc = s := by
  have h' : s.hint = 0 ∨ s.hint = 1 := by omega
  rcases h' with h' | h' <;> simp only [afterHint, h']

/-- Translated DRAM lies below core 0's window, and a place in it is the address itself (10 R214). -/
theorem place_dram {s : State} {t : Thread} {p : Word} {kind a n va : Nat} (h : place s t p kind a n = .ok (.dram va)) :
    va = a ∧ a < 2 ^ 51 := by
  unfold place at h
  dsimp only at h
  repeat' split at h
  all_goals cases h
  exact ⟨rfl, by omega⟩

section
variable {s : State} (he : ErrorFree s) (hh : s.hint < 2)
include he hh

theorem loadFrame_l1Miss {k c p v va n kind size : Nat} {g : Got} (hva : va < 2 ^ 52) (hr : RoomAt s (va / 64 % 1024))
    (hg : l1Miss s k c p v va n kind size = .ok g) : LoadFrame s g.s [va / 64 % 1024] := by
  unfold l1Miss at hg
  split at hg
  · cases hg
  · next loc w s1 ht =>
    have h1 := readView_translate he ht
    split at hg
    · cases hg
    · next s2 lat hd =>
      have h2 : readView (perfBump s2 p 3) = readView s := (readView_demandRange (he.of_readView h1) hd).trans h1
      have f2 : LoadFrame s (perfBump s2 p 3) [] := .of_readView [] h2
      have hn : ¬ ((perfBump s2 p 3).hint = 2 ∨ (perfBump s2 p 3).hint = 3) := by rw [f2.hint]; omega
      have f3 := f2.trans (loadFrame_l1Take (k := k) (c := c) (p := p) (v := v) (loc := loc) ((perfBump s2 p 3).hint == 1)
        (f2.errorFree he) hva (f2.roomAt (by simp) hr))
      simp only [hn, if_false] at hg
      cases hg
      rw [afterHint_of_lt_two (f3.hint.symm ▸ hh)]
      exact f3

theorem loadFrame_dramLoad {k v va n kind size : Nat} {t : Thread} {g : Got} (hva : va < 2 ^ 52)
    (hr : RoomAt s (va / 64 % 1024)) (hg : dramLoad s k t v va n kind size = .ok g) : LoadFrame s g.s [va / 64 % 1024] := by
  unfold dramLoad at hg
  dsimp only at hg
  split at hg
  · split at hg
    · cases hg
    · next loc w s1 ht =>
      have h1 := readView_translate he ht
      split at hg
      · cases hg
      · next s2 lat hd =>
        have f2 : LoadFrame s s2 [va / 64 % 1024] := .of_readView _ ((readView_demandRange (he.of_readView h1) hd).trans h1)
        cases hg
        rw [afterHint_of_lt_two (f2.hint.symm ▸ hh)]
        exact f2
  · rw [tagErrorL1_errorFree he] at hg
    split at hg
    · exact loadFrame_l1Miss he hh hva hr hg
    · next u lv _ =>
      simp only [l1Ecc_errorFree he] at hg
      split at hg
      · cases hg
      · have f := loadFrame_l1Use (c := coreOf k) (p := partOf t) (v := u) (s.hint == 1) hva hr
        cases hg
        rw [afterHint_of_lt_two (f.hint.symm ▸ hh)]
        exact f

/-- A part of a load, wherever it goes. -/
theorem loadFrame_loadPiece {k v kind size a n : Nat} {t : Thread} {ptr : Word} {g : Got} (hr : RoomAt s (a / 64 % 1024))
    (hg : loadPiece s k t v ptr kind size a n = .ok g) : LoadFrame s g.s [a / 64 % 1024] := by
  unfold loadPiece at hg
  split at hg
  · cases hg
  · next va hp =>
    obtain ⟨rfl, ha⟩ := place_dram hp
    exact loadFrame_dramLoad he hh (by omega) hr hg
  · split at hg
    · cases hg
    · cases hg
      exact .of_readView _ rfl
  · next c loc hp =>
    have hw := readView_windowWake s c
    split at hg
    · cases hg
    · next s1 lat hd =>
      cases hg
      exact .of_readView _ ((readView_demandRange (he.of_readView hw) hd).trans hw)
  · split at hg
    · cases hg
    · next s1 lat hd =>
      cases hg
      exact .of_readView _ (readView_demandRange he hd)

end

/-- The set places of the lines that parts of an access start in. -/
def setPlaces (l : List (Nat × Nat)) : List Nat := l.map (fun q => q.1 / 64 % 1024)

/-- A load by lines of different sets, each with room. -/
theorem loadFrame_loadParts {s : State} {k v kind size : Nat} {t : Thread} {ptr : Word} {l : List (Nat × Nat)} {g : Got}
    (he : ErrorFree s) (hh : s.hint < 2) (hn : (setPlaces l).Nodup) (hr : ∀ i ∈ setPlaces l, RoomAt s i)
    (hg : loadParts s k t v ptr kind size l = .ok g) : LoadFrame s g.s (setPlaces l) := by
  induction l generalizing s g with
  | nil => cases hg; exact .of_readView _ rfl
  | cons q r ih =>
    obtain ⟨a, n⟩ := q
    obtain ⟨hna, hnr⟩ : a / 64 % 1024 ∉ setPlaces r ∧ (setPlaces r).Nodup := List.nodup_cons.mp hn
    simp only [loadParts] at hg
    split at hg
    · cases hg
    · next g1 h1 =>
      split at hg
      · cases hg
      · next g2 h2 =>
        cases hg
        have f1 := loadFrame_loadPiece he hh (hr _ List.mem_cons_self) h1
        have hr' : ∀ i ∈ setPlaces r, RoomAt g1.s i := fun i hi =>
          f1.roomAt (fun e => hna (List.mem_singleton.mp e ▸ hi)) (hr i (List.mem_cons_of_mem _ hi))
        exact f1.trans (ih (g := g2) (f1.errorFree he) (f1.hint.symm ▸ hh) hnr hr' h2)

@[simp] theorem pieces_zero (f a : Nat) : pieces f a 0 = [] := by cases f <;> rfl

theorem pieces_succ (f a n : Nat) (h : n ≠ 0) :
    pieces (f + 1) a n = (a, min n (64 - a % 64)) :: pieces f (a + min n (64 - a % 64)) (n - min n (64 - a % 64)) := by
  simp [pieces, h]

/-- An access of at most 64 bytes lies in one line or in two that follow each other. -/
theorem cut_of_le {a n : Nat} (h : n ≤ 64) :
    cut a n = [] ∨ (∃ m, cut a n = [(a, m)]) ∨ ∃ b m x, cut a n = [(a, m), (b, x)] ∧ b / 64 = a / 64 + 1 := by
  by_cases h0 : n = 0
  · exact .inl (by rw [cut, h0, pieces_zero])
  rw [cut, show n / 64 + 2 = n / 64 + 1 + 1 by omega, pieces_succ _ a n h0]
  by_cases h1 : n ≤ 64 - a % 64
  · exact .inr (.inl ⟨n, by rw [Nat.min_eq_left h1, Nat.sub_self, pieces_zero]⟩)
  · have hm : min n (64 - a % 64) = 64 - a % 64 := Nat.min_eq_right (by omega)
    have hb : (a + (64 - a % 64)) / 64 = a / 64 + 1 := by omega
    have hx : n - (64 - a % 64) - min (n - (64 - a % 64)) (64 - (a + (64 - a % 64)) % 64) = 0 := by omega
    rw [hm, pieces_succ _ _ _ (by omega), hx, pieces_zero]
    exact .inr (.inr ⟨_, _, _, rfl, hb⟩)

theorem nodup_setPlaces_cut {a n : Nat} (h : n ≤ 64) : (setPlaces (cut a n)).Nodup := by
  rcases cut_of_le (a := a) h with e | ⟨m, e⟩ | ⟨b, m, x, e, hb⟩
  · rw [e]; exact List.nodup_nil
  · rw [e]; exact List.nodup_singleton _
  · rw [e]
    simp only [setPlaces, List.map_cons, List.map_nil, List.nodup_cons, List.mem_singleton, List.not_mem_nil, not_false_eq_true,
      List.nodup_nil, and_true]
    omega

/-- A load of at most 64 bytes through a pointer. -/
theorem loadFrame_loadPtr {s : State} {k n : Nat} {t : Thread} {p : Word} {need : Rights} {g : Got} (hn : n ≤ 64)
    (he : ErrorFree s) (hh : s.hint < 2) (hr : ∀ i, RoomAt s i) (hg : loadPtr s k t p n need = .ok g) :
    ∃ places, LoadFrame s g.s places := by
  unfold loadPtr at hg
  split at hg
  · cases hg
  · next a _ =>
    simp only [loadRange, loadElemsRange] at hg
    split at hg
    · cases hg
    · exact ⟨_, loadFrame_loadParts he hh (nodup_setPlaces_cut hn) (fun i _ => hr i) hg⟩

/-- Settles O53: the frame of each shared effect, and for a load the lines it uses, whose sets of L1D have room. -/
theorem effectFrames : Obligations.EffectFrames := by
  intro s k t h
  refine ⟨fun lat d v => putFixed_frame lat d v h, fun due regs tiles => putScored_frame due regs tiles h,
    fun c => holdUntil_frame c h, fun g => noteStore_frame g h, fun n hd => retire_frame n h hd,
    fun n w => enterWait_frame n w h, fun p n need g hn hb hi hh hr hg => ?_⟩
  obtain ⟨places, f⟩ := loadFrame_loadPtr hn ⟨hb, hi⟩ hh (fun _ j _ => hr j) hg
  exact ⟨congrArg ReadView.threads f.view, congrArg ReadView.mem f.view, congrArg ReadView.vmem f.view,
    congrArg ReadView.tags f.view, f.kept⟩

end Sys2Proof.Machine
end

section
/-! Results that arrive, waits that reach their limit, and completions that are delivered (02 R35, R56; 05 R127; 07 R167, R168;
16 R401; 18 R426). -/

namespace Sys2Proof.Machine

/-! Bits of a word. -/

theorem bit_setBits_one (w : Word) {i : Nat} (h : i < 64) : bit (setBits w i 1 1) i = true := by
  rw [bit_eq_bits, bits_setBits w i 1 1 (by omega)]
  rfl

theorem bit_setBits_above (w : Word) {i j : Nat} (v : Nat) (h : i < j) (hj : j < 64) : bit (setBits w i 1 v) j = bit w j := by
  rw [bit_eq_bits, bits_setBits_high w i 1 v j 1 (by omega) (by omega), bit_eq_bits]

/-! A result that arrives (02 R35). -/

theorem setById_general (t : Thread) {r : Nat} (v : Word) (h0 : 0 < r) (h1 : r < 128) :
    setById t r v = { t with gpr := t.gpr.putD r 0 v } := by
  simp [setById, show r ≠ 0 by omega, show ¬ 128 ≤ r by omega]

/-- A pending result of one general register writes it and leaves the scoreboard. -/
theorem arrive_general {t : Thread} {id r due : Nat} {v : Word} {tiles : List Nat}
    (h : findPending t id = some ⟨id, due, [(r, v)], tiles⟩) (h0 : 0 < r) (h1 : r < 128) :
    arrive t id = { t with gpr := t.gpr.putD r 0 v, sb := t.sb.filter (fun q => q.id != id) } := by
  simp only [arrive, h, List.foldl_cons, List.foldl_nil, setById_general t v h0 h1]

theorem regWritten_threads (s : State) (k : Nat) (ids : List Nat) : (regWritten s k ids).threads = s.threads := by
  unfold regWritten
  dsimp only
  split
  · rfl
  · split
    · rfl
    · split <;> rfl

theorem thr_regWritten (s : State) (k : Nat) (ids : List Nat) (j : Nat) : thr (regWritten s k ids) j = thr s j := by
  rw [thr, regWritten_threads]
  rfl

theorem regWritten_errorFree {s : State} (h : ErrorFree s) (k : Nat) (ids : List Nat) : regWritten s k ids = s := by
  simp only [regWritten, h.noError, h.unarmed, List.isEmpty_nil, Bool.not_false, Bool.and_true, Bool.or_true, if_true]

/-! A wait that reaches its limit (02 R56; 18 R426). -/

theorem run_of_waitOf {t : Thread} {w : Wait} (h : waitOf t = some w) : t.run = .waiting w := by
  unfold waitOf at h
  split at h
  · next hr => cases h; exact hr
  · cases h

/-- A wait withdrawn leaves its thread ready and every other thread as it is. -/
theorem withdrawWait_threads {s : State} {k : Nat} {t : Thread} {w : Wait} (h : thr s k = some t) (hw : waitOf t = some w) :
    (withdrawWait s k).threads = (setThr s k { t with run := .ready }).threads := by
  simp only [withdrawWait, h, hw]
  split
  · unfold withdrawGroup
    split <;> rfl
  all_goals rfl

theorem failLead_threads (s : State) (k : Nat) (t : Thread) (w : Wait) (cause : Nat) (info : Word) :
    (failLead s k t w cause info).threads = s.threads := by
  unfold failLead
  split
  · dsimp only
    split
    · rfl
    · split <;> rfl
  · rfl

theorem thr_of_threads {s s1 : State} (h : s1.threads = s.threads) (k : Nat) : thr s1 k = thr s k := by rw [thr, h]; rfl

/-- A failed wait of a ready thread: a trap with its cause and information is due, and nothing else of any thread changes. -/
theorem thr_failWait {s : State} {k : Nat} {t : Thread} (w : Wait) (cause : Nat) (info : Word) (h : thr s k = some t)
    (hr : t.run = .ready) :
    thr (failWait s k w cause info) k = some { t with run := .ready, again := none, trapDue := some (cause, info) } ∧
      ∀ j, j ≠ k → thr (failWait s k w cause info) j = thr s j := by
  have hl := failLead_threads s k t w cause info
  simp only [failWait, h, dueTrap]
  constructor
  · rw [thr_modThr_self _ ((thr_of_threads hl k).trans h)]
    simp [hr]
  · intro j hj
    rw [thr_modThr_ne _ k j _ (Ne.symm hj), thr_of_threads hl]

/-- At its deadline a wait that has not come about, of a thread waiting for no redundant pair, fails. -/
theorem exec_waitLimitExpiry_fails {s : State} {k d : Nat} {t : Thread} {w : Wait} (h : thr s k = some t)
    (hw : waitOf t = some w) (hd : w.deadline = some d) (hc : d ≤ s.clk) (hn : waitDone s k t w = false)
    (hk : w.kind ≠ .redundant) :
    exec (.waitLimitExpiry k) s =
      .next (failWait { withdrawWait (perfBump s (partOf t) 9) k with free := s.free + 1 } k w
        (limitCause (perfBump s (partOf t) 9) w) w.info) := by
  show execWaitLimitExpiry k s = _
  simp [execWaitLimitExpiry, h, hw, hd, hn, hk, Nat.not_lt.mpr hc]

theorem exec_waitLimitExpiry_early {s : State} {k : Nat} {t : Thread} {w : Wait} (h : thr s k = some t) (hw : waitOf t = some w)
    (hd : w.deadline = none ∨ ∃ d, w.deadline = some d ∧ s.clk < d) : exec (.waitLimitExpiry k) s = .next s := by
  show execWaitLimitExpiry k s = _
  rcases hd with hd | ⟨d, hd, hc⟩
  · simp [execWaitLimitExpiry, h, hw, hd]
  · simp [execWaitLimitExpiry, h, hw, hd, hc]

theorem limitCause_eq {s : State} {w : Wait} (hr : w.kind ≠ .result) (hu : w.kind ≠ .unit) : limitCause s w = w.cause := by
  simp [limitCause, hr, hu]

/-! A completion that is delivered (05 R127; 07 R167, R168). -/

theorem uiDue_iff (s : State) (t : Thread) : uiDue s t = true ↔
    uienOf t = true ∧ thOf t = false ∧ uihOf t = false ∧ t.uiq ≠ [] ∧ (t.uiAt ≠ s.clk ∨ t.uiNew < t.uiq.length) := by
  simp [uiDue, and_assoc]

/-- The thread in its handler for completion (h0, h1), of which it issues the first instruction no earlier than lat clk on. -/
def delivered (s : State) (t : Thread) (h0 h1 : Word) (rest : List (Word × Word)) (lat : Nat) : Thread :=
  { setMode (setSpr t rUIPC t.pc) 2 1 1 with
    uiq := rest, again := none, shadow := (t.shadow.putD 0 0 h0).putD 1 0 h1, pc := wd (bits (getSpr t rUIVEC) 0 52),
    earliest := max t.earliest (s.clk + lat) }

section
variable {s : State} {k : Nat} {t : Thread} {h0 h1 : Word} {rest : List (Word × Word)}

theorem exec_uiDelivery_enters (h : thr s k = some t) (hq : t.uiq = (h0, h1) :: rest) (hd : uiDue s t = true)
    (hv : getSpr t rUIVEC ≠ 0) :
    exec (.uiDelivery k) s =
      .next (setThr (acquireAt s k t 3).1 k (delivered s t h0 h1 rest (max 4 (acquireAt s k t 3).2))) := by
  show execUiDelivery k s = _
  simp only [execUiDelivery, h, hq, hd, hv, if_false]
  rfl

/-- Without a handler the completion is removed and a trap raised. -/
theorem exec_uiDelivery_noHandler (h : thr s k = some t) (hq : t.uiq = (h0, h1) :: rest) (hd : uiDue s t = true)
    (hv : getSpr t rUIVEC = 0) :
    exec (.uiDelivery k) s = .next (raise (setThr s k { t with uiq := rest }) k 0x5E h0 t.pc) := by
  show execUiDelivery k s = _
  simp [execUiDelivery, h, hq, hd, hv]

variable (s t h0 h1 rest) (lat : Nat)

theorem uihOf_delivered : uihOf (delivered s t h0 h1 rest lat) = true := by
  show bit (getSpr (setMode (setSpr t rUIPC t.pc) 2 1 1) rMODE) 2 = true
  rw [mode_setMode, bit_setBits_one _ (by decide)]

theorem uienOf_delivered : uienOf (delivered s t h0 h1 rest lat) = uienOf t := by
  show bit (getSpr (setMode (setSpr t rUIPC t.pc) 2 1 1) rMODE) 3 = _
  rw [mode_setMode, bit_setBits_above _ 1 (by decide) (by decide), getSpr_setSpr, if_neg (by decide)]
  rfl

theorem uipc_delivered : getSpr (delivered s t h0 h1 rest lat) rUIPC = t.pc := by
  show getSpr (setMode (setSpr t rUIPC t.pc) 2 1 1) rUIPC = _
  rw [getSpr_setMode _ _ _ _ _ (by decide), getSpr_setSpr_self]

theorem pc_delivered : (delivered s t h0 h1 rest lat).pc.toNat = (getSpr t rUIVEC).toNat % 2 ^ 52 := by
  show (wd (bits (getSpr t rUIVEC) 0 52)).toNat = _
  rw [wd_toNat _ (lt_trans (bits_lt _ 0 52) (by decide)), bits, pow_zero, Nat.div_one]

theorem shadow_delivered_zero : (delivered s t h0 h1 rest lat).shadow.getD 0 0 = h0 := by
  simp [delivered, Tab.getD_putD]

theorem shadow_delivered_one : (delivered s t h0 h1 rest lat).shadow.getD 1 0 = h1 := by
  simp [delivered, Tab.getD_putD]

/-- In a handler g124 and up are the shadow registers (05 R122). -/
theorem gprOf_handler {t : Thread} (h : uihOf t = true) {n : Nat} (hn : 124 ≤ n) : gprOf t n = t.shadow.getD (n - 124) 0 := by
  simp [gprOf, isShadow, h, hn, show n ≠ 0 by omega]

theorem gprOf_below_shadow (t : Thread) {n : Nat} (hn : n < 124) : gprOf t n = if n = 0 then 0 else t.gpr.getD n 0 := by
  simp [gprOf, isShadow, Nat.not_le.mpr hn]

theorem gprOf_delivered_low {n : Nat} (hn : n < 124) : gprOf (delivered s t h0 h1 rest lat) n = gprOf t n := by
  rw [gprOf_below_shadow _ hn, gprOf_below_shadow _ hn]
  rfl

theorem earliest_delivered : s.clk + lat ≤ (delivered s t h0 h1 rest lat).earliest := Nat.le_max_right _ _

end

/-- An acquire at cluster scope or wider of a device thread. -/
theorem acquireAt_device {s : State} {k n : Nat} {t : Thread} (hh : t.host = false) (hn : 2 ≤ n) :
    acquireAt s k t n = ({ s with l1d := s.l1d.filter (fun q => l1Core q.1 != coreOf k || q.2.dirty),
                                  acqAt := s.acqAt.put (coreOf k) s.clk }, 8) := by
  simp [acquireAt, hh, Nat.not_lt.mpr hn]

theorem acquireAt_host {s : State} {k n : Nat} {t : Thread} (hh : t.host = true) : acquireAt s k t n = (s, 0) := by
  simp [acquireAt, hh]

/-! The statement, event by event. -/

/-- 02 R35: the register is written and its pending result gone. -/
theorem resultArrival_writes {s : State} {k id r due : Nat} {t : Thread} {v : Word} {tiles : List Nat} (h : thr s k = some t)
    (hp : findPending t id = some ⟨id, due, [(r, v)], tiles⟩) (h0 : 0 < r) (h1 : r < 128) :
    ∃ u w, exec (.scoreboardResultArrival k id) s = .next u ∧ thr u k = some w ∧ w.gpr.getD r 0 = v ∧
      (∀ q, q ≠ r → w.gpr.getD q 0 = t.gpr.getD q 0) ∧ (∀ p ∈ w.sb, p.id ≠ id) ∧
      (s.badEcc = [] → bit (s.dspr.getD rERRINJ 0) 12 = false → OnlyThread s u k) := by
  refine ⟨_, { t with gpr := t.gpr.putD r 0 v, sb := t.sb.filter (fun q => q.id != id) }, rfl, ?_, ?_, fun q hq => ?_,
    fun p hp => ?_, fun hb hi => ?_⟩
  · rw [thr_regWritten, thr_modThr_self _ h, arrive_general hp h0 h1]
  · rw [Tab.getD_putD, if_pos rfl]
  · rw [Tab.getD_putD, if_neg (Ne.symm hq)]
  · simpa using (List.mem_filter.mp hp).2
  · have he : ErrorFree (modThr s k (fun t => arrive t id)) := ⟨hb, hi⟩
    rw [regWritten_errorFree he]
    exact onlyThread_modThr s k _

/-- 02 R56, 18 R426: a wait that is not for a redundant pair ends with a trap due. -/
theorem waitLimit_traps {s : State} {k d : Nat} {t : Thread} {w : Wait} (h : thr s k = some t) (hw : waitOf t = some w)
    (hd : w.deadline = some d) (hc : d ≤ s.clk) (hn : waitDone s k t w = false) (hk : w.kind ≠ .redundant) :
    ∃ u v cause, exec (.waitLimitExpiry k) s = .next u ∧ thr u k = some v ∧ v.run = .ready ∧
      v.trapDue = some (cause, w.info) ∧ (w.kind ≠ .result → w.kind ≠ .unit → cause = w.cause) ∧ v.pc = t.pc ∧ v.gpr = t.gpr ∧
      (∀ j, j ≠ k → thr u j = thr s j) := by
  have hs := withdrawWait_threads (s := perfBump s (partOf t) 9) h hw
  have ht (j : Nat) : thr { withdrawWait (perfBump s (partOf t) 9) k with free := s.free + 1 } j =
      thr (setThr (perfBump s (partOf t) 9) k { t with run := .ready }) j := thr_of_threads hs j
  obtain ⟨hv, ho⟩ := thr_failWait w (limitCause (perfBump s (partOf t) 9) w) w.info ((ht k).trans (thr_setThr_self _ k _)) rfl
  refine ⟨_, _, _, exec_waitLimitExpiry_fails h hw hd hc hn hk, hv, rfl, rfl, limitCause_eq, rfl, rfl, fun j hj => ?_⟩
  rw [ho j hj, ht, thr_setThr_ne _ _ _ _ (Ne.symm hj), thr_perfBump]

/-- 16 R401: a thread of a node whose redundant pair is stuck rolls the node back. -/
theorem loadValueQueueStuck_rollsBack {s : State} {k key : Nat} {t : Thread} (h : thr s k = some t) (hn : t.node = some key) :
    exec (.loadValueQueueStuck k) s = .next (rollback s key 0x71 (nodeAddr t)) := by
  show execLoadValueQueueStuck k s = _
  simp [execLoadValueQueueStuck, h, hn]

/-- 07 R167: a delivery to a host thread, which acquires nothing. -/
theorem uiDelivery_host {s : State} {k : Nat} {t : Thread} {h0 h1 : Word} {rest : List (Word × Word)} (h : thr s k = some t)
    (hq : t.uiq = (h0, h1) :: rest) (hd : uiDue s t = true) (hv : getSpr t rUIVEC ≠ 0) (hh : t.host = true) :
    ∃ u w, exec (.uiDelivery k) s = .next u ∧ thr u k = some w ∧ w.uiq = rest ∧ uihOf w = true ∧
      getSpr w rUIPC = t.pc ∧ w.pc.toNat = (getSpr t rUIVEC).toNat % 2 ^ 52 ∧ w.shadow.getD 0 0 = h0 ∧ w.shadow.getD 1 0 = h1 ∧
      w.gpr = t.gpr ∧ s.clk + 4 ≤ w.earliest := by
  have he := exec_uiDelivery_enters h hq hd hv
  rw [acquireAt_host hh] at he
  exact ⟨_, _, he, thr_setThr_self _ k _, rfl, uihOf_delivered .., uipc_delivered .., pc_delivered .., shadow_delivered_zero ..,
    shadow_delivered_one .., rfl, earliest_delivered ..⟩

/-- 07 R167, 05 R127: a delivery to a device thread, which acquires at device scope. -/
theorem uiDelivery_device {s : State} {k : Nat} {t : Thread} {h0 h1 : Word} {rest : List (Word × Word)} (h : thr s k = some t)
    (hq : t.uiq = (h0, h1) :: rest) (hd : uiDue s t = true) (hv : getSpr t rUIVEC ≠ 0) (hh : t.host = false) :
    ∃ u w, exec (.uiDelivery k) s = .next u ∧ thr u k = some w ∧ w.uiq = rest ∧ uihOf w = true ∧ uienOf w = uienOf t ∧
      getSpr w rUIPC = t.pc ∧ w.pc.toNat = (getSpr t rUIVEC).toNat % 2 ^ 52 ∧ gprOf w 124 = h0 ∧ gprOf w 125 = h1 ∧
      (∀ n, n < 124 → gprOf w n = gprOf t n) ∧ s.clk + 8 ≤ w.earliest ∧ u.acqAt.get? (coreOf k) = some s.clk ∧
      (∀ q ∈ u.l1d, l1Core q.1 = coreOf k → q.2.dirty = true) := by
  have he := exec_uiDelivery_enters h hq hd hv
  rw [acquireAt_device hh (by decide)] at he
  have hi := uihOf_delivered s t h0 h1 rest 8
  refine ⟨_, _, he, thr_setThr_self _ k _, rfl, hi, uienOf_delivered .., uipc_delivered .., pc_delivered .., ?_, ?_,
    fun n hn => gprOf_delivered_low s t h0 h1 rest 8 hn, earliest_delivered .., Tab.get?_put_self _ _ _, fun q hq hc => ?_⟩
  · exact (gprOf_handler hi (by decide)).trans (shadow_delivered_zero ..)
  · exact (gprOf_handler hi (by decide)).trans (shadow_delivered_one ..)
  · have hm := (List.mem_filter.mp hq).2
    simpa [hc] using hm

/-- Settles O23: each event by its own theorem above. -/
theorem threadEvents : Obligations.ThreadEvents := by
  refine ⟨fun s k t h => ⟨fun id r v tiles due hp h0 h1 => resultArrival_writes h hp h0 h1,
    fun w d hw hd hc hn hk => waitLimit_traps h hw hd hc hn hk, fun w hw hd => exec_waitLimitExpiry_early h hw hd,
    fun key hn => loadValueQueueStuck_rollsBack h hn, fun cause info tpc hc => congrArg _ (raise_eq_takeTrap hc),
    fun h0 h1 rest hq hen hth hih hh hat => ?_⟩, fun s k t h0 h1 rest h hq hen hth hih hv hh hat => ?_⟩
  · have hd : uiDue s t = true := (uiDue_iff s t).mpr ⟨hen, hth, hih, by simp [hq], hat⟩
    exact ⟨fun hv => uiDelivery_host h hq hd hv hh, exec_uiDelivery_noHandler h hq hd⟩
  · have hd : uiDue s t = true := (uiDue_iff s t).mpr ⟨hen, hth, hih, by simp [hq], hat⟩
    have hu := uiDelivery_device h hq hd hv hh
    rwa [hen] at hu

end Sys2Proof.Machine
end

section
/-! The decoder and the encoder agree (03 R59, R62 to R69, R73): word 0, the tail and the opcode map, each in both directions,
and then the words of an instruction. -/

namespace Sys2Proof.Laws

open Sys2Proof.Machine

/-! The operand bits of word 0, taken apart and put together again (03 R62). -/

theorem append_extract {w n m : Nat} (x : BitVec w) (s r : Nat) (h : r = s + m) :
    x.extractLsb' r n ++ x.extractLsb' s m = x.extractLsb' s (n + m) :=
  BitVec.extractLsb'_append_extractLsb'_eq_extractLsb' h

theorem ofBool_getLsbD {w : Nat} (x : BitVec w) (i : Nat) : BitVec.ofBool (x.getLsbD i) = x.extractLsb' i 1 := by
  ext j hj
  obtain rfl : j = 0 := by omega
  simp

theorem rBody_rForm (x : BitVec 22) (t : Tail) : rBody (rForm x t) = x := by
  simp only [rBody, rForm, ofBool_getLsbD]
  rw [append_extract x 14 21 rfl, append_extract x 7 14 rfl, append_extract x 0 7 rfl]
  exact extract_all x

theorem mBody_mForm (x : BitVec 22) (t : Tail) : mBody (mForm x t) = x := rBody_rForm x t

theorem bBody_bForm (x : BitVec 22) (t : Tail) : bBody (bForm x t) = x := by
  simp only [bBody, bForm]
  rw [append_extract x 7 14 rfl, append_extract x 0 7 rfl]
  exact extract_all x

theorem xBody_xForm (x : BitVec 22) (t : Tail) : xBody (xForm x t) = x := bBody_bForm x t

theorem lBody_lForm (x : BitVec 22) (t : Tail) : lBody (lForm x t) = x :=
  (append_extract x 0 7 rfl).trans (extract_all x)

/-! The opcode map (03 R87), from the encoder's table to the decoder's. -/

/-- The decoder's table gives every instruction back from what the encoder's table makes of it. -/
theorem rebuild : ∀ i, Rebuild.Statement i
  | .add f => Rebuild.add f | .sub f => Rebuild.sub f | .mul f => Rebuild.mul f | .mulh f => Rebuild.mulh f
  | .div f => Rebuild.div f | .rem f => Rebuild.rem f | .and f => Rebuild.and f | .or f => Rebuild.or f
  | .xor f => Rebuild.xor f | .shl f => Rebuild.shl f | .shr f => Rebuild.shr f | .sar f => Rebuild.sar f
  | .min f => Rebuild.min f | .max f => Rebuild.max f | .slt f => Rebuild.slt f | .sel f => Rebuild.sel f
  | .addsat f => Rebuild.addsat f | .subsat f => Rebuild.subsat f | .clz f => Rebuild.clz f | .bext f => Rebuild.bext f
  | .bins f => Rebuild.bins f | .lea f => Rebuild.lea f | .li f => Rebuild.li f | .fadd f => Rebuild.fadd f
  | .fsub f => Rebuild.fsub f | .fmul f => Rebuild.fmul f | .ffma f => Rebuild.ffma f | .fdiv f => Rebuild.fdiv f
  | .fsqrt f => Rebuild.fsqrt f | .fmin f => Rebuild.fmin f | .fmax f => Rebuild.fmax f | .flt f => Rebuild.flt f
  | .fcvt f => Rebuild.fcvt f | .beq f => Rebuild.beq f | .bne f => Rebuild.bne f | .blt f => Rebuild.blt f
  | .bge f => Rebuild.bge f | .jmp f => Rebuild.jmp f | .jal f => Rebuild.jal f | .jr f => Rebuild.jr f
  | .jrLink f => Rebuild.jrLink f | .loop f => Rebuild.loop f | .nop f => Rebuild.nop f | .tend f => Rebuild.tend f
  | .trap f => Rebuild.trap f | .brk f => Rebuild.brk f | .eret f => Rebuild.eret f | .uiret f => Rebuild.uiret f
  | .ld8 f => Rebuild.ld8 f | .ld16 f => Rebuild.ld16 f | .ld32 f => Rebuild.ld32 f | .ld64 f => Rebuild.ld64 f
  | .st8 f => Rebuild.st8 f | .st16 f => Rebuild.st16 f | .st32 f => Rebuild.st32 f | .st64 f => Rebuild.st64 f
  | .ldacq f => Rebuild.ldacq f | .strel f => Rebuild.strel f | .ldfe f => Rebuild.ldfe f | .stfe f => Rebuild.stfe f
  | .fechk f => Rebuild.fechk f | .fence f => Rebuild.fence f | .cachectl f => Rebuild.cachectl f
  | .amoadd f => Rebuild.amoadd f | .amobit f => Rebuild.amobit f | .amomin f => Rebuild.amomin f
  | .amomax f => Rebuild.amomax f | .amoswap f => Rebuild.amoswap f | .cas f => Rebuild.cas f | .faddaU f => Rebuild.faddaU f
  | .faddaO f => Rebuild.faddaO f | .fmaxa f => Rebuild.fmaxa f | .acq f => Rebuild.acq f | .acqSh f => Rebuild.acqSh f
  | .rel f => Rebuild.rel f | .bmove f => Rebuild.bmove f | .bfill f => Rebuild.bfill f | .tcfgWrite f => Rebuild.tcfgWrite f
  | .tcfgRead f => Rebuild.tcfgRead f | .tld f => Rebuild.tld f | .tst f => Rebuild.tst f | .tgather f => Rebuild.tgather f
  | .tscatter f => Rebuild.tscatter f | .tscaddU f => Rebuild.tscaddU f | .tscaddO f => Rebuild.tscaddO f
  | .tmovr f => Rebuild.tmovr f | .tmovs f => Rebuild.tmovs f | .tbcast f => Rebuild.tbcast f | .vadd f => Rebuild.vadd f
  | .vsub f => Rebuild.vsub f | .vmul f => Rebuild.vmul f | .vfma f => Rebuild.vfma f | .vmin f => Rebuild.vmin f
  | .vmax f => Rebuild.vmax f | .vlog f => Rebuild.vlog f | .vshr f => Rebuild.vshr f | .vcmp f => Rebuild.vcmp f
  | .vsel f => Rebuild.vsel f | .vcvt f => Rebuild.vcvt f | .vrecip f => Rebuild.vrecip f | .vrsqrt f => Rebuild.vrsqrt f
  | .vexp2 f => Rebuild.vexp2 f | .vred f => Rebuild.vred f | .vargmax f => Rebuild.vargmax f | .vquant f => Rebuild.vquant f
  | .vdeq f => Rebuild.vdeq f | .bqadd f => Rebuild.bqadd f | .mma f => Rebuild.mma f | .mmasp f => Rebuild.mmasp f
  | .tlook f => Rebuild.tlook f | .tset f => Rebuild.tset f | .tsetInvalidate f => Rebuild.tsetInvalidate f
  | .bfmt f => Rebuild.bfmt f | .bfmtRead f => Rebuild.bfmtRead f | .sgset f => Rebuild.sgset f | .probe f => Rebuild.probe f
  | .spawn f => Rebuild.spawn f | .take f => Rebuild.take f | .gjoin f => Rebuild.gjoin f | .gleave f => Rebuild.gleave f
  | .gbar f => Rebuild.gbar f | .tcadd f => Rebuild.tcadd f | .tcwait f => Rebuild.tcwait f
  | .tcwaitArm f => Rebuild.tcwaitArm f | .tcwaitDisarm f => Rebuild.tcwaitDisarm f | .tcset f => Rebuild.tcset f
  | .csend f => Rebuild.csend f | .crecv f => Rebuild.crecv f | .cpoll f => Rebuild.cpoll f | .launch f => Rebuild.launch f
  | .fork f => Rebuild.fork f | .choose f => Rebuild.choose f | .chooseMin f => Rebuild.chooseMin f
  | .wend f => Rebuild.wend f | .wjoin f => Rebuild.wjoin f | .kick f => Rebuild.kick f | .binit f => Rebuild.binit f
  | .bwait f => Rebuild.bwait f | .bwaitArm f => Rebuild.bwaitArm f | .bwaitDisarm f => Rebuild.bwaitDisarm f
  | .btest f => Rebuild.btest f | .seqwait f => Rebuild.seqwait f | .publish f => Rebuild.publish f
  | .sread f => Rebuild.sread f | .sreadStatus f => Rebuild.sreadStatus f | .swrite f => Rebuild.swrite f
  | .cwait f => Rebuild.cwait f | .rdptp f => Rebuild.rdptp f | .rdcyc f => Rebuild.rdcyc f | .mfs f => Rebuild.mfs f
  | .mts f => Rebuild.mts f | .sbindWrite f => Rebuild.sbindWrite f | .sbindRead f => Rebuild.sbindRead f
  | .slotwWrite f => Rebuild.slotwWrite f | .slotwRead f => Rebuild.slotwRead f | .ptinv f => Rebuild.ptinv f
  | .ptinvAll f => Rebuild.ptinvAll f | .mbsend f => Rebuild.mbsend f | .mbrecv f => Rebuild.mbrecv f
  | .mbrecvArm f => Rebuild.mbrecvArm f | .mbrecvDisarm f => Rebuild.mbrecvDisarm f | .spill f => Rebuild.spill f
  | .fill f => Rebuild.fill f
  | .acqGrant .. | .matrixEntryStart .. | .matrixKstepBoundary .. | .matrixEntryComplete .. | .channelWordArrive ..
  | .channelCreditReturn .. | .kickApply .. | .mailboxArrive .. | .trapEntry .. | .uiDelivery .. | .waitLimitExpiry ..
  | .threadEnd .. | .dispatcherFaultReply .. | .dispatchPlace .. | .rivalPlace .. | .preemptPark .. | .huskSpill ..
  | .huskAutoFill .. | .sproutLocalStart .. | .sproutSteal .. | .translationWalk .. | .faultReply .. | .postRetry ..
  | .loadValueQueueStuck .. | .chainEntryRead .. | .chainEntryReread .. | .chainEntryNotReady .. | .engineChunk ..
  | .chainFaultReply .. | .entryCompletion .. | .followOnMma .. | .mcastGroupClose .. | .chainStart .. | .chainStop ..
  | .chainResync .. | .boundaryTick | .scanRelease | .egressCheck .. | .jobDeadlineMiss .. | .cycleDomainStart
  | .cycleDomainStop | .ptpDisciplineLost | .ptpDisciplineRestored | .ptpStep .. | .ptpAdjust .. | .gateListControlStore ..
  | .gateListEntry .. | .frameReceived .. | .txFrameSend .. | .egressFrameBuild .. | .linkChange .. | .laneLoss ..
  | .replicationSend .. | .replicationRecordReceive .. | .heartbeatReceive .. | .heartbeatMissed .. | .slotShed ..
  | .shedClear .. | .thermalRankingUpdate .. | .thermalDisplacement .. | .coreGate .. | .coreWake .. | .thermalTrip
  | .thermmodeWrite .. | .viewSweep .. | .viewFold .. | .shadowFrameWriteout .. | .heldMbsendRetry .. | .patrolScrub ..
  | .dirtyLineUnowned .. | .traceConflictLog .. | .tracectlWrite .. | .slabHardFault .. | .machineCheck ..
  | .dramChannelFailure .. | .watchdogExpiry .. | .wdoglimWrite .. | .perfselWrite .. | .auditWrite .. | .errinjWrite ..
  | .errlogClear | .eventRingReadAdvance .. | .serviceThreadStart .. | .controlSpaceStore .. | .boot | .attestationRequest ..
  | .attestationDone | .scoreboardResultArrival .. | .replicationAck .. => Rebuild.none_of rfl

/-! The opcode map (03 R87), from the decoder's table to the encoder's. -/

/-- Where instruction i has an encoding, its opcode is n, its operand bits are x and its tail is t. -/
def Layout (n : Nat) (x : BitVec 22) (t : Tail) (i : Instr) : Prop :=
  ∀ e, enc i = some e → e.op.toNat = n ∧ e.body = x ∧ e.tail = t

section
variable {n lo : Nat} {x : BitVec 22} {t : Tail} {i j : Instr}

theorem Layout.of_enc {e : Enc} (h : enc i = some e) (ho : e.op.toNat = n) (hb : e.body = x) (ht : e.tail = t) :
    Layout n x t i := by
  intro e' h'
  cases h.symm.trans h'
  exact ⟨ho, hb, ht⟩

/-- A row that has an encoding in one form of its opcode only. -/
theorem Layout.of_enc_if {c : Bool} {e : Enc} (h : enc i = if c then some e else none) (ho : e.op.toNat = n) (hb : e.body = x)
    (ht : e.tail = t) : Layout n x t i := by
  cases c with
  | false => intro e' h'; cases h.symm.trans h'
  | true => exact .of_enc h ho hb ht

/-- Two rows of one opcode. -/
theorem Layout.ite {c : Prop} [Decidable c] (hi : Layout n x t i) (hj : Layout n x t j) : Layout n x t (if c then i else j) := by
  split
  · exact hi
  · exact hj

/-! Row by row. Case h_n is the n-th opcode of its row; those picked out have another format than the rest of the row, or stand for
several instructions. -/

theorem layout_buildRow0 (h : buildRow0 lo x t = some i) : Layout (16 * 0 + lo) x t i := by
  unfold buildRow0 at h
  split at h <;> cases h
  all_goals exact .of_enc rfl rfl (rBody_rForm x t) rfl

theorem layout_buildRow1 (h : buildRow1 lo x t = some i) : Layout (16 * 1 + lo) x t i := by
  unfold buildRow1 at h
  split at h <;> cases h
  case h_11 => exact .of_enc rfl rfl (lBody_lForm x t) rfl
  all_goals exact .of_enc rfl rfl (rBody_rForm x t) rfl

theorem layout_buildRow2 (h : buildRow2 lo x t = some i) : Layout (16 * 2 + lo) x t i := by
  unfold buildRow2 at h
  split at h <;> cases h
  all_goals exact .of_enc rfl rfl (rBody_rForm x t) rfl

theorem layout_buildRow3 (h : buildRow3 lo x t = some i) : Layout (16 * 3 + lo) x t i := by
  unfold buildRow3 at h
  split at h <;> cases h
  case h_1 | h_2 | h_3 | h_4 => exact .of_enc rfl rfl (bBody_bForm x t) rfl
  case h_7 => exact .ite (.of_enc_if rfl rfl (rBody_rForm x t) rfl) (.of_enc rfl rfl (rBody_rForm x t) rfl)
  case h_8 => exact .of_enc rfl rfl (mBody_mForm x t) rfl
  case h_11 => exact .ite (.of_enc_if rfl rfl (mBody_mForm x t) rfl) (.of_enc rfl rfl (mBody_mForm x t) rfl)
  all_goals exact .of_enc rfl rfl rfl rfl

theorem layout_buildRow4 (h : buildRow4 lo x t = some i) : Layout (16 * 4 + lo) x t i := by
  unfold buildRow4 at h
  split at h <;> cases h
  case h_15 => exact .of_enc rfl rfl (rBody_rForm x t) rfl
  all_goals exact .of_enc rfl rfl (mBody_mForm x t) rfl

theorem layout_buildRow5 (h : buildRow5 lo x t = some i) : Layout (16 * 5 + lo) x t i := by
  unfold buildRow5 at h
  split at h <;> cases h
  case h_7 | h_9 => exact .ite (.of_enc_if rfl rfl (rBody_rForm x t) rfl) (.of_enc rfl rfl (rBody_rForm x t) rfl)
  all_goals exact .of_enc rfl rfl (rBody_rForm x t) rfl

theorem layout_buildRow6 (h : buildRow6 lo x t = some i) : Layout (16 * 6 + lo) x t i := by
  unfold buildRow6 at h
  split at h <;> cases h
  case h_1 | h_6 => exact .ite (.of_enc_if rfl rfl (rBody_rForm x t) rfl) (.of_enc rfl rfl (rBody_rForm x t) rfl)
  all_goals exact .of_enc rfl rfl (rBody_rForm x t) rfl

theorem layout_buildRow7 (h : buildRow7 lo x t = some i) : Layout (16 * 7 + lo) x t i := by
  unfold buildRow7 at h
  split at h <;> cases h
  all_goals exact .of_enc rfl rfl (rBody_rForm x t) rfl

theorem layout_buildRow8 (h : buildRow8 lo x t = some i) : Layout (16 * 8 + lo) x t i := by
  unfold buildRow8 at h
  split at h <;> cases h
  all_goals exact .of_enc rfl rfl (rBody_rForm x t) rfl

theorem layout_buildRow9 (h : buildRow9 lo x t = some i) : Layout (16 * 9 + lo) x t i := by
  unfold buildRow9 at h
  split at h <;> cases h
  case h_2 | h_3 => exact .ite (.of_enc_if rfl rfl (rBody_rForm x t) rfl) (.of_enc rfl rfl (rBody_rForm x t) rfl)
  all_goals exact .of_enc rfl rfl (rBody_rForm x t) rfl

theorem layout_buildRowA (h : buildRowA lo x t = some i) : Layout (16 * 10 + lo) x t i := by
  unfold buildRowA at h
  split at h <;> cases h
  case h_7 =>
    exact .ite (.of_enc_if rfl rfl (rBody_rForm x t) rfl)
      (.ite (.of_enc_if rfl rfl (rBody_rForm x t) rfl) (.of_enc rfl rfl (rBody_rForm x t) rfl))
  all_goals exact .of_enc rfl rfl (rBody_rForm x t) rfl

theorem layout_buildRowB (h : buildRowB lo x t = some i) : Layout (16 * 11 + lo) x t i := by
  unfold buildRowB at h
  split at h <;> cases h
  case h_2 => exact .ite (.of_enc_if rfl rfl (rBody_rForm x t) rfl) (.of_enc rfl rfl (rBody_rForm x t) rfl)
  all_goals exact .of_enc rfl rfl (rBody_rForm x t) rfl

theorem layout_buildRowC (h : buildRowC lo x t = some i) : Layout (16 * 12 + lo) x t i := by
  unfold buildRowC at h
  split at h <;> cases h
  case h_3 =>
    exact .ite (.of_enc_if rfl rfl (rBody_rForm x t) rfl)
      (.ite (.of_enc_if rfl rfl (rBody_rForm x t) rfl) (.of_enc rfl rfl (rBody_rForm x t) rfl))
  all_goals exact .of_enc rfl rfl (rBody_rForm x t) rfl

theorem layout_buildRowD (h : buildRowD lo x t = some i) : Layout (16 * 13 + lo) x t i := by
  unfold buildRowD at h
  split at h <;> cases h
  case h_1 => exact .ite (.of_enc_if rfl rfl (mBody_mForm x t) rfl) (.of_enc rfl rfl (mBody_mForm x t) rfl)
  case h_2 => exact .of_enc rfl rfl (mBody_mForm x t) rfl
  all_goals exact .of_enc rfl rfl (rBody_rForm x t) rfl

theorem layout_buildRowE (h : buildRowE lo x t = some i) : Layout (16 * 14 + lo) x t i := by
  unfold buildRowE at h
  split at h <;> cases h
  case h_1 | h_2 => exact .of_enc rfl rfl (xBody_xForm x t) rfl
  case h_3 | h_4 | h_5 => exact .ite (.of_enc_if rfl rfl (rBody_rForm x t) rfl) (.of_enc rfl rfl (rBody_rForm x t) rfl)
  case h_7 =>
    exact .ite (.of_enc_if rfl rfl (rBody_rForm x t) rfl)
      (.ite (.of_enc_if rfl rfl (rBody_rForm x t) rfl) (.of_enc rfl rfl (rBody_rForm x t) rfl))
  all_goals exact .of_enc rfl rfl (rBody_rForm x t) rfl

/-- What the decoder's table makes of an opcode, operand bits and a tail, the encoder's table takes apart into them. -/
theorem layout_build {op : BitVec 8} (h : build op x t = some i) : Layout op.toNat x t i := by
  unfold build at h
  rw [← Nat.div_add_mod op.toNat 16]
  split at h
  · next hr => rw [hr]; exact layout_buildRow0 h
  · next hr => rw [hr]; exact layout_buildRow1 h
  · next hr => rw [hr]; exact layout_buildRow2 h
  · next hr => rw [hr]; exact layout_buildRow3 h
  · next hr => rw [hr]; exact layout_buildRow4 h
  · next hr => rw [hr]; exact layout_buildRow5 h
  · next hr => rw [hr]; exact layout_buildRow6 h
  · next hr => rw [hr]; exact layout_buildRow7 h
  · next hr => rw [hr]; exact layout_buildRow8 h
  · next hr => rw [hr]; exact layout_buildRow9 h
  · next hr => rw [hr]; exact layout_buildRowA h
  · next hr => rw [hr]; exact layout_buildRowB h
  · next hr => rw [hr]; exact layout_buildRowC h
  · next hr => rw [hr]; exact layout_buildRowD h
  · next hr => rw [hr]; exact layout_buildRowE h
  · cases h

end

/-! Fields of a word put together from its fields. -/

section
variable {w n : Nat} {x : BitVec w} {y : BitVec n}

/-- Above its low n bits, a word's fields have their places counted from there. -/
theorem extract_above {m : Nat} {v : BitVec m} (s : Nat) (h : x.extractLsb' s m = v) : (x ++ y).extractLsb' (n + s) m = v :=
  (extract_high x y s m).trans h

theorem bit_above {b : Bool} (s : Nat) (h : x.getLsbD s = b) : (x ++ y).getLsbD (n + s) = b := (bit_high x y s).trans h

theorem bit_below {b : Bool} {s : Nat} (hs : s < n) (h : y.getLsbD s = b) : (x ++ y).getLsbD s = b := by
  simpa [BitVec.getLsbD_append, hs] using h

end

/-! Word 0 (03 R59). -/

theorem opOf_word0 (e : Enc) : opOf (word0 e) = e.op := extract_above 0 (extract_low _ _)
theorem bodyOf_word0 (e : Enc) : bodyOf (word0 e) = e.body := extract_above 8 (extract_above 0 (extract_all _))
theorem len_word0 (e : Enc) : (word0 e).extractLsb' 0 2 = tailLen e.tail := extract_low _ _

/-- A word is made of its operand bits, its opcode and LEN. -/
theorem word0_eq {e : Enc} {w : IWord} (ho : e.op = opOf w) (hb : e.body = bodyOf w) (hl : tailLen e.tail = w.extractLsb' 0 2) :
    word0 e = w := by
  rw [word0, ho, hb, hl, bodyOf, opOf, append_extract w 2 10 rfl, append_extract w 0 2 rfl]
  exact extract_all w

/-! Literals, extended words and hint words (03 R60, R67, R69). -/

theorem litHi_append_litLo (v : Word) : litHi v ++ litLo v = v := (append_extract v 0 32 rfl).trans (extract_all v)
theorem litHi_append (h l : IWord) : litHi (h ++ l) = h := extract_above 0 (extract_all h)
theorem litLo_append (h l : IWord) : litLo (h ++ l) = l := extract_low h l

theorem extOf_extWord_hintWord (e : Ext) : extOf (extWord e) (hintWord e) = e := by
  have hmod : (extWord e).extractLsb' 0 8 = e.mod := extract_low _ _
  have hc : (extWord e).extractLsb' 8 7 = e.c := extract_above 0 (extract_low _ _)
  have himm : (extWord e).extractLsb' 16 16 = e.imm := extract_above 8 (extract_above 1 (extract_above 0 (extract_all _)))
  have ha : (hintWord e).extractLsb' 0 4 = e.ha := extract_low _ _
  have hb : (hintWord e).extractLsb' 4 4 = e.hb := extract_above 0 (extract_low _ _)
  have hr : (hintWord e).extractLsb' 8 4 = e.hr := extract_above 4 (extract_above 0 (extract_low _ _))
  have hpt : (hintWord e).extractLsb' 16 5 = e.pt :=
    extract_above 12 (extract_above 8 (extract_above 4 (extract_above 0 (extract_low _ _))))
  have hpe : (hintWord e).getLsbD 21 = e.pe :=
    bit_above 17 (bit_above 13 (bit_above 9 (bit_above 5 (bit_above 0 (bit_below (by decide) (by simp))))))
  rw [extOf, hmod, hc, himm, ha, hb, hr, hpt, hpe]

theorem extWord_bit15 (e : Ext) : (extWord e).getLsbD 15 = false := bit_above 7 (bit_above 0 (bit_below (by decide) rfl))

theorem hintWord_hm (e : Ext) : (hintWord e).extractLsb' 12 4 = 0 :=
  extract_above 8 (extract_above 4 (extract_above 0 (extract_low _ _)))

theorem hintWord_top (e : Ext) : (hintWord e).extractLsb' 22 10 = 0 :=
  extract_above 18 (extract_above 14 (extract_above 10 (extract_above 6 (extract_above 1 (extract_above 0 (extract_all _))))))

theorem extWord_extOf {x : IWord} (h : IWord) (hx : x.getLsbD 15 = false) : extWord (extOf x h) = x := by
  have hz : (0#1 : BitVec 1) = x.extractLsb' 15 1 := by rw [← ofBool_getLsbD, hx]; rfl
  rw [extWord, hz]
  simp only [extOf]
  rw [append_extract x 15 16 rfl, append_extract x 8 15 rfl, append_extract x 0 8 rfl]
  exact extract_all x

theorem hintWord_extOf (x : IWord) {h : IWord} (hm : h.extractLsb' 12 4 = 0) (hz : h.extractLsb' 22 10 = 0) :
    hintWord (extOf x h) = h := by
  rw [hintWord, show (0#10 : BitVec 10) = h.extractLsb' 22 10 from hz.symm, show (0#4 : BitVec 4) = h.extractLsb' 12 4 from hm.symm]
  simp only [extOf, ofBool_getLsbD]
  rw [append_extract h 21 22 rfl, append_extract h 16 21 rfl, append_extract h 12 16 rfl, append_extract h 8 12 rfl,
    append_extract h 4 8 rfl, append_extract h 0 4 rfl]
  exact extract_all h

/-! Tails (03 R59, R60). -/

theorem mbz_eq_nil {word lo v : Nat} : mbz word lo v = [] ↔ v = 0 := by
  unfold mbz
  split <;> simp_all

theorem badIf_eq_nil {c : Bool} {word b : Nat} : badIf c word b = [] ↔ c = false := by cases c <;> simp [badIf]

theorem rawZero_eq_nil {x h : IWord} : rawZero (some (x, h)) = [] ↔ x.getLsbD 15 = false := by
  simp [rawZero]

theorem rawHint_eq_nil {x h : IWord} :
    rawHint (some (x, h)) = [] ↔ h.extractLsb' 12 4 = 0 ∧ h.extractLsb' 22 10 = 0 := by
  simp only [rawHint, List.append_eq_nil_iff, mbz_eq_nil, ← BitVec.toNat_inj]
  rfl

/-- The extended and hint words of a tail as they stand. -/
def rawOf (t : Tail) : Option (IWord × IWord) := (tailExt t).map (fun e => (extWord e, hintWord e))

theorem rawZero_rawOf (t : Tail) : rawZero (rawOf t) = [] := by
  cases t with
  | none | lit => rfl
  | ext e | extLit e => exact rawZero_eq_nil.mpr (extWord_bit15 e)

theorem rawHint_rawOf (t : Tail) : rawHint (rawOf t) = [] := by
  cases t with
  | none | lit => rfl
  | ext e | extLit e => exact rawHint_eq_nil.mpr ⟨hintWord_hm e, hintWord_top e⟩

theorem tailOf_encTail (t : Tail) (ws : List IWord) : tailOf (tailLen t) (encTail t ++ ws) = some (t, rawOf t) := by
  cases t with
  | none => rfl
  | lit v => exact congrArg (fun v => some (Tail.lit v, none)) (litHi_append_litLo v)
  | ext e => exact congrArg (fun e' => some (Tail.ext e', some (extWord e, hintWord e))) (extOf_extWord_hintWord e)
  | extLit e v =>
    have h : tailOf 3 (encTail (.extLit e v) ++ ws) =
      some (.extLit (extOf (extWord e) (hintWord e)) (litHi v ++ litLo v), some (extWord e, hintWord e)) := rfl
    exact h.trans (by rw [extOf_extWord_hintWord, litHi_append_litLo]; rfl)

/-- The words that a tail was read from are its own, where their must-be-zero fields are zero. -/
theorem encTail_of_tailOf {len : BitVec 2} {ws : List IWord} {t : Tail} {raw : Option (IWord × IWord)}
    (h : tailOf len ws = some (t, raw)) (hz : rawZero raw = []) (hh : rawHint raw = []) :
    tailLen t = len ∧ ∃ rest, ws = encTail t ++ rest := by
  have hlen (n : Nat) (hn : len.toNat = n) : len = BitVec.ofNat 2 n := by rw [← hn, BitVec.ofNat_toNat, BitVec.setWidth_eq]
  unfold tailOf at h
  split at h
  · next hn => cases h; exact ⟨(hlen 0 hn).symm, _, rfl⟩
  · next l h' rest hn =>
    cases h
    exact ⟨(hlen 1 hn).symm, rest, by simp [encTail, litLo_append, litHi_append]⟩
  · next x m rest hn =>
    cases h
    obtain ⟨hm, ht⟩ := rawHint_eq_nil.mp hh
    exact ⟨(hlen 2 hn).symm, rest, by simp [encTail, extWord_extOf m (rawZero_eq_nil.mp hz), hintWord_extOf x hm ht]⟩
  · next x m l h' rest hn =>
    cases h
    obtain ⟨hm, ht⟩ := rawHint_eq_nil.mp hh
    exact ⟨(hlen 3 hn).symm, rest, by
      simp [encTail, litLo_append, litHi_append, extWord_extOf m (rawZero_eq_nil.mp hz), hintWord_extOf x hm ht]⟩
  · cases h

/-! The refused places (03 R73, steps 5 to 7). -/

theorem leastFault_eq_none {l : List (Nat × Nat)} : leastFault l = none ↔ l = [] := by
  cases l with
  | nil => simp [leastFault]
  | cons p ps =>
    simp only [leastFault, reduceCtorEq, iff_false]
    split
    · nofun
    · split <;> nofun

theorem wellFormed_iff {i : Instr} : WellFormed i = true ↔ ∃ e, enc i = some e ∧ formFaults e = [] ∧ zeroFaults e = [] := by
  unfold WellFormed encodable
  cases enc i <;> simp

theorem mods_of_formFaults {e : Enc} (h : formFaults e = []) : e.mods = true := by
  obtain ⟨⟨_, hm⟩, _⟩ : (_ ∧ badIf (!e.mods) 1 (modBit e.op.toNat (tailMod e.tail)) = []) ∧ _ := by
    simpa only [formFaults, List.append_eq_nil_iff] using h
  simpa using badIf_eq_nil.mp hm

/-- A form whose entry has no Q has Q = 0. -/
theorem q_of_zeroFaults {e : Enc} (h : zeroFaults e = []) : e.q = true ∨ e.body.getLsbD 21 = false := by
  simp only [zeroFaults, List.append_eq_nil_iff] at h
  obtain ⟨⟨⟨⟨-, hq⟩, -⟩, -⟩, -⟩ := h
  cases hb : e.q with
  | true => exact .inl rfl
  | false =>
    have h0 : bodyBits e 31 1 = 0 := mbz_eq_nil.mp (by simpa only [hb, Bool.false_eq_true, if_false] using hq)
    exact .inr (by simpa [BitVec.getLsbD, Nat.testBit_eq_decide_div_mod_eq, bodyBits] using h0)

/-! The decoder. -/

/-- What it means that decoding answers an instruction (03 R73, steps 3 to 7). -/
theorem decode_eq_ok_iff {host : Bool} {w : IWord} {ws : List IWord} {i : Instr} :
    decode host (w :: ws) = .ok i ↔
      (host = true → hostLacks (opOf w) = false) ∧
      ∃ t raw e, tailOf (w.extractLsb' 0 2) ws = some (t, raw) ∧ build (opOf w) (bodyOf w) t = some i ∧ enc i = some e ∧
        formFaults e = [] ∧ zeroFaults e = [] ∧ rawZero raw = [] ∧ rawHint raw = [] := by
  have hhost : (host = true → hostLacks (opOf w) = false) ↔ ¬ (host && hostLacks (opOf w)) = true := by simp
  rw [hhost]
  constructor
  · intro h
    simp only [decode] at h
    split at h
    · cases h
    next hl =>
    split at h
    · split at h <;> cases h
    next t raw ht =>
    split at h
    · cases h
    next j hb =>
    split at h
    · cases h
    next e he =>
    split at h
    · cases h
    next hf =>
    split at h
    · cases h
    next hz =>
    split at h
    · cases h
    next hh =>
    cases h
    obtain ⟨hz, hr⟩ := List.append_eq_nil_iff.mp (leastFault_eq_none.mp hz)
    exact ⟨hl, t, raw, e, ht, hb, he, leastFault_eq_none.mp hf, hz, hr, leastFault_eq_none.mp hh⟩
  · rintro ⟨hl, t, raw, e, ht, hb, he, hf, hz, hr, hh⟩
    simp only [decode, if_neg hl, ht, hb, he, hf, hz, hr, hh, List.append_nil, leastFault]

/-- The words of a well-formed instruction decode to it, whatever follows them. -/
theorem decode_encode {host : Bool} {i : Instr} (ws : List IWord) (h : WellFormed i = true)
    (hp : host = true → ∀ e, enc i = some e → hostLacks e.op = false) : decode host (encode i ++ ws) = .ok i := by
  obtain ⟨e, he, hf, hz⟩ := wellFormed_iff.mp h
  have hw : encode i ++ ws = word0 e :: (encTail e.tail ++ ws) := by simp only [encode, he, List.cons_append]
  rw [hw, decode_eq_ok_iff, opOf_word0, bodyOf_word0, len_word0]
  exact ⟨fun hh => hp hh e he, e.tail, rawOf e.tail, e, tailOf_encTail e.tail ws,
    rebuild i e he (q_of_zeroFaults hz) (mods_of_formFaults hf), he, hf, hz, rawZero_rawOf e.tail, rawHint_rawOf e.tail⟩

/-- What decodes is well-formed, is in the profile, and begins with its own words. -/
theorem encode_of_decode {host : Bool} {i : Instr} {ws : List IWord} (h : decode host ws = .ok i) :
    WellFormed i = true ∧ (∀ e, enc i = some e → host = true → hostLacks e.op = false) ∧ ∃ rest, ws = encode i ++ rest := by
  cases ws with
  | nil => cases h
  | cons w ws =>
    obtain ⟨hl, t, raw, e, ht, hb, he, hf, hz, hr, hh⟩ := decode_eq_ok_iff.mp h
    obtain ⟨hop, hbody, rfl⟩ := layout_build hb e he
    have hop : e.op = opOf w := BitVec.eq_of_toNat_eq hop
    obtain ⟨hlen, rest, rfl⟩ := encTail_of_tailOf ht hr hh
    refine ⟨wellFormed_iff.mpr ⟨e, he, hf, hz⟩, fun e' he' hhost => ?_, rest, ?_⟩
    · cases he.symm.trans he'
      exact hop ▸ hl hhost
    · simp only [encode, he, word0_eq hop hbody hlen, List.cons_append]

/-- Settles O55: the words of an instruction through the tables of the encoder and the decoder, in each direction. -/
theorem decodeEncode : Obligations.DecodeEncode :=
  fun _ _ ws => ⟨fun h hp => decode_encode ws h hp, encode_of_decode⟩

/-- Settles O56: each word by evaluation of the decoder. -/
theorem decodeWords : Obligations.DecodeWords := by
  unfold Obligations.DecodeWords
  decide

end Sys2Proof.Laws
end

section
/-! What stops an instruction before its own effect (03 R73 to R75; 05 R113, R119; 02 R35), and single step after it (07 R165). -/

namespace Sys2Proof.Machine

/-- Every instruction that has an encoding runs its checks, its own effect and its end. -/
theorem exec_eq_run {i : Instr} {e : Enc} (he : enc i = some e) (s : State) : ∃ f, exec i s = run i s f := by
  cases i
  case
    acqGrant | matrixEntryStart | matrixKstepBoundary | matrixEntryComplete | channelWordArrive | channelCreditReturn
    | kickApply | mailboxArrive | trapEntry | uiDelivery | waitLimitExpiry | threadEnd | dispatcherFaultReply | dispatchPlace
    | rivalPlace | preemptPark | huskSpill | huskAutoFill | sproutLocalStart | sproutSteal | translationWalk | faultReply
    | postRetry | loadValueQueueStuck | chainEntryRead | chainEntryReread | chainEntryNotReady | engineChunk | chainFaultReply
    | entryCompletion | followOnMma | mcastGroupClose | chainStart | chainStop | chainResync | boundaryTick | scanRelease
    | egressCheck | jobDeadlineMiss | cycleDomainStart | cycleDomainStop | ptpDisciplineLost | ptpDisciplineRestored | ptpStep
    | ptpAdjust | gateListControlStore | gateListEntry | frameReceived | txFrameSend | egressFrameBuild | linkChange | laneLoss
    | replicationSend | replicationRecordReceive | heartbeatReceive | heartbeatMissed | slotShed | shedClear
    | thermalRankingUpdate | thermalDisplacement | coreGate | coreWake | thermalTrip | thermmodeWrite | viewSweep | viewFold
    | shadowFrameWriteout | heldMbsendRetry | patrolScrub | dirtyLineUnowned | traceConflictLog | tracectlWrite | slabHardFault
    | machineCheck | dramChannelFailure | watchdogExpiry | wdoglimWrite | perfselWrite | auditWrite | errinjWrite | errlogClear
    | eventRingReadAdvance | serviceThreadStart | controlSpaceStore | boot | attestationRequest | attestationDone
    | scoreboardResultArrival | replicationAck => cases he
  all_goals exact ⟨_, rfl⟩

/-! The checks, in order. -/

theorem privilegedOp_iff {op : BitVec 8} :
    privilegedOp op = true ↔ op = 0xA7 ∨ op = 0xE2 ∨ op = 0xE3 ∨ op = 0xE7 ∨ op = 0xE8 := by
  simp [privilegedOp, or_assoc]

theorem foldl_max_bounds {α : Type} (c : α → Bool) (due : α → Nat) (l : List α) (m : Nat) :
    m ≤ l.foldl (fun m p => if c p then max m (due p) else m) m ∧
      ∀ p ∈ l, c p = true → due p ≤ l.foldl (fun m p => if c p then max m (due p) else m) m := by
  induction l generalizing m with
  | nil => simp
  | cons q l ih =>
    obtain ⟨h0, h1⟩ := ih (if c q then max m (due q) else m)
    refine ⟨le_trans ?_ h0, fun p hp hc => ?_⟩
    · split <;> omega
    · rcases List.mem_cons.mp hp with rfl | hp
      · refine le_trans ?_ h0
        rw [if_pos hc]
        omega
      · exact h1 p hp hc

/-- A result due in a register that an instruction names is waited for. -/
theorem le_pendingUntil {t : Thread} {rs : List Nat} {p : Pending} {r : Nat × Word} {n : Nat} (hp : p ∈ t.sb) (hr : r ∈ p.regs)
    (hn : n ∈ rs) (h0 : n ≠ 0) (hid : regId t n = r.1) : p.due ≤ pendingUntil t rs := by
  refine (foldl_max_bounds _ _ t.sb 0).2 p hp ?_
  exact List.any_eq_true.mpr ⟨r, hr, List.any_eq_true.mpr ⟨n, hn, by simp [h0, hid]⟩⟩

/-- Register x of an instruction lies outside the thread's window (05 R113). -/
def regOutside (t : Thread) (x : Nat × Nat × Nat) : Bool := t.gsize ≤ x.2.2 && !isShadow t x.2.2
/-- Tile x of an instruction lies outside the thread's window (05 R119). -/
def tileOutside (t : Thread) (x : Nat × Nat × Nat × Bool) : Bool := t.tcount ≤ x.2.2.1

section
variable {i : Instr} {e : Enc} {s : State} {k : Nat} {t : Thread}

theorem gate_not_in_profile (he : enc i = some e) (h1 : (t.host && hostLacks e.op) = true) :
    ∃ info, gate i s k t = some (.trap s 0x01 info) := by
  simp [gate, he, h1]

variable (he : enc i = some e) (h1 : (t.host && hostLacks e.op) = false)
include he h1

theorem gate_privileged (h2 : (privilegedOp e.op && !supOf t) = true) : ∃ info, gate i s k t = some (.trap s 0x06 info) := by
  simp [gate, he, h1, h2]

variable (h2 : (privilegedOp e.op && !supOf t) = false)
include h2

theorem gate_register_outside (h3 : (regFields e).any (regOutside t) = true) : ∃ info, gate i s k t = some (.trap s 0x10 info) := by
  obtain ⟨x, hx⟩ := Option.isSome_iff_exists.mp (List.find?_isSome.mpr (List.any_eq_true.mp h3))
  unfold regOutside at hx
  simp [gate, he, h1, h2, hx]

variable (h3 : (regFields e).any (regOutside t) = false)
include h3

theorem gate_tile_outside (h4 : (tileFields e).any (tileOutside t) = true) :
    ∃ info, gate i s k t = some (.trap s 0x11 info) := by
  obtain ⟨x, hx⟩ := Option.isSome_iff_exists.mp (List.find?_isSome.mpr (List.any_eq_true.mp h4))
  have hn := List.find?_eq_none.mpr (List.any_eq_false.mp h3)
  unfold regOutside at hn
  unfold tileOutside at hx
  simp [gate, he, h1, h2, hn, hx]

theorem gate_result_due (h4 : (tileFields e).any (tileOutside t) = false) (ha : audited s k t = false)
    (hp : s.clk < pendingUntil t ((regFields e).map (fun x => x.2.2) ++ impliedRegs e)) :
    ∃ w : WaitReq, w.kind = .result ∧ gate i s k t = some (.wait s w) := by
  have hn := List.find?_eq_none.mpr (List.any_eq_false.mp h3)
  have hm := List.find?_eq_none.mpr (List.any_eq_false.mp h4)
  unfold regOutside at hn
  unfold tileOutside at hm
  refine ⟨{ kind := .result, key := pendingUntil t ((regFields e).map (fun x => x.2.2) ++ impliedRegs e) }, rfl, ?_⟩
  simp only [gate, he, h1, h2, hn, hm, ha, if_pos hp, Bool.false_eq_true, if_false]

end

/-! What stops an instruction is its outcome. -/

section
variable {i : Instr} {e : Enc} {s : State} {k : Nat} {t : Thread}
variable (he : enc i = some e) (hc : s.cur = some k) (ht : thr s k = some t)
include he hc ht

theorem traps_of_gate {c : Nat} (h : ∃ info, gate i s k t = some (.trap s c info)) : ∃ info, Traps i s s k c info t.pc := by
  obtain ⟨info, h⟩ := h
  obtain ⟨f, hf⟩ := exec_eq_run he s
  exact ⟨info, hf.trans (run_of_gate f hc ht h)⟩

theorem waits_of_gate (h : ∃ w : WaitReq, w.kind = .result ∧ gate i s k t = some (.wait s w)) :
    ∃ w : WaitReq, w.kind = .result ∧ exec i s = .next (tick (enterWait s k (wordsOf i) w)) := by
  obtain ⟨w, hw, h⟩ := h
  obtain ⟨f, hf⟩ := exec_eq_run he s
  exact ⟨w, hw, hf.trans (run_of_gate f hc ht h)⟩

end

/-! Single step (07 R165). -/

theorem wd_bits_pc (w : Word) : (wd (bits w 0 52)).toNat = w.toNat % 2 ^ 52 := by
  rw [wd_toNat _ (lt_trans (bits_lt _ 0 52) (by decide)), bits, pow_zero, Nat.div_one]

/-- A trap that enters its handler: what the thread's registers of the trap, its mode and its PC then hold (07 R162). -/
theorem takeTrap_handler {s : State} {k cause : Nat} {info tpc : Word} {t : Thread} (h : thr s k = some t)
    (hr : t.run = .ready) (hth : thOf t = false) (hv : getSpr t rTVEC ≠ 0) :
    ∃ u, thr (takeTrap s k cause info tpc) k = some u ∧ getSpr u rTCAUSE = wd cause ∧ getSpr u rTPC = tpc ∧
      getSpr u rTINFO = info ∧ thOf u = true ∧ u.pc.toNat = (getSpr t rTVEC).toNat % 2 ^ 52 := by
  rw [takeTrap_enters h hr hth hv]
  refine ⟨_, thr_setThr_self s k _, ?_, ?_, ?_, ?_, wd_bits_pc _⟩
  · show getSpr (setMode _ 1 1 1) rTCAUSE = _
    rw [getSpr_setMode _ _ _ _ _ (by decide)]
    simp [getSpr_setSpr, show rTINFO ≠ rTCAUSE by decide, show rTPC ≠ rTCAUSE by decide]
  · show getSpr (setMode _ 1 1 1) rTPC = _
    rw [getSpr_setMode _ _ _ _ _ (by decide)]
    simp [getSpr_setSpr, show rTINFO ≠ rTPC by decide]
  · show getSpr (setMode _ 1 1 1) rTINFO = _
    rw [getSpr_setMode _ _ _ _ _ (by decide), getSpr_setSpr_self]
  · show bit (getSpr (setMode _ 1 1 1) rMODE) 1 = true
    rw [mode_setMode, bit_setBits_one _ (by decide)]

/-- An instruction that completes outside a loop, with a single step due, traps behind itself. -/
theorem retire_stepped {s : State} {k n : Nat} {t : Thread} (h : thr s k = some t) (hd : ldepthOf t = 0) :
    retire s k n true none = takeTrap (retire s k n false none) k 0x0A t.pc (pcAdd t.pc (4 * n)) := by
  simp [retire, retireAt, h, loopEnd, hd]

/-- That trap in its handler. -/
theorem retire_stepped_handler {s : State} {k n : Nat} {t : Thread} (h : thr s k = some t) (hd : ldepthOf t = 0)
    (hth : thOf t = false) (hv : getSpr t rTVEC ≠ 0) :
    ∃ u, thr (retire s k n true none) k = some u ∧ getSpr u rTCAUSE = 0x0A ∧ getSpr u rTPC = pcAdd t.pc (4 * n) ∧
      getSpr u rTINFO = t.pc ∧ thOf u = true ∧ u.pc.toNat = (getSpr t rTVEC).toNat % 2 ^ 52 := by
  rw [retire_stepped h hd, retire_straight h hd]
  exact takeTrap_handler (t := { t with pc := pcAdd t.pc (4 * n), run := .ready, again := none }) (thr_setThr_self s k _) rfl hth hv

theorem exec_nop {z : ZForm} {s : State} {k : Nat} {t : Thread} (hi : issues (.nop z) s k t = true) :
    exec (.nop z) s = .next (tick (retire s k (wordsOf (.nop z)) (stepDue t) none)) :=
  does_of_next rfl hi rfl

/-- Settles O57: the checks of an instruction in their order, each with the outcome it gives; and nop, with and without a single
step due. -/
theorem issueChecks : Obligations.IssueChecks := by
  refine ⟨?_, fun z s k t hi hs hd => ⟨fun hth hu hv => ?_, fun hh => ?_⟩⟩
  · intro i e s k t he hc ht
    have hl : (t.host = true ∧ hostLacks e.op = true) ↔ (t.host && hostLacks e.op) = true := by simp
    have hb : ((e.op = 0xA7 ∨ e.op = 0xE2 ∨ e.op = 0xE3 ∨ e.op = 0xE7 ∨ e.op = 0xE8) ∧ supOf t = false) ↔
        (privilegedOp e.op && !supOf t) = true := by simp [privilegedOp_iff]
    have hr : (∃ x ∈ regFields e, t.gsize ≤ x.2.2 ∧ isShadow t x.2.2 = false) ↔ (regFields e).any (regOutside t) = true := by
      simp [regOutside]
    have hx : (∃ x ∈ tileFields e, t.tcount ≤ x.2.2.1) ↔ (tileFields e).any (tileOutside t) = true := by simp [tileOutside]
    dsimp only
    rw [hl, hb, hr, hx]
    simp only [Bool.not_eq_true]
    exact ⟨fun h1 => traps_of_gate he hc ht (gate_not_in_profile he h1),
      fun h1 h2 => traps_of_gate he hc ht (gate_privileged he h1 h2),
      fun h1 h2 h3 => traps_of_gate he hc ht (gate_register_outside he h1 h2 h3),
      fun h1 h2 h3 h4 => traps_of_gate he hc ht (gate_tile_outside he h1 h2 h3 h4),
      fun p r h1 h2 h3 h4 ha hp hdue hr ⟨x, hx, h0, hid⟩ => waits_of_gate he hc ht (gate_result_due he h1 h2 h3 h4 ha
        (hdue.trans_le (le_pendingUntil hp hr (List.mem_append_left _ (List.mem_map_of_mem hx)) h0 hid)))⟩
  · have hdue : stepDue t = true := by simp [stepDue, hs, hth, hu]
    obtain ⟨u, h⟩ := retire_stepped_handler (issues_thr hi) hd hth hv
    exact ⟨_, u, exec_nop hi, hdue ▸ h⟩
  · have hdue : stepDue t = false := by rcases hh with hh | hh <;> simp [stepDue, hh]
    have he := exec_nop hi
    rw [hdue, retire_straight (issues_thr hi) hd] at he
    exact ⟨_, _, he, thr_setThr_self s k _, rfl, fun _ => rfl⟩

end Sys2Proof.Machine
end

section
/-! What a step does where no event is due: a slot, or the end of a clk (03 R73; 02 R28 to R31; 07 R152). -/

namespace Sys2Proof.Machine

/-! A slot that is used. -/

theorem step_of_slot {s : State} {p k : Nat} {t : Thread} (ht : s.tripped = false) (hd : dueEvent s = none)
    (hn : nextSlot (atSlots s) = some (p, k)) (hk : thr (atSlots s) k = some t) :
    step s = useSlot { atSlots s with bpos := p + 1 } k t := by
  simp [step, stepOnce, ht, hd, slotStep, hn, hk]

section
variable {s : State} {k : Nat} {t : Thread}

theorem view_lives (hv : viewOf t = 0 ∨ viewFailed s (partOf t) (viewOf t) = false) :
    ¬ (viewOf t ≠ 0 ∧ viewFailed s (partOf t) (viewOf t) = true) := by
  rintro ⟨h0, h1⟩
  rcases hv with h | h
  · exact h0 h
  · exact absurd (h.symm.trans h1) (by decide)

theorem no_deferred_trap (h : thOf t = true ∨ t.deferred = []) : (if thOf t then none else t.deferred.head?) = none := by
  rcases h with h | h <;> simp [h]

variable (hv : viewOf t = 0 ∨ viewFailed s (partOf t) (viewOf t) = false) (ha : t.auditSkip = false)
include hv ha

theorem useSlot_trapDue {c : Nat} {info : Word} (hd : t.trapDue = some (c, info)) :
    useSlot s k t = exec (.trapEntry k c info t.pc) (noteSlot s k { t with trapDue := none }) := by
  simp only [useSlot, if_neg (view_lives hv), ha, hd, Bool.false_eq_true, if_false]
  rfl

variable (hd : t.trapDue = none) (hq : thOf t = true ∨ t.deferred = [])
include hd hq

theorem useSlot_uiDue (hu : uiDue s t = true) : useSlot s k t = exec (.uiDelivery k) (noteSlot s k t) := by
  simp only [useSlot, if_neg (view_lives hv), ha, hd, no_deferred_trap hq, hu, Bool.false_eq_true, if_false, if_true]

theorem useSlot_words {s1 : State} {ws : List IWord} (hu : uiDue s t = false) (hf : fetch s k t = .words s1 ws) :
    useSlot s k t = issueWords s1 k t ws := by
  simp only [useSlot, if_neg (view_lives hv), ha, hd, no_deferred_trap hq, hu, hf, Bool.false_eq_true, if_false]

end

/-- Words that decode, of a thread whose registers hold no error: their instruction issues. -/
theorem issueWords_ok {s : State} {t : Thread} {ws : List IWord} {i : Instr} (k : Nat) (he : s.badEcc = [])
    (hd : decode t.host ws = .ok i) : issueWords s k t ws = issueInstr s k t i := by
  simp [issueWords, hd, regError, he]

theorem afterIssue_errorFree {s : State} (s0 : State) (k : Nat) (h : ErrorFree s) : afterIssue s0 k s = s := by
  unfold afterIssue
  split
  · exact regWritten_errorFree h k _
  · rfl

/-! The end of a clk. -/

theorem step_of_settledClk {s : State} (ht : s.tripped = false) (hd : dueEvent s = none) (hn : nextSlot (atSlots s) = none)
    (hb : s.bpos = placesEnd) (hs : settled s = true) : step s = .next (nextClk (lowerAll (writeErrors (writeEvents s)))) := by
  have ha : atSlots s = s := if_neg (by rw [hb]; decide)
  rw [ha] at hn
  simp [step, stepOnce, ht, hd, ha, slotStep, hn, endOfClk, hb, hs]

theorem writeEvents_none {s : State} (h : s.events = []) : writeEvents s = s := by
  rw [writeEvents, h, List.foldl_nil, ← h]

theorem writeErrors_none {s : State} (h : s.errFound = []) : writeErrors s = s := by
  rw [writeErrors, h, List.foldl_nil, ← h]

theorem lowerAll_unstamped {s : State} (h : ∀ q ∈ s.threads, q.2.stamps = []) : lowerAll s = s :=
  (List.foldl_ext _ (fun a _ => a) s fun a q hq => if_pos (by rw [h q hq]; rfl)).trans (List.foldl_fixed' (fun _ => rfl) s.threads)

theorem nextClk_quiet {s : State} (hp : s.pubOps = []) (hc : (s.clk + 1) % 65536 ≠ 0) :
    nextClk s = { s with clk := s.clk + 1, bpos := 0 } := by
  simp [nextClk, hp, hc]

/-- Settles O58: a due event, a slot and the end of a clk, each by its own theorem above. -/
theorem stepRunsDecoded : Obligations.StepRunsDecoded := by
  intro s ht
  refine ⟨fun due i rest ha hc hp => step_of_dueEvent ht (dueEvent_of_phase_zero ha hc hp),
    fun p k t hd hn hk => ?_, fun s0 k s2 he hi => afterIssue_errorFree s0 k ⟨he, hi⟩, fun hd hn hb hs => ?_⟩
  · intro s1 hv ha
    rw [step_of_slot ht hd hn hk]
    refine ⟨fun c info hc => useSlot_trapDue hv ha hc, fun hc hq => ⟨useSlot_uiDue hv ha hc hq, fun s2 ws i hu hf hi he => ?_⟩⟩
    rw [useSlot_words hv ha hc hq hu hf, issueWords_ok k he hi]
    rfl
  · have hstep := step_of_settledClk ht hd hn hb hs
    refine ⟨hstep, fun he hf hst hp hc => ?_⟩
    rw [hstep, writeEvents_none he, writeErrors_none hf, lowerAll_unstamped hst, nextClk_quiet hp hc]

end Sys2Proof.Machine
end

section
/-! The address an access is granted, and the trap of one that is refused (05 R115, R116; 12 R271). -/

namespace Sys2Proof.Machine

/-! The address checks, in order. -/

theorem ptrSeg_eq (p : Word) : ptrSeg p = p.toNat / 2 ^ 61 :=
  Nat.mod_eq_of_lt (by have := p.isLt; omega)

/-- A segment lacks no right of an access; the right to execute counts in sg0 alone (05 R115). -/
theorem rightsCause_eq_none_iff {g : BitVec 128} {i : Nat} {need : Rights} :
    rightsCause g i need = none ↔
      (need.r = true → segR g = true) ∧ (need.w = true → segW g = true) ∧ (need.x = true → segX g = true ∧ i = 0) ∧
      (need.a = true → segA g = true) ∧ (need.f = true → segF g = true) ∧ (need.s = true → segS g = true) := by
  simp [rightsCause, and_assoc]

/-- The checks that an access passes, in the order of R116, and the address it is then granted. -/
theorem eaGen_eq_ok_iff {align : Bool} {t : Thread} {p : Word} {n a : Nat} {need : Rights} :
    eaGen align t p n need = .ok a ↔
      (bits p 52 9 = 0 ∧ segValid (segOf t (ptrSeg p)) = true) ∧ rightsCause (segOf t (ptrSeg p)) (ptrSeg p) need = none ∧
      ptrOff p + n - 1 ≤ segLimit (segOf t (ptrSeg p)) ∧
      (align = true → n = 2 ∨ n = 4 ∨ n = 8 → ptrOff p % n = 0) ∧
      a = if segT (segOf t (ptrSeg p)) = true then twinAddress (segBase (segOf t (ptrSeg p))) (ptrOff p)
        else segBase (segOf t (ptrSeg p)) + ptrOff p := by
  simp only [eaGen]
  split
  · next hinvalid =>
    refine iff_of_false (by simp) fun ⟨⟨hzero, hvalid⟩, _⟩ => ?_
    simp [hzero, hvalid] at hinvalid
  · next hvalid =>
    have hvalid : bits p 52 9 = 0 ∧ segValid (segOf t (ptrSeg p)) = true := by simpa using hvalid
    split
    · next hlacks => simp [hlacks]
    · next hrights =>
      split
      · next hlimit => simp [Nat.not_le.mpr hlimit]
      · next hlimit =>
        split
        · next hodd =>
          obtain ⟨hcheck, hsize, hodd⟩ := hodd
          exact iff_of_false (by simp) fun ⟨_, _, _, halign, _⟩ => hodd (halign hcheck hsize)
        · next heven =>
          have halign : align = true → n = 2 ∨ n = 4 ∨ n = 8 → ptrOff p % n = 0 :=
            fun h hsize => not_not.mp fun hodd => heven ⟨h, hsize, hodd⟩
          split <;> exact ⟨fun h => ⟨hvalid, hrights, Nat.not_lt.mp hlimit, halign, (Except.ok.inj h).symm⟩,
            fun ⟨_, _, _, _, h⟩ => congrArg Except.ok h.symm⟩

/-! A refused load or store. -/

section
variable {i : Instr} {f : MForm} {s : State} {k n c : Nat} {t : Thread}

theorem loadAct_refused (h : ea t (ptrM s t f n) n needR = .error c) : loadAct s k t f n = .trap s c (ptrM s t f n) := by
  simp only [loadAct, loadPtr, h, badAct]

theorem storeAct_refused (h : ea t (ptrM s t f n) n needW = .error c) : storeAct s k t f n = .trap s c (ptrM s t f n) := by
  simp only [storeAct, storePtr, toBytes_length, h, badAct]

theorem traps_of_loadRefused (he : exec i s = run i s fun s k t => loadAct s k t f n) (hi : issues i s k t = true)
    (h : ea t (ptrM s t f n) n needR = .error c) : Traps i s s k c (ptrM s t f n) t.pc :=
  traps_of_trap he hi (loadAct_refused h)

theorem traps_of_storeRefused (he : exec i s = run i s fun s k t => storeAct s k t f n) (hi : issues i s k t = true)
    (h : ea t (ptrM s t f n) n needW = .error c) : Traps i s s k c (ptrM s t f n) t.pc :=
  traps_of_trap he hi (storeAct_refused h)

end

/-- Settles O15: the granted address by the checks it passed, and each plain load and store by its refusal. -/
theorem addressChecks : Obligations.AddressChecks := by
  refine ⟨fun t p n a need hn h => ?_, fun f s k t c => ?_⟩
  · obtain ⟨⟨hzero, hvalid⟩, hrights, hlimit, halign, ha⟩ := eaGen_eq_ok_iff.mp h
    rw [ptrSeg_eq] at hvalid hrights hlimit ha
    obtain ⟨hr, hw, hx, hra, hf, hs⟩ := rightsCause_eq_none_iff.mp hrights
    have hoff : ptrOff p = p.toNat % 2 ^ 52 := by simp [ptrOff, bits]
    rw [hoff] at hlimit halign ha
    exact ⟨hzero, hvalid, hr, hw, hra, hf, hs, hx, by omega, fun hsize => halign rfl (by simpa using hsize),
      fun hplain => by rw [ha, hplain]; rfl⟩
  · exact ⟨traps_of_loadRefused rfl, traps_of_loadRefused rfl, traps_of_loadRefused rfl, traps_of_loadRefused rfl,
      traps_of_storeRefused rfl, traps_of_storeRefused rfl, traps_of_storeRefused rfl, traps_of_storeRefused rfl⟩

end Sys2Proof.Machine
end

section
/-! The values of the integer opcodes as operations on bit vectors (03 R85; 06 R136 to R144). -/

namespace Sys2Proof.Machine

/-! Fields and sign extension. -/

theorem bits_eq_extractLsb' (w : Word) (lo n : Nat) : bits w lo n = (w.extractLsb' lo n).toNat := by
  rw [BitVec.extractLsb'_toNat, Nat.shiftRight_eq_div_pow, bits]

theorem testBit_bits (w : Word) (lo n i : Nat) : (bits w lo n).testBit i = (decide (i < n) && w.getLsbD (lo + i)) := by
  rw [bits_eq_extractLsb', BitVec.testBit_toNat, BitVec.getLsbD_extractLsb']

/-- Sign extension of an n-bit number is that of the n-bit word. -/
theorem sext_eq_signExtend {n : Nat} (x : BitVec n) (hn : 0 < n) : sext x.toNat n = x.signExtend 64 := by
  have hhalf : 2 ^ n = 2 * 2 ^ (n - 1) := by rw [← Nat.pow_succ', Nat.succ_eq_add_one, Nat.sub_add_cancel hn]
  have hint : sextInt x.toNat n = x.toInt := by
    rw [sextInt, BitVec.toInt_eq_toNat_cond, Nat.mod_eq_of_lt x.isLt]
    by_cases hneg : 2 ^ (n - 1) ≤ x.toNat
    · rw [if_pos hneg, if_neg (by omega), Nat.cast_pow, Nat.cast_ofNat]
    · rw [if_neg hneg, if_pos (by omega)]
  rw [sext, hint, BitVec.signExtend]

theorem immOf_eq_signExtend (t : Tail) : immOf t = (tailImm t).signExtend 64 := sext_eq_signExtend (tailImm t) (by decide)

/-! Shifts (06 R136, R137). -/

theorem shlVal_eq (a n : Word) : shlVal a n = a <<< n.toNat := by
  apply BitVec.eq_of_toNat_eq
  rw [BitVec.toNat_shiftLeft, Nat.shiftLeft_eq, shlVal, wd, BitVec.toNat_ofNat]

theorem shrVal_eq (a n : Word) : shrVal a n = a >>> n.toNat := by
  apply BitVec.eq_of_toNat_eq
  rw [BitVec.toNat_ushiftRight, Nat.shiftRight_eq_div_pow, shrVal,
    wd_toNat _ ((Nat.div_le_self _ _).trans_lt a.isLt)]

theorem sarVal_eq (a n : Word) : sarVal a n = a.sshiftRight n.toNat := by
  rw [BitVec.sshiftRight_eq, Int.shiftRight_eq_div_pow, sarVal, wdi, Nat.cast_pow, Nat.cast_ofNat]

/-! Comparisons (06 R136). -/

theorem intOf_lt_iff (u : Bool) (a b : Word) : intOf u a < intOf u b ↔ (if u then a.ult b else a.slt b) = true := by
  cases u
  · exact BitVec.slt_iff_toInt_lt.symm
  · simp [intOf, BitVec.ult_eq_decide]

theorem minVal_eq (u : Bool) (a b : Word) : minVal u a b = if (if u then b.ult a else b.slt a) then b else a := by
  rw [minVal, ← if_congr (intOf_lt_iff u b a) rfl rfl]
  by_cases h : intOf u a ≤ intOf u b
  · rw [if_pos h, if_neg (not_lt.mpr h)]
  · rw [if_neg h, if_pos (not_le.mp h)]

/-- Where the words are equal either of them is the greater. -/
theorem maxVal_eq (u : Bool) (a b : Word) : maxVal u a b = if (if u then a.ult b else a.slt b) then b else a := by
  have inj (h : intOf u a = intOf u b) : a = b := by
    cases u
    · exact BitVec.eq_of_toInt_eq h
    · exact BitVec.eq_of_toNat_eq (Int.ofNat_inj.mp h)
  rw [maxVal, ← if_congr (intOf_lt_iff u a b) rfl rfl]
  rcases lt_trichotomy (intOf u a) (intOf u b) with h | h | h
  · rw [if_pos h.le, if_pos h]
  · rw [inj h, ite_self, ite_self]
  · rw [if_neg (not_le.mpr h), if_neg (not_lt.mpr h.le)]

theorem sltVal_eq (u : Bool) (a b : Word) : sltVal u a b = if (if u then a.ult b else a.slt b) then 1 else 0 :=
  if_congr (intOf_lt_iff u a b) rfl rfl

/-! Saturation (06 R138). -/

theorem clampInt_eq {lo hi : Int} (h : lo ≤ hi) (z : Int) : clampInt lo hi z = max lo (min hi z) := by
  unfold clampInt
  split
  · omega
  · split <;> omega

theorem satWord_eq (u : Bool) (z : Int) : satWord u z =
    if u then BitVec.ofInt 64 (max 0 (min (2 ^ 64 - 1) z)) else BitVec.ofInt 64 (max (-(2 ^ 63)) (min (2 ^ 63 - 1) z)) := by
  rw [satWord, clampInt_eq (by decide), clampInt_eq (by decide)]
  rfl

/-- The same where MOD tells the reading, of the operands too. -/
theorem satWord_modU (t : Tail) (z : Bool → Int) : satWord (modU t) (z (modU t)) =
    if tailMod t % 2 = 1 then BitVec.ofInt 64 (max 0 (min (2 ^ 64 - 1) (z true)))
    else BitVec.ofInt 64 (max (-(2 ^ 63)) (min (2 ^ 63 - 1) (z false))) := by
  rw [satWord_eq]
  by_cases hu : tailMod t % 2 = 1
  · rw [if_pos hu, show modU t = true from beq_iff_eq.mpr hu, if_pos rfl]
  · rw [if_neg hu, show modU t = false from beq_eq_false_iff_ne.mpr hu, if_neg (by decide)]

/-! Products and quotients (06 R139, R140). -/

/-- The upper half of a 128-bit number, of any integer that it stands for. -/
theorem extractLsb'_ofInt_high (z : Int) : (BitVec.ofInt 128 z).extractLsb' 64 64 = wdi (z / 2 ^ 64) := by
  apply BitVec.eq_of_toNat_eq
  rw [BitVec.extractLsb'_toNat, Nat.shiftRight_eq_div_pow, wdi, BitVec.toNat_ofInt, BitVec.toNat_ofInt]
  omega

theorem signExtend_128 (a : Word) : a.signExtend 128 = BitVec.ofInt 128 (intOf false a) := rfl

theorem zeroExtend_128 (a : Word) : a.zeroExtend 128 = BitVec.ofInt 128 (intOf true a) := by
  apply BitVec.eq_of_toNat_eq
  rw [BitVec.toNat_ofInt, BitVec.toNat_setWidth]
  rfl

/-- MOD reads each operand as an integer; the product is exact in 128 bits. -/
theorem mulhVal_eq (mode : Nat) (a b : Word) : mulhVal mode a b =
    (BitVec.ofInt 128 (intOf (mode == 1) a) * BitVec.ofInt 128 (intOf (mode != 0) b)).extractLsb' 64 64 := by
  rw [← BitVec.ofInt_mul, extractLsb'_ofInt_high, mulhVal]

theorem divVal_eq (u : Bool) (a b : Word) : divVal u a b = if u then a.udiv b else a.sdiv b := by
  cases u
  · refine BitVec.eq_of_toInt_eq ?_
    rw [divVal, wdi, BitVec.toInt_ofInt]
    exact (BitVec.toInt_sdiv a b).symm
  · refine BitVec.eq_of_toNat_eq ?_
    show (BitVec.ofInt 64 (Int.tdiv (a.toNat : Int) b.toNat)).toNat = (a / b).toNat
    rw [← Int.ofNat_tdiv, BitVec.ofInt_natCast, BitVec.toNat_udiv]
    exact wd_toNat _ ((Nat.div_le_self _ _).trans_lt a.isLt)

theorem remVal_eq (u : Bool) (a b : Word) : remVal u a b = if u then a.umod b else a.srem b := by
  cases u
  · show BitVec.ofInt 64 (Int.tmod a.toInt b.toInt) = a.srem b
    rw [← BitVec.toInt_srem, BitVec.ofInt_toInt]
  · refine BitVec.eq_of_toNat_eq ?_
    show (BitVec.ofInt 64 (Int.tmod (a.toNat : Int) b.toNat)).toNat = (a % b).toNat
    rw [← Int.ofNat_tmod, BitVec.ofInt_natCast, BitVec.toNat_umod]
    exact wd_toNat _ ((Nat.mod_le _ _).trans_lt a.isLt)

/-! Leading zeros (06 R141). -/

/-- The number of leading zero bits of a word, as clz finds it. -/
def clzCount (a : Word) : Nat := if a = 0 then 64 else 63 - a.toNat.log2

theorem clzVal_eq (a : Word) : clzVal a = BitVec.ofNat 64 (clzCount a) := rfl

theorem log2_lt_64 (a : Word) (h : a ≠ 0) : a.toNat.log2 < 64 :=
  (Nat.log2_lt fun hz => h (BitVec.eq_of_toNat_eq hz)).mpr a.isLt

theorem clzCount_le (a : Word) : clzCount a ≤ 64 := by
  unfold clzCount
  split <;> omega

theorem clzCount_eq_64_iff (a : Word) : a = 0 ↔ clzCount a = 64 := by
  unfold clzCount
  split
  · next h => simp [h]
  · next h => simp only [h, false_iff]; omega

theorem getMsbD_below_clzCount (a : Word) {i : Nat} (h : i < clzCount a) : a.getMsbD i = false := by
  by_cases h0 : a = 0
  · rw [h0]; exact BitVec.getMsbD_zero
  · have hlog := log2_lt_64 a h0
    rw [clzCount, if_neg h0] at h
    have hlow : a.toNat < 2 ^ (64 - 1 - i) :=
      Nat.lt_log2_self.trans_le (Nat.pow_le_pow_right (by decide) (by omega))
    rw [BitVec.getMsbD_eq_getLsbD, ← BitVec.testBit_toNat, Nat.testBit_lt_two_pow hlow, Bool.and_false]

theorem getMsbD_clzCount (a : Word) (h : clzCount a < 64) : a.getMsbD (clzCount a) = true := by
  have h0 : a ≠ 0 := fun h0 => h.ne ((clzCount_eq_64_iff a).mp h0)
  have hlog := log2_lt_64 a h0
  have htop : 64 - 1 - clzCount a = a.toNat.log2 := by rw [clzCount, if_neg h0]; omega
  rw [BitVec.getMsbD_eq_getLsbD, htop, ← BitVec.testBit_toNat, Nat.testBit_log2 fun hz => h0 (BitVec.eq_of_toNat_eq hz)]
  simpa using h

/-! Fields taken and placed (06 R142). -/

/-- A control word that is not refused names a field of at least one bit within the word. -/
theorem field_of_fieldBad {c : Word} (h : fieldBad c = false) : 0 < bits c 8 7 ∧ bits c 0 6 + bits c 8 7 ≤ 64 := by
  simp only [fieldBad, Bool.or_eq_false_iff, bne_eq_false_iff_eq, beq_eq_false_iff_ne, decide_eq_false_iff_not] at h
  omega

/-- What bext takes is the field as a bit vector of its own width, extended as Q says. -/
theorem bextVal_eq (sx : Bool) (a c : Word) (hw : 0 < bits c 8 7) :
    bextVal sx a c = if sx then (a.extractLsb' (bits c 0 6) (bits c 8 7)).signExtend 64
      else (a.extractLsb' (bits c 0 6) (bits c 8 7)).setWidth 64 := by
  rw [bextVal, bits_eq_extractLsb' a, sext_eq_signExtend _ hw, wd, BitVec.ofNat_toNat]

theorem getLsbD_bextVal {sx : Bool} {a c : Word} (h : fieldBad c = false) {i : Nat} (hi : i < 64) :
    (bextVal sx a c).getLsbD i =
      if i < bits c 8 7 then a.getLsbD (bits c 0 6 + i) else sx && a.getLsbD (bits c 0 6 + bits c 8 7 - 1) := by
  obtain ⟨hw, _⟩ := field_of_fieldBad h
  rw [bextVal_eq sx a c hw]
  cases sx
  · simp [BitVec.getLsbD_extractLsb', hi]
  · have hmsb : (a.extractLsb' (bits c 0 6) (bits c 8 7)).msb = a.getLsbD (bits c 0 6 + bits c 8 7 - 1) := by
      simp [BitVec.msb_eq_getLsbD_last, hw, Nat.add_sub_assoc hw]
    rw [if_pos rfl, BitVec.getLsbD_signExtend, BitVec.getLsbD_extractLsb', hmsb]
    split
    · next hiw => simp [hi, hiw]
    · simp [hi]

/-- The bits of a word with one field replaced. -/
theorem getLsbD_setBits (w : Word) {lo n : Nat} (v i : Nat) (h : lo + n ≤ 64) :
    (setBits w lo n v).getLsbD i = if lo ≤ i ∧ i < lo + n then v.testBit (i - lo) else w.getLsbD i := by
  have bit_of_bits (x : Word) (j : Nat) : x.getLsbD j = (bits x j 1).testBit 0 := (testBit_bits x j 1 0).symm
  split
  · next hin =>
    have hfield := congrArg (Nat.testBit · (i - lo)) (bits_setBits w lo n v h)
    simpa [testBit_bits, Nat.testBit_mod_two_pow, show i - lo < n by omega, Nat.add_sub_cancel' hin.1] using hfield
  · next hout =>
    rw [bit_of_bits, bit_of_bits w]
    rcases Nat.lt_or_ge i lo with hi | hi
    · rw [bits_setBits_low w lo n v i 1 h hi]
    · rw [bits_setBits_high w lo n v i 1 h (by omega)]

theorem getLsbD_binsVal {d a c : Word} (h : fieldBad c = false) (i : Nat) :
    (binsVal d a c).getLsbD i =
      if bits c 0 6 ≤ i ∧ i < bits c 0 6 + bits c 8 7 then a.getLsbD (i - bits c 0 6) else d.getLsbD i := by
  rw [binsVal, getLsbD_setBits d _ i (field_of_fieldBad h).2]
  split
  · next hin => simp [testBit_bits, show i - bits c 0 6 < bits c 8 7 by omega]
  · rfl

end Sys2Proof.Machine
end

section
/-! What an integer opcode leaves: a fixed-latency result, a scoreboarded one, or a trap on its operands (02 R34, R35; 06 R133 to
R145). -/

namespace Sys2Proof.Machine

/-! A fixed-latency instruction. -/

theorem straight_iff (t : Thread) : straight t = true ↔ stepDue t = false ∧ ldepthOf t = 0 := by simp [straight]

theorem OnlyThread.trans {s s1 s2 : State} {k : Nat} (h1 : OnlyThread s s1 k) (h2 : OnlyThread s1 s2 k) : OnlyThread s s2 k := by
  obtain ⟨hother1, hself1⟩ := h1
  obtain ⟨hother2, hself2⟩ := h2
  refine ⟨fun j hj => (hother2 j hj).trans (hother1 j hj), ?_⟩
  rw [hself2, hself1]

theorem onlyThread_tick (s : State) (k : Nat) : OnlyThread s (tick s) k := ⟨fun _ _ => rfl, rfl⟩

theorem pc_setGpr (t : Thread) (n : Nat) (v : Word) : (setGpr t n v).pc = t.pc := by
  unfold setGpr
  split
  · rfl
  · split <;> rfl

theorem OnlyReg.ldepthOf_eq {t u : Thread} {d : Nat} (h : OnlyReg t u d) : ldepthOf u = ldepthOf t := by
  rw [h.2]
  rfl

/-- The end of an instruction changes no register. -/
theorem OnlyReg.retired {t u : Thread} {d : Nat} (h : OnlyReg t u d) (w : Word) :
    OnlyReg t { u with pc := w, run := .ready, again := none } d := by
  obtain ⟨hother, hself⟩ := h
  refine ⟨hother, ?_⟩
  rw [hself]

/-- The thread after a fixed-latency result: the register, and the flight that keeps what it held before. -/
theorem thr_putFixed {s : State} {k : Nat} {t : Thread} (lat d : Nat) (v : Word) (h : thr s k = some t) :
    ∃ u, thr (putFixed s k lat d v) k = some u ∧ OnlyReg t u d ∧ gprOf u d = (if d = 0 then 0 else v) ∧ u.pc = t.pc ∧
      (d ≠ 0 → ⟨regId t d, gprOf t d, s.clk + lat⟩ ∈ u.flight) := by
  by_cases hd : d = 0
  · subst hd
    rw [putFixed_zero]
    exact ⟨t, thr_modThr_self _ h, onlyReg_refl t 0, rfl, rfl, fun h0 => absurd rfl h0⟩
  · rw [putFixed_eq lat d v h hd]
    refine ⟨_, thr_setThr_self s k _, onlyReg_setGpr t d v _, ?_, pc_setGpr t d v, fun _ => List.mem_cons_self⟩
    exact (gprOf_setGpr t d d v).trans (by simp [hd])

section
variable {i : Instr} {s : State} {k lat : Nat} {t : Thread} {d : BitVec 7} {v : Word} {f : State → Nat → Thread → Act}

/-- An instruction whose effect is one fixed-latency result, outside loops and single steps. -/
theorem fixedResult_of_fixed (he : exec i s = run i s f) (hs : straight t = true) (hi : issues i s k t = true)
    (hf : f s k t = fixed s k lat d v) : FixedResult i s k t d.toNat lat v := by
  obtain ⟨hstep, hdepth⟩ := (straight_iff t).mp hs
  obtain ⟨u, hu, hreg, hval, hpc, hflight⟩ := thr_putFixed lat d.toNat v (issues_thr hi)
  obtain ⟨hthread, _⟩ := putFixed_frame lat d.toNat v (issues_thr hi)
  obtain ⟨hretire, hself⟩ := retire_frame (wordsOf i) hu (hreg.ldepthOf_eq.trans hdepth)
  have hexec := does_of_next he hi hf
  rw [Does, finish, hstep] at hexec
  exact ⟨_, _, hexec, hself, (hthread.trans hretire).trans (onlyThread_tick _ k), hreg.retired _, hval,
    congrArg (fun w => pcAdd w (4 * wordsOf i)) hpc, hflight⟩

end

/-! Operands. -/

theorem readG_zero (s : State) (t : Thread) : readG s t 0 = 0 := by
  unfold readG
  split <;> rfl

theorem dispR_eq (f : RForm) : dispR f = if (tailLit f.t).isSome then 0 else (tailImm f.t).signExtend 64 := by
  rw [dispR, immOf_eq_signExtend]
  rfl

/-- An entry that takes MOD 0 only is not well formed with another. -/
theorem not_wellFormed_of_mod {i : Instr} {e : Enc} (he : enc i = some e) (hm : e.mods = false) : WellFormed i = false := by
  refine Bool.eq_false_iff.mpr fun hw => ?_
  obtain ⟨e', he', hf, _⟩ := Laws.wellFormed_iff.mp hw
  cases he.symm.trans he'
  exact absurd (Laws.mods_of_formFaults hf) (by simp [hm])

/-! Shifts, divisions and fields. -/

section
variable {i : Instr} {s : State} {k : Nat} {t : Thread} {f : RForm}

theorem fixedResult_of_shift {op : Word → Word → Word} (he : exec i s = run i s fun s k t => shiftAct s k t f op)
    (hs : straight t = true) (hi : issues i s k t = true) (hn : (opbAlu s t f false).toNat < 64) :
    FixedResult i s k t f.d.toNat 4 (op (readG s t f.a.toNat) (opbAlu s t f false)) :=
  fixedResult_of_fixed he hs hi (if_neg (Nat.not_le.mpr hn))

theorem traps_of_shift {op : Word → Word → Word} (he : exec i s = run i s fun s k t => shiftAct s k t f op)
    (hi : issues i s k t = true) (hn : 64 ≤ (opbAlu s t f false).toNat) : Traps i s s k 0x07 (opbAlu s t f false) t.pc :=
  traps_of_trap he hi (if_pos hn)

theorem does_of_div {op : Bool → Word → Word → Word} (he : exec i s = run i s fun s k t => divAct s k t f op)
    (hi : issues i s k t = true) (hb : opbReg s t f ≠ 0) :
    Does i s k t (putScored s k (s.clk + divLat (modU f.t) (readG s t f.a.toNat))
      [(f.d.toNat, op (modU f.t) (readG s t f.a.toNat) (opbReg s t f))] []) :=
  does_of_next he hi (if_neg hb)

theorem traps_of_div {op : Bool → Word → Word → Word} (he : exec i s = run i s fun s k t => divAct s k t f op)
    (hi : issues i s k t = true) (hb : opbReg s t f = 0) : Traps i s s k 0x0D 0 t.pc :=
  traps_of_trap he hi (if_pos hb)

end

/-- Settles O1: the value of each opcode by its equation above, and one lemma for what a fixed-latency result leaves. -/
theorem integerResults : Obligations.IntegerResults := by
  refine ⟨fun f g s k t hs => ?_, fun f s k t hs hi => ?_⟩
  · dsimp only
    rw [← shlVal_eq, ← shrVal_eq, ← sarVal_eq, ← minVal_eq, ← maxVal_eq, ← sltVal_eq]
    exact ⟨fun hi => fixedResult_of_fixed rfl hs hi rfl, fun hi => fixedResult_of_fixed rfl hs hi rfl,
      fun hi => fixedResult_of_fixed rfl hs hi rfl, fun hi => fixedResult_of_fixed rfl hs hi rfl,
      fun hi => fixedResult_of_fixed rfl hs hi rfl,
      fixedResult_of_shift rfl hs, fixedResult_of_shift rfl hs, fixedResult_of_shift rfl hs,
      fun hi => fixedResult_of_fixed rfl hs hi rfl, fun hi => fixedResult_of_fixed rfl hs hi rfl,
      fun hi => fixedResult_of_fixed rfl hs hi rfl, fun hi => fixedResult_of_fixed rfl hs hi rfl,
      fun hi => fixedResult_of_fixed rfl hs hi rfl⟩
  · have hres : FixedResult (.mulh f) s k t f.d.toNat 8 (mulhVal (tailMod f.t) (readG s t f.a.toNat) (opbReg s t f)) :=
      fixedResult_of_fixed rfl hs hi rfl
    rw [mulhVal_eq] at hres
    dsimp only
    rw [signExtend_128, signExtend_128, zeroExtend_128, zeroExtend_128]
    refine ⟨fun hm => ?_, fun hm => ?_, fun hm => ?_⟩ <;> (rw [hm] at hres; exact hres)

/-- Settles O2: the saturated value is the clamp to the range of the form. -/
theorem saturatingArithmetic : Obligations.SaturatingArithmetic := by
  refine fun f s k t hs => ⟨fun hi => fixedResult_of_fixed rfl hs hi ?_, fun hi => fixedResult_of_fixed rfl hs hi ?_⟩
  · exact congrArg (fixed s k latAlu f.d) (satWord_modU f.t fun u => intOf u (readG s t f.a.toNat) + intOf u (opbAlu s t f true))
  · exact congrArg (fixed s k latAlu f.d) (satWord_modU f.t fun u => intOf u (readG s t f.a.toNat) - intOf u (opbAlu s t f true))

/-- Settles O3: the count by its bounds and by the bits that it passes over and meets. -/
theorem leadingZeros : Obligations.LeadingZeros := by
  refine fun f s k t => ⟨fun hs hi => ?_, fun hm => not_wellFormed_of_mod rfl (beq_eq_false_iff_ne.mpr hm)⟩
  exact ⟨clzCount (readG s t f.a.toNat), clzCount_le _, fixedResult_of_fixed rfl hs hi rfl,
    clzCount_eq_64_iff _, fun _ => getMsbD_below_clzCount _, getMsbD_clzCount _⟩

/-- Settles O4: each field bit by bit, and the sum of lea with its displacement. -/
theorem fieldsAndAddresses : Obligations.FieldsAndAddresses := by
  intro f s k t hs
  have hp (c : Word) : c.toNat % 64 = bits c 0 6 := congrArg (· % 64) (Nat.div_one _).symm
  dsimp only
  rw [hp, ← dispR_eq]
  exact ⟨fun hi hc => ⟨_, fixedResult_of_fixed rfl hs hi (by simp only [hc]; rfl), fun i => getLsbD_bextVal hc⟩,
    fun hi hc => ⟨_, fixedResult_of_fixed rfl hs hi (by simp only [hc]; rfl), fun i _ => getLsbD_binsVal hc i⟩,
    fun hi => fixedResult_of_fixed rfl hs hi rfl⟩

/-- Settles O5: sel, which reads 0 from g0. -/
theorem selectResult : Obligations.SelectResult := by
  refine fun f s k t => ⟨fun hs hi => ⟨?_, fun hd => ?_⟩, fun hm => not_wellFormed_of_mod rfl (beq_eq_false_iff_ne.mpr hm)⟩
  · exact fixedResult_of_fixed rfl hs hi (congrArg _ (ite_not _ _ _))
  · rw [hd]
    exact readG_zero s t

/-- Settles O6: the operands on which each opcode traps, and both results of a division. -/
theorem integerTrapsAndDivision : Obligations.IntegerTrapsAndDivision := by
  refine ⟨fun f s k t => ⟨traps_of_shift rfl, traps_of_shift rfl, traps_of_shift rfl, traps_of_div rfl, traps_of_div rfl,
    fun hi hc => traps_of_trap rfl hi (if_pos hc), fun hi hc => traps_of_trap rfl hi (if_pos hc)⟩, fun f s k t hb => ?_⟩
  dsimp only
  rw [← divVal_eq, ← remVal_eq]
  exact ⟨fun hi => does_of_div rfl hi hb, fun hi => does_of_div rfl hi hb⟩

end Sys2Proof.Machine
end

section
/-! What a scalar floating opcode leaves: its result and flags where no enabled exception is raised, else the trap at its completion
(04 R94, R96; 06 R134, R146 to R151). -/

namespace Sys2Proof.Tab

theorem put_put {α : Type} (t : Tab α) (k : Nat) (v w : α) : put (put t k v) k w = put t k w := by
  induction t with
  | nil => simp [put]
  | cons p r ih =>
    obtain ⟨i, x⟩ := p
    rcases lt_trichotomy i k with h | h | h
    · simp [put, h, ih]
    · simp [put, h]
    · simp [put, Nat.not_lt.mpr h.le, h.ne']

end Sys2Proof.Tab

namespace Sys2Proof.Machine

theorem setThr_setThr (s : State) (k : Nat) (t u : Thread) : setThr (setThr s k t) k u = setThr s k u := by
  simp only [setThr, Tab.put_put]

/-- Two changes of a thread that exists, one after the other. -/
theorem modThr_modThr {s : State} {k : Nat} {t : Thread} (f g : Thread → Thread) (h : thr s k = some t) :
    modThr (modThr s k f) k g = setThr s k (g (f t)) := by
  rw [modThr_eq f h, modThr_eq g (thr_setThr_self s k _), setThr_setThr]

/-- An effect that leaves nothing more to do in this clk. -/
theorem exec_of_gone {i : Instr} {s s1 : State} {k : Nat} {t : Thread} {f : State → Nat → Thread → Act}
    (he : exec i s = run i s f) (h : issues i s k t = true) (hf : f s k t = .gone s1) :
    exec i s = .next (tick (modThr { s1 with free := max s1.free s.free } k fun u => { u with again := none })) := by
  rw [he, run_of_issues f h, hf]
  rfl

/-! Enabled exceptions (04 R96). -/

theorem fpCause_invalid_iff {w : Word} {fl : FpFlags} {c : Nat} (h : fpCause w fl = some c) :
    c = 0x1C ↔ bit w 2 = true ∧ fl &&& flagNV ≠ 0 := by
  unfold fpCause at h
  split at h
  · next hnv =>
    cases h
    simpa using hnv
  · next hnv =>
    refine iff_of_false (fun hc => ?_) (by simpa using hnv)
    rw [hc] at h
    split at h
    · exact absurd (Option.some_inj.mp h) (by decide)
    · cases h

/-- A thread after a floating operation whose flags accumulate: it issues nothing before the completion. -/
def flagged (t : Thread) (fl : FpFlags) (due : Nat) : Thread :=
  { setSpr t rFPFLAGS (accrue (getSpr t rFPFLAGS) fl) with fpUntil := max t.fpUntil due, earliest := max t.earliest due }

theorem gprOf_flagged (t : Thread) (fl : FpFlags) (due n : Nat) : gprOf (flagged t fl due) n = gprOf t n := by
  have hmode : uihOf (flagged t fl due) = uihOf t :=
    congrArg (bit · 2) ((getSpr_setSpr t rFPFLAGS rMODE _).trans (if_neg (by decide)))
  simp only [gprOf, isShadow_eq t _ hmode]
  rfl

/-! The end of a floating operation. -/

section
variable {s : State} {k lat : Nat} {t : Thread} {d : BitVec 7}

theorem fpAct_quiet {r : FpRes} (h : thr s k = some t) (hq : fpCause (fpctlOf t) r.flags = none) :
    fpAct s k lat t d (wd r.code) r.flags = .next (floatDone s k t d.toNat lat r) := by
  simp only [fpAct, hq, fixed, floatDone]
  cases fpTrapsOn (fpctlOf t)
  · rfl
  · rw [if_pos rfl, modThr_modThr _ _ h, modThr_eq _ h]
    rfl

theorem fpAct_trap {v : Word} {fl : FpFlags} {c : Nat} (h : thr s k = some t) (hc : fpCause (fpctlOf t) fl = some c) :
    fpAct s k lat t d v fl =
      .gone (sched (setThr s k (flagged t fl (s.clk + lat))) (s.clk + lat) (.trapEntry k c 0 t.pc)) := by
  simp only [fpAct, hc]
  rw [modThr_modThr _ _ h]
  rfl

section
variable {i : Instr} {f : State → Nat → Thread → Act} (he : exec i s = run i s f) (hi : issues i s k t = true)
include he hi

theorem does_of_fpAct {r : FpRes} (hf : f s k t = fpAct s k lat t d (wd r.code) r.flags)
    (hq : fpCause (fpctlOf t) r.flags = none) : Does i s k t (floatDone s k t d.toNat lat r) :=
  does_of_next he hi (hf.trans (fpAct_quiet (issues_thr hi) hq))

/-- The same of a result that is given as a word. -/
theorem does_of_fpAct_word {v : Word} {fl : FpFlags} (hf : f s k t = fpAct s k lat t d v fl)
    (hq : fpCause (fpctlOf t) fl = none) : Does i s k t (floatDone s k t d.toNat lat ⟨v.toNat, fl⟩) := by
  have hword : wd v.toNat = v := by rw [wd, BitVec.ofNat_toNat, BitVec.setWidth_eq]
  exact does_of_fpAct he hi (r := ⟨v.toNat, fl⟩) (by rw [hf, hword]) hq

/-- An enabled exception: flags without a result, and the trap due at the completion. -/
theorem fpAct_traps {v : Word} {fl : FpFlags} {c : Nat} (hf : f s k t = fpAct s k lat t d v fl)
    (hc : fpCause (fpctlOf t) fl = some c) :
    ∃ s1 u, exec i s = .next s1 ∧ thr s1 k = some u ∧ (∀ n, gprOf u n = gprOf t n) ∧
      getSpr u rFPFLAGS = getSpr t rFPFLAGS ||| fl.setWidth 64 ∧ s.clk + lat ≤ u.earliest ∧
      (s.clk + lat, .trapEntry k c 0 t.pc) ∈ s1.agenda ∧ (∀ j, j ≠ k → thr s1 j = thr s j) ∧ SameMemory s s1 := by
  refine ⟨_, { flagged t fl (s.clk + lat) with again := none }, exec_of_gone he hi (hf.trans (fpAct_trap (issues_thr hi) hc)),
    thr_modThr_self _ (thr_setThr_self s k _), gprOf_flagged t fl (s.clk + lat), getSpr_setSpr_self t _ _,
    Nat.le_max_right _ _, (mem_sched _ _ _ _).mpr (.inl rfl), fun j hj => ?_, rfl, rfl, rfl, rfl⟩
  exact (thr_modThr_ne _ k j _ (Ne.symm hj)).trans (thr_setThr_ne s k j _ (Ne.symm hj))

end
end

/-! Operands (06 R132, R146, R150). -/

theorem fbits_eq (q : Bool) (w : Word) : fbits q w = w.toNat % (if q then 2 ^ 32 else 2 ^ 64) := by
  cases q
  · exact (Nat.mod_eq_of_lt w.isLt).symm
  · rfl

/-- An operation of two sources that raises no enabled exception. -/
theorem does_of_fpBin {i : Instr} {s : State} {k lat : Nat} {t : Thread} {f : RForm} {act : State → Nat → Thread → Act}
    (op : FpFmt → Nat → Nat → Nat → FpRes) (he : exec i s = run i s act) (hf : act s k t = fpBin s k lat t f op)
    (hi : issues i s k t = true)
    (hq : fpCause (fpctlOf t)
      (op (fmtOf f.q) (ctlRm (fpctlOf t)) (fbits f.q (readG s t f.a.toNat)) (fbits f.q (opbReg s t f))).flags = none) :
    Does i s k t (floatDone s k t f.d.toNat lat
      (op (fmtOf f.q) (ctlRm (fpctlOf t)) (fbits f.q (readG s t f.a.toNat)) (fbits f.q (opbReg s t f)))) :=
  does_of_fpAct he hi hf hq

/-- Settles O7: the quiet results of each opcode, the trap of an enabled exception of fadd, and the trap's entry. -/
theorem floatResults : Obligations.FloatResults := by
  refine ⟨fun f s k t => ?_, fun f s k t cause => ?_, fun s k cause info tpc hc => congrArg _ (raise_eq_takeTrap hc)⟩
  · dsimp only
    rw [← fbits_eq, ← fbits_eq, ← fbits_eq]
    exact ⟨does_of_fpBin fpAdd rfl rfl, does_of_fpBin fpSub rfl rfl, does_of_fpBin fpMul rfl rfl,
      does_of_fpBin (fun m rm a b => fpFma m rm a b (fbits f.q (readG s t f.d.toNat))) rfl rfl,
      does_of_fpBin fpDiv rfl rfl, fun hi => does_of_fpAct rfl hi rfl,
      does_of_fpBin (fun m _ a b => fpMinMax m false a b) rfl rfl, does_of_fpBin (fun m _ a b => fpMinMax m true a b) rfl rfl,
      does_of_fpBin (fun m _ a b => ⟨if (fpCompare m (tailMod f.t) a b).1 then 1 else 0, (fpCompare m (tailMod f.t) a b).2⟩)
        rfl rfl,
      fun hi => does_of_fpAct_word rfl hi rfl⟩
  · dsimp only
    rw [← fbits_eq, ← fbits_eq]
    exact fun hi hc => ⟨fpCause_invalid_iff hc, fpAct_traps rfl hi rfl hc⟩

end Sys2Proof.Machine
end

section
/-! Where a branch, a jump or a return goes, and the software traps (07 R153 to R156, R160, R164, R166, R169). -/

namespace Sys2Proof.Machine

/-! Addresses of 52 bits (07 R153, R156). -/

theorem pcAdd_eq_ofInt (pc : Word) (z : Int) : pcAdd pc z = BitVec.ofInt 64 ((pc.toNat + z) % 2 ^ 52) := by
  rw [pcAdd, wd, ← BitVec.ofInt_natCast, Int.toNat_of_nonneg (Int.emod_nonneg _ (by decide))]

theorem pcAdd_zero (z : Int) : pcAdd 0 z = BitVec.ofInt 64 (z % 2 ^ 52) := by
  rw [pcAdd_eq_ofInt, show (0 : Word).toNat = 0 from rfl, Nat.cast_zero, Int.zero_add]

/-- The bits from lo up are zero in the words below 2^lo. -/
theorem bits_upper_eq_zero_iff (w : Word) {lo n : Nat} (h : lo + n = 64) : bits w lo n = 0 ↔ w.toNat < 2 ^ lo := by
  have hlt : w.toNat / 2 ^ lo < 2 ^ n :=
    Nat.div_lt_of_lt_mul (by rw [← Nat.pow_add, h]; exact w.isLt)
  rw [bits, Nat.mod_eq_of_lt hlt, Nat.div_eq_zero_iff_lt (Nat.two_pow_pos lo)]

theorem wd_bits_of_address {w : Word} (h : w.toNat < 2 ^ 52) : wd (bits w 0 52) = w :=
  BitVec.eq_of_toNat_eq ((wd_bits_pc w).trans (Nat.mod_eq_of_lt h))

/-! Conditional branches (07 R154). -/

theorem branch_of_cond {i : Instr} {f : BForm} {cond : Word → Word → Bool} {taken : Bool} {s : State} {k : Nat} {t : Thread}
    (he : exec i s = run i s fun s _ t => branchAct s t f cond)
    (hc : cond (readG s t f.a.toNat) (readG s t f.b.toNat) = taken) (hi : issues i s k t = true) :
    if taken then Goes i s k t s (pcAdd t.pc (4 * offB f)) false else Does i s k t s := by
  split
  · next ht => exact goes_of_jump he hi (if_pos (hc.trans ht))
  · next ht => exact does_of_next he hi (if_neg (hc ▸ ht))

/-- MOD tells how blt and bge compare. -/
theorem decide_intOf_lt (m : Tail) (a b : Word) :
    decide (intOf (modU m) a < intOf (modU m) b) = if tailMod m % 2 = 1 then a.ult b else a.slt b := by
  rw [Bool.eq_iff_iff, decide_eq_true_iff, intOf_lt_iff]
  simp only [modU, beq_iff_eq]

theorem decide_intOf_le (m : Tail) (a b : Word) :
    decide (intOf (modU m) b ≤ intOf (modU m) a) = !if tailMod m % 2 = 1 then a.ult b else a.slt b := by
  rw [← decide_intOf_lt, ← decide_not, decide_eq_decide, not_lt]

/-! Jumps to a register (07 R156). -/

section
variable {i : Instr} {s : State} {k : Nat} {t : Thread} {r : Nat} {link : Thread → Nat → State → State}
variable (he : exec i s = run i s fun s k t => jrAct s (readG s t r) (link t k)) (hi : issues i s k t = true)
include he hi

theorem goes_of_jr (hx : (readG s t r).toNat < 2 ^ 52) : Goes i s k t (link t k s) (readG s t r) false := by
  have hact : jrAct s (readG s t r) (link t k) = .jump (link t k s) (wd (bits (readG s t r) 0 52)) false :=
    if_neg (not_not.mpr ((bits_upper_eq_zero_iff _ rfl).mpr hx))
  rw [wd_bits_of_address hx] at hact
  exact goes_of_jump he hi hact

theorem traps_of_jr (hx : 2 ^ 52 ≤ (readG s t r).toNat) : Traps i s s k 0x22 (readG s t r) t.pc :=
  traps_of_trap he hi (if_pos fun hz => Nat.not_lt.mpr hx ((bits_upper_eq_zero_iff _ rfl).mp hz))

end

/-- Settles O8: the branches by their condition, the jumps by their target, jr by the upper bits of its register. -/
theorem controlTransfers : Obligations.ControlTransfers := by
  intro f j r z s k t
  exact ⟨branch_of_cond rfl rfl, branch_of_cond rfl rfl, branch_of_cond rfl (decide_intOf_lt f.t _ _),
    branch_of_cond rfl (decide_intOf_le f.t _ _),
    fun hi => goes_of_jump rfl hi rfl, fun hi => goes_of_jump rfl hi rfl,
    goes_of_jr (link := fun _ _ s => s) rfl,
    goes_of_jr (link := fun t k s => putFixed s k latAlu r.d.toNat (afterPc t (.jrLink r))) rfl,
    traps_of_jr (link := fun _ _ s => s) rfl,
    traps_of_jr (link := fun t k s => putFixed s k latAlu r.d.toNat (afterPc t (.jrLink r))) rfl,
    fun hi => does_of_next rfl hi rfl⟩

/-! A field of MODE written (05 R125). -/

theorem bit_setBits_apart (w : Word) {lo n j : Nat} (v : Nat) (h : lo + n ≤ 64) (hj : j < lo ∨ lo + n ≤ j) :
    bit (setBits w lo n v) j = bit w j := by
  rw [bit_eq_bits, bit_eq_bits]
  rcases hj with hj | hj
  · rw [bits_setBits_low w lo n v j 1 h hj]
  · rw [bits_setBits_high w lo n v j 1 h hj]

theorem bit_setBits_zero (w : Word) {i : Nat} (h : i < 64) : bit (setBits w i 1 0) i = false := by
  rw [bit_eq_bits, bits_setBits w i 1 0 h]
  rfl

/-- A bit of MODE outside the field that is written. -/
theorem bit_mode_setMode (t : Thread) {lo n j : Nat} (v : Nat) (h : lo + n ≤ 64) (hj : j < lo ∨ lo + n ≤ j) :
    bit (getSpr (setMode t lo n v) rMODE) j = bit (getSpr t rMODE) j := by
  rw [mode_setMode, bit_setBits_apart _ v h hj]

/-- A register's value depends on the register files and on whether the thread is in its user-interrupt handler. -/
theorem gprOf_congr {t u : Thread} (huih : uihOf u = uihOf t) (hgpr : u.gpr = t.gpr) (hshadow : u.shadow = t.shadow) (n : Nat) :
    gprOf u n = gprOf t n := by
  simp only [gprOf, isShadow_eq t u huih, hgpr, hshadow]

/-! Returns from handlers (07 R166, R169). -/

theorem thOf_trapReturn (t : Thread) : thOf (trapReturn t) = false :=
  (congrArg (bit · 1) (mode_setMode t 1 1 0)).trans (bit_setBits_zero _ (by decide))

theorem uihOf_trapReturn (t : Thread) : uihOf (trapReturn t) = uihOf t :=
  bit_mode_setMode t 0 (by decide) (.inr (by decide))

theorem supOf_trapReturn (t : Thread) : supOf (trapReturn t) = supOf t :=
  bit_mode_setMode t 0 (by decide) (.inl (by decide))

theorem uihOf_uiReturn (t : Thread) : uihOf (uiReturn t) = false :=
  (congrArg (bit · 2) (mode_setMode t 2 1 0)).trans (bit_setBits_zero _ (by decide))

theorem thOf_uiReturn (t : Thread) : thOf (uiReturn t) = thOf t :=
  bit_mode_setMode t 0 (by decide) (.inl (by decide))

theorem supOf_uiReturn (t : Thread) : supOf (uiReturn t) = supOf t :=
  bit_mode_setMode t 0 (by decide) (.inl (by decide))

section
variable {z : ZForm} {s : State} {k : Nat} {t : Thread}

theorem goes_eret (hi : issues (.eret z) s k t = true) (hth : thOf t = true) :
    Goes (.eret z) s k t (setThr s k (trapReturn t)) (getSpr t rTPC) true := by
  rw [← modThr_eq trapReturn (issues_thr hi)]
  exact goes_of_jump rfl hi (if_pos hth)

theorem goes_uiret (hi : issues (.uiret z) s k t = true) (hu : uihOf t = true) (hth : thOf t = false) :
    Goes (.uiret z) s k t (setThr s k (uiReturn t)) (getSpr t rUIPC) true := by
  rw [← modThr_eq uiReturn (issues_thr hi)]
  exact goes_of_jump rfl hi (if_pos (by simp [hu, hth]))

end

theorem trapInfo_of_plain {f : MForm} (h : f.t = .none) : trapInfo f = f.disp.signExtend 64 := by
  simp only [trapInfo, h]
  exact sext_eq_signExtend f.disp (by decide)

/-- Settles O11: the software traps past themselves, and each return in its handler and outside it. -/
theorem softwareTrapsAndReturns : Obligations.SoftwareTrapsAndReturns := by
  refine ⟨fun f s k t => ⟨fun hi => traps_of_trapPast rfl hi rfl, fun hi => traps_of_trapPast rfl hi rfl, trapInfo_of_plain⟩,
    fun z s k t => ⟨fun hi hth => ?_, fun hi hth => traps_of_trap rfl hi (if_neg (by simp [hth])),
      fun hi hu hth => ?_, fun hi hh => traps_of_trap rfl hi (if_neg ?_)⟩⟩
  · exact ⟨trapReturn t, thOf_trapReturn t, uihOf_trapReturn t, supOf_trapReturn t,
      fun n _ => gprOf_congr (uihOf_trapReturn t) rfl rfl n, goes_eret hi hth⟩
  · exact ⟨uiReturn t, uihOf_uiReturn t, thOf_uiReturn t, supOf_uiReturn t, goes_uiret hi hu hth⟩
  · rcases hh with hh | hh <;> simp [hh]

end Sys2Proof.Machine
end

section
/-! Hardware loops: a level pushed, and the end of a body (07 R152, R157, R158). -/

namespace Sys2Proof.Machine

/-! A level pushed (07 R157). -/

/-- A thread with a loop level pushed above n others. -/
def pushLoop (t : Thread) (n : Nat) (count top last : Word) : Thread :=
  setMode (setSpr (setSpr (setSpr t (rLOOPCNT + n) count) (rLOOPTOP + n) top) (rLOOPEND + n) last) 4 3 (n + 1)

section
variable (t : Thread) {n : Nat} (hn : n < 4) (count top last : Word)
include hn

theorem ldepthOf_pushLoop : ldepthOf (pushLoop t n count top last) = n + 1 := by
  rw [ldepthOf, pushLoop, mode_setMode, bits_setBits _ 4 3 _ (by decide), Nat.mod_eq_of_lt (by omega)]

theorem loopCount_pushLoop : getSpr (pushLoop t n count top last) (rLOOPCNT + n) = count := by
  simp only [pushLoop, rLOOPCNT, rLOOPTOP, rLOOPEND]
  rw [getSpr_setMode _ _ _ _ _ (by unfold rMODE; omega), getSpr_setSpr, if_neg (by omega), getSpr_setSpr, if_neg (by omega),
    getSpr_setSpr_self]

theorem loopTop_pushLoop : getSpr (pushLoop t n count top last) (rLOOPTOP + n) = top := by
  simp only [pushLoop, rLOOPTOP, rLOOPEND]
  rw [getSpr_setMode _ _ _ _ _ (by unfold rMODE; omega), getSpr_setSpr, if_neg (by omega), getSpr_setSpr_self]

theorem loopLast_pushLoop : getSpr (pushLoop t n count top last) (rLOOPEND + n) = last := by
  rw [pushLoop, getSpr_setMode _ _ _ _ _ (by unfold rLOOPEND rMODE; omega), getSpr_setSpr_self]

theorem gprOf_pushLoop (m : Nat) : gprOf (pushLoop t n count top last) m = gprOf t m := by
  have hmode (u : Thread) {i : Nat} (hi : 0x11 ≤ i) (v : Word) : getSpr (setSpr u i v) rMODE = getSpr u rMODE :=
    (getSpr_setSpr u i rMODE v).trans (if_neg (by unfold rMODE; omega))
  have huih : uihOf (pushLoop t n count top last) = uihOf t := by
    rw [uihOf, uihOf, pushLoop, bit_mode_setMode _ _ (by decide) (.inl (by decide)), hmode _ (by unfold rLOOPEND; omega),
      hmode _ (by unfold rLOOPTOP; omega), hmode _ (by unfold rLOOPCNT; omega)]
  exact gprOf_congr huih rfl rfl m

end

section
variable {f : MForm} {s : State} {k : Nat} {t : Thread} (hi : issues (.loop f) s k t = true)
include hi

theorem loop_count_refused (hc : 2 ^ 32 ≤ (readG s t f.a.toNat).toNat) :
    Traps (.loop f) s s k 0x0C (readG s t f.a.toNat) t.pc :=
  traps_of_trap rfl hi (if_pos hc)

variable (hc : (readG s t f.a.toNat).toNat < 2 ^ 32)
include hc

theorem loop_exit_refused (he : loopExitAt t f ≤ loopTopAt t f ∨ loopExitAt t f % 4 ≠ 0) :
    Traps (.loop f) s s k 0x0C (wdi (loopExitAt t f)) t.pc :=
  traps_of_trap rfl hi ((if_neg hc.not_ge).trans (if_pos he))

variable (he : ¬ (loopExitAt t f ≤ loopTopAt t f ∨ loopExitAt t f % 4 ≠ 0))
include he

theorem loop_skips (h0 : readG s t f.a.toNat = 0) : Goes (.loop f) s k t s (pcAdd 0 (loopExitAt t f)) false :=
  goes_of_jump rfl hi ((if_neg hc.not_ge).trans ((if_neg he).trans (if_pos h0)))

variable (h0 : readG s t f.a.toNat ≠ 0)
include h0

theorem loop_depth_refused (hn : 4 ≤ ldepthOf t) : Traps (.loop f) s s k 0x0B (readG s t f.a.toNat) t.pc :=
  traps_of_trap rfl hi ((if_neg hc.not_ge).trans ((if_neg he).trans ((if_neg h0).trans (if_pos hn))))

theorem loop_pushes (hn : ldepthOf t < 4) : Does (.loop f) s k t (modThr s k fun u =>
    pushLoop u (ldepthOf t) (readG s t f.a.toNat) (pcAdd 0 (loopTopAt t f)) (pcAdd 0 (loopExitAt t f - 4))) :=
  does_of_next rfl hi ((if_neg hc.not_ge).trans ((if_neg he).trans ((if_neg h0).trans (if_neg hn.not_ge))))

end

/-! The end of a body (07 R158). -/

/-- A level's count written is not MODE. -/
theorem mode_setSpr_loopCount (t : Thread) (n : Nat) (v : Word) : getSpr (setSpr t (rLOOPCNT + n) v) rMODE = getSpr t rMODE :=
  (getSpr_setSpr t _ _ v).trans (if_neg (by unfold rLOOPCNT rMODE; omega))

theorem gprOf_setSpr_loopCount (t : Thread) (n : Nat) (v : Word) (m : Nat) :
    gprOf (setSpr t (rLOOPCNT + n) v) m = gprOf t m :=
  gprOf_congr (congrArg (bit · 2) (mode_setSpr_loopCount t n v) :) rfl rfl m

/-- A thread whose level n, the innermost, has run its last pass. -/
def popLoop (t : Thread) (n : Nat) : Thread := setMode (setSpr t (rLOOPCNT + n) 0) 4 3 n

theorem ldepthOf_popLoop (t : Thread) {n : Nat} (hn : n < 4) : ldepthOf (popLoop t n) = n := by
  rw [ldepthOf, popLoop, mode_setMode, bits_setBits _ 4 3 _ (by decide), Nat.mod_eq_of_lt (by omega)]

theorem loopCount_popLoop (t : Thread) (n : Nat) : getSpr (popLoop t n) (rLOOPCNT + n) = 0 := by
  rw [popLoop, getSpr_setMode _ _ _ _ _ (by unfold rLOOPCNT rMODE; omega), getSpr_setSpr_self]

theorem gprOf_popLoop (t : Thread) (n m : Nat) : gprOf (popLoop t n) m = gprOf t m := by
  have huih : uihOf (popLoop t n) = uihOf (setSpr t (rLOOPCNT + n) 0) := bit_mode_setMode _ n (by decide) (.inl (by decide))
  exact (gprOf_congr huih rfl rfl m).trans (gprOf_setSpr_loopCount t n 0 m)

theorem loopEnd_outside {t : Thread} (fuel : Nat) (next : Word) (hd : ldepthOf t = 0) : loopEnd fuel t next = (t, next, false) := by
  cases fuel with
  | zero => rfl
  | succ fuel => simp only [loopEnd, hd, true_or, if_true]

section
variable {t : Thread} {next : Word} {n : Nat} (fuel : Nat)
variable (hd : ldepthOf t = n + 1) (hn : n < 4) (hnext : next = pcAdd (getSpr t (rLOOPEND + n)) 4)
include hd hn hnext

theorem loopEnd_again (hc : 1 < (getSpr t (rLOOPCNT + n)).toNat) :
    loopEnd (fuel + 1) t next =
      (setSpr t (rLOOPCNT + n) (getSpr t (rLOOPCNT + n) - 1), getSpr t (rLOOPTOP + n), true) := by
  have hlower : wd ((getSpr t (rLOOPCNT + n)).toNat - 1) = getSpr t (rLOOPCNT + n) - 1 := by
    unfold wd
    bv_omega
  have hin : ¬ (n + 1 = 0 ∨ 4 < n + 1) := by omega
  simp only [loopEnd, hd, if_neg hin, Nat.add_sub_cancel, ← hnext, if_pos hc, hlower, ne_eq, not_true_eq_false, if_false]

theorem loopEnd_last (hc : (getSpr t (rLOOPCNT + n)).toNat ≤ 1) :
    loopEnd (fuel + 1) t next = loopEnd fuel (popLoop t n) next := by
  have hin : ¬ (n + 1 = 0 ∨ 4 < n + 1) := by omega
  simp only [loopEnd, hd, if_neg hin, Nat.add_sub_cancel, ← hnext, if_neg hc.not_gt, ne_eq, not_true_eq_false, if_false, popLoop]

end

/-- An instruction that completes in sequence, with no single step due: the loop-end check at the address after it. -/
theorem thr_retire_sequential {s : State} {k words : Nat} {t u : Thread} {pc : Word} {again : Bool} (h : thr s k = some t)
    (hl : loopEnd 4 t (pcAdd t.pc (4 * words)) = (u, pc, again)) :
    thr (retire s k words false none) k = some { u with
      pc := pc, run := .ready, again := none, earliest := if again then max t.earliest (s.clk + 4) else t.earliest } := by
  simp [retire, retireAt, h, hl]

/-- Settles O9: loop by its checks in their order, and the end of a body by the count of its level. -/
theorem hardwareLoops : Obligations.HardwareLoops := by
  refine ⟨fun f s k t hi => ⟨loop_count_refused hi, loop_exit_refused hi, fun hc htop h4 => ?_⟩,
    fun s k t words n h hd hn hnext => ⟨fun hc => ?_, fun hc h0 => ?_⟩⟩
  · have he : ¬ (loopExitAt t f ≤ loopTopAt t f ∨ loopExitAt t f % 4 ≠ 0) := fun hr => hr.elim htop.not_ge (absurd h4)
    refine ⟨fun h0 => pcAdd_zero (loopExitAt t f) ▸ loop_skips hi hc he h0, loop_depth_refused hi hc he, fun h0 hn =>
      ⟨_, _, loop_pushes hi hc he h0 hn, thr_modThr_self _ (issues_thr hi), ldepthOf_pushLoop t hn .., loopCount_pushLoop t hn ..,
        (loopTop_pushLoop t hn ..).trans (pcAdd_zero _), (loopLast_pushLoop t hn ..).trans (pcAdd_zero _),
        fun _ => gprOf_pushLoop t hn .., onlyThread_modThr s k _⟩⟩
  · exact ⟨_, thr_retire_sequential h (loopEnd_again 3 hd hn hnext hc), rfl, getSpr_setSpr_self t _ _,
      (congrArg (bits · 4 3) (mode_setSpr_loopCount t n _)).trans hd, Nat.le_max_right _ _, gprOf_setSpr_loopCount t n _⟩
  · subst h0
    have hout : ldepthOf (popLoop t 0) = 0 := ldepthOf_popLoop t (by decide)
    exact ⟨_, thr_retire_sequential h ((loopEnd_last 3 hd hn hnext hc).trans (loopEnd_outside 3 _ hout)), rfl,
      loopCount_popLoop t 0, hout, gprOf_popLoop t 0⟩

end Sys2Proof.Machine
end

section
/-! Taking a trap: the handler entered, or the thread killed (07 R152, R162, R163; 18 R418 to R420). -/

namespace Sys2Proof.Machine

/-! The handler is entered (07 R162). -/

/-- What a fold's steps keep, the fold keeps. -/
theorem foldl_keeps {α β γ : Type} (g : α → γ) (f : α → β → α) (hf : ∀ a b, g (f a b) = g a) (l : List β) (a : α) :
    g (l.foldl f a) = g a :=
  (List.foldl_hom g (g₂ := fun c _ => c) (fun a b => (hf a b).symm)).symm.trans (List.foldl_fixed' (fun _ => rfl) l)

/-- A thread beside its register files. -/
def besideFiles (t : Thread) : Thread := { t with gpr := [], shadow := [] }

theorem besideFiles_setById (t : Thread) (r : Nat) (v : Word) : besideFiles (setById t r v) = besideFiles t := by
  unfold setById
  split
  · rfl
  · split <;> rfl

/-- The results that were due are written into the register files, and nothing else of the thread changes. -/
theorem besideFiles_settle (t : Thread) : besideFiles (settle t) = { besideFiles t with sb := [], flight := [] } :=
  congrArg (fun u => { u with sb := [], flight := [] }) (foldl_keeps besideFiles _
    (fun u p => foldl_keeps besideFiles _ (fun u r => besideFiles_setById u r.1 r.2) p.regs u) t.sb t)

theorem settle_of_no_result {t : Thread} (h : t.sb = []) : settle t = { t with sb := [], flight := [] } := by
  simp only [settle, h, List.foldl_nil]

theorem getSpr_settle (t : Thread) (i : Nat) : getSpr (settle t) i = getSpr t i :=
  (congrArg (getSpr · i) (besideFiles_settle t) :)

theorem tiles_settle (t : Thread) : (settle t).tiles = t.tiles := (congrArg Thread.tiles (besideFiles_settle t) :)

theorem segs_settle (t : Thread) : (settle t).segs = t.segs := (congrArg Thread.segs (besideFiles_settle t) :)

/-- The thread in its trap handler. -/
def handling (s : State) (t : Thread) (cause : Nat) (info tpc : Word) : Thread :=
  { setMode (setSpr (setSpr (setSpr (settle t) rTCAUSE (wd cause)) rTPC tpc) rTINFO info) 1 1 1 with
    pc := wd (bits (getSpr t rTVEC) 0 52), run := .ready, again := none, trapDue := none, trapOld := some (s.clk, t.pc, t.spr),
    earliest := max (s.clk + 4) (max (settleAt s t) t.earliest) }

/-- A thread that runs or waits enters its handler where it has one and is in none. -/
theorem takeTrap_eq_handling {s : State} {k cause : Nat} {info tpc : Word} {t : Thread} (h : thr s k = some t)
    (hth : thOf t = false) (hv : getSpr t rTVEC ≠ 0) (he : t.run ≠ .ending) (hp : t.run ≠ .parked) (hi : t.run ≠ .incoming) :
    takeTrap s k cause info tpc = setThr s k (handling s t cause info tpc) := by
  have henter : ¬ (thOf t || getSpr t rTVEC == 0) = true := by
    rw [hth, Bool.false_or, beq_iff_eq]
    exact hv
  simp only [takeTrap, h, if_neg he, if_neg henter, hp, hi, or_self, if_false]
  rfl

section
variable (s : State) (t : Thread) (cause : Nat) (info tpc : Word)

theorem getSpr_handling {i : Nat} (hi : i ≠ rMODE) : getSpr (handling s t cause info tpc) i =
    if rTINFO = i then info else if rTPC = i then tpc else if rTCAUSE = i then wd cause else getSpr t i := by
  refine (getSpr_setMode _ 1 1 1 i hi).trans ?_
  rw [getSpr_setSpr, getSpr_setSpr, getSpr_setSpr, getSpr_settle]

theorem mode_handling : getSpr (handling s t cause info tpc) rMODE = setBits (getSpr t rMODE) 1 1 1 := by
  refine (mode_setMode _ 1 1 1).trans ?_
  rw [getSpr_setSpr, if_neg (by decide), getSpr_setSpr, if_neg (by decide), getSpr_setSpr, if_neg (by decide), getSpr_settle]

theorem thOf_handling : thOf (handling s t cause info tpc) = true := by
  rw [thOf, mode_handling, bit_setBits_one _ (by decide)]

theorem supOf_handling : supOf (handling s t cause info tpc) = supOf t := by
  rw [supOf, mode_handling, bit_setBits_apart _ 1 (by decide) (.inl (by decide)), supOf]

theorem uihOf_handling : uihOf (handling s t cause info tpc) = uihOf t := by
  rw [uihOf, mode_handling, bit_setBits_apart _ 1 (by decide) (.inr (by decide)), uihOf]

theorem uienOf_handling : uienOf (handling s t cause info tpc) = uienOf t := by
  rw [uienOf, mode_handling, bit_setBits_apart _ 1 (by decide) (.inr (by decide)), uienOf]

theorem ldepthOf_handling : ldepthOf (handling s t cause info tpc) = ldepthOf t := by
  rw [ldepthOf, mode_handling, bits_setBits_high _ 1 1 1 4 3 (by decide) (by decide), ldepthOf]

theorem tiles_handling : (handling s t cause info tpc).tiles = t.tiles := by
  simp only [handling, setMode_tiles, setSpr_tiles, tiles_settle]

theorem segs_handling : (handling s t cause info tpc).segs = t.segs := by
  simp only [handling, setMode_segs, setSpr_segs, segs_settle]

variable {t} in
theorem gprOf_handling_of_no_result (h : t.sb = []) (n : Nat) : gprOf (handling s t cause info tpc) n = gprOf t n := by
  refine gprOf_congr (uihOf_handling s t cause info tpc) ?_ ?_ n
  · simp only [handling, setMode_gpr, setSpr_gpr, settle_of_no_result h]
  · simp only [handling, setMode_shadow, setSpr_shadow, settle_of_no_result h]

end

/-! The cause posted (18 R418 to R420). -/

/-- What every message that concerns a thread begins with: its cause, and the thread's core and context. -/
def NamesThread (m : List Byte) (cause k : Nat) : Prop :=
  fieldOf m 0 1 = cause % 256 ∧ fieldOf m 4 2 = coreOf k % 65536 ∧ fieldOf m 6 1 = ctxOf k

theorem namesThread_of_head (cause k a b : Nat) (rest : List Byte) :
    NamesThread (toBytes 1 cause ++ (toBytes 1 a ++ (toBytes 2 b ++ (toBytes 2 (coreOf k) ++ (toBytes 1 (ctxOf k) ++ rest))))) cause k := by
  have hctx : ctxOf k < 64 := Nat.mod_lt _ (by decide)
  refine ⟨?_, ?_, ?_⟩ <;> simp [fieldOf, toBytes, ofBytes] <;> omega

theorem namesThread_svcMessage (s : State) (cause k src : Nat) (info pc node : Word) (view : Nat) :
    NamesThread (svcMessage s cause src (coreOf k) (ctxOf k) info pc node view) cause k := by
  simp only [svcMessage, List.append_assoc]
  exact namesThread_of_head ..

theorem namesThread_faultMessage (cause k kind size addr token : Nat) (pc : Word) (view : Nat) :
    NamesThread (faultMessage cause kind size (coreOf k) (ctxOf k) addr token pc view) cause k := by
  simp only [faultMessage, List.append_assoc]
  exact namesThread_of_head ..

/-- A post beyond the queue of posts changes no thread. -/
theorem postRaw_posts (s : State) (p : Nat) (msg : List Byte) :
    (postRaw s p msg).posts = s.posts ++ [⟨0, some p, 0, msg, s.clk⟩] ∧ (postRaw s p msg).threads = s.threads := by
  rw [postRaw_frame]
  exact ⟨rfl, rfl⟩

theorem postThread_posts {s : State} {k cause : Nat} {t : Thread} (info pc : Word) (hh : t.host = false) :
    (∃ msg, (postThread s k t cause info pc).posts = s.posts ++ [msg] ∧ msg.part = some (partOf t) ∧ NamesThread msg.msg cause k) ∧
      (postThread s k t cause info pc).threads = s.threads := by
  simp only [postThread, hh, Bool.false_eq_true, if_false]
  split
  · exact ⟨⟨_, (postRaw_posts ..).1, rfl, namesThread_faultMessage ..⟩, (postRaw_posts ..).2⟩
  · exact ⟨⟨_, (postRaw_posts ..).1, rfl, namesThread_svcMessage ..⟩, (postRaw_posts ..).2⟩

/-! The thread killed (02 R29; 07 R163; 09 R210). -/

theorem withdrawWait_posts (s : State) (k : Nat) : (withdrawWait s k).posts = s.posts := by
  unfold withdrawWait
  split
  · rfl
  · split
    · rfl
    · split
      · unfold withdrawGroup
        split <;> rfl
      all_goals rfl

/-- A thread out of its wait, if it was in one. -/
theorem thr_withdrawWait {s : State} {k : Nat} {t : Thread} (h : thr s k = some t) (hr : t.run ≠ .ending) :
    ∃ r, r ≠ .ending ∧ thr (withdrawWait s k) k = some { t with run := r } := by
  cases hw : waitOf t with
  | none => exact ⟨t.run, hr, by simp only [withdrawWait, h, hw]⟩
  | some w => exact ⟨.ready, nofun, (thr_of_threads (withdrawWait_threads h hw) k).trans (thr_setThr_self s k _)⟩

/-- Abandoned matrix work makes events due and is gone from its queues. -/
theorem killMatrix_threads (s : State) (k : Nat) : (killMatrix s k).threads = s.threads :=
  foldl_keeps State.threads _ (fun a q => by split <;> rfl) _ s

theorem killMatrix_posts (s : State) (k : Nat) : (killMatrix s k).posts = s.posts :=
  foldl_keeps State.posts _ (fun a q => by split <;> rfl) _ s

theorem thr_beginEnd {s : State} {k : Nat} {t : Thread} (h : thr s k = some t) (hr : t.run ≠ .ending) :
    thr (beginEnd s k) k = some { t with run := .ending, park := .none } := by
  simp only [beginEnd, h, if_neg hr, thr_sched, thr_setThr_self]

section
variable {s : State} {k : Nat} {t : Thread} (h : thr s k = some t) (hr : t.run ≠ .ending)
  (hrival : t.rival = 0) (hold : t.trapOld = none)
include h hr hrival hold

theorem killQuiet_ends : thr (killQuiet s k) k = some { t with run := .ending, park := .none } ∧ (killQuiet s k).posts = s.posts := by
  have hquiet : killQuiet s k = beginEnd (killMatrix (withdrawWait (setThr s k t) k) k) k := by
    simp only [killQuiet, h, if_neg hr, beforeTrap, hold, markRivalEnd, hrival, if_true]
  obtain ⟨r, hne, hw⟩ := thr_withdrawWait (thr_setThr_self s k t) hr
  have hend := thr_beginEnd ((thr_of_threads (killMatrix_threads (withdrawWait (setThr s k t) k) k) k).trans hw) hne
  rw [hquiet]
  refine ⟨hend, ?_⟩
  rw [beginEnd_frame]
  exact (killMatrix_posts _ k).trans (withdrawWait_posts _ k)

theorem killThread_ends {cause : Nat} (info pc : Word) (hh : t.host = false) :
    thr (killThread s k cause info pc) k = some { t with run := .ending, park := .none } ∧
      ∃ msg, (killThread s k cause info pc).posts = s.posts ++ [msg] ∧ msg.part = some (partOf t) ∧ NamesThread msg.msg cause k := by
  have hkill : killThread s k cause info pc = killQuiet (postThread s k t cause info pc) k := by
    simp only [killThread, h, beforeTrap, hold, if_true]
  obtain ⟨⟨msg, hposts, hpart, hnames⟩, hthreads⟩ := postThread_posts (s := s) (k := k) (cause := cause) info pc hh
  obtain ⟨hthr, hsame⟩ := killQuiet_ends ((thr_of_threads hthreads k).trans h) hr hrival hold
  rw [hkill]
  exact ⟨hthr, msg, hsame.trans hposts, hpart, hnames⟩

end

/-- Settles O10: the thread in its handler field by field, and the thread killed with its cause posted. -/
theorem trapEntry : Obligations.TrapEntry := by
  refine ⟨fun s k cause info tpc t h hth hv he hp hi => ?_, fun s k cause info tpc t h hc hh hr hrival hold => ?_⟩
  · rw [takeTrap_eq_handling h hth hv he hp hi]
    refine ⟨_, thr_setThr_self s k _, getSpr_handling s t cause info tpc (by decide), getSpr_handling s t cause info tpc (by decide),
      getSpr_handling s t cause info tpc (by decide), thOf_handling .., supOf_handling .., uihOf_handling .., uienOf_handling ..,
      ldepthOf_handling .., wd_bits_pc _, rfl, Nat.le_max_left _ _, rfl, rfl, gprOf_handling_of_no_result s cause info tpc,
      fun i hcause htpc hinfo hmode => ?_, tiles_handling .., segs_handling .., onlyThread_setThr s k _⟩
    rw [getSpr_handling s t cause info tpc hmode, if_neg (Ne.symm hinfo), if_neg (Ne.symm htpc), if_neg (Ne.symm hcause)]
  · rw [takeTrap_kills h hr hc]
    obtain ⟨hthr, hpost⟩ := killThread_ends h hr hrival hold (cause := cause) tpc tpc hh
    exact ⟨_, hthr, rfl, hpost⟩

end Sys2Proof.Machine
end

section
/-! Special registers read and written by mfs and mts (05 R122 to R125, R128; 07 R170; 20 R459). -/

namespace Sys2Proof.Machine

theorem sprListed_iff (i : Nat) : sprListed i = true ↔ i ≤ 0x2B ∨ (0x80 ≤ i ∧ i ≤ 0x8D) := by
  simp [sprListed]

/-- A register that is not privileged, or a thread in supervisor mode (05 R125). -/
theorem not_unprivileged {i : Nat} {t : Thread} (h : i < 0x80 ∨ supOf t = true) : ¬ (0x80 ≤ i ∧ supOf t = false) :=
  fun ⟨h80, huser⟩ => h.elim h80.not_gt (Bool.eq_false_iff.mp huser)

/-! mfs, in its order of checks (07 R170). -/

section
variable {f : XForm} {s : State} {k : Nat} {t : Thread} (hi : issues (.mfs f) s k t = true)
include hi

theorem mfs_unlisted (hl : ¬ sprListed f.index.toNat = true) : Traps (.mfs f) s s k 0x17 (wd f.index.toNat) t.pc :=
  traps_of_trap rfl hi (if_pos (Bool.eq_false_iff.mpr hl))

variable (hl : sprListed f.index.toNat = true)
include hl

theorem mfs_privileged (hp : 0x80 ≤ f.index.toNat) (hs : supOf t = false) :
    Traps (.mfs f) s s k 0x18 (wd f.index.toNat) t.pc :=
  traps_of_trap rfl hi ((if_neg (by simp [hl])).trans (if_pos ⟨hp, hs⟩))

variable (hp : ¬ (0x80 ≤ f.index.toNat ∧ supOf t = false))
include hp

theorem mfs_reads (hf : f.index.toNat ≠ rFPFLAGS) :
    Does (.mfs f) s k t (putFixed s k 4 f.d.toNat (sprRead s k t f.index.toNat)) :=
  does_of_next rfl hi ((if_neg (by simp [hl])).trans ((if_neg hp).trans (if_neg hf)))

theorem mfs_reads_flags (hf : f.index.toNat = rFPFLAGS) (hd : flagsDue s k t = false) :
    Does (.mfs f) s k t (putScored s k (s.clk + 4) [(f.d.toNat, sprRead s k t f.index.toNat)] []) :=
  does_of_next rfl hi ((if_neg (by simp [hl])).trans ((if_neg hp).trans ((if_pos hf).trans (if_neg (by simp [hd])))))

end

/-! What registers read as (05 R122 to R124; 20 R459). -/

theorem sprRead_of_hostZero {s : State} {k i : Nat} {t : Thread} (hh : t.host = true) (hz : hostZero i = true) :
    sprRead s k t i = 0 :=
  if_pos (by rw [hh, hz]; rfl)

section
variable (s : State) (k : Nat) (t : Thread)

theorem sprRead_pc : sprRead s k t rPC = t.pc := by
  have hz : (t.host && hostZero rPC) = false := Bool.and_false _
  simp only [sprRead, hz]
  rfl

theorem sprRead_uistat : sprRead s k t rUISTAT = wd t.uiq.length := by
  have hz : (t.host && hostZero rUISTAT) = false := Bool.and_false _
  simp only [sprRead, hz]
  rfl

theorem sprRead_fpflags : sprRead s k t rFPFLAGS = getSpr t rFPFLAGS := by
  have hz : (t.host && hostZero rFPFLAGS) = false := Bool.and_false _
  simp only [sprRead, hz]
  rfl

theorem sprRead_pcore : sprRead s k t rPCORE = if t.host then wd (0x80 + (k - 8192)) else wd (coreOf k) := by
  have hz : (t.host && hostZero rPCORE) = false := Bool.and_false _
  simp only [sprRead, hz]
  rfl

variable {t} (hh : t.host = false)
include hh

theorem sprRead_gwin : sprRead s k t rGWIN = wd (t.gbase / 8 + t.gsize / 8 * 256) := by
  simp only [sprRead, hh, Bool.false_and]
  rfl

theorem sprRead_twin : sprRead s k t rTWIN = wd (t.tbase + t.tcount * 256) := by
  simp only [sprRead, hh, Bool.false_and]
  rfl

theorem sprRead_mode : sprRead s k t rMODE = getSpr t rMODE := by
  simp only [sprRead, hh, Bool.false_and]
  rfl

theorem sprRead_partition : sprRead s k t rPARTITION = getSpr t rPARTITION := by
  simp only [sprRead, hh, Bool.false_and]
  rfl

end

/-- Settles O12: mfs by its checks in their order, and the registers that are views of other state. -/
theorem specialReads : Obligations.SpecialReads := by
  refine ⟨fun f s k t hi => ?_, fun s k t =>
    ⟨sprRead_pc s k t, sprRead_uistat s k t, fun hh => ?_, fun hh => ⟨?_, fun i hz => ?_⟩⟩⟩
  · dsimp only
    simp only [← sprListed_iff]
    refine ⟨mfs_unlisted hi, mfs_privileged hi, fun hl hs => ⟨mfs_reads hi hl (not_unprivileged hs), fun hf hd => ?_⟩⟩
    have hread := mfs_reads_flags hi hl (not_unprivileged hs) hf hd
    rwa [show f.index.toNat = rFPFLAGS from hf, sprRead_fpflags] at hread
  · exact ⟨(sprRead_pcore s k t).trans (if_neg (by simp [hh])), sprRead_gwin s k hh, sprRead_twin s k hh, sprRead_mode s k hh,
      sprRead_partition s k hh⟩
  · exact (sprRead_pcore s k t).trans (if_pos hh)
  · have hall : ∀ i ∈ [0x01, 0x02, 0x03, 0x05, 0x06, 0x07, 0x1D, 0x1E, 0x1F, 0x23, 0x24, 0x25, 0x26, 0x27, 0x28, 0x2B],
        hostZero i = true := by decide
    exact sprRead_of_hostZero hh (hall i hz)

/-! mts, in its order of checks (07 R170). -/

section
variable {f : XForm} {s : State} {k : Nat} {t : Thread} (hi : issues (.mts f) s k t = true)
include hi

theorem mts_unlisted (hl : ¬ sprListed f.index.toNat = true) : Traps (.mts f) s s k 0x17 (wd f.index.toNat) t.pc :=
  traps_of_trap rfl hi (if_pos (Bool.eq_false_iff.mpr hl))

variable (hl : sprListed f.index.toNat = true)
include hl

/-- A privileged register in user mode, one that hardware writes, and a value that the register does not take: one cause. -/
theorem mts_refused (hr : (0x80 ≤ f.index.toNat ∧ supOf t = false) ∨ sprHw f.index.toNat = true ∨
      sprRefuses s t f.index.toNat (readG s t f.a.toNat) = true) : Traps (.mts f) s s k 0x18 (wd f.index.toNat) t.pc := by
  refine traps_of_trap rfl hi ((if_neg (by simp [hl])).trans ?_)
  by_cases hp : 0x80 ≤ f.index.toNat ∧ supOf t = false
  · exact if_pos hp
  · exact (if_neg hp).trans (if_pos (by simpa using hr.resolve_left hp))

theorem mts_writes (hs : f.index.toNat < 0x80 ∨ supOf t = true) (hhw : sprHw f.index.toNat = false)
    (hr : sprRefuses s t f.index.toNat (readG s t f.a.toNat) = false) (hf : f.index.toNat = rFPFLAGS → flagsDue s k t = false) :
    Does (.mts f) s k t (sprWrite s k t f.index.toNat (readG s t f.a.toNat)) := by
  have hdue : ¬ (f.index.toNat = rFPFLAGS ∧ flagsDue s k t = true) := fun ⟨hi, hd⟩ => Bool.eq_false_iff.mp (hf hi) hd
  exact does_of_next rfl hi ((if_neg (by simp [hl])).trans ((if_neg (not_unprivileged hs)).trans
    ((if_neg (by simp [hhw, hr])).trans (if_neg hdue))))

end

/-- A register below 0x80 is written in the thread's own table. -/
theorem sprWrite_thread (s : State) (k : Nat) (t : Thread) {i : Nat} (v : Word) (h : i < 0x80) :
    sprWrite s k t i v = modThr s k (fun u => setSpr u i v) :=
  if_pos h

/-! Values that MODE takes (05 R125). -/

theorem sprRefuses_mode (s : State) (t : Thread) (v : Word) : sprRefuses s t rMODE v =
    (bits v 0 3 != bits (getSpr t rMODE) 0 3 || 4 < bits v 4 3 || bits v 8 56 != 0) := by
  simp only [sprRefuses, ↓reduceIte]

theorem sprRefuses_mode_eq_false_iff (s : State) (t : Thread) (v : Word) : sprRefuses s t rMODE v = false ↔
    bits v 0 3 = bits (getSpr t rMODE) 0 3 ∧ bits v 4 3 ≤ 4 ∧ v.toNat < 256 := by
  have hupper : bits v 8 56 = 0 ↔ v.toNat < 256 := bits_upper_eq_zero_iff v rfl
  rw [sprRefuses_mode, ← hupper]
  simp [and_assoc]

/-- Settles O13: mts by its checks in their order, what it leaves of the thread, and the values of MODE. -/
theorem specialWrites : Obligations.SpecialWrites := by
  refine ⟨fun f s k t hi => ?_, sprRefuses_mode_eq_false_iff⟩
  dsimp only
  simp only [← sprListed_iff]
  refine ⟨mts_unlisted hi, mts_refused hi, fun hl hs hhw hr hf => ⟨mts_writes hi hl hs hhw hr hf, fun h80 => ?_⟩⟩
  rw [sprWrite_thread s k t _ h80]
  exact ⟨_, thr_modThr_self _ (issues_thr hi), getSpr_setSpr_self t _ _,
    fun j hj => (getSpr_setSpr t _ j _).trans (if_neg (Ne.symm hj)), rfl, onlyThread_modThr s k _⟩

end Sys2Proof.Machine
end

section
/-! What a tile instruction leaves: the tile it writes, its flags, and everything else as it was (08 R176 to R180; 18 R431). -/

namespace Sys2Proof.Machine

/-! Elements of a tile (08 R174, R176). -/

theorem cfg_setElems (x : Tile) (vs : List (Nat × Nat)) : (setElems x vs).cfg = x.cfg :=
  foldl_keeps Tile.cfg (fun a (v : Nat × Nat) => setElem a v.1 v.2) (fun _ _ => rfl) vs x

theorem elemAt_setElem (x : Tile) (n v m : Nat) : elemAt (setElem x n v) m = if n = m then v else elemAt x m :=
  Tab.getD_putD _ _ _ _ _

/-- Elements written by number take their values, and the others stay. -/
theorem elemAt_setElems_map (x : Tile) (l : List Nat) (v : Nat → Nat) (m : Nat) :
    elemAt (setElems x (l.map fun n => (n, v n))) m = if m ∈ l then v m else elemAt x m := by
  induction l generalizing x with
  | nil => rfl
  | cons n l ih =>
    refine (ih (setElem x n (v n))).trans ?_
    rw [elemAt_setElem]
    by_cases hl : m ∈ l
    · rw [if_pos hl, if_pos (List.mem_cons_of_mem n hl)]
    · by_cases hn : n = m
      · rw [if_neg hl, if_pos hn, if_pos (hn ▸ List.mem_cons_self), hn]
      · rw [if_neg hl, if_neg hn, if_neg (by simp [hl, Ne.symm hn])]

theorem mem_enabledElems (t : Thread) (f : RForm) (x : Tile) (n : Nat) :
    n ∈ enabledElems t f x ↔ n < elemCount (gangWidth t) x ∧ enabledAt t f n = true := by
  simp [enabledElems, mem_upFrom]

theorem elemAt_setElems_enabled (t : Thread) (f : RForm) (x : Tile) (v : Nat → Nat) (n : Nat) :
    elemAt (setElems x ((enabledElems t f x).map fun n => (n, v n))) n =
      if n < elemCount (gangWidth t) x ∧ enabledAt t f n = true then v n else elemAt x n := by
  rw [elemAt_setElems_map, if_congr (mem_enabledElems t f x n) rfl rfl]

theorem tileOf_put {t u : Thread} {d : Nat} {y : Tile} (h : u.tiles = t.tiles.put d y) (m : Nat) :
    tileOf u m = if d = m then y else tileOf t m := by
  rw [tileOf, h]
  exact Tab.getD_put _ _ _ _ _

/-! Checks that pass (08 R175, R178). -/

theorem firstBad_eq_none_iff {l : List (Bool × Nat × Word)} : firstBad l = none ↔ ∀ c ∈ l, c.1 = false := by
  induction l with
  | nil => simp [firstBad]
  | cons c l ih =>
    obtain ⟨b, cause, info⟩ := c
    cases b
    · simpa [firstBad] using ih
    · simp [firstBad]

/-- Whether all checks pass does not depend on the causes they name. -/
theorem firstBad_eq_none_congr {l m : List (Bool × Nat × Word)} (h : l.map Prod.fst = m.map Prod.fst) :
    firstBad l = none ↔ firstBad m = none := by
  have hmap (r : List (Bool × Nat × Word)) : firstBad r = none ↔ ∀ b ∈ r.map Prod.fst, b = false := by
    rw [firstBad_eq_none_iff, List.forall_mem_map]
  rw [hmap, hmap, h]

theorem firstBad_append {l m : List (Bool × Nat × Word)} :
    firstBad (l ++ m) = none ↔ firstBad l = none ∧ firstBad m = none := by
  simp only [firstBad_eq_none_iff, List.forall_mem_append]

theorem firstBad_unconfigured_cons {t : Thread} {n : Nat} {ns : List Nat} :
    firstBad (unconfigured t (n :: ns)) = none ↔ (tileOf t n).cfg ≠ 0 ∧ firstBad (unconfigured t ns) = none := by
  simp [firstBad_eq_none_iff, unconfigured]

/-! The error injection of a tile's write (18 R431). -/

/-- The state beside the injection's register and the check bits it spoils. -/
def besideInjection (s : State) : State := { s with dspr := [], badEcc := [] }

theorem besideInjection_injectAt (s : State) (array inst line : Nat) (places : List Nat) :
    besideInjection (injectAt s array inst line places) = besideInjection s := by
  unfold injectAt
  dsimp only
  split <;> rfl

theorem besideInjection_injectTile (s : State) (k : Nat) (t : Thread) (n : Nat) :
    besideInjection (injectTile s k t n) = besideInjection s :=
  foldl_keeps besideInjection _ (fun _ _ => besideInjection_injectAt _ _ _ _ _) _ s

/-! The end of a tile instruction that writes one tile (08 R179, R180). -/

section
variable {s s1 : State} {k : Nat} {t u : Thread}

/-- Thread k, as t at the issue, is u at the end of the effect s1: its floating flags may have changed, and nothing else. -/
structure FlagsOnly (s s1 : State) (k : Nat) (t u : Thread) : Prop where
  thr_eq : thr s1 k = some u
  thread_eq : u = { t with spr := u.spr, fpUntil := u.fpUntil }
  mode_eq : getSpr u rMODE = getSpr t rMODE
  frame : OnlyThread s s1 k

theorem FlagsOnly.refl (h : thr s k = some t) : FlagsOnly s s k t t := ⟨h, rfl, rfl, fun _ _ => rfl, rfl⟩

theorem FlagsOnly.gprOf_eq (h : FlagsOnly s s1 k t u) (n : Nat) : gprOf u n = gprOf t n := by
  have hmode : uihOf u = uihOf t := congrArg (bit · 2) h.mode_eq
  simp only [gprOf, isShadow_eq t u hmode]
  rw [h.thread_eq]

theorem FlagsOnly.clk_eq (h : FlagsOnly s s1 k t u) : s1.clk = s.clk := by rw [h.frame.2]

theorem SameMemory.trans {s2 : State} (h : SameMemory s s1) (h1 : SameMemory s1 s2) : SameMemory s s2 := by
  obtain ⟨hmem, hvmem, htags, hl1d⟩ := h
  obtain ⟨hmem1, hvmem1, htags1, hl1d1⟩ := h1
  exact ⟨hmem1.trans hmem, hvmem1.trans hvmem, htags1.trans htags, hl1d1.trans hl1d⟩

theorem OnlyThread.sameMemory (h : OnlyThread s s1 k) : SameMemory s s1 := by
  rw [h.2]
  exact ⟨rfl, rfl, rfl, rfl⟩

/-- A tile written, in one equation: the thread's tile, the injection, and the locks that complete together. -/
theorem tileEnd_eq (lat d : Nat) (y : Tile) (reads : List Nat) (h : thr s k = some t) :
    tileEnd s k lat [(d, y)] reads =
      putScored (injectTile (setThr s k { t with tiles := t.tiles.put d y }) k t d) k (s.clk + lat) []
        (d :: reads.map readLock) := by
  simp only [tileEnd, h, modThr_eq _ h]
  rfl

theorem thr_injectTile (s : State) (k : Nat) (t : Thread) (n j : Nat) : thr (injectTile s k t n) j = thr s j :=
  (congrArg (thr · j) (besideInjection_injectTile s k t n) :)

theorem injectTile_sameMemory (s : State) (k : Nat) (t : Thread) (n : Nat) : SameMemory s (injectTile s k t n) :=
  have h := besideInjection_injectTile s k t n
  ⟨(congrArg State.mem h :), (congrArg State.vmem h :), (congrArg State.tags h :), (congrArg State.l1d h :)⟩

/-- What writing a tile leaves: the thread with the tile written and locked until completion, the other threads and memory. -/
theorem tileEnd_frame (lat d : Nat) (y : Tile) (reads : List Nat) (h : thr s k = some t) :
    (∃ p : Pending, p.due = s.clk + lat ∧ d ∈ p.tiles ∧
      thr (tileEnd s k lat [(d, y)] reads) k = some { t with tiles := t.tiles.put d y, sb := t.sb ++ [p] }) ∧
    (∀ j, j ≠ k → thr (tileEnd s k lat [(d, y)] reads) j = thr s j) ∧ SameMemory s (tileEnd s k lat [(d, y)] reads) := by
  have hself : thr (injectTile (setThr s k { t with tiles := t.tiles.put d y }) k t d) k =
      some { t with tiles := t.tiles.put d y } := (thr_injectTile _ k t d k).trans (thr_setThr_self s k _)
  rw [tileEnd_eq lat d y reads h, putScored_eq _ _ _ hself]
  refine ⟨⟨_, rfl, List.mem_cons_self, thr_setThr_self _ k _⟩, fun j hj => ?_, injectTile_sameMemory _ k t d⟩
  calc thr (setThr _ k _) j
    _ = thr (injectTile (setThr s k _) k t d) j := thr_setThr_ne _ k j _ (Ne.symm hj)
    _ = thr (setThr s k _) j := thr_injectTile _ k t d j
    _ = thr s j := thr_setThr_ne s k j _ (Ne.symm hj)

section
variable {i : Instr} {lat d : Nat} {y : Tile} {reads : List Nat} {f : State → Nat → Thread → Act}

/-- The state after an instruction that writes one tile, outside loops and single steps. -/
theorem exec_of_tileEnd (he : exec i s = run i s f) (hs : straight t = true) (hi : issues i s k t = true)
    (hu : FlagsOnly s s1 k t u) (hf : f s k t = .next (tileEnd s1 k lat [(d, y)] reads)) :
    ∃ (s2 : State) (p : Pending), exec i s = .next s2 ∧ p.due = s.clk + lat ∧ d ∈ p.tiles ∧
      thr s2 k = some { u with tiles := t.tiles.put d y, sb := t.sb ++ [p], pc := pcAdd t.pc (4 * wordsOf i),
                               run := .ready, again := none } ∧
      (∀ j, j ≠ k → thr s2 j = thr s j) ∧ SameMemory s s2 := by
  obtain ⟨hstep, hdepth⟩ := (straight_iff t).mp hs
  obtain ⟨⟨p, hdue, hlock, hself⟩, hother, hmem⟩ := tileEnd_frame lat d y reads hu.thr_eq
  have hdepth' : ldepthOf u = 0 := (congrArg (bits · 4 3) hu.mode_eq).trans hdepth
  obtain ⟨hretire, hdone⟩ := retire_frame (wordsOf i) hself hdepth'
  have hexec := does_of_next he hi hf
  rw [Does, finish, hstep] at hexec
  refine ⟨_, p, hexec, hu.clk_eq ▸ hdue, hlock, hdone.trans ?_, fun j hj => ?_,
    (hu.frame.sameMemory.trans hmem).trans hretire.sameMemory⟩
  · rw [hu.thread_eq]
  · exact (hretire.1 j hj).trans ((hother j hj).trans (hu.frame.1 j hj))

theorem tileResult_of_tileEnd {w : Nat → Nat} (he : exec i s = run i s f) (hs : straight t = true) (hi : issues i s k t = true)
    (hu : FlagsOnly s s1 k t u) (hf : f s k t = .next (tileEnd s1 k lat [(d, y)] reads))
    (hcfg : y.cfg = (tileOf t d).cfg) (hy : ∀ n, elemAt y n = w n) : TileResult i s k t d lat w := by
  obtain ⟨s2, p, hexec, hdue, hlock, hself, hother, hmem⟩ := exec_of_tileEnd he hs hi hu hf
  refine ⟨s2, _, hexec, hself, fun n => ?_, ?_, fun m hm => ?_, hu.gprOf_eq, rfl, hmem, hother, p, ?_, hdue, hlock⟩
  · rw [tileOf_put rfl, if_pos rfl, hy n]
  · rw [tileOf_put rfl, if_pos rfl, hcfg]
  · exact (tileOf_put rfl m).trans (if_neg (Ne.symm hm))
  · exact List.mem_append_right _ List.mem_cons_self

/-! Elementwise instructions, whose flags accumulate (04 R94, R96; 08 R176). -/

/-- Thread t after the flags of a floating instruction that completes by a clk. -/
def accrued (t : Thread) (fl : FpFlags) (due : Nat) : Thread :=
  { setSpr t rFPFLAGS (accrue (getSpr t rFPFLAGS) fl) with fpUntil := max t.fpUntil due }

theorem FlagsOnly.accrued (fl : FpFlags) (due : Nat) (h : thr s k = some t) :
    FlagsOnly s (modThr s k fun u => accrued u fl due) k t (accrued t fl due) :=
  ⟨thr_modThr_self _ h, rfl, (getSpr_setSpr t rFPFLAGS rMODE _).trans (if_neg (by decide)), onlyThread_modThr s k _⟩

theorem fpCause_eq_none_of_trapsOff {w : Word} (h : fpTrapsOn w = false) (fl : FpFlags) : fpCause w fl = none := by
  simp only [fpTrapsOn, Bool.or_eq_false_iff] at h
  obtain ⟨⟨hnv, hdz⟩, hof⟩ := h
  simp [fpCause, hnv, hdz, hof]

end
end

/-- The flags that an instruction's elements raise together. -/
def allFlags (fl : List (Nat × FpFlags)) : FpFlags := fl.foldl (fun a x => a ||| x.2) 0

section
variable (s : State) (k lat : Nat) {t : Thread} {fl : List (Nat × FpFlags)} (good : State → State)

theorem floatEnd_quiet (hq : fpCause (fpctlOf t) (allFlags fl) = none) :
    floatEnd s k lat t fl good = .next (good (modThr s k fun u => accrued u (allFlags fl) (s.clk + lat))) := by
  rw [allFlags] at hq
  simp only [floatEnd, hq]
  rfl

theorem floatEnd_trap {c : Nat} (hc : fpCause (fpctlOf t) (allFlags fl) = some c) :
    floatEnd s k lat t fl good =
      .trap (holdUntil (modThr s k fun u => accrued u (allFlags fl) (s.clk + lat)) k (s.clk + lat + 4)) c
        (wd (trapElem (fpctlOf t) c fl % 65536)) := by
  rw [allFlags] at hc
  simp only [floatEnd, hc]
  rfl

end

/-- The results of an operation on the enabled elements of tile x, by number. -/
def elemResults (t : Thread) (f : RForm) (x : Tile) (r : Nat → FpRes) : List (Nat × Nat × FpFlags) :=
  (enabledElems t f x).map fun n => (n, (r n).code, (r n).flags)

theorem elemResults_codes (t : Thread) (f : RForm) (x : Tile) (r : Nat → FpRes) :
    (elemResults t f x r).map (fun q => (q.1, q.2.1)) = (enabledElems t f x).map fun n => (n, (r n).code) :=
  List.map_map

theorem allFlags_elemResults (t : Thread) (f : RForm) (x : Tile) (r : Nat → FpRes) :
    allFlags ((elemResults t f x r).map fun q => (q.1, q.2.2)) =
      (enabledElems t f x).foldl (fun a n => a ||| (r n).flags) 0 := by
  rw [allFlags, elemResults, List.map_map, List.foldl_map]
  rfl

section
variable {i : Instr} {s : State} {k lat base : Nat} {t : Thread} {f : RForm} {act : State → Nat → Thread → Act}
  {checks : List (Bool × Nat × Word)}

/-- An operation of D's tile, A and B, past its checks. -/
theorem vecOpWith_eq {extra : List Nat} {op : Nat → Nat → Nat → FpRes} (hc : firstBad checks = none) :
    vecOpWith s k t f base extra checks op =
      vecEnd s k (tileLat base ([tileOf t f.d.toNat, tileOf t f.a.toNat] ++ (if f.q then [] else [tileOf t f.b.toNat]) ++
        extra.map (tileOf t))) t f.d.toNat
        (elemResults t f (tileOf t f.d.toNat) fun n =>
          op n (elemAt (tileOf t f.a.toNat) n) (elemB s t f (tileFmt (tileOf t f.a.toNat)) n)) (vecNums f ++ extra) := by
  simp only [vecOpWith, hc]
  rfl

/-- The same of A alone. -/
theorem vecOne_eq {op : Nat → FpRes} (hc : firstBad checks = none) :
    vecOne s k t f base checks op =
      vecEnd s k (tileLat base [tileOf t f.d.toNat, tileOf t f.a.toNat]) t f.d.toNat
        (elemResults t f (tileOf t f.d.toNat) fun n => op (elemAt (tileOf t f.a.toNat) n)) (f.a.toNat :: maskNums f) := by
  simp only [vecOne, hc]
  rfl

/-- What the statements say of an elementwise instruction past its checks: v at every enabled element of D, the element as it
was at every other. -/
def ElementsOf (i : Instr) (s : State) (k : Nat) (t : Thread) (f : RForm) (lat : Nat) (v : Nat → Nat) : Prop :=
  ∀ w : Nat → Nat, (∀ n, n < elemCount (gangWidth t) (tileOf t f.d.toNat) ∧ enabledAt t f n = true → w n = v n) →
    (∀ n, ¬ (n < elemCount (gangWidth t) (tileOf t f.d.toNat) ∧ enabledAt t f n = true) →
      w n = elemAt (tileOf t f.d.toNat) n) → TileResult i s k t f.d.toNat lat w

section
variable (hs : straight t = true) (ht : fpTrapsOn (fpctlOf t) = false)
include hs ht

/-- Without a trap enabled, an elementwise instruction leaves its results at the enabled elements of D. -/
theorem elementsOf_vecEnd {r : Nat → FpRes} {reads : List Nat} {v : Nat → Nat} (he : exec i s = run i s act)
    (ha : act s k t = vecEnd s k lat t f.d.toNat (elemResults t f (tileOf t f.d.toNat) r) reads)
    (hv : ∀ n, (r n).code = v n) (hi : issues i s k t = true) : ElementsOf i s k t f lat v := by
  intro w hon hoff
  rw [vecEnd, floatEnd_quiet s k lat _ (fpCause_eq_none_of_trapsOff ht _), elemResults_codes] at ha
  refine tileResult_of_tileEnd he hs hi (.accrued _ _ (issues_thr hi)) ha (cfg_setElems _ _) fun n => ?_
  rw [elemAt_setElems_enabled]
  split
  · next h => exact (hv n).trans (hon n h).symm
  · next h => exact (hoff n h).symm

theorem elementsOf_vecOpWith {extra : List Nat} {op : Nat → Nat → Nat → FpRes} {v : Nat → Nat}
    (he : exec i s = run i s act) (ha : act s k t = vecOpWith s k t f base extra checks op)
    (hv : ∀ n, (op n (elemAt (tileOf t f.a.toNat) n) (elemB s t f (tileFmt (tileOf t f.a.toNat)) n)).code = v n)
    (hi : issues i s k t = true) (hc : firstBad checks = none) :
    ElementsOf i s k t f (tileLat base ([tileOf t f.d.toNat, tileOf t f.a.toNat] ++
      (if f.q then [] else [tileOf t f.b.toNat]) ++ extra.map (tileOf t))) v :=
  elementsOf_vecEnd hs ht he (ha.trans (vecOpWith_eq hc)) hv hi

theorem elementsOf_vecOp {op : Nat → Nat → Nat → FpRes} {v : Nat → Nat}
    (he : exec i s = run i s act) (ha : act s k t = vecOp s k t f base checks op)
    (hv : ∀ n, (op n (elemAt (tileOf t f.a.toNat) n) (elemB s t f (tileFmt (tileOf t f.a.toNat)) n)).code = v n)
    (hi : issues i s k t = true) (hc : firstBad checks = none) :
    ElementsOf i s k t f
      (tileLat base ([tileOf t f.d.toNat, tileOf t f.a.toNat] ++ (if f.q then [] else [tileOf t f.b.toNat]))) v := by
  have h := elementsOf_vecOpWith hs ht he ha hv hi hc
  rwa [List.map_nil, List.append_nil] at h

theorem elementsOf_vecOne {op : Nat → FpRes} {v : Nat → Nat} (he : exec i s = run i s act)
    (ha : act s k t = vecOne s k t f base checks op) (hv : ∀ n, (op (elemAt (tileOf t f.a.toNat) n)).code = v n)
    (hi : issues i s k t = true) (hc : firstBad checks = none) :
    ElementsOf i s k t f (tileLat base [tileOf t f.d.toNat, tileOf t f.a.toNat]) v :=
  elementsOf_vecEnd hs ht he (ha.trans (vecOne_eq hc)) hv hi

end
end
end Sys2Proof.Machine
end

section
/-! Tile arithmetic on every enabled element, and its traps (04 R90, R95, R96; 08 R178, R188). -/

namespace Sys2Proof.Machine

/-! Integer results (04 R90). -/

theorem intLo_le_intHi (g : Nat) : intLo g ≤ intHi g := by
  unfold intLo intHi
  split
  · decide
  · have h : (0 : Int) < 2 ^ (elemBits g - 1) := by positivity
    omega

theorem code_intRes8 (g : Nat) (sat : Bool) (z : Int) :
    (intRes8 g sat z).code = intCode g (if sat then max (intLo g) (min (intHi g) z) else z) := by
  rw [intRes8, clampInt_eq (intLo_le_intHi g)]

/-- The value of an operation that has an integer and a floating reading. -/
theorem code_intOrFloat (g : Nat) (sat : Bool) (z : Int) (r : FpRes) :
    (if isIntFmt g then intRes8 g sat z else r).code =
      if isIntFmt g then intCode g (if sat then max (intLo g) (min (intHi g) z) else z) else r.code := by
  rw [apply_ite FpRes.code, code_intRes8]

theorem minMax_eq (isMax : Bool) (x y : Int) :
    (if decide (x ≤ y) != isMax then x else y) = if isMax then max x y else min x y := by
  cases isMax
  · simp [min_def]
  · by_cases h : x ≤ y <;> simp [h, le_of_not_ge]

theorem code_minMax (g : Nat) (isMax : Bool) (x y : Int) (r : FpRes) :
    (if isIntFmt g then intRes8 g false (if decide (x ≤ y) != isMax then x else y) else r).code =
      if isIntFmt g then intCode g (if isMax then max x y else min x y) else r.code := by
  rw [code_intOrFloat, minMax_eq]
  rfl

/-! The traps (04 R96; 08 R178). -/

section
variable {s : State} {k lat d : Nat} {t : Thread} {f : RForm}

/-- A check of vadd, vsub or vmul that fails traps. -/
theorem vecArith_of_firstBad {i : Instr} {iop : Int → Int → Int} {fop : FpFmt → Nat → Nat → Nat → FpRes} {c : Nat}
    {info : Word} (hb : firstBad (agreeChecks t f arithFmt ++ satBad i t f) = some (c, info)) :
    vecArith i s k t f iop fop = .trap s c info := by
  simp only [vecArith, vecOp, vecOpWith, hb]

/-- An enabled exception of an element: the flags of all elements, and no tile. -/
theorem vecEnd_trap {r : Nat → FpRes} {reads : List Nat} {x : Tile} {c : Nat} (h : thr s k = some t)
    (hc : fpCause (fpctlOf t) ((enabledElems t f x).foldl (fun a n => a ||| (r n).flags) 0) = some c) :
    ∃ s1 u info, vecEnd s k lat t d (elemResults t f x r) reads = .trap s1 c info ∧ thr s1 k = some u ∧
      u.tiles = t.tiles ∧ getSpr u rFPFLAGS =
        getSpr t rFPFLAGS ||| ((enabledElems t f x).foldl (fun a n => a ||| (r n).flags) 0).setWidth 64 := by
  rw [← allFlags_elemResults] at hc ⊢
  exact ⟨_, _, _, floatEnd_trap s k lat _ hc, thr_modThr_self _ (thr_modThr_self _ h), rfl, getSpr_setSpr_self t _ _⟩

end

/-- Over a floating format vadd, vsub and vmul are their floating operation alone. -/
theorem vecArith_float {i : Instr} {s : State} {k : Nat} {t : Thread} {f : RForm} {iop : Int → Int → Int}
    {fop : FpFmt → Nat → Nat → Nat → FpRes} (hg : isIntFmt (tileFmt (tileOf t f.d.toNat)) = false) :
    vecArith i s k t f iop fop = vecOp s k t f 8 (agreeChecks t f arithFmt ++ satBad i t f) fun _ =>
      flushed (fpctlOf t) (tileFmt (tileOf t f.d.toNat)) fop := by
  simp only [vecArith, hg, Bool.false_eq_true, if_false]

/-- Settles O28: each opcode's value at an element, and the two traps of vadd. -/
theorem vectorArithmetic : Obligations.VectorArithmetic := by
  refine ⟨fun f s k t hs ht => ?_, fun f s k t cause hi => ⟨fun info hb => ?_, fun hc hg hcause => ?_⟩⟩
  · dsimp only
    exact ⟨elementsOf_vecOp hs ht rfl rfl fun n => code_intOrFloat _ _ _ _,
      elementsOf_vecOp hs ht rfl rfl fun n => code_intOrFloat _ _ _ _,
      elementsOf_vecOp hs ht rfl rfl fun n => code_intOrFloat _ _ _ _,
      fun hi hc => elementsOf_vecOp hs ht rfl rfl (fun n => code_minMax _ false _ _ _) hi
        (firstBad_append.mp hc).1,
      fun hi hc => elementsOf_vecOp hs ht rfl rfl (fun n => code_minMax _ true _ _ _) hi
        (firstBad_append.mp hc).1,
      elementsOf_vecOp hs ht rfl rfl fun n => rfl⟩
  · exact traps_of_trap rfl hi (vecArith_of_firstBad hb)
  · obtain ⟨s1, u, info, hact, hthread⟩ := vecEnd_trap (issues_thr hi) hcause
    exact ⟨s1, u, info, traps_of_trap rfl hi ((vecArith_float hg).trans ((vecOpWith_eq hc).trans hact)), hthread⟩

end Sys2Proof.Machine
end

section
/-! Elementwise bit operations, shifts, comparisons, selection and conversions (08 R188 to R193; 09 R198). -/

namespace Sys2Proof.Machine

/-! Comparisons (08 R191). -/

/-- The conditions of vcmp by MOD, on integers and on floating elements. -/
def intCondition (c : Nat) (x y : Int) : Bool :=
  if c = 0 then decide (x < y) else if c = 1 then decide (x ≤ y) else if c = 2 then decide (x = y)
  else if c = 3 then decide (x ≠ y) else false

def floatCondition (m : FpFmt) (c a b : Nat) : Bool :=
  if c = 3 then !(fpCompare m 2 a b).1 else if c = 4 then (fpCompare m 3 a b).1 else (fpCompare m c a b).1

theorem vcmpVal_int {g : Nat} (hg : isIntFmt g = true) (c a b : Nat) :
    (vcmpVal g c a b).1 = intCondition c (intVal g a) (intVal g b) := by
  match c with
  | 0 | 1 | 2 | 3 | n + 4 => simp [vcmpVal, intCondition, hg, beq_eq_decide, bne]

theorem vcmpVal_float {g : Nat} (hg : isIntFmt g = false) (c a b : Nat) :
    (vcmpVal g c a b).1 = floatCondition (fpOf g) c a b := by
  match c with
  | 0 | 1 | 2 | 3 | 4 | n + 5 => simp [vcmpVal, floatCondition, hg]

/-- Flushing concerns FP32 alone, so an integer format is compared as it stands. -/
theorem vcmpVal_flushed (g c a b : Nat) (z : Nat → Nat) :
    (vcmpVal g c (if g = 10 then z a else a) (if g = 10 then z b else b)).1 =
      if isIntFmt g then intCondition c (intVal g a) (intVal g b)
      else floatCondition (fpOf g) c (if g = 10 then z a else a) (if g = 10 then z b else b) := by
  cases hg : isIntFmt g
  · exact vcmpVal_float hg c _ _
  · have h10 : g ≠ 10 := fun h => by simp [isIntFmt, h] at hg
    rw [if_neg h10, if_neg h10]
    exact vcmpVal_int hg c a b

/-- Settles O29: each opcode's checks, value and latency. -/
theorem vectorElementwise : Obligations.VectorElementwise := by
  intro f s k t hs ht
  dsimp only
  simp only [not_or, not_not]
  refine ⟨?vlog, ?vshr, ?vrecip, ?vrsqrt, ?vexp2, ?vcvt, ?vcmp, ?vsel⟩
  case vlog => exact elementsOf_vecOp hs ht rfl rfl fun n => rfl
  case vshr =>
    intro hi ⟨hagree, hshift⟩
    refine elementsOf_vecOne hs ht rfl rfl (fun n => apply_ite FpRes.code _ _ _) hi (firstBad_append.mpr ⟨hagree, ?_⟩)
    exact if_neg (by simpa using hshift)
  case vrecip => exact elementsOf_vecOne hs ht rfl rfl fun n => rfl
  case vrsqrt => exact elementsOf_vecOne hs ht rfl rfl fun n => rfl
  case vexp2 => exact elementsOf_vecOne hs ht rfl rfl fun n => rfl
  case vcvt => exact elementsOf_vecOne hs ht rfl rfl fun n => rfl
  case vcmp =>
    intro hi hc
    refine elementsOf_vecOp hs ht rfl rfl (fun n => ?_) hi ((firstBad_eq_none_congr ?_).mpr hc)
    · exact congrArg (fun q : Bool => if q then 1 else 0)
        (vcmpVal_flushed _ (tailMod f.t) _ _ (flushIn fp32 (ctlFtz (fpctlOf t))))
    · simp only [List.map_append, List.map_cons, badShape]
  case vsel => exact elementsOf_vecOpWith (i := .vsel f) (extra := [(tailC f.t).toNat]) hs ht rfl rfl fun n => rfl

end Sys2Proof.Machine
end

section
/-! Tile configuration and single elements (08 R183, R187). -/

namespace Sys2Proof.Machine

/-! The checks of an instruction on one tile and its mask (08 R175, R178). -/

/-- The mask, where there is one, is a configured MASK tile of x's shape. -/
def MaskPasses (t : Thread) (f : RForm) (x : Tile) : Prop :=
  firstBad (maskFmt t f ++ maskShape t f x) = none ∧ firstBad (unconfigured t (maskNums f)) = none

theorem firstBad_one {t : Thread} {f : RForm} {n : Nat} {x : Tile} (hcfg : (tileOf t n).cfg ≠ 0) (hmask : MaskPasses t f x) :
    firstBad (unconfigured t (n :: maskNums f) ++ maskFmt t f ++ maskShape t f x) = none := by
  obtain ⟨hmasks, hset⟩ := hmask
  rw [List.append_assoc]
  exact firstBad_append.mpr ⟨firstBad_unconfigured_cons.mpr ⟨hcfg, hset⟩, hmasks⟩

/-- The same with a selector. -/
theorem firstBad_selected {t : Thread} {f : RForm} {n : Nat} {x : Tile} {v : Word} (hcfg : (tileOf t n).cfg ≠ 0)
    (hmask : MaskPasses t f x) (hsel : selBad t x v = false) :
    firstBad (unconfigured t (n :: maskNums f) ++ maskFmt t f ++ maskShape t f x ++ [(selBad t x v, 0x14, v)]) = none :=
  firstBad_append.mpr ⟨firstBad_one hcfg hmask, if_neg (Bool.eq_false_iff.mp hsel)⟩

/-! Elements by selector. -/

theorem selElem_eq (t : Thread) (x : Tile) (v : Word) :
    selElem t x v = v.toNat / 1024 % 32 * rowLen (gangWidth t) x + v.toNat % 1024 :=
  congrArg (fun q => v.toNat / 1024 % 32 * rowLen (gangWidth t) x + q % 1024) (Nat.div_one v.toNat)

theorem cfg_ite_setElem (b : Bool) (x : Tile) (n v : Nat) : (if b then setElem x n v else x).cfg = x.cfg := by
  cases b <;> rfl

theorem elemAt_ite_setElem (b : Bool) (x : Tile) (n v m : Nat) :
    elemAt (if b then setElem x n v else x) m = if m = n ∧ b = true then v else elemAt x m := by
  cases b
  · simp
  · rw [if_pos rfl, elemAt_setElem]
    simp only [and_true, eq_comm]

section
variable {f : RForm} {s : State} {k : Nat} {t : Thread}

/-- tcfg gives D its new configuration with every element zero. -/
theorem tcfgWrite_configures (hs : straight t = true) (hi : issues (.tcfgWrite f) s k t = true)
    (hc : cfgRefused (opbImm s t f) = false) :
    ∃ s1 u, exec (.tcfgWrite f) s = .next s1 ∧ thr s1 k = some u ∧ (tileOf u f.d.toNat).cfg = opbImm s t f ∧
      (∀ n, elemAt (tileOf u f.d.toNat) n = 0) ∧ (∀ m, m ≠ f.d.toNat → tileOf u m = tileOf t m) ∧ SameMemory s s1 := by
  obtain ⟨s1, _, hexec, -, -, hself, -, hmem⟩ :=
    exec_of_tileEnd rfl hs hi (.refl (issues_thr hi)) (if_neg (Bool.eq_false_iff.mp hc))
  refine ⟨s1, _, hexec, hself, ?_, fun n => ?_, fun m hm => (tileOf_put rfl m).trans (if_neg (Ne.symm hm)), hmem⟩
  · rw [tileOf_put rfl, if_pos rfl]
  · rw [tileOf_put rfl, if_pos rfl]
    rfl

theorem tmovr_writes (hs : straight t = true) (hi : issues (.tmovr f) s k t = true) (hcfg : (tileOf t f.d.toNat).cfg ≠ 0)
    (hmask : MaskPasses t f (tileOf t f.d.toNat)) (hsel : selBad t (tileOf t f.d.toNat) (opbImm s t f) = false) :
    TileResult (.tmovr f) s k t f.d.toNat 8 fun n =>
      if n = selElem t (tileOf t f.d.toNat) (opbImm s t f) ∧
          enabledAt t f (selElem t (tileOf t f.d.toNat) (opbImm s t f)) = true
      then scalarElem (tileFmt (tileOf t f.d.toNat)) (readG s t f.a.toNat) else elemAt (tileOf t f.d.toNat) n := by
  refine tileResult_of_tileEnd (reads := maskNums f) rfl hs hi (.refl (issues_thr hi)) ?_ (cfg_ite_setElem _ _ _ _)
    (elemAt_ite_setElem _ _ _ _)
  simp only [firstBad_selected hcfg hmask hsel]

theorem tmovs_reads (hi : issues (.tmovs f) s k t = true) (hcfg : (tileOf t f.a.toNat).cfg ≠ 0)
    (hmask : MaskPasses t f (tileOf t f.a.toNat)) (hsel : selBad t (tileOf t f.a.toNat) (opbImm s t f) = false)
    (hon : enabledAt t f (selElem t (tileOf t f.a.toNat) (opbImm s t f)) = true) :
    Does (.tmovs f) s k t (putScored s k (s.clk + 4)
      [(f.d.toNat,
        let e := elemAt (tileOf t f.a.toNat) (selElem t (tileOf t f.a.toNat) (opbImm s t f))
        if f.q then sext e (elemBits (tileFmt (tileOf t f.a.toNat))) else wd e)]
      ((f.a.toNat :: maskNums f).map readLock)) := by
  refine does_of_next rfl hi ?_
  simp only [firstBad_selected hcfg hmask hsel, if_pos hon]

theorem tbcast_writes (hs : straight t = true) (hi : issues (.tbcast f) s k t = true) (hcfg : (tileOf t f.d.toNat).cfg ≠ 0)
    (hmask : MaskPasses t f (tileOf t f.d.toNat)) :
    TileResult (.tbcast f) s k t f.d.toNat (tileLat 8 [tileOf t f.d.toNat]) fun n =>
      if n < elemCount (gangWidth t) (tileOf t f.d.toNat) ∧ enabledAt t f n = true
      then scalarElem (tileFmt (tileOf t f.d.toNat)) (opbImm s t f) else elemAt (tileOf t f.d.toNat) n := by
  refine tileResult_of_tileEnd (reads := maskNums f) rfl hs hi (.refl (issues_thr hi)) ?_ (cfg_setElems _ _)
    (elemAt_setElems_enabled t f _ _)
  simp only [firstBad_one hcfg hmask]

end

/-- Settles O30: each instruction where its checks pass, and the configuration that tcfg refuses. -/
theorem tileMoves : Obligations.TileMoves := by
  intro f s k t hs
  dsimp only
  rw [← selElem_eq, ← selElem_eq]
  exact ⟨tcfgWrite_configures hs, fun hi hc => traps_of_trap rfl hi (if_pos hc), fun hi => does_of_next rfl hi rfl,
    tmovr_writes hs, tmovs_reads, tbcast_writes hs⟩

end Sys2Proof.Machine
end

section
/-! Tile loads, stores, indexed access and scattered adds past their checks, and a packed row (08 R184 to R186). -/

namespace Sys2Proof.Machine

/-! A packed row (08 R184). -/

theorem packRow_lt (b : Nat) (vs : List Nat) : packRow b vs < 2 ^ (b * vs.length) := by
  induction vs with
  | nil => exact Nat.two_pow_pos _
  | cons v vs ih =>
    have hv : v % 2 ^ b < 2 ^ b := Nat.mod_lt _ (Nat.two_pow_pos b)
    calc v % 2 ^ b + 2 ^ b * packRow b vs
      _ < 2 ^ b * (packRow b vs + 1) := by rw [Nat.mul_succ]; omega
      _ ≤ 2 ^ b * 2 ^ (b * vs.length) := Nat.mul_le_mul_left _ ih
      _ = 2 ^ (b * (vs.length + 1)) := by rw [← Nat.pow_add, Nat.mul_succ, Nat.add_comm]

/-- Each element is found at its place. -/
theorem packRow_elem (b : Nat) (vs : List Nat) (i : Nat) (hi : i < vs.length) :
    packRow b vs / 2 ^ (b * i) % 2 ^ b = (vs[i]?.getD 0) % 2 ^ b := by
  induction vs generalizing i with
  | nil => exact absurd hi (Nat.not_lt_zero i)
  | cons v vs ih =>
    have hv : v % 2 ^ b < 2 ^ b := Nat.mod_lt _ (Nat.two_pow_pos b)
    cases i with
    | zero => simp [packRow]
    | succ i =>
      calc packRow b (v :: vs) / 2 ^ (b * (i + 1)) % 2 ^ b
        _ = (v % 2 ^ b + 2 ^ b * packRow b vs) / 2 ^ b / 2 ^ (b * i) % 2 ^ b := by
          rw [Nat.div_div_eq_div_mul, ← Nat.pow_add, Nat.mul_succ, Nat.add_comm b, packRow]
        _ = packRow b vs / 2 ^ (b * i) % 2 ^ b := by
          rw [Nat.add_mul_div_left _ _ (Nat.two_pow_pos b), Nat.div_eq_of_lt hv, Nat.zero_add]
        _ = vs[i]?.getD 0 % 2 ^ b := ih i (Nat.lt_of_succ_lt_succ hi)

/-! Whole tiles and indexed elements. -/

section
variable {f : RForm} {s : State} {t : Thread} {addrs : List Nat}

/-- Tile D where the checks of tld and tst pass: the addresses of its rows. -/
def RowsPass (s : State) (t : Thread) (f : RForm) (kind : Nat) (need : Rights) (addrs : List Nat) : Prop :=
  let x := tileOf t f.d.toNat
  firstBad (unconfigured t (f.d.toNat :: maskNums f) ++ maskFmt t f ++ maskShape t f x) = none ∧
  rowChecks s t (ptrR s t f) (opbReg s t f) (rowLen (gangWidth t) x * elemBits (tileFmt x) / 8)
    (max 1 (elemBits (tileFmt x) / 8)) (tileFmt x) kind need 0 (tileRows x) = .ok addrs

theorem rowsAct_of_pass {kind : Nat} {need : Rights} (h : RowsPass s t f kind need addrs)
    (go : Tile → Word → Word → List Nat → Act) :
    rowsAct s t f kind need go = go (tileOf t f.d.toNat) (ptrR s t f) (opbReg s t f) addrs := by
  obtain ⟨hchecks, hrows⟩ := h
  simp only [rowsAct, hchecks, strideOf, hrows]

end

/-- tscadd, unordered or ordered (08 R186). -/
def tscaddOf (f : RForm) (ordered : Bool) : Instr := if ordered then .tscaddO f else .tscaddU f

theorem exec_tscaddOf (f : RForm) (ordered : Bool) (s : State) :
    exec (tscaddOf f ordered) s = run (tscaddOf f ordered) s fun s k t => scaddAct s k t f ordered := by
  cases ordered <;> rfl

/-- Settles O31: each access by the path past its checks, and a packed row element by element. -/
theorem tileMemory : Obligations.TileMemory := by
  refine ⟨fun f s k t addrs => ⟨?tld, ?tst, ?tgather, ?tscatter, ?tscadd⟩,
    fun b vs i _ hi => ⟨packRow_elem b vs i hi, packRow_lt b vs⟩⟩
  case tld =>
    intro s1 vs lat hi hrows hload
    refine does_of_next rfl hi ((rowsAct_of_pass hrows _).trans ?_)
    simp only [hload]
  case tst =>
    intro g hi hrows hstore
    refine does_of_next rfl hi ((rowsAct_of_pass hrows _).trans ?_)
    simp only [hstore]
  case tgather =>
    intro l s1 vs lat hi hindex hload
    refine does_of_next rfl hi ((hindex _).trans ?_)
    simp only [hload]
  case tscatter =>
    intro l g hi hindex hstore
    refine does_of_next rfl hi ((hindex _).trans ?_)
    simp only [hstore]
  case tscadd =>
    intro l w i hi hindex hadd
    have hissues : issues (tscaddOf f i) s k t = true := by
      rcases hi with ⟨rfl, hi⟩ | ⟨rfl, hi⟩ <;> exact hi
    refine does_of_next (exec_tscaddOf f i s) hissues ?_
    unfold scaddAct
    refine (hindex _).trans ?_
    simp only [hadd]

end Sys2Proof.Machine
end

section
/-! Integer codes and values of an element (04 R89, R90). -/

namespace Sys2Proof.Machine

theorem intCode_congr {d : Nat} {z w : Int} (h : z % 2 ^ elemBits d = w % 2 ^ elemBits d) : intCode d z = intCode d w := by
  rw [intCode, intCode, h]

theorem natCast_intCode (d : Nat) (z : Int) : (intCode d z : Int) = z % 2 ^ elemBits d :=
  Int.toNat_of_nonneg (Int.emod_nonneg z (by positivity))

theorem intVal_emod (d c : Nat) : intVal d c % 2 ^ elemBits d = c % 2 ^ elemBits d := by
  unfold intVal sextInt
  split
  · next h => subst h; simp [elemBits]
  · dsimp only
    split <;> push_cast <;> simp

/-- The value of an element is that of its low bits. -/
theorem intVal_of_emod {d c e : Nat} (h : (c : Int) % 2 ^ elemBits d = e % 2 ^ elemBits d) : intVal d c = intVal d e := by
  have hmod : c % 2 ^ elemBits d = e % 2 ^ elemBits d := by exact_mod_cast h
  unfold intVal sextInt
  split
  · next hd => subst hd; exact congrArg Nat.cast hmod
  · rw [hmod]

theorem intCode_intVal_intCode (d : Nat) (z : Int) : intCode d (intVal d (intCode d z)) = intCode d z :=
  intCode_congr (by rw [intVal_emod, natCast_intCode, Int.emod_emod])

theorem intVal_intCode_intVal (d c : Nat) : intVal d (intCode d (intVal d c)) = intVal d c :=
  intVal_of_emod (by rw [natCast_intCode, Int.emod_emod, intVal_emod])

theorem intVal_bounds (d c : Nat) : intLo d ≤ intVal d c ∧ intVal d c ≤ intHi d := by
  unfold intVal intLo intHi sextInt
  split
  · omega
  · have hbits : 0 < elemBits d := by unfold elemBits; split <;> decide
    have hpow : (2 : Int) ^ elemBits d = 2 * 2 ^ (elemBits d - 1) := by rw [← pow_succ', Nat.sub_add_cancel hbits]
    have hlt : (c : Int) % 2 ^ elemBits d < 2 ^ elemBits d := Int.emod_lt_of_pos _ (by positivity)
    have hnonneg : 0 ≤ (c : Int) % 2 ^ elemBits d := Int.emod_nonneg _ (by positivity)
    dsimp only
    split <;> rename_i h <;> zify at h <;> push_cast <;> omega

end Sys2Proof.Machine
end

section
/-! The result of an integer reduction: whatever its tree, the fold of the elements (04 R109; 09 R199, R200). -/

namespace Sys2Proof.Machine

/-! The operation on integers and on codes. -/

/-- A reduction's operation on integers: 0 add, 1 min, 2 max. -/
def redOp (op : Nat) (x y : Int) : Int :=
  match op with
  | 0 => x + y
  | 1 => min x y
  | _ => max x y

/-- Its identity over format d. -/
def redUnit (d op : Nat) : Int :=
  match op with
  | 0 => 0
  | 1 => intHi d
  | _ => intLo d

/-- One step of a reduction as an operation on codes. -/
def redCode (fpctl : Word) (d op a b : Nat) : Nat := (redStep fpctl d op a b).code

theorem redOp_assoc (op : Nat) (x y z : Int) : redOp op (redOp op x y) z = redOp op x (redOp op y z) := by
  match op with
  | 0 => exact Int.add_assoc x y z
  | 1 => exact min_assoc x y z
  | _ + 2 => exact max_assoc x y z

/-- min and max select one of their operands. -/
theorem redOp_selects {op : Nat} (h : op ≠ 0) (x y : Int) : redOp op x y = x ∨ redOp op x y = y := by
  match op, h with
  | 1, _ => exact min_choice x y
  | _ + 2, _ => exact max_choice x y

theorem redOp_redUnit (d op c : Nat) : redOp op (redUnit d op) (intVal d c) = intVal d c := by
  obtain ⟨hlo, hhi⟩ := intVal_bounds d c
  match op with
  | 0 => exact Int.zero_add _
  | 1 => exact min_eq_right hhi
  | _ + 2 => exact max_eq_right hlo

theorem redIdentity_int {d : Nat} (hd : isIntFmt d = true) (op : Nat) : redIdentity d op = intCode d (redUnit d op) := by
  match op with
  | 0 => simp [redIdentity, redUnit, intCode]
  | 1 | _ + 2 => simp [redIdentity, redUnit, hd]

theorem redStep_int {fpctl : Word} {d : Nat} (hd : isIntFmt d = true) (op a b : Nat) :
    redStep fpctl d op a b = ⟨intCode d (redOp op (intVal d a) (intVal d b)), 0⟩ := by
  match op with
  | 0 => simp [redStep, redOp, hd]
  | 1 => simp [redStep, redOp, hd, min_def]
  | _ + 2 => simp [redStep, redOp, hd, max_def]

/-- Code c stands for the integer z: exactly under min and max, modulo the format's size under add. -/
def Stands (d op c : Nat) (z : Int) : Prop := intCode d (intVal d c) = intCode d z ∧ (op ≠ 0 → intVal d c = z)

theorem stands_intVal (d op c : Nat) : Stands d op c (intVal d c) := ⟨rfl, fun _ => rfl⟩

theorem intCode_add {d : Nat} {x y z w : Int} (hxz : intCode d x = intCode d z) (hyw : intCode d y = intCode d w) :
    intCode d (x + y) = intCode d (z + w) := by
  have hx : x % 2 ^ elemBits d = z % 2 ^ elemBits d := by rw [← natCast_intCode, ← natCast_intCode, hxz]
  have hy : y % 2 ^ elemBits d = w % 2 ^ elemBits d := by rw [← natCast_intCode, ← natCast_intCode, hyw]
  exact intCode_congr (by rw [Int.add_emod, hx, hy, ← Int.add_emod])

section
variable {fpctl : Word} {d op a b : Nat} {z w : Int} (hd : isIntFmt d = true)
include hd

theorem redCode_of_stands (ha : Stands d op a z) (hb : Stands d op b w) : redCode fpctl d op a b = intCode d (redOp op z w) := by
  obtain ⟨hamod, haeq⟩ := ha
  obtain ⟨hbmod, hbeq⟩ := hb
  rw [redCode, redStep_int hd]
  by_cases h : op = 0
  · subst h
    exact intCode_add hamod hbmod
  · rw [haeq h, hbeq h]

theorem Stands.redCode (ha : Stands d op a z) (hb : Stands d op b w) :
    Stands d op (redCode fpctl d op a b) (redOp op z w) := by
  refine ⟨?_, fun h => ?_⟩
  · rw [redCode_of_stands hd ha hb, intCode_intVal_intCode]
  · rw [redCode_of_stands hd ha hb, ← ha.2 h, ← hb.2 h]
    rcases redOp_selects h (intVal d a) (intVal d b) with hsel | hsel <;> rw [hsel, intVal_intCode_intVal]

end

theorem redCode_assoc {d : Nat} (hd : isIntFmt d = true) (fpctl : Word) (op : Nat) : Std.Associative (redCode fpctl d op) :=
  ⟨fun a b c => by
    have hs := stands_intVal d op
    rw [redCode_of_stands hd ((hs a).redCode hd (hs b)) (hs c), redCode_of_stands hd (hs a) ((hs b).redCode hd (hs c)),
      redOp_assoc]⟩

/-! The reduction's tree and its sequence, over any associative operation on codes. -/

/-- All of a list of partial results combined; none of no result. -/
def redAll (fpctl : Word) (d op : Nat) (l : List RedVal) : Option Nat :=
  (l.map fun v => some v.1).foldl (Option.merge (redCode fpctl d op)) none

/-- Two neighbours may be combined first. -/
theorem redAll_pair (fpctl : Word) (d op : Nat) (a b : RedVal) (n : Nat) (l : List RedVal) :
    redAll fpctl d op ((redCode fpctl d op a.1 b.1, n) :: l) = redAll fpctl d op (a :: b :: l) := rfl

theorem redAll_redOrdered (fpctl : Word) (d op : Nat) : ∀ (l : List RedVal) (v : RedVal) (fl : List (Nat × FpFlags)),
    redAll fpctl d op [(redOrdered fpctl d op l v fl).1] = redAll fpctl d op (v :: l)
  | [], _, _ => rfl
  | _ :: l, _, _ => redAll_redOrdered fpctl d op l _ _

section
variable {fpctl : Word} {d op : Nat} [Std.Associative (redCode fpctl d op)]

theorem redAll_append (l m : List RedVal) : redAll fpctl d op (l ++ m) =
    Option.merge (redCode fpctl d op) (redAll fpctl d op l) (redAll fpctl d op m) := by
  have h := List.foldl_assoc (op := Option.merge (redCode fpctl d op)) (l := m.map fun v => some v.1)
    (a₁ := redAll fpctl d op l) (a₂ := none)
  rw [Option.merge_none_right] at h
  rw [redAll, List.map_append, List.foldl_append]
  exact h

theorem redAll_cons (v : RedVal) (l : List RedVal) : redAll fpctl d op (v :: l) =
    Option.merge (redCode fpctl d op) (some v.1) (redAll fpctl d op l) := redAll_append [v] l

theorem redAll_redLevel : ∀ l, redAll fpctl d op (redLevel fpctl d op l).1 = redAll fpctl d op l
  | [] | [_] => rfl
  | a :: b :: l =>
    calc redAll fpctl d op ((redCode fpctl d op a.1 b.1, a.2) :: (redLevel fpctl d op l).1)
      _ = redAll fpctl d op ((redCode fpctl d op a.1 b.1, a.2) :: l) := by rw [redAll_cons, redAll_redLevel l, redAll_cons]
      _ = redAll fpctl d op (a :: b :: l) := redAll_pair fpctl d op a b _ l

end

theorem length_redLevel (fpctl : Word) (d op : Nat) : ∀ l, (redLevel fpctl d op l).1.length = (l.length + 1) / 2
  | [] => rfl
  | [_] => by simp [redLevel]
  | _ :: _ :: l => by
    have ih := length_redLevel fpctl d op l
    simp only [redLevel, List.length_cons]
    omega

section
variable {fpctl : Word} {d op : Nat} [Std.Associative (redCode fpctl d op)]

theorem redAll_redTree : ∀ (fuel : Nat) (l : List RedVal) (fl : List (Nat × FpFlags)), l.length ≤ fuel →
    redAll fpctl d op (redTree fpctl d op fuel l fl).1.toList = redAll fpctl d op l
  | 0, [], _, _ | _ + 1, [], _, _ | _ + 1, [_], _, _ => rfl
  | fuel + 1, a :: b :: l, fl, h => by
    have hlen := length_redLevel fpctl d op (a :: b :: l)
    simp only [List.length_cons] at h hlen
    exact (redAll_redTree fuel _ _ (by omega)).trans (redAll_redLevel (a :: b :: l))

/-- The trees of the slabs, one after the other. -/
theorem redAll_slabs (slabs : List (List RedVal)) :
    redAll fpctl d op ((slabs.map fun l => redTree fpctl d op (l.length + 1) l []).filterMap fun q => q.1) =
      redAll fpctl d op slabs.flatten := by
  induction slabs with
  | nil => rfl
  | cons l slabs ih =>
    have hsplit : ((l :: slabs).map fun l => redTree fpctl d op (l.length + 1) l []).filterMap (fun q => q.1) =
        (redTree fpctl d op (l.length + 1) l []).1.toList ++
          (slabs.map fun l => redTree fpctl d op (l.length + 1) l []).filterMap fun q => q.1 := by
      rw [List.map_cons, List.filterMap_cons]
      cases (redTree fpctl d op (l.length + 1) l []).1 <;> rfl
    rw [hsplit, redAll_append, ih, redAll_redTree _ _ _ (Nat.le_succ _), ← redAll_append, List.flatten_cons]

end

/-! A row's slabs, in either order of combination. -/

/-- The reduction of a row's slabs, given with their elements: in ascending column, or by trees. -/
def redSlabs (fpctl : Word) (d op : Nat) (ordered : Bool) (slabs : List (List RedVal)) : Option RedVal × List (Nat × FpFlags) :=
  if ordered then
    match slabs.flatten with
    | [] => (none, [])
    | v :: rest => ((redOrdered fpctl d op rest v []).1, (redOrdered fpctl d op rest v []).2)
  else
    let tops := slabs.map fun l => redTree fpctl d op (l.length + 1) l []
    redTree fpctl d op (tops.length + 1) (tops.filterMap fun q => q.1) (tops.flatMap fun q => q.2)

theorem redAll_toList (fpctl : Word) (d op : Nat) (o : Option RedVal) :
    redAll fpctl d op o.toList = o.map Prod.fst := by
  cases o <;> rfl

theorem redSlabs_value {fpctl : Word} {d op : Nat} [Std.Associative (redCode fpctl d op)] (ordered : Bool)
    (slabs : List (List RedVal)) :
    (redSlabs fpctl d op ordered slabs).1.map Prod.fst = redAll fpctl d op slabs.flatten := by
  rw [← redAll_toList fpctl d op]
  cases ordered with
  | true =>
    rw [redSlabs, if_pos rfl]
    split
    · next h => rw [h]; rfl
    · next v rest h => rw [h]; exact redAll_redOrdered fpctl d op rest v []
  | false =>
    refine (redAll_redTree _ _ _ ?_).trans (redAll_slabs slabs)
    exact (List.length_filterMap_le _ _).trans (Nat.le_succ _)

/-! The flags of an integer reduction: none. -/

/-- No step of a list has raised a flag. -/
def NoFlags (fl : List (Nat × FpFlags)) : Prop := ∀ e ∈ fl, e.2 = 0

theorem noFlags_append {l m : List (Nat × FpFlags)} (hl : NoFlags l) (hm : NoFlags m) : NoFlags (l ++ m) :=
  List.forall_mem_append.mpr ⟨hl, hm⟩

theorem noFlags_flatMap {α : Type} {g : α → List (Nat × FpFlags)} {l : List α} (h : ∀ x ∈ l, NoFlags (g x)) :
    NoFlags (l.flatMap g) := fun e he =>
  have ⟨x, hx, hex⟩ := List.mem_flatMap.mp he
  h x hx e hex

theorem allFlags_of_noFlags {fl : List (Nat × FpFlags)} (h : NoFlags fl) : allFlags fl = 0 := by
  induction fl with
  | nil => rfl
  | cons e fl ih =>
    obtain ⟨he, hfl⟩ := List.forall_mem_cons.mp h
    rw [allFlags, List.foldl_cons, he, BitVec.or_self]
    exact ih hfl

section
variable {fpctl : Word} {d : Nat} (hd : isIntFmt d = true) (op : Nat)
include hd

theorem redLevel_noFlags : ∀ l, NoFlags (redLevel fpctl d op l).2
  | [] | [_] => List.forall_mem_nil _
  | a :: b :: l => List.forall_mem_cons.mpr ⟨by rw [redStep_int hd], redLevel_noFlags l⟩

theorem redTree_noFlags : ∀ (fuel : Nat) (l : List RedVal) {fl : List (Nat × FpFlags)}, NoFlags fl →
    NoFlags (redTree fpctl d op fuel l fl).2
  | 0, _, _, h | _ + 1, [], _, h | _ + 1, [_], _, h => h
  | fuel + 1, a :: b :: l, _, h => redTree_noFlags fuel _ (noFlags_append h (redLevel_noFlags hd op (a :: b :: l)))

theorem redOrdered_noFlags : ∀ (l : List RedVal) (v : RedVal) {fl : List (Nat × FpFlags)}, NoFlags fl →
    NoFlags (redOrdered fpctl d op l v fl).2
  | [], _, _, h => h
  | _ :: l, _, _, h => redOrdered_noFlags l _ (noFlags_append h
      (List.forall_mem_singleton.mpr (by rw [redStep_int hd])))

theorem redSlabs_noFlags (ordered : Bool) (slabs : List (List RedVal)) : NoFlags (redSlabs fpctl d op ordered slabs).2 := by
  have hnil : NoFlags [] := List.forall_mem_nil _
  cases ordered with
  | true =>
    rw [redSlabs, if_pos rfl]
    split
    · exact hnil
    · exact redOrdered_noFlags hd op _ _ hnil
  | false =>
    refine redTree_noFlags hd op _ _ (noFlags_flatMap fun q hq => ?_)
    obtain ⟨l, _, rfl⟩ := List.mem_map.mp hq
    exact redTree_noFlags hd op _ l hnil

end

/-! The fold that the codes stand for. -/

section
variable {fpctl : Word} {d op : Nat} (hd : isIntFmt d = true)
include hd

theorem redAll_of_stands : ∀ (l : List RedVal) (v : RedVal) (z : Int), v.1 = intCode d z → Stands d op v.1 z →
    redAll fpctl d op (v :: l) = some (intCode d (l.foldl (fun m x => redOp op m (intVal d x.1)) z))
  | [], _, _, hv, _ => congrArg some hv
  | x :: l, v, _, _, hz =>
    have hx := stands_intVal d op x.1
    redAll_of_stands l (redCode fpctl d op v.1 x.1, 0) _ (redCode_of_stands hd hz hx) (hz.redCode hd hx)

/-- The codes of a list, combined, are the code of the fold of their values. -/
theorem redAll_eq_fold {l : List RedVal} (hl : ∀ v ∈ l, ∃ z, v.1 = intCode d z) :
    (redAll fpctl d op l).getD (redIdentity d op) =
      intCode d (l.foldl (fun m x => redOp op m (intVal d x.1)) (redUnit d op)) := by
  cases l with
  | nil => exact redIdentity_int hd op
  | cons v l =>
    obtain ⟨z, hz⟩ := hl v List.mem_cons_self
    have hv : v.1 = intCode d (intVal d v.1) := by rw [hz, intCode_intVal_intCode]
    rw [List.foldl_cons, redOp_redUnit, redAll_of_stands hd l v _ hv (stands_intVal d op v.1)]
    rfl

end

/-! A row of the reduction (09 R199). -/

theorem upFrom_eq_range' (a n : Nat) : upFrom a n = List.range' a n := by
  induction n generalizing a with
  | zero => rfl
  | succ n ih => rw [upFrom, List.range'_succ, ih]

/-- The numbers of consecutive groups of c, one after the other. -/
theorem upFrom_mul (lo g c : Nat) : upFrom lo (g * c) = (upFrom 0 g).flatMap fun j => upFrom (lo + j * c) c := by
  simp only [upFrom_eq_range']
  induction g with
  | zero => simp
  | succ g ih => rw [Nat.succ_mul, ← List.range'_append_1, ih, List.range'_1_concat, List.flatMap_append, Nat.zero_add,
      List.flatMap_singleton]

/-- The elements of a row by slab, in D's format. -/
def rowSlabs (t : Thread) (f : RForm) (x : Tile) (d r : Nat) : List (List RedVal) :=
  (upFrom 0 (gangWidth t)).map fun j =>
    (slabElems t f x r j).map fun n => (widen (fpctlOf t) (tileFmt x) d (elemAt x n), n)

theorem rowSlabs_flatten (t : Thread) (f : RForm) (x : Tile) (d r : Nat) : (rowSlabs t f x d r).flatten =
    ((upFrom (r * rowLen (gangWidth t) x) (rowLen (gangWidth t) x)).filter (enabledAt t f)).map
      fun n => (widen (fpctlOf t) (tileFmt x) d (elemAt x n), n) := by
  rw [show rowLen (gangWidth t) x = gangWidth t * tileCols x from rfl, upFrom_mul, List.filter_flatMap, List.map_flatMap,
    List.flatMap_def]
  rfl

section
variable {t : Thread} {f : RForm} {x : Tile} {d : Nat} (hd : isIntFmt d = true) (op : Nat) (ordered : Bool) (r : Nat)
include hd

theorem redRow_int : redRow t f x d op ordered r =
    (((redSlabs (fpctlOf t) d op ordered (rowSlabs t f x d r)).1.map Prod.fst).getD (redIdentity d op),
      if (redSlabs (fpctlOf t) d op ordered (rowSlabs t f x d r)).1.isSome
      then (redSlabs (fpctlOf t) d op ordered (rowSlabs t f x d r)).2 else []) := by
  have hfloat : isFloatFmt d = false := by
    simp only [isIntFmt, decide_eq_true_eq] at hd
    simp only [isFloatFmt, Bool.and_eq_false_iff, decide_eq_false_iff_not]
    omega
  simp only [redRow, hfloat, Bool.and_false]
  change (match (redSlabs (fpctlOf t) d op ordered (rowSlabs t f x d r)).1 with | none => _ | some v => _) = _
  cases (redSlabs (fpctlOf t) d op ordered (rowSlabs t f x d r)).1 <;> rfl

theorem redRow_noFlags : NoFlags (redRow t f x d op ordered r).2 := by
  rw [redRow_int hd]
  dsimp only
  split
  · exact redSlabs_noFlags hd op ordered _
  · exact List.forall_mem_nil _

theorem redRow_value (hx : isIntFmt (tileFmt x) = true) : (redRow t f x d op ordered r).1 =
    intCode d ((((upFrom (r * rowLen (gangWidth t) x) (rowLen (gangWidth t) x)).filter (enabledAt t f)).map
      fun n => intVal d (intCode d (intVal (tileFmt x) (elemAt x n)))).foldl (redOp op) (redUnit d op)) := by
  have := redCode_assoc hd (fpctlOf t) op
  have hwiden (n : Nat) : widen (fpctlOf t) (tileFmt x) d (elemAt x n) = intCode d (intVal (tileFmt x) (elemAt x n)) := by
    rw [widen, if_pos hx]
  rw [redRow_int hd, redSlabs_value, rowSlabs_flatten]
  dsimp only
  rw [redAll_eq_fold hd, List.foldl_map, List.foldl_map]
  · simp only [hwiden]
  · intro v hv
    obtain ⟨n, _, rfl⟩ := List.mem_map.mp hv
    exact ⟨_, hwiden n⟩

end

/-- One value for each row, at every element of D's row. -/
theorem rowResults_eq (t : Thread) (rows : Nat) (v : Nat → Nat) :
    rowResults t ((upFrom 0 rows).map v) = (upFrom 0 (rows * gangWidth t)).map fun n => (n, v (n / gangWidth t)) := by
  have hrow (r : Nat) : ((upFrom 0 (gangWidth t)).map fun j => (r * gangWidth t + j, v r)) =
      (upFrom (0 + r * gangWidth t) (gangWidth t)).map fun n => (n, v (n / gangWidth t)) := by
    rw [Nat.zero_add, upFrom_eq_range', upFrom_eq_range', ← Nat.add_zero (r * gangWidth t), ← List.map_add_range',
      List.map_map]
    refine List.map_congr_left fun j hj => ?_
    obtain ⟨_, hlt⟩ := List.mem_range'_1.mp hj
    have hdiv : (r * gangWidth t + j) / gangWidth t = r := by
      rw [Nat.mul_comm, Nat.mul_add_div (by omega), Nat.div_eq_of_lt (by omega), Nat.add_zero]
    simp only [Function.comp, Nat.add_zero, hdiv]
  have hzip : ((upFrom 0 rows).map v).zipIdx = (upFrom 0 rows).map fun r => (v r, r) := by
    refine List.ext_getElem? fun i => ?_
    simp only [List.getElem?_zipIdx, List.getElem?_map, upFrom_getElem?]
    split <;> simp
  rw [rowResults, hzip, List.flatMap_map, upFrom_mul, List.map_flatMap]
  simp only [hrow]

end Sys2Proof.Machine
end

section
/-! Reductions, argmax, quantisation, its inverse and the quantised add (04 R99 to R105, R109, R110; 09 R199 to R204). -/

namespace Sys2Proof.Machine

/-! The wait for the tiles that stand beside an instruction's fields, and the checks after it (08 R178). -/

section
variable {s : State} {k : Nat} {t : Thread} {locks : List (Nat × Bool)} {checks : List (Bool × Nat × Word)} {go : Unit → Act}

theorem lockThen_trap {c : Nat} {info : Word} (hl : lockWait s k t locks = none) (hb : firstBad checks = some (c, info)) :
    lockThen s k t locks checks go = .trap s c info := by
  simp only [lockThen, hl, hb]

theorem lockThen_pass (hl : lockWait s k t locks = none) (hc : firstBad checks = none) :
    lockThen s k t locks checks go = go () := by
  simp only [lockThen, hl, hc]

end

/-! The end of an instruction whose elements raise flags, with no trap enabled (04 R94, R96). -/

section
variable {i : Instr} {s : State} {k lat : Nat} {t : Thread} {act : State → Nat → Thread → Act}

/-- The state in which the thread has accumulated flags that an instruction of latency lat raises. -/
def accruedState (s : State) (k lat : Nat) (fl : FpFlags) : State := modThr s k fun u => accrued u fl (s.clk + lat)

theorem does_of_floatEnd {fl : List (Nat × FpFlags)} {good : State → State} (ht : fpTrapsOn (fpctlOf t) = false)
    (he : exec i s = run i s act) (hi : issues i s k t = true) (ha : act s k t = floatEnd s k lat t fl good) :
    Does i s k t (good (accruedState s k lat (allFlags fl))) :=
  does_of_next he hi (ha.trans (floatEnd_quiet s k lat good (fpCause_eq_none_of_trapsOff ht _)))

theorem does_of_vecEnd {d : Nat} {f : RForm} {x : Tile} {r : Nat → FpRes} {reads : List Nat}
    (ht : fpTrapsOn (fpctlOf t) = false) (he : exec i s = run i s act) (hi : issues i s k t = true)
    (ha : act s k t = vecEnd s k lat t d (elemResults t f x r) reads) :
    Does i s k t (tileEnd (accruedState s k lat ((enabledElems t f x).foldl (fun m n => m ||| (r n).flags) 0)) k lat
      [(d, setElems (tileOf t d) ((enabledElems t f x).map fun n => (n, (r n).code)))] reads) := by
  rw [vecEnd, elemResults_codes] at ha
  have h := does_of_floatEnd ht he hi ha
  rwa [allFlags_elemResults] at h

/-- What vquant and bqadd leave: D's elements and BAND, and its scale bytes. -/
def quantState (s : State) (k lat : Nat) (t : Thread) (d : Nat) (q : Quant) (reads : List Nat) : State :=
  tileEnd (accruedState s k lat q.flags) k lat
    [(d, setElems { tileOf t d with cfg := setBits (tileOf t d).cfg 24 16 q.band } q.elems),
     (cfgScale (tileOf t d).cfg, setElems (tileOf t (cfgScale (tileOf t d).cfg)) q.scales)] reads

theorem does_of_quantEnd {d : Nat} {bad : Option Nat} {q : Quant} {reads : List Nat} (ht : fpTrapsOn (fpctlOf t) = false)
    (he : exec i s = run i s act) (hi : issues i s k t = true) (ha : act s k t = quantEnd s k lat t d bad q reads) :
    Does i s k t (quantState s k lat t d q reads) := by
  rw [quantEnd] at ha
  have h := does_of_floatEnd ht he hi ha
  rwa [show allFlags [(bad.getD 0, q.flags)] = q.flags from BitVec.zero_or] at h

end

/-! The band of a quantisation (04 R104, R105). -/

theorem find?_upFrom_none {p : Nat → Bool} {n : Nat} (h : ∀ m, m < n → p m = true) :
    (upFrom 0 n).find? (fun m => !p m) = none :=
  List.find?_eq_none.mpr fun m hm => by simp [h m (by simpa using ((mem_upFrom 0 n m).mp hm).2)]

theorem find?_upFrom_isSome {p : Nat → Bool} {n : Nat} (h : ∃ m, m < n ∧ p m = false) :
    ((upFrom 0 n).find? fun m => !p m).isSome = true := by
  obtain ⟨m, hm, hp⟩ := h
  exact List.find?_isSome.mpr ⟨m, (mem_upFrom 0 n m).mpr ⟨Nat.zero_le m, by omega⟩, by simp [hp]⟩

section
variable {f : RForm} {s : State} {k : Nat} {t : Thread}

/-! vred. -/

/-- The rows of vred, with their steps' flags, and its latency (09 R197, R199). -/
def vredRows (t : Thread) (f : RForm) : List (Nat × List (Nat × FpFlags)) :=
  (upFrom 0 (tileRows (tileOf t f.a.toNat))).map
    (redRow t f (tileOf t f.a.toNat) (tileFmt (tileOf t f.d.toNat)) (tailMod f.t) f.q)

def vredTime (t : Thread) (f : RForm) : Nat :=
  8 + ceilDiv (max (slabBytes (tileOf t f.d.toNat)) (slabBytes (tileOf t f.a.toNat))) 128 +
    (if f.q && tailMod f.t == 0 then 4 * rowLen (gangWidth t) (tileOf t f.a.toNat) else 5 * treeLevels t f (tileOf t f.a.toNat))

def vredChecks (t : Thread) (f : RForm) : List (Bool × Nat × Word) :=
  unconfigured t ([f.d.toNat, f.a.toNat] ++ maskNums f) ++
    [badFmt (!arithFmt (tileFmt (tileOf t f.a.toNat))) f.a.toNat,
     badFmt (!vredPair (tileFmt (tileOf t f.a.toNat)) (tileFmt (tileOf t f.d.toNat))) f.d.toNat] ++ maskFmt t f ++
    [badShape (!columnOf (tileOf t f.d.toNat) (tileOf t f.a.toNat)) f.d.toNat] ++ maskShape t f (tileOf t f.a.toNat)

/-- Past its checks vred ends with the flags of all rows and one value for each. -/
theorem exec_vred (hc : firstBad (vredChecks t f) = none) :
    ∃ act, exec (.vred f) s = run (.vred f) s act ∧
      let lat := (if tileFmt (tileOf t f.d.toNat) = 11 ∨ tileFmt (tileOf t f.a.toNat) = 11 then 2 else 1) * vredTime t f
      act s k t = floatEnd s k lat t ((vredRows t f).flatMap fun r => r.2) fun s1 => tileEnd s1 k lat
        [(f.d.toNat, setElems (tileOf t f.d.toNat) (rowResults t ((vredRows t f).map fun r => r.1)))]
        (f.a.toNat :: maskNums f) := by
  rw [vredChecks] at hc
  refine ⟨_, rfl, ?_⟩
  simp only [hc, Bool.or_eq_true, beq_iff_eq]
  rfl

theorem vred_does (ht : fpTrapsOn (fpctlOf t) = false) (hi : issues (.vred f) s k t = true)
    (hc : firstBad (vredChecks t f) = none) :
    let lat := (if tileFmt (tileOf t f.d.toNat) = 11 ∨ tileFmt (tileOf t f.a.toNat) = 11 then 2 else 1) * vredTime t f
    Does (.vred f) s k t (tileEnd (accruedState s k lat (allFlags ((vredRows t f).flatMap fun r => r.2))) k lat
      [(f.d.toNat, setElems (tileOf t f.d.toNat) (rowResults t ((vredRows t f).map fun r => r.1)))]
      (f.a.toNat :: maskNums f)) := by
  obtain ⟨act, he, ha⟩ := exec_vred (s := s) (k := k) hc
  exact does_of_floatEnd ht he hi ha

theorem vredPair_int {a d : Nat} (ha : isIntFmt a = true) (h : vredPair a d = true) : isIntFmt d = true := by
  simp only [isIntFmt, vredPair, decide_eq_true_eq] at ha h ⊢
  split at h
  · simp only [Bool.or_eq_true, Bool.and_eq_true, beq_iff_eq, decide_eq_true_eq] at h
    omega
  · split at h <;> simp only [Bool.or_eq_true, Bool.and_eq_true, beq_iff_eq, decide_eq_true_eq] at h <;> omega

/-- The value of a row of an integer reduction. -/
def rowFold (t : Thread) (f : RForm) (x y : Tile) (r : Nat) : Int :=
  (((upFrom (r * rowLen (gangWidth t) y) (rowLen (gangWidth t) y)).filter (enabledAt t f)).map
    fun n => intVal (tileFmt x) (intCode (tileFmt x) (intVal (tileFmt y) (elemAt y n)))).foldl
      (redOp (tailMod f.t)) (redUnit (tileFmt x) (tailMod f.t))

/-- vred over integer formats raises no flag and leaves each row's fold at every element of D's row. -/
theorem vred_int (hs : straight t = true) (hi : issues (.vred f) s k t = true)
    (hint : isIntFmt (tileFmt (tileOf t f.a.toNat)) = true) (hc : firstBad (vredChecks t f) = none) :
    TileResult (.vred f) s k t f.d.toNat (vredTime t f) (fun n =>
      if n < tileRows (tileOf t f.a.toNat) * gangWidth t
      then intCode (tileFmt (tileOf t f.d.toNat)) (rowFold t f (tileOf t f.d.toNat) (tileOf t f.a.toNat) (n / gangWidth t))
      else elemAt (tileOf t f.d.toNat) n) := by
  have hpair : vredPair (tileFmt (tileOf t f.a.toNat)) (tileFmt (tileOf t f.d.toNat)) = true := by
    simpa [badFmt] using firstBad_eq_none_iff.mp hc
      (badFmt (!vredPair (tileFmt (tileOf t f.a.toNat)) (tileFmt (tileOf t f.d.toNat))) f.d.toNat) (by simp [vredChecks])
  have hd := vredPair_int hint hpair
  have hlat : ¬ (tileFmt (tileOf t f.d.toNat) = 11 ∨ tileFmt (tileOf t f.a.toNat) = 11) := by
    simp only [isIntFmt, decide_eq_true_eq] at hint hd
    omega
  have hflags : NoFlags ((vredRows t f).flatMap fun r => r.2) := by
    refine noFlags_flatMap fun q hq => ?_
    obtain ⟨r, _, rfl⟩ := List.mem_map.mp hq
    exact redRow_noFlags hd _ _ r
  have hquiet : fpCause (fpctlOf t) (allFlags ((vredRows t f).flatMap fun r => r.2)) = none := by
    rw [allFlags_of_noFlags hflags]
    simp [fpCause]
  have hrows : (vredRows t f).map (fun r => r.1) = (upFrom 0 (tileRows (tileOf t f.a.toNat))).map fun r =>
      intCode (tileFmt (tileOf t f.d.toNat)) (rowFold t f (tileOf t f.d.toNat) (tileOf t f.a.toNat) r) := by
    rw [vredRows, List.map_map]
    exact List.map_congr_left fun r _ => redRow_value hd _ _ r hint
  obtain ⟨act, he, ha⟩ := exec_vred (s := s) (k := k) hc
  simp only [if_neg hlat, Nat.one_mul, floatEnd_quiet s k _ _ hquiet, hrows, rowResults_eq] at ha
  refine tileResult_of_tileEnd he hs hi (.accrued _ _ (issues_thr hi)) ha (cfg_setElems _ _) fun n => ?_
  rw [elemAt_setElems_map]
  exact if_congr (by simp [mem_upFrom]) rfl rfl

/-- Settles O32: the integer folds by the associativity of their codes, and each opcode by the path past its checks. -/
theorem reductions : Obligations.Reductions := by
  refine ⟨fun f s k t hs => ?int, fun f s k t ht => ?all⟩
  case int =>
    intro d x y g on vals lat row hi hint _ hc
    have hrow (r : Nat) : row r = rowFold t f x y r := by
      simp only [row, rowFold]
      generalize tailMod f.t = op
      match op with
      | 0 | 1 | _ + 2 => rfl
    simp only [hrow]
    exact vred_int hs hi hint hc
  case all =>
    dsimp only
    refine ⟨?vred, ?vargmax, ?vdeq, ?vquant, ?bqadd⟩
    case vred =>
      intro hi hc
      have h := vred_does ht hi hc
      simp only [vredTime, Bool.and_eq_true, beq_iff_eq] at h
      exact h
    case vargmax =>
      intro hi hc
      refine does_of_next rfl hi ?_
      simp only [hc, beq_iff_eq]
    case vdeq =>
      intro hi hc hl
      exact does_of_vecEnd ht rfl hi (lockThen_pass hl hc)
    case vquant =>
      intro hi hc hl
      have h := does_of_quantEnd (i := .vquant f) ht rfl hi (lockThen_pass hl hc)
      refine ⟨fun hfin hgiven => ?_, fun hbad => ?_⟩
      · rw [find?_upFrom_none hfin, if_neg] at h
        · exact h
        · simpa using hgiven
      · rw [if_pos] at h
        · exact h
        · rw [Bool.or_eq_true]
          exact hbad.imp find?_upFrom_isSome fun ⟨hq, hgiven⟩ => by rw [hq, hgiven]; rfl
    case bqadd =>
      intro hi hc hl
      have h := does_of_quantEnd (i := .bqadd f) ht rfl hi (lockThen_pass hl hc)
      refine ⟨fun hfin => ?_, fun hbad => ?_⟩
      · rw [find?_upFrom_none hfin] at h
        exact h
      · rw [if_pos (find?_upFrom_isSome hbad)] at h
        exact h

end

end Sys2Proof.Machine
end

section
/-! Matrix operations: their issue, the queues of the slabs, and the part of the product that a slab writes (04 R107; 09
R205 to R210). -/

namespace Sys2Proof.Machine

/-! Issue of mma and mmasp (09 R205, R207, R208). -/

theorem matAct_pass {f : RForm} {s : State} {k : Nat} {t : Thread} {sp : Bool}
    (hl : lockWait s k t (matExtra t f.a.toNat f.b.toNat sp) = none)
    (hc : firstBad (matChecks t f.d.toNat f.a.toNat f.b.toNat sp) = none) :
    matAct s k t f sp = if matFull s (coreOf k) then .wait s { kind := .matrix, cause := 0x58 }
      else .next (enterMatrix s k t f.d.toNat f.a.toNat f.b.toNat (tailMod f.t % 8) sp (tailMod f.t / 8 % 2 == 1) none) := by
  rw [matAct, lockThen_pass hl hc]

section
variable {i : Instr} {f : RForm} {s : State} {k : Nat} {t : Thread} {sp : Bool}
  (he : exec i s = run i s fun s k t => matAct s k t f sp) (hi : issues i s k t = true)
  (hl : lockWait s k t (matExtra t f.a.toNat f.b.toNat sp) = none)
include he hi hl

theorem matrix_traps {c : Nat} {info : Word} (hb : firstBad (matChecks t f.d.toNat f.a.toNat f.b.toNat sp) = some (c, info)) :
    Traps i s s k c info t.pc :=
  traps_of_trap he hi (by rw [matAct]; exact lockThen_trap hl hb)

variable (hc : firstBad (matChecks t f.d.toNat f.a.toNat f.b.toNat sp) = none)
include hc

theorem matrix_enters (hroom : matFull s (coreOf k) = false) :
    Does i s k t (enterMatrix s k t f.d.toNat f.a.toNat f.b.toNat (tailMod f.t % 8) sp (tailMod f.t / 8 % 2 == 1) none) :=
  does_of_next he hi ((matAct_pass hl hc).trans (if_neg (Bool.eq_false_iff.mp hroom)))

theorem matrix_waits (hfull : matFull s (coreOf k) = true) :
    exec i s = .next (tick (enterWait s k (wordsOf i) { kind := .matrix, cause := 0x58 })) :=
  waits_of_wait he hi ((matAct_pass hl hc).trans (if_pos hfull))

end

/-! Entering the queues (09 R208). -/

section
variable (s : State) (k : Nat) (t : Thread) (d a b pri : Nat) (sp zero : Bool) (chain : Option Nat)

/-- The record of an operation that enters the queues: its tiles' locks, and one part to come from each slab. -/
def enteredOp : MatOp :=
  ⟨k, d, [d, readLock a, readLock b] ++
    (if cfgSen (tileOf t a).cfg then [readLock (cfgScale (tileOf t a).cfg)] else []) ++
    (if cfgSen (tileOf t b).cfg then [readLock (cfgScale (tileOf t b).cfg)] else []) ++
    (if sp then [readLock (cfgMeta (tileOf t a).cfg)] else []), (slabsOf s (coreOf k)).length, 0, [], [], chain⟩

/-- The state beside the slabs' queues and the events that start their entries. -/
def besideQueues (s : State) : State := { s with matq := [], agenda := [] }

theorem besideQueues_enterMatrix : besideQueues (enterMatrix s k t d a b pri sp zero chain) =
    besideQueues { s with nextId := s.nextId + 1, matops := s.matops.put s.nextId (enteredOp s k t d a b sp chain) } :=
  foldl_keeps besideQueues _ (fun m slab => by dsimp only; split <;> rfl) _ _

theorem enterMatrix_matops :
    (enterMatrix s k t d a b pri sp zero chain).matops = s.matops.put s.nextId (enteredOp s k t d a b sp chain) :=
  (congrArg State.matops (besideQueues_enterMatrix s k t d a b pri sp zero chain) :)

theorem enterMatrix_threads : (enterMatrix s k t d a b pri sp zero chain).threads = s.threads :=
  (congrArg State.threads (besideQueues_enterMatrix s k t d a b pri sp zero chain) :)

theorem enterMatrix_sameMemory : SameMemory s (enterMatrix s k t d a b pri sp zero chain) :=
  have h := besideQueues_enterMatrix s k t d a b pri sp zero chain
  ⟨(congrArg State.mem h :), (congrArg State.vmem h :), (congrArg State.tags h :), (congrArg State.l1d h :)⟩

end

/-! A slab's queue (09 R209). -/

section
variable {s : State} {slab : Nat} {e : MatEntry}

theorem queueOf_setQueue (s : State) (slab : Nat) (q : List MatEntry) (j : Nat) :
    queueOf (setQueue s slab q) j = if slab = j then q else queueOf s j :=
  Tab.getD_putD _ _ _ _ _

theorem startBest_running (h : ∃ e, e ∈ queueOf s slab ∧ e.started = true) : startBest s slab = s :=
  if_pos (List.any_eq_true.mpr h)

theorem startBest_waiting (h : ∀ x, x ∈ queueOf s slab → x.started = false)
    (hbest : bestWaiting s (queueOf s slab) = some e) : startBest s slab = startEntry s slab e false := by
  have hidle : ¬ (queueOf s slab).any (fun e => e.started) = true := by simpa using h
  simp only [startBest, if_neg hidle, hbest]

theorem startBest_empty (h : queueOf s slab = []) : startBest s slab = s := by
  rw [startBest, h]
  rfl

theorem nextEntry_empty (h : queueOf s slab = []) : nextEntry s slab = s := by
  rw [nextEntry, h]
  rfl

theorem kstepBoundary_last {rest : List MatEntry} (hq : queueOf s slab = e :: rest) (hs : e.started = true)
    (hop : (s.matops.get? e.op).isSome = true) (hlast : e.steps ≤ e.done + 1) :
    kstepBoundary s slab =
      sched (setQueue s slab ({ e with done := e.done + 1 } :: rest)) s.clk (.matrixEntryComplete slab) := by
  have hlive : ¬ (s.matops.get? e.op).isNone = true := by simpa [← Option.isSome_iff_ne_none] using hop
  simp only [kstepBoundary, hq, hs, if_neg hlive, if_pos hlast]
  rfl

theorem kstepBoundary_alone (hq : queueOf s slab = [e]) (hs : e.started = true)
    (hop : (s.matops.get? e.op).isSome = true) (hmore : e.done + 1 < e.steps) :
    kstepBoundary s slab = sched (setQueue s slab [{ e with done := e.done + 1 }]) (s.clk + entryStep s e)
      (.matrixKstepBoundary slab) := by
  have hlive : ¬ (s.matops.get? e.op).isNone = true := by simpa [← Option.isSome_iff_ne_none] using hop
  have hnone (v : State) : (if e.overtook = true then none else
      (bestWaiting v []).bind fun x => if e.pri < effPri v x then some x else none) = none := ite_self none
  simp only [kstepBoundary, hq, hs, if_neg hlive, if_neg hmore.not_ge, hnone]
  rfl

end

/-! The part of D that a slab writes (09 R206, R208). -/

section
variable {s : State} {t u : Thread} {slab : Nat} {e : MatEntry} {m : MatOp}

theorem tileErrors_clean (h : s.badEcc = []) (k inst : Nat) (ns : List Nat) : tileErrors s t k inst ns = (s, []) := by
  have hnone (n : Nat) : findEcc s 1 inst (t.tbase + n) = none := by rw [findEcc, h]; rfl
  induction ns with
  | nil => rfl
  | cons n ns ih =>
    rw [tileErrors, List.foldl_cons, hnone]
    exact ih

/-- The state with an operation's record replaced. -/
def putOp (s : State) (op : Nat) (m : MatOp) : State := { s with matops := s.matops.put op m }

theorem thr_putOp (s : State) (op : Nat) (m : MatOp) (k : Nat) : thr (putOp s op m) k = thr s k := rfl

/-- Tile D of entry e with the part that slab 0 computes for thread u. -/
def partTile (u : Thread) (e : MatEntry) (x : Tile) : Tile :=
  setElems x ((matPart u (gangWidth u) e.d e.a e.b e.sparse e.zero 0).map fun r => (r.1, r.2.code))

/-- The state once slab 0 has written its part of entry e, the only one of its queue, for thread u. -/
def partWritten (s : State) (slab : Nat) (u : Thread) (e : MatEntry) : State :=
  modThr (setQueue (perfBump s (partOf u) 6) slab []) e.thread fun v =>
    { v with tiles := v.tiles.put e.d (partTile u e (tileOf v e.d)) }

theorem nextEntry_partWritten (op : Nat) (m : MatOp) :
    nextEntry (putOp (partWritten s slab u e) op m) slab = putOp (partWritten s slab u e) op m :=
  nextEntry_empty ((queueOf_setQueue (perfBump s (partOf u) 6) slab [] slab).trans (if_pos rfl))

theorem thr_partWritten (ht : thr s e.thread = some u) : thr (partWritten s slab u e) e.thread =
    some { u with tiles := u.tiles.put e.d (partTile u e (tileOf u e.d)) } :=
  thr_modThr_self (s := setQueue (perfBump s (partOf u) 6) slab []) _ ht

variable (hq : queueOf s slab = [e]) (ht : thr s e.thread = some u) (hm : s.matops.get? e.op = some m)
  (hleft : 1 < m.left) (hecc : s.badEcc = []) (hbad : m.badA = []) (hred : redundOf u = 0)
  (hslab : (slabsOf s (coreOf e.thread)).findIdx? (fun x => x == slab) = some 0)
include hq ht hm hleft hecc hbad hred hslab

/-- Without a stored error, slab 0's part of an operation on which other slabs still work is written, and the slab is idle. -/
theorem completeEntry_first :
    ∃ m1, completeEntry s slab = putOp (partWritten s slab u e) e.op m1 ∧ m1.left = m.left - 1 := by
  have hothers : ¬ m.left - 1 = 0 := by omega
  have hclean := tileErrors_clean (s := setQueue (perfBump s (partOf u) 6) slab []) (t := u) hecc
  have hthr : thr (setQueue (perfBump s (partOf u) 6) slab []) e.thread = some u := ht
  have hop : (setQueue (perfBump s (partOf u) 6) slab []).matops.get? e.op = some m := hm
  have hidx : (slabsOf (setQueue (perfBump s (partOf u) 6) slab []) (coreOf e.thread)).findIdx?
      (fun x => x == slab) = some 0 := hslab
  refine ⟨?record, Eq.trans ?part (nextEntry_partWritten e.op ?record), ?left⟩
  case part =>
    simp only [completeEntry, hq, ht, hthr, hop, hclean, hidx, hbad, hred, if_neg hothers]
    rfl
  case left => rfl

theorem matrixEntryComplete_first :
    ∃ s1 v, exec (.matrixEntryComplete slab) s = .next s1 ∧ thr s1 e.thread = some v ∧
      tileOf v e.d = partTile u e (tileOf u e.d) ∧
      (∀ n, n ≠ e.d → tileOf v n = tileOf u n) ∧ ∃ m1, s1.matops.get? e.op = some m1 ∧ m1.left = m.left - 1 := by
  obtain ⟨m1, hdone, hparts⟩ := completeEntry_first hq ht hm hleft hecc hbad hred hslab
  have htile := tileOf_put (t := u) (d := e.d) (y := partTile u e (tileOf u e.d))
    (u := { u with tiles := u.tiles.put e.d (partTile u e (tileOf u e.d)) }) rfl
  exact ⟨_, _, congrArg Host.Outcome.next hdone, (thr_putOp _ _ _ _).trans (thr_partWritten ht), (htile e.d).trans (if_pos rfl),
    fun n hn => (htile n).trans (if_neg (Ne.symm hn)), m1, Tab.get?_put_self _ _ _, hparts⟩

end

/-! One element of an integer product (04 R107; 09 R206). -/

theorem foldl_add_map {α : Type} (v : α → Int) (l : List α) (z : Int) :
    l.foldl (fun m x => m + v x) z = (l.map v).foldl (fun m x => m + x) 0 + z := by
  have hstart : (l.map v).foldl (fun m x => m + x) (z + 0) = z + (l.map v).foldl (fun m x => m + x) 0 := List.foldl_assoc
  rw [Int.add_comm _ z, ← hstart, Int.add_zero, List.foldl_map]

theorem matElem_int {t : Thread} {x : Tile} (hx : tileFmt x = 3) (g : Nat) (y z : Tile) (zero : Bool) (q i j : Nat) :
    matElem t g x y z false zero q i j = (i * (g * tileCols x) + q * tileCols x + j,
      ⟨intCode 3 (((List.range (tileCols y)).map fun c => intVal (tileFmt y) (elemAt y (i * (g * tileCols y) + c)) *
          intVal (tileFmt z) (elemAt z (j * (g * tileCols z) + q * tileCols z + c))).foldl (fun m v => m + v) 0 +
        if zero then 0 else intVal 3 (elemAt x (i * (g * tileCols x) + q * tileCols x + j))), 0⟩) := by
  have hpairs : matPairs t g y z false q i j = (List.range (tileCols y)).map fun c =>
      (i * (g * tileCols y) + c, j * (g * tileCols z) + q * tileCols z + c) := by
    simp only [matPairs, upFrom_eq_range', List.range_eq_range', Bool.false_eq_true, if_false]
  rw [matElem, if_pos hx, hpairs]
  exact congrArg (fun v : Int => (_, (⟨intCode 3 v, 0⟩ : FpRes))) (List.foldl_map.trans (foldl_add_map _ _ _))

/-- Settles O33: the issue by its checks, each event of a queue by its case, and the product as a sum from the old element. -/
theorem matrixOperations : Obligations.MatrixOperations := by
  unfold Obligations.MatrixOperations
  refine ⟨fun f s k t => ?machine, fun t g q i j x y z zero hx => ?element⟩
  case machine =>
    dsimp only
    refine ⟨?mma, ?mmasp, ?entered, fun slab => ?running, fun slab e => ?waiting, fun slab => ?empty,
      fun slab e rest hq hs hop => ⟨?last, ?alone⟩, fun slab e m u => matrixEntryComplete_first⟩
    case mma | mmasp =>
      exact fun hi => ⟨fun c info hl => matrix_traps rfl hi hl,
        fun hl hc => ⟨matrix_enters rfl hi hl hc, matrix_waits rfl hi hl hc⟩⟩
    case entered =>
      rintro pri sp zero u rfl
      rw [enterMatrix_matops]
      exact ⟨Tab.get?_put_self _ _ _, enterMatrix_threads .., enterMatrix_sameMemory ..⟩
    case running => exact fun h => congrArg Host.Outcome.next (startBest_running h)
    case waiting => exact fun h hbest => congrArg Host.Outcome.next (startBest_waiting h hbest)
    case empty => exact fun h => congrArg Host.Outcome.next (startBest_empty h)
    case last => exact fun hlast => congrArg Host.Outcome.next (kstepBoundary_last hq hs hop hlast)
    case alone =>
      rintro hmore rfl
      exact congrArg Host.Outcome.next (kstepBoundary_alone hq hs hop hmore)
  case element => exact matElem_int hx g y z zero q i j

end Sys2Proof.Machine
end

section
/-! Little-endian fields of memory: what a field reads as after another is written (00 R3; 10 R212, R215). -/

namespace Sys2Proof.Machine

theorem map_rdMem_upFrom (s : State) (a : Nat) (bs : List Byte) (h : ∀ i b, bs[i]? = some b → rdMem s (a + i) = b) :
    (upFrom a bs.length).map (rdMem s) = bs := by
  refine List.ext_getElem? fun i => ?_
  rw [List.getElem?_map, upFrom_getElem?]
  split
  · next hi => rw [List.getElem?_eq_getElem hi]; exact congrArg some (h i _ (List.getElem?_eq_getElem hi))
  · next hi => rw [List.getElem?_eq_none (Nat.le_of_not_lt hi)]; rfl

theorem rdMemN_wrMemN_same (s : State) (a n v : Nat) : rdMemN (wrMemN s a n v) a n = v % 256 ^ n := by
  have hbytes := map_rdMem_upFrom (wrMemN s a n v) a (toBytes n v) fun i b => rdMem_wrMemBytes_in s a i _ b
  rw [toBytes_length] at hbytes
  rw [rdMemN, hbytes, ofBytes_toBytes]

theorem rdMemN_wrMemN_apart (s : State) (a n v b m : Nat) (h : b + m ≤ a ∨ a + n ≤ b) :
    rdMemN (wrMemN s a n v) b m = rdMemN s b m := by
  refine congrArg ofBytes (List.map_congr_left fun x hx => rdMem_wrMemBytes_out s a x _ ?_)
  have hin := (mem_upFrom b m x).mp hx
  rw [toBytes_length]
  omega

theorem wrMem_rdMem {s : State} (a : Nat) (h : Memory.wf s.mem = true) : wrMem s a (rdMem s a) = s :=
  congrArg (fun m => { s with mem := m }) (Tab.putD_getD a h)

/-- Bytes that memory already holds change nothing when they are written, for its form is canonical. -/
theorem wrMemBytes_held (s : State) (a : Nat) (bs : List Byte) (h : Memory.wf s.mem = true)
    (hold : ∀ i b, bs[i]? = some b → rdMem s (a + i) = b) : wrMemBytes s a bs = s := by
  induction bs generalizing a with
  | nil => rfl
  | cons b r ih =>
    have hb : wrMem s a b = s := by rw [← hold 0 b rfl]; exact wrMem_rdMem a h
    rw [wrMemBytes, hb]
    exact ih (a + 1) fun i c hc => by rw [Nat.add_assoc, Nat.add_comm 1 i]; exact hold (i + 1) c hc

theorem toBytes_mod (n v : Nat) : toBytes n (v % 256 ^ n) = toBytes n v := by
  induction n generalizing v with
  | zero => rfl
  | succ n ih =>
    have hlow : v % 256 ^ (n + 1) % 256 = v % 256 := Nat.mod_mod_of_dvd v ⟨256 ^ n, Nat.pow_succ'⟩
    have hhigh : v % 256 ^ (n + 1) / 256 = v / 256 % 256 ^ n := by rw [Nat.pow_succ', Nat.mod_mul_right_div_self]
    have hbyte : BitVec.ofNat 8 (v % 256 ^ (n + 1)) = BitVec.ofNat 8 v :=
      BitVec.eq_of_toNat_eq (by simpa only [BitVec.toNat_ofNat] using hlow)
    rw [toBytes, toBytes, hbyte, hhigh, ih]

theorem toBytes_ofBytes (bs : List Byte) : toBytes bs.length (ofBytes bs) = bs := by
  induction bs with
  | nil => rfl
  | cons b r ih =>
    have hb := b.isLt
    have hdiv : (b.toNat + 256 * ofBytes r) / 256 = ofBytes r := by omega
    have hbyte : BitVec.ofNat 8 (b.toNat + 256 * ofBytes r) = b := by
      apply BitVec.eq_of_toNat_eq
      rw [BitVec.toNat_ofNat]
      omega
    rw [ofBytes, List.length_cons, toBytes, hdiv, ih, hbyte]

/-- A field written with the value it holds changes nothing. -/
theorem wrMemN_held (s : State) (a n v : Nat) (h : Memory.wf s.mem = true) (hold : rdMemN s a n = v % 256 ^ n) :
    (wrMemN s a n v).mem = s.mem := by
  have hlen : ((upFrom a n).map (rdMem s)).length = n := by rw [List.length_map, upFrom_length]
  have hback := toBytes_ofBytes ((upFrom a n).map (rdMem s))
  have hbytes : toBytes n v = (upFrom a n).map (rdMem s) := by rwa [hlen, ← rdMemN, hold, toBytes_mod] at hback
  rw [wrMemN, hbytes, wrMemBytes_held s a _ h]
  intro i b hb
  rw [List.getElem?_map, upFrom_getElem?] at hb
  split at hb
  · exact Option.some.inj hb
  · cases hb

/-- Settles O17: a field read back is the number its bytes hold, and bytes that memory holds already leave its list as it is. -/
theorem memoryReadAfterWrite : Obligations.MemoryReadAfterWrite := fun s a n v b m h =>
  ⟨rdMemN_wrMemN_same s a n v, rdMemN_wrMemN_apart s a n v b m, wf_wrMemN a n v h, wrMemN_held s a n v h⟩

end Sys2Proof.Machine
end

section
/-! Every step keeps the canonical form of memory (10 R212 to R217). Each function of the model that gives a state keeps it:
one lemma `inv_<function>` for each, in the order of the model, from the lemmas of the functions it calls. Here are the states that
a result carries, whatever the result is, and the invariant along them. -/

namespace Sys2Proof.Machine

/-! The state in a result. -/

def badState : Bad → State
  | .trap s _ _ => s
  | .msg s _ _ _ _ _ => s

def wbState : WbRes → State
  | .done s _ => s
  | .held s _ => s
  | .diverge s _ => s
  | .failed s _ => s

/-- The state of a result that is an error or a value, by the states of both. -/
def exceptState {ε α : Type} (f : ε → State) (g : α → State) : Except ε α → State
  | .error e => f e
  | .ok a => g a

/-- The state of a result that may be missing; where it is, the state it was asked of. -/
def optState {α : Type} (s : State) (g : α → State) : Option α → State
  | none => s
  | some a => g a

def gotState : GotRes → State
  | .ok g => g.s
  | .bad b => badState b
  | .wb r => wbState r

def putState : PutRes → State
  | .ok g => g.s
  | .bad b => badState b
  | .wb r => wbState r

def portState : PortRes → State
  | .ok w => w.s
  | .bad b => badState b
  | .wb r => wbState r
  | .down s _ => s

def stampState : StampRes → State
  | .ok g => g.s
  | .bad b => badState b
  | .wb r => wbState r
  | .behind s _ => s

def actState : Act → State
  | .next s => s
  | .jump s _ _ => s
  | .trap s _ _ => s
  | .trapPast s _ _ => s
  | .wait s _ => s
  | .blocked s _ _ _ _ _ => s
  | .gone s => s

def engState : EngBad → State
  | .fault s _ _ => s
  | .stop s _ _ => s
  | .wait s _ => s

def triedState : Tried → State
  | .forks s => s
  | .placed s => s
  | .blocked s _ _ => s
  | .idle s => s

def fetchedState : Fetched → State
  | .words s _ => s
  | .fill s _ => s
  | .msg s _ _ _ => s
  | .trap s _ _ => s

/-- The state that an outcome leaves; that it began with, where the machine stops. -/
def outState (s : State) : Host.Outcome State Fault Refusal → State
  | .next u => u
  | .fault _ => s
  | .refused _ => s

/-! The invariant along results. -/

/-- The invariant of the machine under a reducible name: what a record update leaves of it is then seen by the field it speaks
of. -/
abbrev MemWf (s : State) : Prop := Memory.wf s.mem = true

theorem MemWf.of_mem {s u : State} (e : u.mem = s.mem) (h : MemWf s) : MemWf u := wf_of_mem e h

theorem MemWf.same {s u : State} (h : MemWf s) (e : u.mem = s.mem) : MemWf u := wf_of_mem e h

/-- The invariant of a value under its name: the states are compared, and not their memories. -/
theorem MemWf.of_val {s u : State} (h : MemWf s) (e : s = u) : MemWf u := e ▸ h

theorem MemWf.of_eq {α : Type} {f : α → State} {a b : α} (h : MemWf (f a)) (e : a = b) : MemWf (f b) := e ▸ h

theorem MemWf.of_eq_fst {α β : Type} {f : α → State} {a b : α × β} (h : MemWf (f a.1)) (e : a = b) : MemWf (f b.1) := e ▸ h

theorem memWf_outState {s u : State} {o : Host.Outcome State Fault Refusal} (h : MemWf s) (ho : MemWf (outState u o)) :
    MemWf (outState s o) := by
  cases o with
  | next => exact ho
  | fault | refused => exact h

theorem memWf_next {s u : State} (h : MemWf u) : MemWf (outState s (.next u)) := h

theorem memWf_fst {α : Type} {u : State} {a : α} (h : MemWf u) : MemWf (u, a).1 := h

theorem memWf_some {s u : State} (h : MemWf u) : MemWf (optState s id (some u)) := h

theorem memWf_ite {c : Prop} [Decidable c] {s : State} {a b : Host.Outcome State Fault Refusal} (ha : MemWf (outState s a))
    (hb : MemWf (outState s b)) : MemWf (outState s (if c then a else b)) := by
  split
  · exact ha
  · exact hb

theorem inv_ite {c : Prop} [Decidable c] {a b : State} (ha : MemWf a) (hb : MemWf b) : MemWf (if c then a else b) := wf_ite ha hb

theorem inv_foldl {β : Type} {f : State → β → State} {l : List β} {s : State} (hf : ∀ s b, MemWf s → MemWf (f s b)) (h : MemWf s) :
    MemWf (l.foldl f s) := wf_foldl f hf l s h

theorem inv_foldl_fst {α β : Type} {f : State × α → β → State × α} {l : List β} {x : State × α}
    (hf : ∀ x b, MemWf x.1 → MemWf (f x b).1) (h : MemWf x.1) : MemWf (l.foldl f x).1 := foldl_fst (fun s => MemWf s) f hf l x h

end Sys2Proof.Machine
end

section
/-! The invariant at the functions whose own lemmas stand above. -/

namespace Sys2Proof.Machine

theorem inv_wrMem {s a b} (h : MemWf s) : MemWf (wrMem s a b) := wf_wrMem _ _ h

theorem inv_wrMemBytes {s a bs} (h : MemWf s) : MemWf (wrMemBytes s a bs) := wf_wrMemBytes _ _ h

theorem inv_wrMemN {s a n v} (h : MemWf s) : MemWf (wrMemN s a n v) := wf_wrMemN _ _ _ h

theorem inv_wrVersion {s p v loc b} (h : MemWf s) : MemWf (wrVersion s p v loc b) := wf_wrVersion _ _ _ _ h

theorem inv_wrVersionBytes {s p v loc bs} (h : MemWf s) : MemWf (wrVersionBytes s p v loc bs) := wf_wrVersionBytes _ _ _ _ h

theorem inv_poisonHome {s p loc src unit bs} (h : MemWf s) : MemWf (poisonHome s p loc src unit bs) := wf_poisonHome _ _ _ _ _ h

theorem inv_traceLog {s slice w} (h : MemWf s) : MemWf (traceLog s slice w) := wf_traceLog _ _ h

theorem inv_l1Evict {s key} (h : MemWf s) : MemWf (l1Evict s key) := wf_l1Evict _ h

theorem inv_l1Use {s key keep} (h : MemWf s) : MemWf (l1Use s key keep) := wf_l1Use _ _ h

theorem inv_l1Take {s k c p v va loc keep} (h : MemWf s) : MemWf (l1Take s k c p v va loc keep) := wf_l1Take _ _ _ _ _ _ _ h

theorem inv_afterHint {s k p v va loc} (h : MemWf s) : MemWf (afterHint s k p v va loc) := wf_afterHint _ _ _ _ _ h

theorem inv_l1Store {s k c p v va bs} (h : MemWf s) : MemWf (l1Store s k c p v va bs) := wf_l1Store _ _ _ _ _ _ h

theorem inv_setWord {w p n v} (h : MemWf w.s) : MemWf (setWord w p n v) := wf_setWord _ _ _ h

theorem inv_wbBad {s key i bad} (h : MemWf s) : MemWf (traceState (wbBad s key i bad).1) := wf_wbBad _ _ _ h

theorem inv_findEcc {s a i p} (h : MemWf s) : MemWf (optState s Prod.fst (findEcc s a i p)) := by
  cases he : findEcc s a i p with
  | none => exact h
  | some q => exact h.same (mem_findEcc he)

theorem inv_granted {v kind q} (h : MemWf q.2.2) : MemWf (exceptState (fun e => e.2.2) (fun e => e.2.2) (granted v kind q)) := by
  unfold granted
  split
  · exact h
  · split <;> exact h

theorem inv_translate {s port p v kind} (h : MemWf s) :
    MemWf (exceptState (fun e => e.2.2) (fun e => e.2.2) (translate s port p v kind)) := by
  unfold translate
  split
  · split <;> exact h
  · exact inv_granted (h.same (mem_lookUp ..))

theorem inv_holdOp {s p v op} (h : MemWf s) : MemWf (optState s id (holdOp s p v op)) := by
  unfold holdOp
  extract_lets key es
  split <;> exact h

theorem inv_place {s t p kind a n} (h : MemWf s) : MemWf (exceptState badState (fun _ => s) (place s t p kind a n)) := by
  unfold place
  repeat' (first | extract_lets | split)
  all_goals exact h

theorem inv_walkResult {s port p v kind} (h : MemWf s) :
    MemWf (exceptState (fun e => e.2.2) (fun e => e.2.2) (walkResult s port p v kind)) := by
  unfold walkResult
  split
  · exact inv_granted (h.same (mem_tlbNow ..))
  · exact inv_translate h

/-! Folds and maps of results. -/

theorem inv_foldl_of {α β : Type} {σ : α → State} {f : α → β → α} {l : List β} {x : α}
    (hf : ∀ x b, MemWf (σ x) → MemWf (σ (f x b))) (h : MemWf (σ x)) : MemWf (σ (l.foldl f x)) := by
  induction l generalizing x with
  | nil => exact h
  | cons b r ih => exact ih (hf x b h)

theorem inv_exceptMap {ε α β : Type} {f : ε → State} {g : α → State} {g' : β → State} {φ : α → β} {x : Except ε α}
    (h : MemWf (exceptState f g x)) (hg : ∀ a, MemWf (g a) → MemWf (g' (φ a))) : MemWf (exceptState f g' (x.map φ)) := by
  cases x with
  | error => exact h
  | ok a => exact hg a h

theorem inv_optionMap {α β : Type} {s : State} {g : α → State} {g' : β → State} {φ : α → β} {x : Option α}
    (h : MemWf (optState s g x)) (hg : ∀ a, MemWf (g a) → MemWf (g' (φ a))) : MemWf (optState s g' (x.map φ)) := by
  cases x with
  | none => exact h
  | some a => exact hg a h

end Sys2Proof.Machine
end

section
/-! The canonical form of memory: threads, the agenda, posts, event rings, groups and traps. -/

namespace Sys2Proof.Machine

theorem inv_lowerStamps {s k by_} (h : MemWf s) : MemWf (lowerStamps s k by_) := by
  unfold lowerStamps
  split
  · exact h
  · split
    · exact h
    · extract_lets s1
      split <;> exact h

theorem inv_lowerAll {s} (h : MemWf s) : MemWf (lowerAll s) := by
  unfold lowerAll
  exact inv_foldl (fun _ _ h1 => inv_ite h1 (inv_lowerStamps h1)) h

theorem inv_postView {s p cause src unit info view} (h : MemWf s) : MemWf (postView s p cause src unit info view) := by
  unfold postView
  exact .of_mem (mem_postRaw ..) h

theorem inv_writeEvent {s v} (h : MemWf s) : MemWf (writeEvent s v) := by
  unfold writeEvent
  extract_lets c nx rd full last head n e s1 nx' s2
  have hs1 : MemWf s1 := .of_mem (mem_wrCtl ..) (.of_mem (mem_wrCtl ..) (.of_mem (mem_wrCtl ..) (.of_mem (mem_wrCtl ..) h)))
  have hs2 : MemWf s2 := .of_mem (mem_setCtlF ..) hs1
  split
  · exact .of_mem (mem_setCtlF ..) h
  · split
    · exact .of_mem (mem_setCtlF ..) (.of_mem (mem_setCtlF ..) hs2)
    · split
      · exact .of_mem (mem_setCtlF ..) hs2
      · exact hs2

theorem inv_writeEvents {s} (h : MemWf s) : MemWf (writeEvents s) := by
  unfold writeEvents
  exact inv_foldl (fun _ _ h1 => inv_writeEvent h1) h

theorem inv_logThread {s k t cause info} (h : MemWf s) : MemWf (logThread s k t cause info) := by
  unfold logThread
  split <;> exact h

theorem inv_setGroup {s key members counted arrived} (h : MemWf s) : MemWf (setGroup s key members counted arrived) :=
  .of_mem (mem_wrCtl ..) h

theorem inv_withdrawGroup {s t key} (h : MemWf s) : MemWf (withdrawGroup s t key) := by
  unfold withdrawGroup
  split
  · exact inv_setGroup h
  · exact h

theorem inv_markRivalEnd {s t killed} (h : MemWf s) : MemWf (markRivalEnd s t killed) := by
  unfold markRivalEnd
  split <;> exact h

theorem inv_announce {s k h0 h1} (h : MemWf s) : MemWf (announce s k h0 h1) := by
  unfold announce
  split
  · exact h
  · extract_lets fresh old q s1
    split
    · exact h
    · exact inv_logThread h

end Sys2Proof.Machine
end

section
/-! The canonical form of memory: memory, caches, errors and write-backs. -/

namespace Sys2Proof.Machine

theorem inv_tlbDrop {s ports pick} (h : MemWf s) : MemWf (tlbDrop s ports pick) := by
  unfold tlbDrop
  exact (inv_foldl (fun _ _ h1 => .of_mem (mem_tlbNow ..) h1) h).same rfl

theorem inv_writeError {s e} (h : MemWf s) : MemWf (writeError s e) := by
  unfold writeError
  extract_lets es w0 lost ent
  split
  · exact h
  · split <;> exact h

theorem inv_writeErrors {s} (h : MemWf s) : MemWf (writeErrors s) := by
  unfold writeErrors
  exact inv_foldl (fun _ _ h1 => inv_writeError h1) h

theorem inv_walkAgain {s port p v} (h : MemWf s) : MemWf (walkAgain s port p v).1 := by
  unfold walkAgain
  split
  · exact h
  · exact .of_mem (mem_newWalk ..) (.of_mem (mem_tlbNow ..) h)

theorem inv_tagErrorL2 {s who p v loc} (h : MemWf s) : MemWf (tagErrorL2 s who p v loc) := by
  unfold tagErrorL2
  split
  · exact h
  · split
    · exact h
    · next s1 _ he =>
      have hs1 : MemWf s1 := (inv_findEcc h).of_eq he
      extract_lets u bytes ways dirty s2 s3
      have hs2 : MemWf s2 := .of_mem (mem_logError ..) hs1
      have hs3 : MemWf s3 := inv_ite hs2 hs2
      exact inv_ite (inv_poisonHome hs3) hs3

theorem inv_tagErrorL1 {s k c p va} (h : MemWf s) : MemWf (tagErrorL1 s k c p va) := by
  unfold tagErrorL1
  split
  · exact h
  · split
    · exact h
    · next he =>
        extract_lets mine dirty s2
        split
        · exact inv_poisonHome (.of_mem (mem_logError ..) (((inv_findEcc h).of_eq he).same rfl))
        · exact .of_mem (mem_logError ..) (((inv_findEcc h).of_eq he).same rfl)

theorem inv_demandLine {s who core cl fig p v va loc n} (h : MemWf s) :
    MemWf (exceptState badState Prod.fst (demandLine s who core cl fig p v va loc n)) := by
  unfold demandLine
  split
  · exact h
  · extract_lets own r isScratch
    split
    · exact .of_mem (mem_memRead ..) (inv_ite (inv_tagErrorL2 h) h)
    · split <;> exact .of_mem (mem_memRead ..) (inv_ite (inv_tagErrorL2 h) h)

theorem inv_demandRange {s who core cl fig p v va loc n} (h : MemWf s) :
    MemWf (exceptState badState Prod.fst (demandRange s who core cl fig p v va loc n)) := by
  refine inv_foldl_of (fun x q hx => ?_) h
  cases x with
  | error => exact hx
  | ok a => exact inv_exceptMap (inv_demandLine hx) (fun _ hb => hb)

theorem inv_noteWb {s line w logged} (h : MemWf s) : MemWf (noteWb s line w logged) := h

theorem inv_wbLine {s key i} (h : MemWf s) : MemWf (traceState (wbLine s key i).1) := by
  unfold wbLine
  exact inv_wbBad h

theorem inv_pokeHeld {s} (h : MemWf s) : MemWf (pokeHeld s) := by
  unfold pokeHeld
  exact inv_foldl (fun _ _ h1 => h1) h

theorem inv_wbLines {s sys at_ i l} (h : MemWf s) : MemWf (wbState (wbLines s sys at_ i l)) := by
  induction l generalizing s at_ i with
  | nil => exact h
  | cons key r ih =>
    unfold wbLines
    split
    · next he => exact ih (inv_ite ((inv_wbLine h).of_eq_fst he) (inv_pokeHeld ((inv_wbLine h).of_eq_fst he)))
    · next he => exact .of_mem (mem_holdWb ..) ((inv_wbLine h).of_eq_fst he)
    · next he => exact (inv_wbLine h).of_eq_fst he
    · next he => exact (inv_wbLine h).of_eq_fst he

theorem inv_releaseAt {s k t scope} (h : MemWf s) : MemWf (wbState (releaseAt s k t scope)) := by
  unfold releaseAt
  split
  · exact h
  · split
    · exact h
    · split
      · exact h
      · exact inv_wbLines h

theorem inv_flushLine {s c p va} (h : MemWf s) : MemWf (wbState (flushLine s c p va)) := by
  unfold flushLine
  split
  · next he => exact ((inv_wbLines h).of_eq he).same rfl
  · exact inv_wbLines h

end Sys2Proof.Machine
end

section
/-! The canonical form of memory: stores to device control space. -/

namespace Sys2Proof.Machine

theorem inv_poolRefresh {s p i} (h : MemWf s) : MemWf (poolRefresh s p i) := by
  unfold poolRefresh
  exact .of_mem (mem_setCtlF ..) h

theorem inv_setChainState {s n st cause} (h : MemWf s) : MemWf (setChainState s n st cause) := by
  unfold setChainState
  exact .of_mem (mem_setCtlF ..) (.of_mem (mem_setCtlF ..) h)

theorem inv_setFaultOff {s n off} (h : MemWf s) : MemWf (setFaultOff s n off) := by
  unfold setFaultOff
  exact .of_mem (mem_setCtlF ..) h

theorem mem_chainApplies {l : List (Nat × Word)} {s : State} : (l.foldl (fun a x => chainApply a x.1 x.2) s).mem = s.mem := by
  induction l generalizing s with
  | nil => rfl
  | cons x r ih => simp only [List.foldl_cons, ih, mem_chainApply]

theorem inv_settleChains {s} (h : MemWf s) : MemWf (settleChains s) := .of_mem mem_chainApplies h

end Sys2Proof.Machine
end

section
/-! The canonical form of memory: the ends of views and the rollback. -/

namespace Sys2Proof.Machine

theorem inv_nodeReport {s key} (h : MemWf s) : MemWf (nodeReport s key) := by
  unfold nodeReport
  split
  · exact h
  · exact (inv_wrMemBytes h).same rfl

theorem inv_modNode {s key f} (h : MemWf s) : MemWf (modNode s key f) := by
  unfold modNode
  exact inv_nodeReport h

theorem inv_setViewState {s p v st} (h : MemWf s) : MemWf (setViewState s p v st) := by
  unfold setViewState
  exact .of_mem (mem_setCtlF ..) h

theorem inv_reportDiscard {s k t info outer nested} (h : MemWf s) : MemWf (reportDiscard s k t info outer nested) := by
  unfold reportDiscard
  exact inv_ite (inv_logThread (.of_mem (mem_postThread ..) h)) (.of_mem (mem_postThread ..) h)

theorem inv_reportAway {s p core ctx t info outer nested} (h : MemWf s) :
    MemWf (reportAway s p core ctx t info outer nested) := by
  unfold reportAway
  exact inv_ite (.of_mem (mem_logEvent ..) (.of_mem (mem_postRaw ..) h)) (.of_mem (mem_postRaw ..) h)

theorem inv_dropFollowLocks {s n out} (h : MemWf s) : MemWf (dropFollowLocks s n out) := h

theorem inv_stopEntries {s n c v} (h : MemWf s) : MemWf (stopEntries s n c v) := by
  unfold stopEntries
  extract_lets stop c1 s1 s2
  have hs2 : MemWf s2 := inv_ite (inv_setFaultOff (inv_setChainState h)) h
  split
  · exact h
  · exact hs2

theorem inv_killHusk {s slot t} (h : MemWf s) : MemWf (killHusk s slot t) := by
  unfold killHusk
  extract_lets x s1
  have hx : MemWf x := inv_wrMem h
  have hs1 : MemWf s1 := inv_markRivalEnd hx
  exact hs1

theorem inv_dropUpdates {s p v} (h : MemWf s) : MemWf (dropUpdates s p v) := h

theorem inv_emptyView {s p v info outer nested quiet} (h : MemWf s) : MemWf (emptyView s p v info outer nested quiet) := by
  unfold emptyView
  extract_lets mine s1 s2 gone late s2' s3 s4
  have hs1 : MemWf s1 :=
    inv_foldl (fun _ _ ha => inv_ite (.of_mem (mem_killQuiet ..) (inv_ite ha (inv_reportDiscard ha))) ha) h
  have hs2 : MemWf s2 := inv_foldl (fun _ _ ha => inv_ite (inv_killHusk (inv_ite ha (inv_reportAway ha))) ha) hs1
  have hs2' : MemWf s2' := inv_ite hs2 (inv_foldl (fun _ _ ha => inv_reportAway ha) hs2)
  have hs3 : MemWf s3 := hs2'
  have hs4 : MemWf s4 := inv_foldl (fun _ _ ha => inv_ite ha (inv_foldl (fun _ _ hb => inv_modNode hb) ha)) hs3
  exact inv_foldl (fun _ _ ha => inv_ite (inv_stopEntries ha) ha) (inv_dropUpdates hs4)

theorem inv_freePod {s p i} (h : MemWf s) : MemWf (freePod s p i) := by
  unfold freePod
  exact .of_mem (mem_setCtlF ..) h

theorem inv_discardGo {fuel s p v info outer nested quiet} (h : MemWf s) :
    MemWf (discardGo fuel s p v info outer nested quiet) := by
  induction fuel generalizing s v info outer nested quiet with
  | zero => exact h
  | succ fuel ih =>
    unfold discardGo
    split
    · exact h
    · extract_lets s1 s2 s3 s4
      have hs1 : MemWf s1 := inv_foldl (fun _ _ h1 => ih h1) h
      have hs2 : MemWf s2 := inv_foldl (fun _ _ h1 => inv_ite (inv_freePod h1) h1) hs1
      have hs3 : MemWf s3 := inv_emptyView hs2
      have hs4 : MemWf s4 := inv_setViewState hs3
      exact hs4

theorem inv_discardView {s p v info quiet} (h : MemWf s) : MemWf (discardView s p v info quiet) := by
  unfold discardView
  exact inv_discardGo h

theorem inv_discardPod {s p i} (h : MemWf s) : MemWf (discardPod s p i) := by
  unfold discardPod
  exact inv_freePod (inv_foldl (fun _ _ h1 => inv_ite (inv_discardView h1) h1) h)

theorem inv_dropLines {s p v} (h : MemWf s) : MemWf (dropLines s p v) := h

theorem inv_returnFrame {s p e} (h : MemWf s) : MemWf (returnFrame s p e) := by
  unfold returnFrame
  exact .of_mem (mem_setCtlF ..) (inv_wrMemN h)

theorem inv_freeFrames {s p v} (h : MemWf s) : MemWf (freeFrames s p v) := by
  unfold freeFrames
  exact inv_foldl (fun _ _ h1 => inv_returnFrame h1) h

theorem inv_foldMarks {s p v u pl} (h : MemWf s) : MemWf (foldMarks s p v u pl) := by
  unfold foldMarks
  exact inv_foldl (fun _ _ h1 => h1) (inv_foldl (fun _ _ h1 => h1) h)

theorem inv_foldLine {s p v u pl} (h : MemWf s) : MemWf (foldLine s p v u pl) := by
  unfold foldLine
  exact inv_foldMarks (inv_wrVersionBytes (inv_ite h (.of_mem (mem_makeVersion ..) h)))

theorem inv_relinkEntry {s p v u e} (h : MemWf s) : MemWf (relinkEntry s p v u e) := by
  unfold relinkEntry
  extract_lets ls mask s1 granule i
  have hs1 : MemWf s1 := inv_foldl (fun _ _ ha => inv_foldMarks ha) h
  split
  · extract_lets frame s2
    have hs2 : MemWf s2 := inv_foldl (fun _ _ ha => inv_wrMemBytes ha) hs1
    exact inv_returnFrame (inv_wrMemN hs2)
  · split
    · exact inv_wrMemN (inv_wrMemN (inv_wrMemN (inv_wrMemN (inv_wrMemN hs1))))
    · exact inv_returnFrame (inv_foldl (fun _ _ ha => inv_foldLine ha) h)

theorem inv_retagL2 {s p v u} (h : MemWf s) : MemWf (retagL2 s p v u) := h

theorem inv_foldLines {s p v u} (h : MemWf s) : MemWf (foldLines s p v u) := by
  unfold foldLines
  extract_lets dirty s1 lines held s2 s3 stale
  have hs1 : MemWf s1 := by
    refine inv_foldl (fun a key ha => ?_) h
    split
    · exact inv_wrVersion (.of_mem (mem_makeVersion ..) ha)
    · exact ha
  have hs2 : MemWf s2 := inv_foldl (fun _ _ ha => inv_foldLine ha) hs1
  have hs3 : MemWf s3 :=
    inv_foldl (fun _ _ ha => inv_ite (inv_returnFrame (inv_foldl (fun _ _ hb => inv_foldLine hb) ha)) (inv_relinkEntry ha)) hs2
  have hs4 : MemWf { s3 with l1d := s3.l1d.filter (fun q => !stale q.1) } := hs3
  exact inv_dropLines (inv_retagL2 hs4)

theorem inv_killNode {s key} (h : MemWf s) : MemWf (killNode s key) := by
  unfold killNode
  extract_lets s1 s2 s3 mine
  have hs1 : MemWf s1 := inv_foldl (fun _ _ h1 => inv_ite (.of_mem (mem_killQuiet ..) h1) h1) h
  have hs2 : MemWf s2 := inv_foldl (fun _ _ h1 => inv_ite (inv_killHusk h1) h1) hs1
  exact hs2

theorem inv_rollback {s key cause info} (h : MemWf s) : MemWf (rollback s key cause info) := by
  unfold rollback
  split
  · exact h
  · extract_lets s1 s2 s3
    have hs1 : MemWf s1 := .of_mem (mem_logEvent ..) h
    have hs2 : MemWf s2 := inv_discardView (inv_killNode hs1)
    have hs3 : MemWf s3 := inv_modNode hs2
    split
    · exact inv_modNode (.of_mem (mem_postRaw ..) hs2)
    · exact .of_mem (sched_mem ..) (.of_mem (mem_postRaw ..) hs3)

theorem inv_failView {s p v granule} (h : MemWf s) : MemWf (failView s p v granule) := by
  -- under a name of its own the view's kind is not evaluated where two matches on it are compared
  obtain ⟨kindOf, hk⟩ : ∃ f, f = viewKind := ⟨_, rfl⟩
  generalize hf : failView = f
  delta failView at hf
  subst hf
  beta_reduce
  rw [← hk]
  extract_lets info s1 s2
  have hs1 : MemWf s1 := .of_mem (mem_setCtlF ..) (inv_postView h)
  have hs2 : MemWf s2 := hs1
  split
  · exact inv_rollback hs2
  · exact hs2

end Sys2Proof.Machine
end

section
/-! The canonical form of memory: loads and stores at every place of the address map. -/

namespace Sys2Proof.Machine

theorem inv_l1Ecc {s k c p v va n} (h : MemWf s) : MemWf (l1Ecc s k c p v va n).1 := by
  unfold l1Ecc
  split
  · exact h
  · next q s1 ue he =>
    extract_lets s2
    obtain ⟨q', -, he'⟩ := List.exists_of_findSome?_eq_some he
    obtain ⟨r, hr, hq⟩ := Option.map_eq_some_iff.1 he'
    have hs1 : MemWf s1 := by
      have hr1 : MemWf r.1 := (inv_findEcc h).of_eq hr
      cases hq
      exact hr1
    have hs2 : MemWf s2 := .of_mem (mem_logError ..) hs1
    split
    · exact hs2
    · split
      · exact hs2
      · exact .of_mem (mem_l1Drop ..) hs2

theorem inv_l1Miss {s k c p v va n kind size} (h : MemWf s) :
    MemWf (exceptState badState Got.s (l1Miss s k c p v va n kind size)) := by
  unfold l1Miss
  split
  · next he => exact (inv_translate h).of_eq he
  · next s1 he =>
    have hs1 : MemWf s1 := (inv_translate h).of_eq he
    split
    · next he2 => exact (inv_demandRange hs1).of_eq he2
    · next s2 lat he2 =>
      have hs2 : MemWf s2 := (inv_demandRange hs1).of_eq he2
      extract_lets s3 s4
      have hs3 : MemWf s3 := .of_mem (perfBump_mem ..) hs2
      have hs4 : MemWf s4 := inv_ite hs3 (inv_l1Take hs3)
      show MemWf (afterHint s4 k p v va (some _))
      exact inv_afterHint hs4

theorem inv_dramLoad {s k t v va n kind size} (h : MemWf s) :
    MemWf (exceptState badState Got.s (dramLoad s k t v va n kind size)) := by
  unfold dramLoad
  extract_lets p c s1 loc
  have hs1 : MemWf s1 := inv_tagErrorL1 h
  split
  · split
    · next he => exact (inv_translate h).of_eq he
    · next at_ w u he =>
      have hu : MemWf u := (inv_translate h).of_eq he
      split
      · next he2 => exact (inv_demandRange hu).of_eq he2
      · next u2 lat he2 =>
        have hu2 : MemWf u2 := (inv_demandRange hu).of_eq he2
        show MemWf (afterHint u2 k p 0 va (some at_))
        exact inv_afterHint hu2
  · split
    · exact inv_l1Miss hs1
    · next view lv _ =>
      extract_lets e
      have he : MemWf e.1 := inv_l1Ecc hs1
      split
      · exact he
      · exact inv_l1Miss he
      · split
        · exact he
        · show MemWf (afterHint (l1Use e.1 _ _) k p v va loc)
          exact inv_afterHint (inv_l1Use he)

theorem inv_ctlCheck {s t ptr a kind size store} (h : MemWf s) :
    MemWf (optState s badState (ctlCheck s t ptr a kind size store)) := by
  unfold ctlCheck
  split
  · exact h
  · split
    · exact h
    · split
      · exact h
      · split <;> exact h

theorem inv_withSize {size b} (h : MemWf (badState b)) : MemWf (badState (withSize size b)) := by
  cases b <;> exact h

theorem inv_loadPiece {s k t v ptr kind size a n} (h : MemWf s) :
    MemWf (exceptState badState Got.s (loadPiece s k t v ptr kind size a n)) := by
  unfold loadPiece
  split
  · next he => exact inv_withSize ((inv_place h).of_eq he)
  · exact inv_dramLoad h
  · split
    · next he1 => exact (inv_ctlCheck h).of_eq he1
    · exact h
  · split <;> next he1 => exact (inv_demandRange (.of_mem (mem_windowWake ..) h)).of_eq he1
  · split <;> next he1 => exact (inv_demandRange h).of_eq he1

theorem inv_crossing {s a n} (h : MemWf s) : MemWf (optState s badState (crossing s a n)) := by
  unfold crossing
  split <;> exact h

theorem inv_loadParts {s k t v ptr kind size l} (h : MemWf s) :
    MemWf (exceptState badState Got.s (loadParts s k t v ptr kind size l)) := by
  induction l generalizing s with
  | nil => exact h
  | cons q r ih =>
    unfold loadParts
    split
    · next e he => exact (inv_loadPiece h).of_eq he
    · next h1 he =>
        split
        · next e he1 =>
            have hh1 : MemWf h1.s := (inv_loadPiece h).of_eq he
            have hbadState : MemWf (badState e) := (ih hh1).of_eq he1
            exact hbadState
        · next h2 he1 =>
            have hh1 : MemWf h1.s := (inv_loadPiece h).of_eq he
            have hh2 : MemWf h2.s := (ih hh1).of_eq he1
            exact hh2

theorem inv_loadElemsRange {s k t ptr a n size} (h : MemWf s) :
    MemWf (exceptState badState Got.s (loadElemsRange s k t ptr a n size)) := by
  unfold loadElemsRange
  split
  · next he => exact (inv_crossing h).of_eq he
  · exact inv_loadParts h

theorem inv_loadRange {s k t ptr a n} (h : MemWf s) : MemWf (exceptState badState Got.s (loadRange s k t ptr a n)) := by
  unfold loadRange
  exact inv_loadElemsRange h

theorem inv_loadPtr {s k t ptr n need} (h : MemWf s) : MemWf (exceptState badState Got.s (loadPtr s k t ptr n need)) := by
  unfold loadPtr
  split
  · exact h
  · exact inv_loadRange h

theorem inv_dramStore {s k t v va size bs} (h : MemWf s) :
    MemWf (exceptState badState Put.s (dramStore s k t v va size bs)) := by
  unfold dramStore
  extract_lets p c
  split
  · split
    · next a he => exact (inv_translate h).of_eq he
    · next loc w s1 he =>
      have hs1 : MemWf s1 := (inv_translate h).of_eq he
      have hp : MemWf (portWrote (wrMemBytes s1 loc bs) p 0 loc bs.length) := .of_mem (mem_portWrote ..) (inv_wrMemBytes hs1)
      split
      · exact hs1
      · show MemWf (afterHint _ k p 0 va (some loc))
        exact inv_afterHint hp
  · split
    · exact inv_l1Store h
    · split
      · next a he => exact (inv_translate h).of_eq he
      · next loc w s1 he =>
        have hs1 : MemWf s1 := (inv_translate h).of_eq he
        have hv : MemWf (makeVersion s1 (some c) p v va loc) := .of_mem (mem_makeVersion ..) hs1
        split
        · exact hs1
        · exact inv_l1Store hv

theorem inv_storePiece {s k t v ptr size a bs} (h : MemWf s) :
    MemWf (exceptState badState Put.s (storePiece s k t v ptr size a bs)) := by
  unfold storePiece
  extract_lets n p hold
  have hhold : MemWf (exceptState badState Put.s (hold ())) := by
    unfold hold
    split
    · exact h
    · next s1 he => exact (inv_holdOp h).of_eq he
  split
  · next e he => exact inv_withSize ((inv_place h).of_eq he)
  · exact inv_dramStore h
  · split
    · next e he => exact (inv_ctlCheck h).of_eq he
    · split
      · exact hhold
      · exact .of_mem (mem_ctlStore ..) h
  · extract_lets loc w fig x u s1
    have hw : MemWf w.1 := by
      unfold w
      split
      · exact .of_mem (mem_windowWake ..) h
      · exact h
    have hx : MemWf x.1 := by
      unfold x
      split
      · exact hw
      · exact .of_mem (mem_crcCheck ..) hw
    have hs1 : MemWf s1 := inv_wrVersionBytes (.of_mem (mem_makeVersion ..) hx)
    split
    · exact hhold
    · split
      · exact hx
      · exact .of_mem (mem_portWrote ..) hs1

theorem inv_storeParts {s k t v ptr size l bs} (h : MemWf s) :
    MemWf (exceptState badState Put.s (storeParts s k t v ptr size l bs)) := by
  induction l generalizing s bs with
  | nil => exact h
  | cons q r ih =>
    unfold storeParts
    split
    · next e he => exact (inv_storePiece h).of_eq he
    · next h1 he =>
        split
        · next e he1 =>
            have hh1 : MemWf h1.s := (inv_storePiece h).of_eq he
            have hbadState : MemWf (badState e) := (ih hh1).of_eq he1
            exact hbadState
        · next h2 he1 =>
            have hh1 : MemWf h1.s := (inv_storePiece h).of_eq he
            have hh2 : MemWf h2.s := (ih hh1).of_eq he1
            exact hh2

theorem inv_foundIn {s e} (hs : MemWf s) (_he : MemWf e) : MemWf (foundIn s e) := by
  unfold foundIn
  exact hs

theorem inv_keepState {s b} (h : MemWf s) : MemWf (badState (keepState s b)) := by
  cases b <;> exact h

theorem inv_storeElemsRange {s k t ptr a bs size} (h : MemWf s) :
    MemWf (exceptState badState Put.s (storeElemsRange s k t ptr a bs size)) := by
  unfold storeElemsRange
  split
  · next he => exact (inv_crossing h).of_eq he
  · split
    · exact inv_keepState h
    · next he1 => exact (inv_storeParts h).of_eq he1

theorem inv_storeRange {s k t ptr a bs} (h : MemWf s) : MemWf (exceptState badState Put.s (storeRange s k t ptr a bs)) := by
  unfold storeRange
  exact inv_storeElemsRange h

theorem inv_storePtr {s k t ptr bs need} (h : MemWf s) : MemWf (exceptState badState Put.s (storePtr s k t ptr bs need)) := by
  unfold storePtr
  split
  · exact h
  · exact inv_storeRange h

theorem inv_msuWord {s k t ptr a n} (h : MemWf s) : MemWf (portState (msuWord s k t ptr a n)) := by
  unfold msuWord
  extract_lets p v go
  have hgo : ∀ s0, MemWf s0 → MemWf (portState (go s0)) := by
    intro s0 h0
    unfold go
    split
    · next e he => exact (inv_translate h0).of_eq he
    · next loc w s1 he =>
      have hs1 : MemWf s1 := (inv_translate h0).of_eq he
      split
      · next e he2 => exact (inv_demandRange hs1).of_eq he2
      · next s2 lat he2 =>
        have hs2 : MemWf s2 := (inv_demandRange hs1).of_eq he2
        split
        · exact hs2
        · show MemWf (afterHint _ k p v a (some loc))
          exact inv_afterHint hs2
  split
  · exact hgo s h
  · split
    · next s1 _ he => exact hgo s1 ((inv_flushLine h).of_eq he)
    · exact inv_flushLine h

theorem inv_atomicWord {s k t ptr a n} (h : MemWf s) : MemWf (portState (atomicWord s k t ptr a n)) := by
  unfold atomicWord
  split
  · extract_lets out
    refine ?_
    split <;> exact h
  · split
    · next he => exact (inv_place h).of_eq he
    · split <;> next he1 => exact (inv_demandRange (.of_mem (mem_windowWake ..) h)).of_eq he1
    · exact inv_msuWord h

theorem inv_setTag {s p v va loc full} (h : MemWf s) : MemWf (setTag s p v va loc full) := by
  unfold setTag
  extract_lets s1
  have hs1 : MemWf s1 := .of_mem (mem_makeVersion ..) h
  exact hs1

end Sys2Proof.Machine
end

section
/-! The canonical form of memory: what every instruction does around its own effect, and redundant pairs. -/

namespace Sys2Proof.Machine

theorem inv_badAct {b} (h : MemWf (badState b)) : MemWf (actState (badAct b)) := by
  cases b <;> exact h

theorem inv_wbAct {r f} (h : MemWf (wbState r)) (hf : ∀ s n, MemWf s → MemWf (actState (f s n))) :
    MemWf (actState (wbAct r f)) := by
  cases r with
  | done s n => exact hf s n h
  | held | diverge | failed => exact h

theorem inv_raise {s k cause info tpc} (h : MemWf s) : MemWf (raise s k cause info tpc) := by
  unfold raise
  split
  · exact h
  · split
    · exact inv_rollback h
    · exact .of_mem (mem_takeTrap ..) h

theorem inv_conclude {s0 k words t act} (_hs0 : MemWf s0) (ha : MemWf (actState act)) : MemWf (conclude s0 k words t act) := by
  cases act with
  | next | jump => exact .of_mem (mem_retire ..) ha
  | trap | trapPast => exact inv_raise ha
  | wait => exact .of_mem (mem_enterWait ..) ha
  | blocked => exact .of_mem (mem_enterFault ..) ha
  | gone => exact .of_mem (modThr_mem ..) ha

theorem inv_gate {i s k t} (h : MemWf s) : MemWf (optState s actState (gate i s k t)) := by
  unfold gate
  split
  · exact h
  · extract_lets w0 rs locks
    split
    · exact h
    · split
      · exact h
      · split
        · exact h
        · split
          · exact h
          · split
            · exact h
            · split
              · exact h
              · split <;> exact h

theorem inv_redWait {s what n} (h : MemWf s) : MemWf (actState (redWait s what n)) := h

theorem inv_redMismatch {s t} (h : MemWf s) : MemWf (actState (redMismatch s t)) := by
  unfold redMismatch
  split
  · exact inv_rollback h
  · exact h

theorem inv_pushLvq {s core e} (h : MemWf s) : MemWf (pushLvq s core e) := h

theorem inv_pushScb {s core e} (h : MemWf s) : MemWf (pushScb s core e) := h

theorem inv_keepThread {s s1 k} (hs : MemWf s) (_hs1 : MemWf s1) : MemWf (keepThread s s1 k) := by
  unfold keepThread
  split
  · exact inv_foldl (fun _ _ h => h) hs
  · exact hs

theorem inv_redTrap {s e f} (h : MemWf s) : MemWf (actState (redTrap s e f)) := by
  unfold redTrap
  split <;> exact h

theorem inv_redApply {i s k core pair e} (h : MemWf s) : MemWf (actState (redApply i s k core pair e)) := by
  unfold redApply
  extract_lets s1
  split
  · exact inv_redTrap h
  · split
    · exact h
    · exact .of_mem (mem_putScored ..) h

theorem inv_leadAnswer {i s k t a} (_hs : MemWf s) (ha : MemWf (actState a)) : MemWf (actState (leadAnswer i s k t a)) := by
  unfold leadAnswer
  split <;> exact ha

theorem inv_runLeading {i s k t f} (h : MemWf s) (hf : ∀ s k t, MemWf s → MemWf (actState (f s k t))) :
    MemWf (actState (runLeading i s k t f)) := by
  unfold runLeading
  extract_lets core pair scb lvq
  have hd : MemWf (actState (f { s with scb := s.scb.put core (redDrop scb pair) } k t)) := hf _ k t h
  split
  · split
    · exact inv_redWait h
    · exact inv_leadAnswer h (hf _ _ _ h)
  · split
    · split
      · exact inv_redWait h
      · split
        · next he => exact inv_pushScb (inv_keepThread h ((hf _ _ _ h).of_eq he))
        · next he => exact inv_pushScb (inv_keepThread h ((hf _ _ _ h).of_eq he))
        · exact hf _ _ _ h
    · split
      · split
        · split
          · split
            · next s1 _ he =>
              have hs1 : MemWf s1 := hd.of_eq he
              exact hs1
            · next s1 _ _ _ _ _ he =>
              have hs1 : MemWf s1 := hd.of_eq he
              exact hs1
            · exact inv_leadAnswer h hd
          · exact inv_redWait h
        · split
          · exact inv_redWait h
          · exact inv_redWait (inv_pushScb h)
      · exact hf _ _ _ h

theorem inv_trailEmit {i s core pair t e a} (hs : MemWf s) (ha : MemWf (actState a)) :
    MemWf (actState (trailEmit i s core pair t e a)) := by
  unfold trailEmit
  extract_lets drop
  have hdrop : ∀ s0, MemWf s0 → MemWf (drop s0) := fun _ h0 => h0
  split
  · exact inv_redMismatch hs
  · split
    · cases e.fault with
      | none => exact hdrop s hs
      | some f => exact inv_redTrap (hdrop s hs)
    · split
      · exact hdrop _ ha
      · split
        · exact hdrop _ ha
        · exact inv_redMismatch hs
      · exact inv_redMismatch hs
      · exact inv_redMismatch hs
      · exact ha

theorem inv_runTrailing {i s k t f} (h : MemWf s) (hf : ∀ s k t, MemWf s → MemWf (actState (f s k t))) :
    MemWf (actState (runTrailing i s k t f)) := by
  unfold runTrailing
  extract_lets core pair
  split
  · split
    · split
      · exact inv_redMismatch h
      · exact inv_redWait h
    · split
      · exact inv_redApply h
      · exact inv_redMismatch h
  · split
    · split
      · split
        · exact inv_redMismatch h
        · exact inv_redWait h
      · exact inv_trailEmit h (hf _ _ _ h)
    · split
      · split
        · split
          · exact inv_redApply h
          · exact inv_redMismatch h
        · split
          · split
            · exact inv_redMismatch h
            · exact inv_redWait h
          · split
            · exact inv_redWait h
            · split
              · exact inv_redWait h
              · exact inv_redMismatch h
      · exact hf _ _ _ h

theorem inv_effect {i s k t f} (h : MemWf s) (hf : ∀ s k t, MemWf s → MemWf (actState (f s k t))) :
    MemWf (actState (effect i s k t f)) := by
  unfold effect
  split
  · exact hf _ _ _ h
  · exact inv_runLeading h (fun _ _ _ h1 => hf _ _ _ h1)
  · exact inv_runTrailing h (fun _ _ _ h1 => hf _ _ _ h1)

theorem inv_run {i s f} (h : MemWf s) (hf : ∀ s k t, MemWf s → MemWf (actState (f s k t))) :
    MemWf (outState s (run i s f)) := by
  unfold run
  split
  · exact h
  · split
    · exact h
    · split
      · next he2 => exact (inv_conclude h ((inv_gate h).of_eq he2)).same rfl
      · exact (inv_conclude h (inv_effect h (fun _ _ _ h1 => hf _ _ _ h1))).same rfl

end Sys2Proof.Machine
end

section
/-! The canonical form of memory: the integer and floating instructions. -/

namespace Sys2Proof.Machine

theorem inv_fixed {s k lat d v} (h : MemWf s) : MemWf (actState (fixed s k lat d v)) := by
  unfold fixed
  exact .of_mem (mem_putFixed ..) h

theorem inv_shiftAct {s k t f op} (h : MemWf s) : MemWf (actState (shiftAct s k t f op)) := by
  unfold shiftAct
  extract_lets n
  split
  · exact h
  · exact inv_fixed h

theorem inv_execAdd {f s} (h : MemWf s) : MemWf (outState s (execAdd f s)) := by
  unfold execAdd
  exact inv_run h (fun _ _ _ h1 => inv_fixed h1)

theorem inv_execSub {f s} (h : MemWf s) : MemWf (outState s (execSub f s)) := by
  unfold execSub
  exact inv_run h (fun _ _ _ h1 => inv_fixed h1)

theorem inv_execAnd {f s} (h : MemWf s) : MemWf (outState s (execAnd f s)) := by
  unfold execAnd
  exact inv_run h (fun _ _ _ h1 => inv_fixed h1)

theorem inv_execOr {f s} (h : MemWf s) : MemWf (outState s (execOr f s)) := by
  unfold execOr
  exact inv_run h (fun _ _ _ h1 => inv_fixed h1)

theorem inv_execXor {f s} (h : MemWf s) : MemWf (outState s (execXor f s)) := by
  unfold execXor
  exact inv_run h (fun _ _ _ h1 => inv_fixed h1)

theorem inv_execShl {f s} (h : MemWf s) : MemWf (outState s (execShl f s)) := by
  unfold execShl
  exact inv_run h (fun _ _ _ h1 => inv_shiftAct h1)

theorem inv_execShr {f s} (h : MemWf s) : MemWf (outState s (execShr f s)) := by
  unfold execShr
  exact inv_run h (fun _ _ _ h1 => inv_shiftAct h1)

theorem inv_execSar {f s} (h : MemWf s) : MemWf (outState s (execSar f s)) := by
  unfold execSar
  exact inv_run h (fun _ _ _ h1 => inv_shiftAct h1)

theorem inv_execMin {f s} (h : MemWf s) : MemWf (outState s (execMin f s)) := by
  unfold execMin
  exact inv_run h (fun _ _ _ h1 => inv_fixed h1)

theorem inv_execMax {f s} (h : MemWf s) : MemWf (outState s (execMax f s)) := by
  unfold execMax
  exact inv_run h (fun _ _ _ h1 => inv_fixed h1)

theorem inv_execSlt {f s} (h : MemWf s) : MemWf (outState s (execSlt f s)) := by
  unfold execSlt
  exact inv_run h (fun _ _ _ h1 => inv_fixed h1)

theorem inv_execSel {f s} (h : MemWf s) : MemWf (outState s (execSel f s)) := by
  unfold execSel
  exact inv_run h (fun _ _ _ h1 => inv_fixed h1)

theorem inv_execAddsat {f s} (h : MemWf s) : MemWf (outState s (execAddsat f s)) := by
  unfold execAddsat
  exact inv_run h (fun _ _ _ h1 => inv_fixed h1)

theorem inv_execSubsat {f s} (h : MemWf s) : MemWf (outState s (execSubsat f s)) := by
  unfold execSubsat
  exact inv_run h (fun _ _ _ h1 => inv_fixed h1)

theorem inv_execMul {f s} (h : MemWf s) : MemWf (outState s (execMul f s)) := by
  unfold execMul
  exact inv_run h (fun _ _ _ h1 => inv_fixed h1)

theorem inv_execMulh {f s} (h : MemWf s) : MemWf (outState s (execMulh f s)) := by
  unfold execMulh
  exact inv_run h (fun _ _ _ h1 => inv_fixed h1)

theorem inv_divAct {s k t f op} (h : MemWf s) : MemWf (actState (divAct s k t f op)) := by
  unfold divAct
  extract_lets u a b
  split
  · exact h
  · exact .of_mem (mem_putScored ..) h

theorem inv_execDiv {f s} (h : MemWf s) : MemWf (outState s (execDiv f s)) := by
  unfold execDiv
  exact inv_run h (fun _ _ _ h1 => inv_divAct h1)

theorem inv_execRem {f s} (h : MemWf s) : MemWf (outState s (execRem f s)) := by
  unfold execRem
  exact inv_run h (fun _ _ _ h1 => inv_divAct h1)

theorem inv_execClz {f s} (h : MemWf s) : MemWf (outState s (execClz f s)) := by
  unfold execClz
  exact inv_run h (fun _ _ _ h1 => inv_fixed h1)

theorem inv_execBext {f s} (h : MemWf s) : MemWf (outState s (execBext f s)) := by
  unfold execBext
  refine inv_run h (fun s1 k1 t1 h1 => ?_)
  extract_lets c
  split
  · exact h1
  · exact inv_fixed h1

theorem inv_execBins {f s} (h : MemWf s) : MemWf (outState s (execBins f s)) := by
  unfold execBins
  refine inv_run h (fun s1 k1 t1 h1 => ?_)
  extract_lets c
  split
  · exact h1
  · exact inv_fixed h1

theorem inv_execLea {f s} (h : MemWf s) : MemWf (outState s (execLea f s)) := by
  unfold execLea
  exact inv_run h (fun _ _ _ h1 => inv_fixed h1)

theorem inv_execLi {f s} (h : MemWf s) : MemWf (outState s (execLi f s)) := by
  unfold execLi
  exact inv_run h (fun _ _ _ h1 => inv_fixed h1)

theorem inv_fpAct {s k lat t d v fl} (h : MemWf s) : MemWf (actState (fpAct s k lat t d v fl)) := by
  unfold fpAct
  extract_lets s1 s2
  split
  · exact h
  · exact inv_fixed (inv_ite h h)

theorem inv_fpBin {s k lat t f op} (h : MemWf s) : MemWf (actState (fpBin s k lat t f op)) := by
  unfold fpBin
  exact inv_fpAct h

theorem inv_execFadd {f s} (h : MemWf s) : MemWf (outState s (execFadd f s)) := by
  unfold execFadd
  exact inv_run h (fun _ _ _ h1 => inv_fpBin h1)

theorem inv_execFsub {f s} (h : MemWf s) : MemWf (outState s (execFsub f s)) := by
  unfold execFsub
  exact inv_run h (fun _ _ _ h1 => inv_fpBin h1)

theorem inv_execFmul {f s} (h : MemWf s) : MemWf (outState s (execFmul f s)) := by
  unfold execFmul
  exact inv_run h (fun _ _ _ h1 => inv_fpBin h1)

theorem inv_execFfma {f s} (h : MemWf s) : MemWf (outState s (execFfma f s)) := by
  unfold execFfma
  exact inv_run h (fun _ _ _ h1 => inv_fpBin h1)

theorem inv_execFdiv {f s} (h : MemWf s) : MemWf (outState s (execFdiv f s)) := by
  unfold execFdiv
  exact inv_run h (fun _ _ _ h1 => inv_fpBin h1)

theorem inv_execFsqrt {f s} (h : MemWf s) : MemWf (outState s (execFsqrt f s)) := by
  unfold execFsqrt
  exact inv_run h (fun _ _ _ h1 => inv_fpAct h1)

theorem inv_execFmin {f s} (h : MemWf s) : MemWf (outState s (execFmin f s)) := by
  unfold execFmin
  exact inv_run h (fun _ _ _ h1 => inv_fpBin h1)

theorem inv_execFmax {f s} (h : MemWf s) : MemWf (outState s (execFmax f s)) := by
  unfold execFmax
  exact inv_run h (fun _ _ _ h1 => inv_fpBin h1)

theorem inv_execFlt {f s} (h : MemWf s) : MemWf (outState s (execFlt f s)) := by
  unfold execFlt
  exact inv_run h (fun _ _ _ h1 => inv_fpBin h1)

theorem inv_execFcvt {f s} (h : MemWf s) : MemWf (outState s (execFcvt f s)) := by
  unfold execFcvt
  exact inv_run h (fun _ _ _ h1 => inv_fpAct h1)

end Sys2Proof.Machine
end

section
/-! The canonical form of memory: special registers. -/

namespace Sys2Proof.Machine

theorem inv_perfSet {s p i count sel} (h : MemWf s) : MemWf (perfSet s p i count sel) := h

theorem inv_writePerfsel {s p v} (h : MemWf s) : MemWf (writePerfsel s p v) := h

theorem inv_writeWdoglim {s p v} (h : MemWf s) : MemWf (writeWdoglim s p v) := by
  unfold writeWdoglim
  exact inv_ite h h

theorem inv_applyThermmode {s v} (h : MemWf s) : MemWf (applyThermmode s v) := by
  unfold applyThermmode
  exact inv_ite (inv_foldl (fun _ _ h1 => h1) (inv_ite h h)) (inv_ite h h)

theorem inv_writeTracectl {s v} (h : MemWf s) : MemWf (writeTracectl s v) := by
  unfold writeTracectl
  extract_lets old lost s1 s2
  have hs2 : MemWf s2 := inv_ite h h
  split
  · exact inv_pokeHeld hs2
  · exact hs2

theorem inv_writeErrinj {s v} (h : MemWf s) : MemWf (writeErrinj s v) := h

theorem inv_writeAudit {s p v} (h : MemWf s) : MemWf (writeAudit s p v) := h

theorem inv_clearErrlog {s} (h : MemWf s) : MemWf (clearErrlog s) := by
  unfold clearErrlog
  split
  exact inv_ite h h

theorem inv_execMfs {f s} (h : MemWf s) : MemWf (outState s (execMfs f s)) := by
  unfold execMfs
  refine inv_run h (fun s1 k1 t1 h1 => ?_)
  extract_lets i
  split
  · exact h1
  · split
    · exact h1
    · split
      · split
        · exact h1
        · exact .of_mem (mem_putScored ..) h1
      · exact inv_fixed h1

theorem inv_sprWrite {s k t i v} (h : MemWf s) : MemWf (sprWrite s k t i v) := by
  unfold sprWrite
  extract_lets p old pending n
  refine inv_ite (.of_mem (modThr_mem ..) h) ?_
  refine inv_ite h ?_
  refine inv_ite (inv_writeErrinj h) ?_
  refine inv_ite (inv_clearErrlog h) ?_
  refine inv_ite h ?_
  refine inv_ite (inv_ite (inv_applyThermmode h) h) ?_
  refine inv_ite (inv_writeTracectl h) ?_
  refine inv_ite (inv_writeAudit h) ?_
  refine inv_ite (inv_writePerfsel h) ?_
  refine inv_ite h ?_
  refine inv_ite (inv_writeWdoglim h) ?_
  exact .of_mem (setSprPart_mem ..) h

theorem inv_execMts {f s} (h : MemWf s) : MemWf (outState s (execMts f s)) := by
  unfold execMts
  refine inv_run h (fun s1 k1 t1 h1 => ?_)
  extract_lets i v
  split
  · exact h1
  · split
    · exact h1
    · split
      · exact h1
      · split
        · exact h1
        · exact inv_sprWrite h1

theorem inv_execThermmodeWrite {v s} (h : MemWf s) : MemWf (outState s (execThermmodeWrite v s)) := by
  unfold execThermmodeWrite
  exact inv_applyThermmode h

theorem inv_execTracectlWrite {v s} (h : MemWf s) : MemWf (outState s (execTracectlWrite v s)) := by
  unfold execTracectlWrite
  exact inv_writeTracectl h

theorem inv_execWdoglimWrite {part v s} (h : MemWf s) : MemWf (outState s (execWdoglimWrite part v s)) := by
  unfold execWdoglimWrite
  exact inv_writeWdoglim h

theorem inv_execPerfselWrite {part v s} (h : MemWf s) : MemWf (outState s (execPerfselWrite part v s)) := by
  unfold execPerfselWrite
  exact inv_writePerfsel h

theorem inv_execAuditWrite {part v s} (h : MemWf s) : MemWf (outState s (execAuditWrite part v s)) := by
  unfold execAuditWrite
  exact inv_writeAudit h

theorem inv_execErrinjWrite {v s} (h : MemWf s) : MemWf (outState s (execErrinjWrite v s)) := h

theorem inv_execErrlogClear {s} (h : MemWf s) : MemWf (outState s (execErrlogClear s)) := by
  unfold execErrlogClear
  exact inv_clearErrlog h

theorem inv_execEventRingReadAdvance {part v s} (h : MemWf s) : MemWf (outState s (execEventRingReadAdvance part v s)) := by
  unfold execEventRingReadAdvance
  extract_lets c old s1
  have hs1 : MemWf s1 := inv_ite (.of_mem (mem_setCtlF ..) h) h
  exact inv_ite hs1 (.of_mem (mem_setCtlF ..) (.of_mem (mem_setCtlF ..) hs1))

end Sys2Proof.Machine
end

section
/-! The canonical form of memory: branches, jumps, loops and returns. -/

namespace Sys2Proof.Machine

theorem inv_branchAct {s t f cond} (h : MemWf s) : MemWf (actState (branchAct s t f cond)) := by
  unfold branchAct
  split <;> exact h

theorem inv_execBeq {f s} (h : MemWf s) : MemWf (outState s (execBeq f s)) := by
  unfold execBeq
  exact inv_run h (fun _ _ _ h1 => inv_branchAct h1)

theorem inv_execBne {f s} (h : MemWf s) : MemWf (outState s (execBne f s)) := by
  unfold execBne
  exact inv_run h (fun _ _ _ h1 => inv_branchAct h1)

theorem inv_execBlt {f s} (h : MemWf s) : MemWf (outState s (execBlt f s)) := by
  unfold execBlt
  exact inv_run h (fun _ _ _ h1 => inv_branchAct h1)

theorem inv_execBge {f s} (h : MemWf s) : MemWf (outState s (execBge f s)) := by
  unfold execBge
  exact inv_run h (fun _ _ _ h1 => inv_branchAct h1)

theorem inv_execJmp {f s} (h : MemWf s) : MemWf (outState s (execJmp f s)) := by
  unfold execJmp
  exact inv_run h (fun _ _ _ h1 => h1)

theorem inv_execJal {f s} (h : MemWf s) : MemWf (outState s (execJal f s)) := by
  unfold execJal
  exact inv_run h (fun _ _ _ h1 => .of_mem (mem_putFixed ..) h1)

theorem inv_jrAct {s a link} (h : MemWf s) (hl : ∀ s, MemWf s → MemWf (link s)) : MemWf (actState (jrAct s a link)) := by
  unfold jrAct
  split
  · exact h
  · exact hl _ h

theorem inv_execJr {f s} (h : MemWf s) : MemWf (outState s (execJr f s)) := by
  unfold execJr
  exact inv_run h (fun _ _ _ h1 => inv_jrAct h1 (fun _ h2 => h2))

theorem inv_execJrLink {f s} (h : MemWf s) : MemWf (outState s (execJrLink f s)) := by
  unfold execJrLink
  exact inv_run h (fun _ _ _ h1 => inv_jrAct h1 (fun _ h2 => .of_mem (mem_putFixed ..) h2))

theorem inv_execLoop {f s} (h : MemWf s) : MemWf (outState s (execLoop f s)) := by
  unfold execLoop
  refine inv_run h (fun s1 k1 t1 h1 => ?_)
  extract_lets c exit_ n
  split
  · exact h1
  · split
    · exact h1
    · split
      · exact h1
      · split <;> exact h1

theorem inv_execNop {f s} (h : MemWf s) : MemWf (outState s (execNop f s)) := by
  unfold execNop
  exact inv_run h (fun _ _ _ h1 => h1)

theorem inv_execTrap {f s} (h : MemWf s) : MemWf (outState s (execTrap f s)) := by
  unfold execTrap
  exact inv_run h (fun _ _ _ h1 => h1)

theorem inv_execBrk {f s} (h : MemWf s) : MemWf (outState s (execBrk f s)) := by
  unfold execBrk
  exact inv_run h (fun _ _ _ h1 => h1)

theorem inv_execEret {f s} (h : MemWf s) : MemWf (outState s (execEret f s)) := by
  unfold execEret
  refine inv_run h (fun s1 k1 t1 h1 => ?_)
  split <;> exact h1

theorem inv_execUiret {f s} (h : MemWf s) : MemWf (outState s (execUiret f s)) := by
  unfold execUiret
  refine inv_run h (fun s1 k1 t1 h1 => ?_)
  split <;> exact h1

end Sys2Proof.Machine
end

section
/-! The canonical form of memory: what waits at a unit or a sync object. -/

namespace Sys2Proof.Machine

theorem inv_finishLead {s k t regs lat} (h : MemWf s) : MemWf (finishLead s k t regs lat) := by
  unfold finishLead
  split
  · extract_lets core scb
    split <;> exact h
  · exact h

theorem inv_failLead {s k t w cause info} (h : MemWf s) : MemWf (failLead s k t w cause info) := by
  unfold failLead
  split
  · exact inv_ite h (inv_ite h h)
  · exact h

theorem inv_finishWait {s k regs due at_} (h : MemWf s) : MemWf (finishWait s k regs due at_) := by
  unfold finishWait
  split
  · exact h
  · split
    · exact h
    · extract_lets s1 s2 s3 s4
      have hs1 : MemWf s1 := inv_finishLead h
      have hs2 : MemWf s2 := inv_ite hs1 (.of_mem (mem_putScored ..) hs1)
      have hs3 : MemWf s3 := .of_mem (modThr_mem ..) hs2
      have hs4 : MemWf s4 := .of_mem (mem_retireAt ..) hs3
      exact inv_ite (.of_mem (mem_dueTrap ..) hs4) hs4

theorem inv_failWait {s k w cause info} (h : MemWf s) : MemWf (failWait s k w cause info) := by
  unfold failWait
  split
  · exact h
  · exact .of_mem (mem_dueTrap ..) (inv_failLead h)

theorem inv_feTake {s p v loc} (h : MemWf s) : MemWf (feTake s p v loc).1 := by
  unfold feTake
  exact inv_setTag h

theorem inv_feFill {s p v loc x} (h : MemWf s) : MemWf (feFill s p v loc x) := by
  unfold feFill
  exact .of_mem (mem_portWrote ..) (inv_wrVersionBytes (inv_setTag h))

theorem inv_serveFe {fuel s loc} (h : MemWf s) : MemWf (serveFe fuel s loc) := by
  induction fuel generalizing s with
  | zero => exact h
  | succ fuel ih =>
    unfold serveFe
    split
    · exact h
    · split
      · exact h
      · exact inv_ite (ih (inv_finishWait (.of_mem (mem_acquireAt ..) (inv_feTake h)))) (ih (inv_finishWait (inv_feFill h)))

theorem inv_serveFeAll {s loc} (h : MemWf s) : MemWf (serveFeAll s loc) := by
  unfold serveFeAll
  exact inv_serveFe h

theorem inv_rangeDrop {s c p rs} (h : MemWf s) : MemWf (rangeDrop s c p rs) := h

theorem inv_setObj {s loc o} (h : MemWf s) : MemWf (setObj s loc o) := h

theorem inv_grantObject {s k loc shared} (h : MemWf s) : MemWf (wbState (grantObject s k loc shared)) := by
  unfold grantObject
  split
  · exact h
  · next t ht =>
    extract_lets p rs base wb
    have hwb : MemWf (wbState wb) := by
      unfold wb
      split
      · exact h
      · exact inv_wbLines h
    clear_value wb
    cases wb with
    | done s1 at_ =>
      have hs2 : MemWf (if isHostKey k then s1 else rangeDrop s1 (coreOf k) p rs) := inv_ite hwb (inv_rangeDrop hwb)
      exact .of_mem (modThr_mem ..) (inv_setObj (.of_mem (mem_acquireAt ..) hs2))
    | held | diverge | failed => exact hwb

theorem inv_grantWaiters {fuel s part loc} (h : MemWf s) : MemWf (grantWaiters fuel s part loc) := by
  induction fuel generalizing s with
  | zero => exact h
  | succ fuel ih =>
    unfold grantWaiters
    split
    · exact h
    · split
      · split
        · next he2 => exact ih (inv_finishWait ((inv_grantObject h).of_eq he2))
        · next he2 => exact ((inv_grantObject h).of_eq he2).same rfl
        · next he2 => exact ih (inv_failWait ((inv_grantObject h).of_eq he2))
        · next he2 => exact ih (inv_failWait ((inv_grantObject h).of_eq he2))
      · exact h

theorem inv_applyUpdate {s u} (h : MemWf s) : MemWf (applyUpdate s u) := by
  unfold applyUpdate
  exact .of_mem (mem_portWrote ..) (inv_wrVersionBytes (.of_mem (mem_makeVersion ..) h))

theorem inv_spillUpdates {s p slice} (h : MemWf s) : MemWf (spillUpdates s p slice) := by
  unfold spillUpdates
  exact inv_ite ((inv_wrMemBytes h).same rfl) (inv_foldl (fun _ _ h1 => h1) h)

theorem inv_addUpdate {s u} (h : MemWf s) : MemWf (addUpdate s u) := by
  unfold addUpdate
  split
  · exact h
  · split
    · exact inv_setObj (inv_spillUpdates h)
    · exact inv_ite (inv_ite (inv_spillUpdates h) h) ((inv_ite (inv_spillUpdates h) h).same rfl)

theorem inv_dropRecords {s p loc} (h : MemWf s) : MemWf (dropRecords s p loc) := h

theorem inv_mergeUpdates {s p loc} (h : MemWf s) : MemWf (mergeUpdates s p loc).1 := by
  unfold mergeUpdates
  extract_lets o fromRuns all runs s1
  split
  · exact h
  · exact inv_foldl (fun _ _ h1 => inv_applyUpdate h1) h

theorem inv_relWrites {s k loc t} (h : MemWf s) : MemWf (wbState (relWrites s k loc t)) := by
  unfold relWrites
  split
  · exact h
  · split
    · next s1 _ he =>
        split
        · next s11 _ he1 =>
            have hs1 : MemWf s1 := (inv_wbLines h).of_eq he
            have hs11 : MemWf s11 := (inv_wbLines hs1).of_eq he1
            exact hs11
        · have hs1 : MemWf s1 := (inv_wbLines h).of_eq he
          exact inv_wbLines hs1
    · exact inv_wbLines h

theorem inv_releaseObject {s k t loc} (h : MemWf s) : MemWf (wbState (releaseObject s k t loc).1) := by
  unfold releaseObject
  extract_lets p
  split
  · next s1 at1 he =>
    have hs1 : MemWf s1 := (inv_relWrites h).of_eq he
    extract_lets o rest m at2 s2 s3
    have hm : MemWf m.1 := by
      unfold m
      split
      · exact inv_mergeUpdates hs1
      · exact hs1
    have hs2 : MemWf s2 := inv_setObj hm
    have hs3 : MemWf s3 := .of_mem (modThr_mem ..) hs2
    exact .of_mem (sched_mem ..) hs3
  · exact inv_relWrites h

end Sys2Proof.Machine
end

section
/-! The canonical form of memory: the memory instructions. -/

namespace Sys2Proof.Machine

theorem inv_scored {s k lat d v} (h : MemWf s) : MemWf (scored s k lat d v) := by
  unfold scored
  exact .of_mem (mem_putScored ..) h

theorem inv_loadAct {s k t f n} (h : MemWf s) : MemWf (actState (loadAct s k t f n)) := by
  unfold loadAct
  split
  · next he => exact inv_badAct ((inv_loadPtr h).of_eq he)
  · next he => exact inv_scored ((inv_loadPtr h).of_eq he)

theorem inv_storeAct {s k t f n} (h : MemWf s) : MemWf (actState (storeAct s k t f n)) := by
  unfold storeAct
  split
  · next he => exact inv_badAct ((inv_storePtr h).of_eq he)
  · next he => exact .of_mem (mem_noteStore ..) ((inv_storePtr h).of_eq he)

theorem inv_execLd8 {f s} (h : MemWf s) : MemWf (outState s (execLd8 f s)) := by
  unfold execLd8
  exact inv_run h (fun _ _ _ h1 => inv_loadAct h1)

theorem inv_execLd16 {f s} (h : MemWf s) : MemWf (outState s (execLd16 f s)) := by
  unfold execLd16
  exact inv_run h (fun _ _ _ h1 => inv_loadAct h1)

theorem inv_execLd32 {f s} (h : MemWf s) : MemWf (outState s (execLd32 f s)) := by
  unfold execLd32
  exact inv_run h (fun _ _ _ h1 => inv_loadAct h1)

theorem inv_execLd64 {f s} (h : MemWf s) : MemWf (outState s (execLd64 f s)) := by
  unfold execLd64
  exact inv_run h (fun _ _ _ h1 => inv_loadAct h1)

theorem inv_execSt8 {f s} (h : MemWf s) : MemWf (outState s (execSt8 f s)) := by
  unfold execSt8
  exact inv_run h (fun _ _ _ h1 => inv_storeAct h1)

theorem inv_execSt16 {f s} (h : MemWf s) : MemWf (outState s (execSt16 f s)) := by
  unfold execSt16
  exact inv_run h (fun _ _ _ h1 => inv_storeAct h1)

theorem inv_execSt32 {f s} (h : MemWf s) : MemWf (outState s (execSt32 f s)) := by
  unfold execSt32
  exact inv_run h (fun _ _ _ h1 => inv_storeAct h1)

theorem inv_execSt64 {f s} (h : MemWf s) : MemWf (outState s (execSt64 f s)) := by
  unfold execSt64
  exact inv_run h (fun _ _ _ h1 => inv_storeAct h1)

theorem inv_portPiece {s k t v ptr kind size a n} (h : MemWf s) : MemWf (gotState (portPiece s k t v ptr kind size a n)) := by
  unfold portPiece
  extract_lets p plain
  have hplain : ∀ s0, MemWf s0 → MemWf (gotState (plain s0)) := by
    intro s0 h0
    unfold plain
    split
    · next e he => exact (inv_loadPiece h0).of_eq he
    · next g he => exact (inv_loadPiece h0).of_eq he
  split
  · split
    · exact hplain s h
    · split
      · next s1 _ he =>
        have hs1 : MemWf s1 := (inv_flushLine h).of_eq he
        split
        · next e he2 => exact (inv_translate hs1).of_eq he2
        · next loc w s2 he2 =>
          have hs2 : MemWf s2 := (inv_translate hs1).of_eq he2
          split
          · next e he3 => exact (inv_demandRange hs2).of_eq he3
          · next s3 lat he3 =>
            have hs3 : MemWf s3 := (inv_demandRange hs2).of_eq he3
            show MemWf (afterHint _ k p v _ (some loc))
            exact inv_afterHint hs3
      · exact inv_flushLine h
  · exact hplain s h

theorem inv_portParts {s k t v ptr kind size l} (h : MemWf s) : MemWf (gotState (portParts s k t v ptr kind size l)) := by
  induction l generalizing s with
  | nil => exact h
  | cons q r ih =>
    unfold portParts
    split
    · next h1 he =>
        split
        · next h2 he1 =>
            have hh1 : MemWf h1.s := (inv_portPiece h).of_eq he
            have hh2 : MemWf h2.s := (ih hh1).of_eq he1
            exact hh2
        · have hh1 : MemWf h1.s := (inv_portPiece h).of_eq he
          exact ih hh1
    · exact inv_portPiece h

theorem inv_portRead {s k t ptr kind a n} (h : MemWf s) : MemWf (gotState (portRead s k t ptr kind a n)) := by
  unfold portRead
  exact inv_portParts h

theorem inv_l1Renew {s c p v va l} (h : MemWf s) : MemWf (l1Renew s c p v va l) := by
  induction l generalizing s va with
  | nil => exact h
  | cons b r ih =>
    unfold l1Renew
    extract_lets s1
    have hs1 : MemWf s1 := by
      unfold s1
      split <;> exact h
    exact ih hs1

theorem inv_putPiece {keep s k t v ptr size a bs} (h : MemWf s) : MemWf (putState (putPiece keep s k t v ptr size a bs)) := by
  unfold putPiece
  extract_lets p n plain
  have hplain : ∀ s0, MemWf s0 → MemWf (putState (plain s0)) := by
    intro s0 h0
    unfold plain
    split
    · next e he => exact (inv_storePiece h0).of_eq he
    · next g he => exact (inv_storePiece h0).of_eq he
  split
  · next va _ =>
    split
    · exact hplain s h
    · have hf : MemWf (wbState (if keep then .done s s.clk else flushLine s (coreOf k) p va)) := by
        split
        · exact h
        · exact inv_flushLine h
      split
      · next s1 _ he =>
        have hs1 : MemWf s1 := hf.of_eq he
        split
        · next e he2 => exact (inv_translate hs1).of_eq he2
        · next loc w s2 he2 =>
          have hs2 : MemWf s2 := (inv_translate hs1).of_eq he2
          split
          · exact hs2
          · extract_lets s3 s4
            have hv : MemWf (makeVersion s2 none p v va loc) := .of_mem (mem_makeVersion ..) hs2
            have hs3 : MemWf s3 := inv_wrVersionBytes hv
            have hs4 : MemWf s4 := inv_ite (inv_l1Renew hs3) hs3
            show MemWf (afterHint _ k p v va (some loc))
            exact inv_afterHint (.of_mem (mem_portWrote ..) hs4)
      · exact hf
  · exact hplain s h

theorem inv_putParts {keep s k t v ptr size l bs} (h : MemWf s) : MemWf (putState (putParts keep s k t v ptr size l bs)) := by
  induction l generalizing s bs with
  | nil => exact h
  | cons q r ih =>
    unfold putParts
    split
    · next h1 he =>
        split
        · next h2 he1 =>
            have hh1 : MemWf h1.s := (inv_putPiece h).of_eq he
            have hh2 : MemWf h2.s := (ih hh1).of_eq he1
            exact hh2
        · have hh1 : MemWf h1.s := (inv_putPiece h).of_eq he
          exact ih hh1
    · exact inv_putPiece h

theorem inv_portWrite {keep s k t ptr a bs} (h : MemWf s) : MemWf (putState (portWrite keep s k t ptr a bs)) := by
  unfold portWrite
  split
  · exact inv_keepState h
  · exact inv_putParts h

theorem inv_execLdacq {f s} (h : MemWf s) : MemWf (outState s (execLdacq f s)) := by
  unfold execLdacq
  refine inv_run h (fun s1 k1 t1 h1 => ?_)
  extract_lets ptr sc
  split
  · exact inv_loadAct h1
  · split
    · exact h1
    · split
      · next e he => exact inv_badAct ((inv_portRead h1).of_eq he)
      · next r he => exact inv_wbAct ((inv_portRead h1).of_eq he) (fun _ _ h2 => h2)
      · next g he =>
        extract_lets q
        have hg : MemWf g.s := (inv_portRead h1).of_eq he
        exact .of_mem (holdUntil_mem ..) (inv_scored (.of_mem (mem_acquireAt ..) hg))

theorem inv_execStrel {f s} (h : MemWf s) : MemWf (outState s (execStrel f s)) := by
  unfold execStrel
  refine inv_run h (fun s1 k1 t1 h1 => ?_)
  extract_lets ptr sc bs
  split
  · exact h1
  · refine inv_wbAct (inv_releaseAt h1) (fun s2 at_ h2 => ?_)
    extract_lets late
    have hlate : ∀ g : Put, MemWf g.s → MemWf (actState (late g)) := fun _ hg =>
      .of_mem (holdUntil_mem ..) (.of_mem (mem_noteStore ..) hg)
    clear_value late
    split
    · split
      · next he => exact inv_badAct ((inv_storeRange h2).of_eq he)
      · next g he => exact hlate g ((inv_storeRange h2).of_eq he)
    · split
      · next he => exact inv_badAct ((inv_portWrite h2).of_eq he)
      · next he => exact inv_wbAct ((inv_portWrite h2).of_eq he) (fun _ _ h3 => h3)
      · next g he => exact hlate g ((inv_portWrite h2).of_eq he)

theorem inv_execFence {f s} (h : MemWf s) : MemWf (outState s (execFence f s)) := by
  unfold execFence
  refine inv_run h (fun _ _ _ h1 => inv_wbAct (inv_releaseAt h1) (fun _ _ h2 => ?_))
  exact .of_mem (holdUntil_mem ..) (.of_mem (mem_acquireAt ..) h2)

theorem inv_execCachectl {f s} (h : MemWf s) : MemWf (outState s (execCachectl f s)) := by
  unfold execCachectl
  refine inv_run h (fun s1 k1 t1 h1 => ?_)
  extract_lets p b m last part c
  split
  · exact h1
  · split
    · exact h1
    · exact h1
    · split
      · exact h1
      · extract_lets dropI mine clean
        split
        · exact inv_ite h1 h1
        · split
          · exact h1
          · exact inv_wbAct (inv_wbLines h1) (fun _ _ h2 => inv_ite h2 (inv_ite h2 h2))

theorem inv_feWord {s k t ptr need} (h : MemWf s) : MemWf (portState (feWord s k t ptr need)) := by
  unfold feWord
  split
  · exact h
  · split
    · exact inv_msuWord h
    · extract_lets out
      refine ?_
      split <;> exact h

theorem inv_withWord {s r f} (h : MemWf (portState r)) (hf : ∀ w, MemWf w.s → MemWf (actState (f w))) :
    MemWf (actState (withWord s r f)) := by
  cases r with
  | ok w => exact hf w h
  | bad e => exact inv_badAct h
  | wb r => exact inv_wbAct h fun _ _ hs => hs
  | down => exact h

theorem inv_feWait {s kind p w arg dst} (hs : MemWf s) (_hw : MemWf w.s) : MemWf (actState (feWait s kind p w arg dst)) := by
  unfold feWait
  exact hs

theorem inv_execLdfe {f s} (h : MemWf s) : MemWf (outState s (execLdfe f s)) := by
  unfold execLdfe
  refine inv_run h (fun s1 k1 t1 h1 => inv_withWord (inv_feWord h1) (fun w1 h2 => ?_))
  extract_lets p r q
  split
  · exact inv_serveFeAll (.of_mem (holdUntil_mem ..) (inv_scored (.of_mem (mem_acquireAt ..) (inv_feTake h2))))
  · exact inv_feWait h2 h2

theorem inv_execStfe {f s} (h : MemWf s) : MemWf (outState s (execStfe f s)) := by
  unfold execStfe
  refine inv_run h (fun s1 k1 t1 h1 => ?_)
  split
  · exact h1
  · extract_lets done p x1
    refine inv_wbAct ?_ (fun s2 n1 h2 => ?_)
    · split
      · exact h1
      · exact inv_releaseAt h1
    · split
      · exact h2
      · refine inv_withWord (inv_feWord h2) (fun w1 h3 => ?_)
        split
        · exact inv_feWait h3 h3
        · exact inv_serveFeAll (.of_mem (mem_noteStore ..) (inv_feFill h3))

theorem inv_execFechk {f s} (h : MemWf s) : MemWf (outState s (execFechk f s)) := by
  unfold execFechk
  exact inv_run h (fun _ _ _ h1 => inv_withWord (inv_feWord h1) (fun _ h2 => .of_mem (mem_putScored ..) h2))

theorem inv_atomicAct {s k t f n new} (h : MemWf s) : MemWf (actState (atomicAct s k t f n new)) := by
  unfold atomicAct
  extract_lets ptr b
  split
  · exact h
  · exact inv_withWord (inv_atomicWord h) (fun _ h1 => .of_mem (mem_putScored ..) (inv_setWord h1))

theorem inv_execAmoadd {f s} (h : MemWf s) : MemWf (outState s (execAmoadd f s)) := by
  unfold execAmoadd
  exact inv_run h (fun _ _ _ h1 => inv_atomicAct h1)

theorem inv_execAmobit {f s} (h : MemWf s) : MemWf (outState s (execAmobit f s)) := by
  unfold execAmobit
  exact inv_run h (fun _ _ _ h1 => inv_atomicAct h1)

theorem inv_execAmomin {f s} (h : MemWf s) : MemWf (outState s (execAmomin f s)) := by
  unfold execAmomin
  exact inv_run h (fun _ _ _ h1 => inv_atomicAct h1)

theorem inv_execAmomax {f s} (h : MemWf s) : MemWf (outState s (execAmomax f s)) := by
  unfold execAmomax
  exact inv_run h (fun _ _ _ h1 => inv_atomicAct h1)

theorem inv_execAmoswap {f s} (h : MemWf s) : MemWf (outState s (execAmoswap f s)) := by
  unfold execAmoswap
  exact inv_run h (fun _ _ _ h1 => inv_atomicAct h1)

theorem inv_execCas {f s} (h : MemWf s) : MemWf (outState s (execCas f s)) := by
  unfold execCas
  exact inv_run h (fun _ _ _ h1 => inv_atomicAct h1)

theorem inv_execFaddaU {f s} (h : MemWf s) : MemWf (outState s (execFaddaU f s)) := by
  unfold execFaddaU
  exact inv_run h (fun _ _ _ h1 => inv_atomicAct h1)

theorem inv_orderedAt {s k t va fmt loc v view} (h : MemWf s) :
    MemWf (exceptState (fun _ => s) id (orderedAt s k t va fmt loc v view)) := by
  unfold orderedAt
  split
  · exact h
  · split
    · exact h
    · exact inv_addUpdate h

theorem inv_execFaddaO {f s} (h : MemWf s) : MemWf (outState s (execFaddaO f s)) := by
  unfold execFaddaO
  refine inv_run h (fun s1 k1 t1 h1 => ?_)
  extract_lets ptr n
  split
  · exact h1
  · split
    · exact h1
    · refine inv_withWord (inv_atomicWord h1) (fun w1 h2 => ?_)
      split
      · exact h1
      · next he1 => exact .of_mem (mem_noteStore ..) ((inv_orderedAt h2).of_eq he1)

theorem inv_execFmaxa {f s} (h : MemWf s) : MemWf (outState s (execFmaxa f s)) := by
  unfold execFmaxa
  exact inv_run h (fun _ _ _ h1 => inv_atomicAct h1)

theorem inv_objectWord {s k t ptr} (h : MemWf s) : MemWf (portState (objectWord s k t ptr)) := by
  unfold objectWord
  split
  · exact h
  · split
    · next he1 => exact (inv_place h).of_eq he1
    · split <;> next he2 => exact (inv_translate h).of_eq he2
    · exact h

theorem inv_acqAct {s k t f shared} (h : MemWf s) : MemWf (actState (acqAct s k t f shared)) := by
  unfold acqAct
  extract_lets ptr
  refine inv_withWord (inv_objectWord h) (fun w1 h1 => ?_)
  split
  · exact h
  · split
    · exact h
    · split
      · exact inv_wbAct (inv_grantObject h1) (fun _ _ h2 => h2)
      · exact h1

theorem inv_execAcq {f s} (h : MemWf s) : MemWf (outState s (execAcq f s)) := by
  unfold execAcq
  exact inv_run h (fun _ _ _ h1 => inv_acqAct h1)

theorem inv_execAcqSh {f s} (h : MemWf s) : MemWf (outState s (execAcqSh f s)) := by
  unfold execAcqSh
  exact inv_run h (fun _ _ _ h1 => inv_acqAct h1)

theorem inv_execAcqGrant {part obj s} (h : MemWf s) : MemWf (outState s (execAcqGrant part obj s)) := by
  unfold execAcqGrant
  exact inv_grantWaiters h

theorem inv_execRel {f s} (h : MemWf s) : MemWf (outState s (execRel f s)) := by
  unfold execRel
  refine inv_run h (fun s1 k1 t1 h1 => ?_)
  extract_lets ptr
  refine inv_withWord (inv_objectWord h1) (fun w1 h2 => ?_)
  split
  · exact h1
  · split
    · exact h1
    · extract_lets r
      refine inv_wbAct (inv_releaseObject h2) (fun s2 n1 h3 => ?_)
      extract_lets s21
      split <;> exact h3

theorem inv_setBlock {s k f move q} (h : MemWf s) : MemWf (setBlock s k f move q) := h

theorem inv_blockChunk {s k t f move desc pat q} (h : MemWf s) :
    MemWf (exceptState badState Prod.fst (blockChunk s k t f move desc pat q)) := by
  unfold blockChunk
  split
  · exact h
  · next x _ =>
    extract_lets n dp ap
    split
    · exact h
    · exact h
    · next a d _ _ =>
      have hl : MemWf (exceptState badState Got.s (if move then loadRange s k t ap a n else .ok ⟨s, [], 0⟩)) := by
        split
        · exact inv_loadRange h
        · exact h
      split
      · next e he => exact hl.of_eq he
      · next g he =>
        have hg : MemWf g.s := hl.of_eq he
        split
        · next e he2 => exact (inv_storeRange hg).of_eq he2
        · next u he2 =>
          have hu : MemWf u.s := (inv_storeRange hg).of_eq he2
          exact .of_mem (mem_noteStore ..) hu

theorem inv_blockGo {k t f move desc pat fuel s q i lat} (h : MemWf s) :
    MemWf (actState (blockGo k t f move desc pat fuel s q i lat)) := by
  induction fuel generalizing s q i lat with
  | zero => exact h
  | succ fuel ih =>
    unfold blockGo
    split
    · exact .of_mem (mem_putScored ..) h
    · split
      · next he => exact inv_setBlock ((inv_blockChunk h).of_eq he)
      · next he => exact inv_setBlock ((inv_blockChunk h).of_eq he)
      · next he => exact ih ((inv_blockChunk h).of_eq he)

theorem inv_execBmove {f s} (h : MemWf s) : MemWf (outState s (execBmove f s)) := by
  unfold execBmove
  refine inv_run h (fun s1 k1 t1 h1 => ?_)
  split
  · exact h1
  · split
    · exact h1
    · exact inv_blockGo h1

theorem inv_execBfill {f s} (h : MemWf s) : MemWf (outState s (execBfill f s)) := by
  unfold execBfill
  exact inv_run h (fun _ _ _ h1 => inv_blockGo h1)

end Sys2Proof.Machine
end

section
/-! The canonical form of memory: tags, bank formats, segment registers, translation and stamped access. -/

namespace Sys2Proof.Machine

theorem inv_after6 {s k d v} (h : MemWf s) : MemWf (actState (after6 s k d v)) := by
  unfold after6
  exact inv_scored h

theorem inv_setTagEntry {s c i v} (h : MemWf s) : MemWf (setTagEntry s c i v) := h

theorem inv_execTlook {f s} (h : MemWf s) : MemWf (outState s (execTlook f s)) := by
  unfold execTlook
  refine inv_run h (fun s1 k1 t1 h1 => ?_)
  extract_lets p
  split
  · exact h1
  · exact inv_after6 h1

theorem inv_execTset {f s} (h : MemWf s) : MemWf (outState s (execTset f s)) := by
  unfold execTset
  refine inv_run h (fun s1 k1 t1 h1 => ?_)
  extract_lets p i c old
  split
  · exact h1
  · split
    · exact h1
    · extract_lets s2
      have hs2 : MemWf s2 := by
        unfold s2
        split
        · exact inv_setTagEntry h1
        · exact h1
      exact inv_after6 (inv_setTagEntry hs2)

theorem inv_execTsetInvalidate {f s} (h : MemWf s) : MemWf (outState s (execTsetInvalidate f s)) := by
  unfold execTsetInvalidate
  refine inv_run h (fun s1 k1 t1 h1 => ?_)
  extract_lets i c old
  split
  · exact h1
  · exact inv_after6 (inv_setTagEntry h1)

theorem inv_setBank {s key lat v} (h : MemWf s) : MemWf (setBank s key lat v) := h

theorem inv_execBfmt {f s} (h : MemWf s) : MemWf (outState s (execBfmt f s)) := by
  unfold execBfmt
  refine inv_run h (fun s1 k1 t1 h1 => ?_)
  extract_lets i v key
  split
  · exact h1
  · split
    · exact h1
    · exact inv_after6 h1

theorem inv_execBfmtRead {f s} (h : MemWf s) : MemWf (outState s (execBfmtRead f s)) := by
  unfold execBfmtRead
  refine inv_run h (fun s1 k1 t1 h1 => ?_)
  extract_lets i
  split
  · exact h1
  · exact inv_after6 h1

theorem inv_execSgset {f s} (h : MemWf s) : MemWf (outState s (execSgset f s)) := by
  unfold execSgset
  refine inv_run h (fun s1 k1 t1 h1 => ?_)
  extract_lets n g free par put
  split
  · exact h1
  · split
    · split <;> exact h1
    · split
      · exact h1
      · split
        · exact h1
        · split <;> exact h1

theorem inv_execProbe {f s} (h : MemWf s) : MemWf (outState s (execProbe f s)) := by
  unfold execProbe
  refine inv_run h (fun s1 k1 t1 h1 => ?_)
  extract_lets a b size v r
  split
  · split
    · exact h1
    · exact inv_after6 h1
  · split
    · exact h1
    · split
      · exact h1
      · exact inv_scored (.of_mem (mem_lookUp ..) h1)
  · split
    · exact h1
    · exact inv_after6 h1

theorem inv_invalidated {s k t pick} (h : MemWf s) : MemWf (invalidated s k t pick) := by
  unfold invalidated
  exact .of_mem (holdUntil_mem ..) (inv_tlbDrop h)

theorem inv_execPtinv {f s} (h : MemWf s) : MemWf (outState s (execPtinv f s)) := by
  unfold execPtinv
  refine inv_run h (fun s1 k1 t1 h1 => ?_)
  extract_lets a
  split
  · exact h1
  · exact inv_invalidated h1

theorem inv_execPtinvAll {f s} (h : MemWf s) : MemWf (outState s (execPtinvAll f s)) := by
  unfold execPtinvAll
  exact inv_run h (fun _ _ _ h1 => inv_invalidated h1)

theorem inv_flushStamped {s k t ptr hdr a} (h : MemWf s) : MemWf (wbState (flushStamped s k t ptr hdr a)) := by
  unfold flushStamped
  split
  · exact h
  · refine inv_foldl_of (σ := wbState) (fun x q hx => ?_) h
    split
    · next s1 at_ =>
      have hs1 : MemWf s1 := hx
      split
      · split
        · next s2 a2 he =>
          have hs2 : MemWf s2 := (inv_flushLine hs1).of_eq he
          exact hs2
        · exact inv_flushLine hs1
      · exact hx
    · exact hx

theorem inv_sreadAct {s k t f stale fresh} (h : MemWf s) (hstale : ∀ s n w, MemWf s → MemWf (actState (stale s n w)))
    (hfresh : ∀ s n w, MemWf s → MemWf (actState (fresh s n w))) : MemWf (actState (sreadAct s k t f stale fresh)) := by
  unfold sreadAct
  extract_lets ptr
  split
  · exact h
  · split
    · exact h
    · split
      · exact h
      · refine inv_wbAct (inv_flushStamped h) (fun s1 n1 h1 => ?_)
        split
        · next he1 => exact inv_badAct ((inv_portRead h1).of_eq he1)
        · next he1 => exact inv_wbAct ((inv_portRead h1).of_eq he1) (fun _ _ h2 => h2)
        · next he1 =>
            extract_lets stamp age
            split
            · exact hstale _ _ _ ((inv_portRead h1).of_eq he1)
            · split
              · next he2 => exact inv_badAct ((inv_portRead ((inv_portRead h1).of_eq he1)).of_eq he2)
              · next he2 => exact inv_wbAct ((inv_portRead ((inv_portRead h1).of_eq he1)).of_eq he2) (fun _ _ h2 => h2)
              · next he2 => exact hfresh _ _ _ (((inv_portRead ((inv_portRead h1).of_eq he1)).of_eq he2).same rfl)

theorem inv_execSread {f s} (h : MemWf s) : MemWf (outState s (execSread f s)) := by
  unfold execSread
  exact inv_run h (fun _ _ _ h1 => inv_sreadAct h1 (fun _ _ _ h2 => h2) (fun _ _ _ h2 => inv_scored h2))

theorem inv_execSreadStatus {f s} (h : MemWf s) : MemWf (outState s (execSreadStatus f s)) := by
  unfold execSreadStatus
  refine inv_run h (fun _ _ _ h1 => inv_sreadAct h1 (fun _ _ _ h2 => ?_) (fun _ _ _ h2 => ?_))
  · exact inv_scored h2
  · exact .of_mem (mem_putScored ..) h2

theorem inv_stampWrite {s k t ptr hdr a stamp v} (h : MemWf s) :
    MemWf (stampState (stampWrite s k t ptr hdr a stamp v)) := by
  unfold stampWrite
  have hf : MemWf (wbState (flushStamped s k t ptr hdr a)) := inv_flushStamped h
  split
  · next s1 _ he =>
    have hs1 : MemWf s1 := hf.of_eq he
    have hr : MemWf (gotState (portRead s1 k t ptr 1 hdr 16)) := inv_portRead hs1
    split
    · next he2 => exact hr.of_eq he2
    · next he2 => exact hr.of_eq he2
    · next u he2 =>
      have hu : MemWf u.s := hr.of_eq he2
      extract_lets flags
      split
      · exact hu
      · have hp : MemWf (putState (portWrite false u.s k t ptr a (toBytes 8 v.toNat))) := inv_portWrite hu
        split
        · next he3 => exact hp.of_eq he3
        · next he3 => exact hp.of_eq he3
        · next g he3 =>
          have hg : MemWf g.s := hp.of_eq he3
          split
          · exact inv_keepState hs1
          · next he4 => exact (inv_portWrite hg).of_eq he4
          · next he4 => exact (inv_portWrite hg).of_eq he4
  · exact hf

theorem inv_execSwrite {f s} (h : MemWf s) : MemWf (outState s (execSwrite f s)) := by
  unfold execSwrite
  refine inv_run h (fun s1 k1 t1 h1 => ?_)
  extract_lets ptr v
  split
  · exact h1
  · split
    · exact h1
    · split
      · split
        · exact h1
        · next he => exact (inv_holdOp h1).of_eq he
      · split
        · next he => exact inv_badAct ((inv_stampWrite h1).of_eq he)
        · next he => exact inv_wbAct ((inv_stampWrite h1).of_eq he) (fun _ _ h2 => h2)
        · next he => exact (inv_stampWrite h1).of_eq he
        · next g he =>
          have hg : MemWf g.s := (inv_stampWrite h1).of_eq he
          exact .of_mem (holdUntil_mem ..) (.of_mem (mem_noteStore ..) hg)

end Sys2Proof.Machine
end

section
/-! The canonical form of memory: tiles. -/

namespace Sys2Proof.Machine

theorem inv_injectTile {s k t n} (h : MemWf s) : MemWf (injectTile s k t n) := by
  unfold injectTile
  exact inv_foldl (fun _ _ h1 => .of_mem (mem_injectAt ..) h1) h

theorem inv_tileEnd {s k lat writes reads} (h : MemWf s) : MemWf (tileEnd s k lat writes reads) := by
  unfold tileEnd
  extract_lets s1 s2
  have hs2 : MemWf s2 := by
    unfold s2
    split
    · exact h
    · exact inv_foldl (fun _ _ h1 => inv_injectTile h1) h
  exact .of_mem (mem_putScored ..) hs2

theorem inv_lockWait {s k t ns} (h : MemWf s) : MemWf (optState s actState (lockWait s k t ns)) := by
  unfold lockWait
  cases ns.find? (fun n => mustWait (locksOf s k t) n.1 n.2) with
  | none => exact h
  | some => exact h

theorem inv_floatEnd {s k lat t fl good} (h : MemWf s) (hgood : ∀ s, MemWf s → MemWf (good s)) :
    MemWf (actState (floatEnd s k lat t fl good)) := by
  unfold floatEnd
  extract_lets all s1
  split
  · exact h
  · exact hgood _ h

theorem inv_vecEnd {s k lat t d rs reads} (h : MemWf s) : MemWf (actState (vecEnd s k lat t d rs reads)) := by
  unfold vecEnd
  exact inv_floatEnd h (fun _ h1 => inv_tileEnd h1)

theorem inv_execTcfgWrite {f s} (h : MemWf s) : MemWf (outState s (execTcfgWrite f s)) := by
  unfold execTcfgWrite
  refine inv_run h (fun s1 k1 t1 h1 => ?_)
  extract_lets c
  split
  · exact h1
  · exact inv_tileEnd h1

theorem inv_execTcfgRead {f s} (h : MemWf s) : MemWf (outState s (execTcfgRead f s)) := by
  unfold execTcfgRead
  exact inv_run h (fun _ _ _ h1 => .of_mem (mem_putScored ..) h1)

theorem inv_loadElems {s k t p a bitsE base l acc lat} (h : MemWf s) :
    MemWf (exceptState badState Prod.fst (loadElems s k t p a bitsE base l acc lat)) := by
  induction l generalizing s acc lat with
  | nil => exact h
  | cons i r ih =>
    unfold loadElems
    extract_lets sp
    split
    · next he => exact (inv_loadRange h).of_eq he
    · next he => exact ih ((inv_loadRange h).of_eq he)

theorem inv_loadRows {s k t f x p stride r l acc lat} (h : MemWf s) :
    MemWf (exceptState badState Prod.fst (loadRows s k t f x p stride r l acc lat)) := by
  induction l generalizing s r acc lat with
  | nil => exact h
  | cons a as ih =>
    unfold loadRows
    extract_lets len e q on
    split
    · split
      · next he1 => exact (inv_loadElemsRange h).of_eq he1
      · next he1 => exact ih ((inv_loadElemsRange h).of_eq he1)
    · split
      · next he => exact (inv_loadElems h).of_eq he
      · next he => exact ih ((inv_loadElems h).of_eq he)

theorem inv_storeEach {k t p a l g} (h : MemWf g.s) : MemWf (exceptState badState Put.s (storeEach k t p a l g)) := by
  induction l generalizing g with
  | nil => exact h
  | cons x r ih =>
    unfold storeEach
    split
    · next he => exact (inv_storeRange h).of_eq he
    · next he => exact ih ((inv_storeRange h).of_eq he)

theorem inv_storeRows {s k t f x p stride r l g} (h : MemWf g.s) :
    MemWf (exceptState badState Put.s (storeRows s k t f x p stride r l g)) := by
  induction l generalizing r g with
  | nil => exact h
  | cons a as ih =>
    unfold storeRows
    extract_lets len e q on put
    have hput : MemWf (exceptState badState Put.s put) := by
      unfold put
      split
      · exact inv_storeElemsRange h
      · exact inv_storeEach h
    clear_value put
    cases put with
    | error => exact hput
    | ok u => exact ih hput

theorem inv_coverSector {s k t v q} (h : MemWf s) : MemWf (coverSector s k t v q) := by
  unfold coverSector
  extract_lets p
  split
  · extract_lets key
    split
    · exact h
    · split
      · exact .of_mem (mem_clearPoison ..) h
      · exact h
  · exact h
  · exact .of_mem (mem_clearPoison ..) h
  · exact h

theorem inv_coverJoint {s k t p es} (h : MemWf s) : MemWf (coverJoint s k t p es) := by
  unfold coverJoint
  exact inv_foldl (fun _ _ h1 => inv_coverSector h1) h

theorem inv_rowsAct {s t f kind need go} (h : MemWf s) (hgo : ∀ x p st l, MemWf (actState (go x p st l))) :
    MemWf (actState (rowsAct s t f kind need go)) := by
  unfold rowsAct
  extract_lets d x e p st
  split
  · exact h
  · split
    · exact h
    · exact hgo _ _ _ _

theorem inv_execTld {f s} (h : MemWf s) : MemWf (outState s (execTld f s)) := by
  unfold execTld
  refine inv_run h (fun s1 k1 t1 h1 => inv_rowsAct h1 (fun x1 p1 st1 l1 => ?_))
  split
  · next he => exact inv_badAct ((inv_loadRows h1).of_eq he)
  · next he => exact inv_tileEnd ((inv_loadRows h1).of_eq he)

theorem inv_execTst {f s} (h : MemWf s) : MemWf (outState s (execTst f s)) := by
  unfold execTst
  refine inv_run h (fun s1 k1 t1 h1 => inv_rowsAct h1 (fun x1 p1 st1 l1 => ?_))
  split
  · exact inv_badAct (inv_keepState h1)
  · next he => exact inv_tileEnd (.of_mem (mem_noteStore ..) (inv_coverJoint ((inv_storeRows h1).of_eq he)))

theorem inv_indexAct {s t f cause kind need add base more go} (h : MemWf s) (hgo : ∀ x l, MemWf (actState (go x l))) :
    MemWf (actState (indexAct s t f cause kind need add base more go)) := by
  unfold indexAct
  extract_lets d x b p
  split
  · exact h
  · split
    · exact h
    · split
      · exact h
      · split
        · exact h
        · exact hgo _ _

theorem inv_gatherGo {k t esz s l acc lat} (h : MemWf s) :
    MemWf (exceptState badState Prod.fst (gatherGo k t esz s l acc lat)) := by
  induction l generalizing s acc lat with
  | nil => exact h
  | cons q r ih =>
    unfold gatherGo
    split
    · next he => exact (inv_loadRange h).of_eq he
    · next he => exact ih ((inv_loadRange h).of_eq he)

theorem inv_execTgather {f s} (h : MemWf s) : MemWf (outState s (execTgather f s)) := by
  unfold execTgather
  refine inv_run h (fun s1 k1 t1 h1 => inv_indexAct h1 (fun x1 l1 => ?_))
  split
  · next he => exact inv_badAct ((inv_gatherGo h1).of_eq he)
  · next he => exact inv_tileEnd ((inv_gatherGo h1).of_eq he)

theorem inv_scatterGo {k t esz x l g} (h : MemWf g.s) : MemWf (exceptState badState Put.s (scatterGo k t esz x l g)) := by
  induction l generalizing g with
  | nil => exact h
  | cons q r ih =>
    unfold scatterGo
    split
    · next he => exact (inv_storeRange h).of_eq he
    · next he => exact ih ((inv_storeRange h).of_eq he)

theorem inv_execTscatter {f s} (h : MemWf s) : MemWf (outState s (execTscatter f s)) := by
  unfold execTscatter
  refine inv_run h (fun s1 k1 t1 h1 => inv_indexAct h1 (fun x1 l1 => ?_))
  split
  · exact inv_badAct (inv_keepState h1)
  · next he => exact inv_tileEnd (.of_mem (mem_noteStore ..) (inv_coverJoint ((inv_scatterGo h1).of_eq he)))

theorem inv_scaddGo {k t x ordered base l s lat} (h : MemWf s) : MemWf (portState (scaddGo k t x ordered base l s lat)) := by
  induction l generalizing s lat with
  | nil => exact h
  | cons q r ih =>
    unfold scaddGo
    extract_lets fmt esz rm
    split
    · next he =>
        split
        · split
          · exact h
          · split
            · exact h
            · next he3 => exact ih ((inv_orderedAt ((inv_atomicWord h).of_eq he)).of_eq he3)
        · exact ih (inv_setWord ((inv_atomicWord h).of_eq he))
    · exact inv_atomicWord h

theorem inv_keepWb {s r} (hs : MemWf s) (hr : MemWf (wbState r)) : MemWf (wbState (keepWb s r)) := by
  cases r with
  | done => exact hr
  | held | diverge | failed => exact hs

theorem inv_scaddAct {s k t f ordered} (h : MemWf s) : MemWf (actState (scaddAct s k t f ordered)) := by
  unfold scaddAct
  extract_lets p
  refine inv_indexAct h (fun x1 l1 => ?_)
  split
  · next he => exact inv_tileEnd (.of_mem (mem_noteStore ..) ((inv_scaddGo h).of_eq he))
  · exact inv_badAct (inv_keepState h)
  · next he => exact inv_wbAct (inv_keepWb h ((inv_scaddGo h).of_eq he)) (fun _ _ h1 => h1)
  · exact h

theorem inv_execTscaddU {f s} (h : MemWf s) : MemWf (outState s (execTscaddU f s)) := by
  unfold execTscaddU
  exact inv_run h (fun _ _ _ h1 => inv_scaddAct h1)

theorem inv_execTscaddO {f s} (h : MemWf s) : MemWf (outState s (execTscaddO f s)) := by
  unfold execTscaddO
  exact inv_run h (fun _ _ _ h1 => inv_scaddAct h1)

theorem inv_execTmovr {f s} (h : MemWf s) : MemWf (outState s (execTmovr f s)) := by
  unfold execTmovr
  refine inv_run h (fun s1 k1 t1 h1 => ?_)
  extract_lets d x v n y
  split
  · exact h1
  · exact inv_tileEnd h1

theorem inv_execTmovs {f s} (h : MemWf s) : MemWf (outState s (execTmovs f s)) := by
  unfold execTmovs
  refine inv_run h (fun s1 k1 t1 h1 => ?_)
  extract_lets a x v n e r
  split
  · exact h1
  · exact .of_mem (mem_putScored ..) h1

theorem inv_execTbcast {f s} (h : MemWf s) : MemWf (outState s (execTbcast f s)) := by
  unfold execTbcast
  refine inv_run h (fun s1 k1 t1 h1 => ?_)
  extract_lets d x v
  split
  · exact h1
  · exact inv_tileEnd h1

end Sys2Proof.Machine
end

section
/-! The canonical form of memory: the vector instructions. -/

namespace Sys2Proof.Machine

theorem inv_vecOpWith {s k t f base extra checks op} (h : MemWf s) :
    MemWf (actState (vecOpWith s k t f base extra checks op)) := by
  unfold vecOpWith
  split
  · exact h
  · exact inv_vecEnd h

theorem inv_vecOp {s k t f base checks op} (h : MemWf s) : MemWf (actState (vecOp s k t f base checks op)) := by
  unfold vecOp
  exact inv_vecOpWith h

theorem inv_vecArith {i s k t f iop fop} (h : MemWf s) : MemWf (actState (vecArith i s k t f iop fop)) := by
  unfold vecArith
  exact inv_vecOp h

theorem inv_execVadd {f s} (h : MemWf s) : MemWf (outState s (execVadd f s)) := by
  unfold execVadd
  exact inv_run h (fun _ _ _ h1 => inv_vecArith h1)

theorem inv_execVsub {f s} (h : MemWf s) : MemWf (outState s (execVsub f s)) := by
  unfold execVsub
  exact inv_run h (fun _ _ _ h1 => inv_vecArith h1)

theorem inv_execVmul {f s} (h : MemWf s) : MemWf (outState s (execVmul f s)) := by
  unfold execVmul
  exact inv_run h (fun _ _ _ h1 => inv_vecArith h1)

theorem inv_execVfma {f s} (h : MemWf s) : MemWf (outState s (execVfma f s)) := by
  unfold execVfma
  exact inv_run h (fun _ _ _ h1 => inv_vecOp h1)

theorem inv_vecMinMax {s k t f isMax} (h : MemWf s) : MemWf (actState (vecMinMax s k t f isMax)) := by
  unfold vecMinMax
  exact inv_vecOp h

theorem inv_execVmin {f s} (h : MemWf s) : MemWf (outState s (execVmin f s)) := by
  unfold execVmin
  exact inv_run h (fun _ _ _ h1 => inv_vecMinMax h1)

theorem inv_execVmax {f s} (h : MemWf s) : MemWf (outState s (execVmax f s)) := by
  unfold execVmax
  exact inv_run h (fun _ _ _ h1 => inv_vecMinMax h1)

theorem inv_execVlog {f s} (h : MemWf s) : MemWf (outState s (execVlog f s)) := by
  unfold execVlog
  exact inv_run h (fun _ _ _ h1 => inv_vecOp h1)

theorem inv_vecOne {s k t f base checks op} (h : MemWf s) : MemWf (actState (vecOne s k t f base checks op)) := by
  unfold vecOne
  split
  · exact h
  · exact inv_vecEnd h

theorem inv_execVshr {f s} (h : MemWf s) : MemWf (outState s (execVshr f s)) := by
  unfold execVshr
  exact inv_run h (fun _ _ _ h1 => inv_vecOne h1)

theorem inv_execVcmp {f s} (h : MemWf s) : MemWf (outState s (execVcmp f s)) := by
  unfold execVcmp
  exact inv_run h (fun _ _ _ h1 => inv_vecOp h1)

theorem inv_execVsel {f s} (h : MemWf s) : MemWf (outState s (execVsel f s)) := by
  unfold execVsel
  exact inv_run h (fun _ _ _ h1 => inv_vecOpWith h1)

theorem inv_execVcvt {f s} (h : MemWf s) : MemWf (outState s (execVcvt f s)) := by
  unfold execVcvt
  exact inv_run h (fun _ _ _ h1 => inv_vecOne h1)

theorem inv_execVrecip {f s} (h : MemWf s) : MemWf (outState s (execVrecip f s)) := by
  unfold execVrecip
  exact inv_run h (fun _ _ _ h1 => inv_vecOne h1)

theorem inv_execVrsqrt {f s} (h : MemWf s) : MemWf (outState s (execVrsqrt f s)) := by
  unfold execVrsqrt
  exact inv_run h (fun _ _ _ h1 => inv_vecOne h1)

theorem inv_execVexp2 {f s} (h : MemWf s) : MemWf (outState s (execVexp2 f s)) := by
  unfold execVexp2
  exact inv_run h (fun _ _ _ h1 => inv_vecOne h1)

theorem inv_execVred {f s} (h : MemWf s) : MemWf (outState s (execVred f s)) := by
  unfold execVred
  refine inv_run h (fun s1 k1 t1 h1 => ?_)
  extract_lets d a x y op rows extra b lat
  split
  · exact h1
  · exact inv_floatEnd h1 (fun _ h2 => inv_tileEnd h2)

theorem inv_execVargmax {f s} (h : MemWf s) : MemWf (outState s (execVargmax f s)) := by
  unfold execVargmax
  refine inv_run h (fun s1 k1 t1 h1 => ?_)
  extract_lets d a x y b lat
  split
  · exact h1
  · exact inv_tileEnd h1

theorem inv_lockThen {s k t locks checks go} (h : MemWf s) (hgo : ∀ u, MemWf (actState (go u))) :
    MemWf (actState (lockThen s k t locks checks go)) := by
  unfold lockThen
  split
  · next he => exact (inv_lockWait h).of_eq he
  · split
    · exact h
    · exact hgo _

theorem inv_quantEnd {s k lat t d bad q reads} (h : MemWf s) : MemWf (actState (quantEnd s k lat t d bad q reads)) := by
  unfold quantEnd
  exact inv_floatEnd h (fun _ h1 => inv_tileEnd h1)

theorem inv_execVquant {f s} (h : MemWf s) : MemWf (outState s (execVquant f s)) := by
  unfold execVquant
  exact inv_run h (fun _ _ _ h1 => inv_lockThen h1 (fun _ => inv_quantEnd h1))

theorem inv_execVdeq {f s} (h : MemWf s) : MemWf (outState s (execVdeq f s)) := by
  unfold execVdeq
  exact inv_run h (fun _ _ _ h1 => inv_lockThen h1 (fun _ => inv_vecEnd h1))

theorem inv_execBqadd {f s} (h : MemWf s) : MemWf (outState s (execBqadd f s)) := by
  unfold execBqadd
  exact inv_run h (fun _ _ _ h1 => inv_lockThen h1 (fun _ => inv_quantEnd h1))

end Sys2Proof.Machine
end

section
/-! The canonical form of memory: matrix work. -/

namespace Sys2Proof.Machine

theorem inv_setQueue {s slab q} (h : MemWf s) : MemWf (setQueue s slab q) := h

theorem inv_startEntry {s slab e overtook} (h : MemWf s) : MemWf (startEntry s slab e overtook) := h

theorem inv_nextEntry {s slab} (h : MemWf s) : MemWf (nextEntry s slab) := by
  unfold nextEntry
  extract_lets q
  split
  · exact inv_startEntry h
  · split <;> exact h

theorem inv_enterMatrix {s k t d a b pri sparse zero chain} (h : MemWf s) :
    MemWf (enterMatrix s k t d a b pri sparse zero chain) := by
  unfold enterMatrix
  exact inv_foldl (fun _ _ h1 => inv_ite h1 h1) h

theorem inv_matAct {s k t f sparse} (h : MemWf s) : MemWf (actState (matAct s k t f sparse)) := by
  unfold matAct
  extract_lets d a b
  refine inv_lockThen h (fun u1 => ?_)
  split
  · exact h
  · exact inv_enterMatrix h

theorem inv_execMma {f s} (h : MemWf s) : MemWf (outState s (execMma f s)) := by
  unfold execMma
  exact inv_run h (fun _ _ _ h1 => inv_matAct h1)

theorem inv_execMmasp {f s} (h : MemWf s) : MemWf (outState s (execMmasp f s)) := by
  unfold execMmasp
  exact inv_run h (fun _ _ _ h1 => inv_matAct h1)

theorem inv_startBest {s slab} (h : MemWf s) : MemWf (startBest s slab) := by
  unfold startBest
  split
  · exact h
  · split
    · exact inv_startEntry h
    · exact h

theorem inv_execMatrixEntryStart {slab s} (h : MemWf s) : MemWf (outState s (execMatrixEntryStart slab s)) := by
  unfold execMatrixEntryStart
  exact inv_startBest h

theorem inv_finishOp {s op m} (h : MemWf s) : MemWf (finishOp s op m) := by
  unfold finishOp
  extract_lets s1
  split <;> exact h

theorem inv_tileErrors {s t k slab ns} (h : MemWf s) : MemWf (tileErrors s t k slab ns).1 := by
  unfold tileErrors
  refine inv_foldl_fst (fun x1 b1 h1 => ?_) h
  split
  · exact h1
  · next he => exact .of_mem (mem_logError ..) ((inv_findEcc h1).of_eq he)

theorem inv_completeEntry {s slab} (h : MemWf s) : MemWf (completeEntry s slab) := by
  unfold completeEntry
  split
  · exact h
  · extract_lets s1 idx s2
    have hs1 : MemWf s1 := by
      unfold s1
      refine inv_setQueue ?_
      split <;> exact h
    have hs2 : MemWf s2 := by
      unfold s2
      split
      · extract_lets g q sh er badA bad rs m1 s3
        have hs3 : MemWf s3 := inv_tileErrors (inv_tileErrors hs1)
        split
        · exact inv_finishOp hs3
        · exact hs3
      · exact hs1
    exact inv_nextEntry hs2

theorem inv_execMatrixEntryComplete {slab s} (h : MemWf s) : MemWf (outState s (execMatrixEntryComplete slab s)) := by
  unfold execMatrixEntryComplete
  exact inv_completeEntry h

theorem inv_kstepBoundary {s slab} (h : MemWf s) : MemWf (kstepBoundary s slab) := by
  unfold kstepBoundary
  split
  · exact h
  · next e rest _ =>
    split
    · exact h
    · split
      · exact inv_nextEntry (inv_setQueue h)
      · extract_lets e1 s1 best
        have hs1 : MemWf s1 := inv_setQueue h
        split
        · exact .of_mem (sched_mem ..) hs1
        · clear_value best
          split
          · exact inv_startEntry hs1
          · exact .of_mem (sched_mem ..) hs1

theorem inv_execMatrixKstepBoundary {slab s} (h : MemWf s) : MemWf (outState s (execMatrixKstepBoundary slab s)) := by
  unfold execMatrixKstepBoundary
  exact inv_kstepBoundary h

end Sys2Proof.Machine
end

section
/-! The canonical form of memory: time, timelines, barrier objects and sequences. -/

namespace Sys2Proof.Machine

theorem inv_placeTick {s} (h : MemWf s) : MemWf (placeTick s) := by
  unfold placeTick
  extract_lets s1 at_
  have hs1 : MemWf s1 := .of_mem (unsched_mem ..) h
  clear_value at_
  split
  · exact hs1
  · split
    · exact hs1
    · exact .of_mem (sched_mem ..) hs1

theorem inv_ptpTouched {s} (h : MemWf s) : MemWf (ptpTouched s) := by
  unfold ptpTouched
  exact inv_ite h h

theorem inv_replacePtp {old s} (h : MemWf s) : MemWf (replacePtp old s) := by
  unfold replacePtp
  exact inv_ite h (inv_foldl (fun _ _ h1 => h1) h)

theorem inv_execPtpAdjust {v s} (h : MemWf s) : MemWf (outState s (execPtpAdjust v s)) := by
  unfold execPtpAdjust
  exact inv_ptpTouched (inv_ite (inv_replacePtp h) (inv_placeTick (inv_replacePtp h)))

theorem inv_execPtpStep {v s} (h : MemWf s) : MemWf (outState s (execPtpStep v s)) := by
  unfold execPtpStep
  split
  · exact h
  · exact inv_ptpTouched (inv_ite (inv_placeTick h) h)

theorem inv_execPtpDisciplineLost {s} (h : MemWf s) : MemWf (outState s (execPtpDisciplineLost s)) := by
  unfold execPtpDisciplineLost
  split
  · extract_lets s1 s2
    have hs1 : MemWf s1 := .of_mem (mem_setCtlF ..) h
    have hn : MemWf { s1 with cycHold := tenthsOf s s.cycDue, free := s1.free + 1 } := hs1
    have hs2 : MemWf s2 := .of_mem (mem_postUnit ..) hn
    exact inv_placeTick hs2
  · exact h

theorem inv_execPtpDisciplineRestored {s} (h : MemWf s) : MemWf (outState s (execPtpDisciplineRestored s)) := by
  unfold execPtpDisciplineRestored
  split
  · extract_lets held s1 due diff slip s2 noted s3
    have hs1 : MemWf s1 := .of_mem (mem_setCtlF ..) h
    have hs2 : MemWf s2 := hs1
    have hn : MemWf noted := .of_mem (mem_wrCtl ..) hs2
    have hk : MemWf { noted with slipKept := true } := hn
    have hs3 : MemWf s3 := inv_ite hs2 (.of_mem (mem_postUnit ..) hk)
    split
    · exact inv_placeTick hs3
    · exact hs1
  · exact h

theorem inv_execCycleDomainStart {s} (h : MemWf s) : MemWf (outState s (execCycleDomainStart s)) := by
  unfold execCycleDomainStart
  extract_lets s1 s2
  have hs2 : MemWf s2 := inv_ite h h
  exact inv_placeTick hs2

theorem inv_execCycleDomainStop {s} (h : MemWf s) : MemWf (outState s (execCycleDomainStop s)) := by
  unfold execCycleDomainStop
  exact inv_foldl (fun _ _ h1 => inv_failWait h1) h

theorem inv_execCwait {f s} (h : MemWf s) : MemWf (outState s (execCwait f s)) := by
  unfold execCwait
  refine inv_run h (fun s1 k1 t1 h1 => ?_)
  split <;> exact h1

theorem inv_markCycle {s stamp} (h : MemWf s) : MemWf (markCycle s stamp) := by
  unfold markCycle
  exact inv_foldl (fun _ _ h1 => h1) h

theorem inv_execScanRelease {s} (h : MemWf s) : MemWf (outState s (execScanRelease s)) := by
  unfold execScanRelease
  exact inv_foldl (fun _ _ h1 => (inv_finishWait h1).same rfl) h

theorem inv_execRdcyc {f s} (h : MemWf s) : MemWf (outState s (execRdcyc f s)) := by
  unfold execRdcyc
  exact inv_run h (fun _ _ _ h1 => inv_fixed h1)

theorem inv_execRdptp {f s} (h : MemWf s) : MemWf (outState s (execRdptp f s)) := by
  unfold execRdptp
  exact inv_run h (fun _ _ _ h1 => inv_scored h1)

theorem inv_timelineAdd {s o} (h : MemWf s) : MemWf (timelineAdd s o) := h

theorem inv_timelineCount {s key cls ord b} (h : MemWf s) : MemWf (timelineCount s key cls ord b) := h

theorem inv_announceTo {s k h0 h1} (h : MemWf s) : MemWf (announceTo s k h0 h1) := by
  unfold announceTo
  split
  · extract_lets slot
    split
    · exact inv_wrMemN (inv_wrMemN h)
    · exact h
  · exact inv_announce h

theorem inv_timelineFire {s key} (h : MemWf s) : MemWf (timelineFire s key) := by
  unfold timelineFire
  extract_lets a s1
  split
  · split
    · exact inv_announceTo (.of_mem (mem_setCtlF ..) h)
    · exact .of_mem (mem_setCtlF ..) h
  · exact h

theorem inv_timelineAnswer {s v o} (h : MemWf s) : MemWf (timelineAnswer s v o) := by
  unfold timelineAnswer
  extract_lets r
  split
  · split
    · exact .of_mem (mem_dueTrap ..) h
    · split
      · exact h
      · exact .of_mem (mem_putScored ..) h
  · split
    · split
      · exact .of_mem (mem_postUnit ..) h
      · split <;> exact .of_mem (mem_postUnit ..) h
    · exact h

theorem inv_timelineWake {s k w status} (h : MemWf s) : MemWf (timelineWake s k w status) := by
  unfold timelineWake
  split
  · exact h
  · extract_lets q
    have hq : MemWf q.1 := by
      unfold q
      split
      · exact .of_mem (mem_acquireAt ..) h
      · exact h
    exact inv_finishWait hq

theorem inv_settleTimeline {s key} (h : MemWf s) : MemWf (settleTimeline s key) := by
  unfold settleTimeline
  extract_lets ops r s1 s2
  have hr : MemWf r.1 := inv_foldl_fst (fun _ _ ha => inv_timelineAnswer ha) h
  have hs1 : MemWf s1 := .of_mem (mem_wrCtl ..) hr
  have hs2 : MemWf s2 := inv_foldl (fun _ _ ha => inv_ite (inv_timelineWake ha) (inv_ite (inv_timelineWake ha) ha)) hs1
  exact inv_timelineFire hs2

theorem inv_settleTimelines {s} (h : MemWf s) : MemWf (settleTimelines s) := by
  unfold settleTimelines
  exact (inv_foldl (fun _ _ h1 => inv_settleTimeline h1) h).same rfl

theorem inv_withTimeline {s t v f} (h : MemWf s) (hf : ∀ key, MemWf (actState (f key))) :
    MemWf (actState (withTimeline s t v f)) := by
  unfold withTimeline
  split
  · exact h
  · split
    · exact h
    · exact hf _

theorem inv_execTcadd {f s} (h : MemWf s) : MemWf (outState s (execTcadd f s)) := by
  unfold execTcadd
  exact inv_run h (fun _ _ _ h1 => inv_withTimeline h1 (fun _ => inv_wbAct (inv_releaseAt h1) (fun _ _ h2 => h2)))

theorem inv_execTcwait {f s} (h : MemWf s) : MemWf (outState s (execTcwait f s)) := by
  unfold execTcwait
  refine inv_run h (fun s1 k1 t1 h1 => ?_)
  extract_lets b q
  refine inv_withTimeline h1 (fun key1 => ?_)
  split
  · exact .of_mem (holdUntil_mem ..) (inv_scored (.of_mem (mem_acquireAt ..) h1))
  · exact h1

theorem inv_execTcwaitArm {f s} (h : MemWf s) : MemWf (outState s (execTcwaitArm f s)) := by
  unfold execTcwaitArm
  refine inv_run h (fun s1 k1 t1 h1 => ?_)
  extract_lets i b who
  refine inv_withTimeline h1 (fun key1 => ?_)
  extract_lets a s2 s3
  have hs2 : MemWf s2 := .of_mem (mem_wrCtl ..) (.of_mem (mem_wrCtl ..) h1)
  have hs3 : MemWf s3 := by
    unfold s3
    have hn : MemWf { s2 with tlNote := s2.tlNote.put key1 k1 } := hs2
    exact inv_timelineAdd hn
  split
  · exact h1
  · exact inv_scored hs3

theorem inv_execTcwaitDisarm {f s} (h : MemWf s) : MemWf (outState s (execTcwaitDisarm f s)) := by
  unfold execTcwaitDisarm
  exact inv_run h (fun _ _ _ h1 => inv_withTimeline h1 (fun _ => inv_scored (inv_ite (.of_mem (mem_setCtlF ..) h1) h1)))

theorem inv_execTcset {f s} (h : MemWf s) : MemWf (outState s (execTcset f s)) := by
  unfold execTcset
  exact inv_run h (fun _ _ _ h1 => inv_withTimeline h1 (fun _ => h1))

theorem inv_disarmTimelines {s k} (h : MemWf s) : MemWf (disarmTimelines s k) := by
  unfold disarmTimelines
  exact inv_foldl (fun _ _ h1 => .of_mem (mem_setCtlF ..) h1) h

theorem inv_barObj {s k t i ptr need} (h : MemWf s) : MemWf (exceptState badState BarObj.s (barObj s k t i ptr need)) := by
  unfold barObj
  split
  · exact h
  · split
    · exact h
    · split
      · exact h
      · split
        · next he1 => exact (inv_place h).of_eq he1
        · split <;> next he2 => exact (inv_demandRange (.of_mem (mem_windowWake ..) h)).of_eq he2
        · exact h

theorem inv_withBar {s k t i ptr need f} (h : MemWf s) (hf : ∀ o, MemWf o.s → MemWf (actState (f o))) :
    MemWf (actState (withBar s k t i ptr need f)) := by
  unfold withBar
  split
  · next he => exact inv_badAct ((inv_barObj h).of_eq he)
  · next he => exact hf _ ((inv_barObj h).of_eq he)

theorem inv_afterEngines {i s k t act} (h : MemWf s) (ha : MemWf (actState (act s k t))) :
    MemWf (actState (afterEngines i s k t act)) := by
  unfold afterEngines
  split
  · exact h
  · exact ha

theorem inv_binitAct {f s k t} (h : MemWf s) : MemWf (actState (binitAct f s k t)) := by
  unfold binitAct
  extract_lets e
  refine inv_withBar h (fun o1 h1 => ?_)
  split
  · exact h1
  · split
    · exact h1
    · exact inv_scored (.of_mem (mem_portWrote ..) (inv_wrMemN h1))

theorem inv_bwaitAct {f s k t} (h : MemWf s) : MemWf (actState (bwaitAct f s k t)) := by
  unfold bwaitAct
  extract_lets b
  refine inv_withBar h (fun o1 h1 => ?_)
  split
  · exact h1
  · split
    · extract_lets q
      exact .of_mem (holdUntil_mem ..) (inv_scored (.of_mem (mem_acquireAt ..) h1))
    · split <;> exact h1

theorem inv_bwaitArmAct {f s k t} (h : MemWf s) : MemWf (actState (bwaitArmAct f s k t)) := by
  unfold bwaitArmAct
  exact inv_withBar h (fun _ h1 => inv_scored h1)

theorem inv_bwaitDisarmAct {f s k t} (h : MemWf s) : MemWf (actState (bwaitDisarmAct f s k t)) := by
  unfold bwaitDisarmAct
  exact inv_withBar h (fun _ h1 => inv_scored h1)

theorem inv_btestAct {f s k t} (h : MemWf s) : MemWf (actState (btestAct f s k t)) := by
  unfold btestAct
  exact inv_withBar h (fun _ h1 => inv_scored h1)

theorem inv_execBinit {f s} (h : MemWf s) : MemWf (outState s (execBinit f s)) := by
  unfold execBinit
  exact inv_run h (fun _ _ _ h1 => inv_afterEngines h1 (inv_binitAct h1))

theorem inv_execBwait {f s} (h : MemWf s) : MemWf (outState s (execBwait f s)) := by
  unfold execBwait
  exact inv_run h (fun _ _ _ h1 => inv_afterEngines h1 (inv_bwaitAct h1))

theorem inv_execBwaitArm {f s} (h : MemWf s) : MemWf (outState s (execBwaitArm f s)) := by
  unfold execBwaitArm
  exact inv_run h (fun _ _ _ h1 => inv_afterEngines h1 (inv_bwaitArmAct h1))

theorem inv_execBwaitDisarm {f s} (h : MemWf s) : MemWf (outState s (execBwaitDisarm f s)) := by
  unfold execBwaitDisarm
  exact inv_run h (fun _ _ _ h1 => inv_afterEngines h1 (inv_bwaitDisarmAct h1))

theorem inv_execBtest {f s} (h : MemWf s) : MemWf (outState s (execBtest f s)) := by
  unfold execBtest
  exact inv_run h (fun _ _ _ h1 => inv_afterEngines h1 (inv_btestAct h1))

theorem inv_settleBar {s q} (h : MemWf s) : MemWf (settleBar s q) := by
  unfold settleBar
  split
  · exact h
  · split
    · exact h
    · split
      · exact inv_conclude h (inv_binitAct h)
      · exact inv_conclude h (inv_bwaitAct h)
      · exact inv_conclude h (inv_bwaitArmAct h)
      · exact inv_conclude h (inv_bwaitDisarmAct h)
      · exact inv_conclude h (inv_btestAct h)
      · exact h

theorem inv_barComplete {s addr loc} (h : MemWf s) : MemWf (barComplete s addr loc) := by
  unfold barComplete
  extract_lets s1 s2
  have hs1 : MemWf s1 := by
    refine inv_foldl (fun a q ha => ?_) h
    split
    · exact ha
    · exact inv_finishWait (.of_mem (mem_acquireAt ..) ha)
  have hs2 : MemWf s2 := inv_foldl (fun _ _ ha => inv_ite (inv_announce (.of_mem (modThr_mem ..) ha)) ha) hs1
  refine inv_foldl (fun a q ha => ?_) hs2
  have hb : MemWf { a with husks := a.husks.modify q.1 (fun h => { h with image := { h.image with barArm := none } }) } := ha
  exact inv_ite (inv_announceTo hb) ha

theorem inv_barLand {s p chain view addr loc n} (h : MemWf s) : MemWf (barLand s p chain view addr loc n) := by
  unfold barLand
  extract_lets e landed s1
  have hs1 : MemWf s1 := inv_ite (inv_postView h) h
  split
  · exact inv_postView h
  · split
    · exact .of_mem (mem_portWrote ..) (inv_wrMemN h)
    · exact inv_barComplete (.of_mem (mem_portWrote ..) (inv_wrMemN hs1))

theorem inv_execSeqwait {f s} (h : MemWf s) : MemWf (outState s (execSeqwait f s)) := by
  unfold execSeqwait
  refine inv_run h (fun s1 k1 t1 h1 => ?_)
  extract_lets i b n q
  split
  · exact h1
  · split
    · exact h1
    · split
      · exact h1
      · split
        · exact .of_mem (holdUntil_mem ..) (inv_scored (.of_mem (mem_acquireAt ..) h1))
        · exact h1

end Sys2Proof.Machine
end

section
/-! The canonical form of memory: groups, twin buffers and publish. -/

namespace Sys2Proof.Machine

theorem inv_groupTouch {s key} (h : MemWf s) : MemWf (groupTouch s key) := h

theorem inv_countMembers {s key} (h : MemWf s) : MemWf (countMembers s key) := by
  unfold countMembers
  exact inv_foldl (fun _ _ h1 => inv_ite h1 h1) h

theorem inv_settleGroup {s key} (h : MemWf s) : MemWf (settleGroup s key) := by
  unfold settleGroup
  extract_lets ws m ph s1
  split
  · exact h
  · refine inv_foldl (fun s2 b1 h1 => ?_) (inv_countMembers (inv_setGroup h))
    split
    · exact h1
    · exact inv_finishWait (.of_mem (mem_acquireAt ..) h1)

theorem inv_settleGroups {s} (h : MemWf s) : MemWf (settleGroups s) := by
  unfold settleGroups
  exact (inv_foldl (fun _ _ h1 => inv_settleGroup h1) h).same rfl

theorem inv_leaveGroup {s k t n waiting} (h : MemWf s) : MemWf (leaveGroup s k t n waiting) := by
  unfold leaveGroup
  split
  · exact h
  · extract_lets key c s1
    have hs1 : MemWf s1 := inv_setGroup h
    exact inv_groupTouch (.of_mem (modThr_mem ..) hs1)

theorem inv_leaveGroups {s k t} (h : MemWf s) : MemWf (leaveGroups s k t) := by
  unfold leaveGroups
  exact inv_foldl (fun _ _ h1 => inv_leaveGroup h1) h

theorem inv_withGroup {s t i f v} (h : MemWf s) (hf : ∀ n, MemWf (actState (f n))) :
    MemWf (actState (withGroup s t i f v)) := by
  unfold withGroup
  split
  · exact h
  · split
    · exact h
    · exact hf _

theorem inv_joinAct {last f s k t} (h : MemWf s) : MemWf (actState (joinAct last f s k t)) := by
  unfold joinAct
  extract_lets v
  refine inv_withGroup h (fun n1 => ?_)
  extract_lets key s1 s2
  have hs1 : MemWf s1 := inv_setGroup h
  have hs2 : MemWf s2 := inv_groupTouch (.of_mem (modThr_mem ..) hs1)
  split
  · exact h
  · split
    · exact h
    · split
      · split <;> exact h
      · exact .of_mem (holdUntil_mem ..) hs2

theorem inv_execGjoin {f s} (h : MemWf s) : MemWf (outState s (execGjoin f s)) := by
  unfold execGjoin
  exact inv_run h (fun _ _ _ h1 => inv_joinAct h1)

theorem inv_settleLate {s q} (h : MemWf s) : MemWf (settleLate s q) := by
  unfold settleLate
  split
  · split
    · split
      · exact inv_conclude h (inv_joinAct h)
      · exact h
    · exact h
  · exact inv_settleBar h

theorem inv_settleBars {s} (h : MemWf s) : MemWf (settleBars s) := by
  unfold settleBars
  exact (inv_foldl (fun _ _ h1 => inv_settleLate h1) h).same rfl

theorem inv_execGleave {f s} (h : MemWf s) : MemWf (outState s (execGleave f s)) := by
  unfold execGleave
  refine inv_run h (fun s1 k1 t1 h1 => ?_)
  extract_lets v
  refine inv_withGroup h1 (fun n1 => ?_)
  split
  · exact h1
  · exact (inv_leaveGroup h1).same rfl

theorem inv_execGbar {f s} (h : MemWf s) : MemWf (outState s (execGbar f s)) := by
  unfold execGbar
  refine inv_run h (fun s1 k1 t1 h1 => ?_)
  extract_lets v
  refine inv_withGroup h1 (fun n1 => ?_)
  extract_lets key one
  split
  · exact h1
  · refine inv_wbAct (inv_releaseAt h1) (fun s2 at_ h2 => ?_)
    exact .of_mem (holdUntil_mem ..) (inv_groupTouch (inv_setGroup h2))

theorem inv_swapTwin {s p e} (h : MemWf s) : MemWf (swapTwin s p e) := by
  unfold swapTwin
  exact (h.same (mem_setCtlF ..)).same (mem_setCtlF ..)

theorem inv_doPublish {s p e} (h : MemWf s) : MemWf (doPublish s p e) := by
  unfold doPublish
  extract_lets s1
  have hs1 : MemWf s1 := inv_swapTwin h
  have hq : MemWf { s1 with sending := s1.sending.put e (nowStamp s1, 0) } := hs1
  exact inv_ite (.of_mem (sched_mem ..) hq) hs1

theorem inv_execPublish {f s} (h : MemWf s) : MemWf (outState s (execPublish f s)) := by
  unfold execPublish
  refine inv_run h (fun s1 k1 t1 h1 => ?_)
  extract_lets v e p
  split
  · exact h1
  · split
    · exact h1
    · split
      · exact h1
      · split
        · split
          · split
            · exact h1
            · next he1 => exact inv_scored ((inv_holdOp h1).of_eq he1)
          · exact h1
        · split
          · exact h1
          · exact inv_wbAct (inv_releaseAt h1) (fun _ _ h2 => h2)

theorem inv_publishAt {s o} (h : MemWf s) : MemWf (publishAt s o) := by
  unfold publishAt
  split
  · exact h
  · split
    · exact h
    · split
      · exact inv_failWait h
      · split
        · exact h
        · exact inv_finishWait (inv_doPublish h)

theorem inv_settlePubs {s} (h : MemWf s) : MemWf (settlePubs s) := by
  unfold settlePubs
  exact inv_foldl (fun _ _ h1 => inv_publishAt h1) h

end Sys2Proof.Machine
end

section
/-! The canonical form of memory: channels, mailboxes, fault replies and the watchdog. -/

namespace Sys2Proof.Machine

theorem inv_withChannel {s k t v ends f} (h : MemWf s) (hf : ∀ n, MemWf (actState (f n))) :
    MemWf (actState (withChannel s k t v ends f)) := by
  unfold withChannel
  split
  · exact h
  · split
    · exact h
    · split
      · exact h
      · split
        · exact hf _
        · exact h

theorem inv_execCsend {f s} (h : MemWf s) : MemWf (outState s (execCsend f s)) := by
  unfold execCsend
  refine inv_run h (fun s1 k1 t1 h1 => ?_)
  extract_lets v
  refine inv_withChannel h1 (fun n1 => ?_)
  split
  · exact h1
  · refine inv_wbAct (inv_releaseAt h1) (fun s2 n2 h2 => ?_)
    extract_lets s3
    have hs3 : MemWf s3 := h2
    split
    · exact .of_mem (sched_mem ..) hs3
    · exact hs3

theorem inv_execChannelWordArrive {part ch s} (h : MemWf s) : MemWf (outState s (execChannelWordArrive part ch s)) := by
  unfold execChannelWordArrive
  extract_lets key
  split <;> exact h

theorem inv_execCrecv {f s} (h : MemWf s) : MemWf (outState s (execCrecv f s)) := by
  unfold execCrecv
  refine inv_run h (fun s1 k1 t1 h1 => inv_withChannel h1 (fun n1 => ?_))
  split
  · exact h1
  · extract_lets s2 s3 q
    have hs2 : MemWf s2 := h1
    have hs3 : MemWf s3 := by
      unfold s3
      split
      · exact .of_mem (sched_mem ..) hs2
      · exact hs2
    exact .of_mem (holdUntil_mem ..) (inv_scored (.of_mem (mem_acquireAt ..) hs3))

theorem inv_execChannelCreditReturn {part ch s} (h : MemWf s) : MemWf (outState s (execChannelCreditReturn part ch s)) := by
  unfold execChannelCreditReturn
  exact inv_ite h h

theorem inv_execCpoll {f s} (h : MemWf s) : MemWf (outState s (execCpoll f s)) := by
  unfold execCpoll
  refine inv_run h (fun s1 k1 t1 h1 => ?_)
  extract_lets v
  refine inv_withChannel h1 (fun n1 => ?_)
  split <;> exact inv_scored h1

theorem inv_channelsPlaced {s k t} (h : MemWf s) : MemWf (channelsPlaced s k t) := by
  unfold channelsPlaced
  exact inv_foldl (fun _ _ h1 => inv_ite (inv_foldl (fun _ _ h2 => h2) h1) h1) h

theorem inv_setMbox {s c m} (h : MemWf s) : MemWf (setMbox s c m) := h

theorem inv_takeMessage {s k c t ptr msg rest} (h : MemWf s) :
    MemWf (exceptState actState id (takeMessage s k c t ptr msg rest)) := by
  unfold takeMessage
  split
  · exact h
  · split
    · next he1 => exact inv_badAct ((inv_storeRange h).of_eq he1)
    · next he1 => exact .of_mem (mem_noteStore ..) (inv_setMbox ((inv_storeRange h).of_eq he1))

theorem inv_serveReceiver {s c} (h : MemWf s) : MemWf (serveReceiver s c) := by
  unfold serveReceiver
  split
  · split
    · exact h
    · split
      · next he3 => exact inv_finishWait ((inv_takeMessage h).of_eq he3)
      · exact h
  · exact h

theorem inv_mboxDeliver {s c msg} (h : MemWf s) : MemWf (mboxDeliver s c msg) := by
  unfold mboxDeliver
  extract_lets m s1
  refine inv_serveReceiver ?_
  split
  · exact inv_announceTo h
  · exact h

theorem inv_acceptHeld {pick l s c} (h : MemWf s) : MemWf (acceptHeld pick l s c) := by
  induction l generalizing s with
  | nil => exact h
  | cons x r ih =>
    unfold acceptHeld
    split
    · exact ih (inv_mboxDeliver h)
    · exact ih h

theorem inv_holdPosts {s pick retry} (h : MemWf s) : MemWf (holdPosts s pick retry) := by
  unfold holdPosts
  exact inv_ite h h

theorem inv_execPostRetry {core s} (h : MemWf s) : MemWf (outState s (execPostRetry core s)) := by
  unfold execPostRetry
  extract_lets pick
  exact memWf_next (inv_holdPosts (inv_acceptHeld h))

theorem inv_execHeldMbsendRetry {core s} (h : MemWf s) : MemWf (outState s (execHeldMbsendRetry core s)) := by
  unfold execHeldMbsendRetry
  exact inv_holdPosts (inv_acceptHeld h)

theorem inv_execMailboxArrive {core _sender msg s} (h : MemWf s) :
    MemWf (outState s (execMailboxArrive core _sender msg s)) := by
  unfold execMailboxArrive
  exact inv_mboxDeliver (inv_setMbox h)

theorem inv_sendReply {s at_ target msg} (h : MemWf s) : MemWf (sendReply s at_ target msg) := by
  unfold sendReply
  split
  · exact h
  · split
    · exact h
    · split <;> exact h

theorem inv_execMbsend {f s} (h : MemWf s) : MemWf (outState s (execMbsend f s)) := by
  unfold execMbsend
  refine inv_run h (fun s1 k1 t1 h1 => ?_)
  extract_lets v ptr target
  split
  · exact h1
  · split
    · exact h1
    · split
      · exact h1
      · split
        · exact h1
        · split
          · next e he2 =>
              have hbadState : MemWf (badState e) := (inv_loadRange h1).of_eq he2
              exact inv_badAct hbadState
          · next h2 he2 =>
              split
              · split
                · exact (inv_loadRange h1).of_eq he2
                · next s11 he3 =>
                    have hh2 : MemWf h2.s := (inv_loadRange h1).of_eq he2
                    have hs11 : MemWf s11 := (inv_holdOp hh2).of_eq he3
                    exact hs11
              · split
                · have hh2 : MemWf h2.s := (inv_loadRange h1).of_eq he2
                  exact inv_sendReply hh2
                · extract_lets m at_ s11
                  have hs11 : MemWf s11 := by
                    unfold s11
                    exact (inv_loadRange h1).of_eq he2
                  exact hs11

theorem inv_petWatchdog {s k t} (h : MemWf s) : MemWf (petWatchdog s k t) := by
  unfold petWatchdog
  split <;> exact h

theorem inv_execMbrecv {f s} (h : MemWf s) : MemWf (outState s (execMbrecv f s)) := by
  unfold execMbrecv
  refine inv_run h (fun s1 k1 t1 h1 => ?_)
  extract_lets ptr s0
  have hs0 : MemWf s0 := inv_petWatchdog h1
  split
  · exact h1
  · split
    · exact h1
    · split
      · exact h1
      · split
        · exact h1
        · split
          · exact hs0
          · split
            · next he2 => exact (inv_takeMessage hs0).of_eq he2
            · next he2 => exact inv_scored ((inv_takeMessage hs0).of_eq he2)

theorem inv_withNotifier {s k t i d f} (h : MemWf s) : MemWf (actState (withNotifier s k t i d f)) := by
  unfold withNotifier
  split
  · exact h
  · split
    · exact h
    · exact inv_scored h

theorem inv_execMbrecvArm {f s} (h : MemWf s) : MemWf (outState s (execMbrecvArm f s)) := by
  unfold execMbrecvArm
  exact inv_run h (fun _ _ _ h1 => inv_withNotifier h1)

theorem inv_execMbrecvDisarm {f s} (h : MemWf s) : MemWf (outState s (execMbrecvDisarm f s)) := by
  unfold execMbrecvDisarm
  exact inv_run h (fun _ _ _ h1 => inv_withNotifier h1)

theorem inv_wakeAccess {s k at_} (h : MemWf s) : MemWf (wakeAccess s k at_) := h

theorem inv_execTranslationWalk {k va kind s} (h : MemWf s) : MemWf (outState s (execTranslationWalk k va kind s)) := by
  unfold execTranslationWalk
  split
  · exact h
  · split
    · exact h
    · split
      · exact h
      · split
        · next he2 => exact inv_wakeAccess ((inv_walkResult h).of_eq he2)
        · next he2 => exact .of_mem (mem_enterFault ..) ((inv_walkResult h).of_eq he2)

theorem inv_execFaultReply {core token action s} (h : MemWf s) : MemWf (outState s (execFaultReply core token action s)) := by
  unfold execFaultReply
  split
  · exact h
  · split
    · exact h
    · extract_lets s1
      split
      · exact h
      · split
        · exact h
        · split
          · extract_lets r
            exact inv_walkAgain h
          · split
            · exact inv_failWait h
            · exact .of_mem (mem_killThread ..) h

theorem inv_execWatchdogExpiry {part s} (h : MemWf s) : MemWf (outState s (execWatchdogExpiry part s)) := by
  unfold execWatchdogExpiry
  extract_lets lim from_ s1
  split
  · exact h
  · split
    · exact h
    · split
      · exact h
      · split
        · exact h
        · split
          · exact .of_mem (mem_killThread ..) h
          · exact h

end Sys2Proof.Machine
end

section
/-! The canonical form of memory: slot tables, bindings and parking. -/

namespace Sys2Proof.Machine

theorem inv_setSlot {s c i v} (h : MemWf s) : MemWf (setSlot s c i v) := h

theorem inv_putSlot {s c i v} (h : MemWf s) : MemWf (putSlot s c i v) := by
  unfold putSlot
  split <;> exact h

theorem inv_dispSlots {s c f} (h : MemWf (f s)) : MemWf (dispSlots s c f) := h

theorem inv_emptySlots {s c x keep} (h : MemWf s) : MemWf (emptySlots s c x keep) := by
  unfold emptySlots
  exact inv_foldl (fun _ _ h1 => inv_ite (inv_putSlot h1) h1) h

theorem inv_emptyShare {s c n} (h : MemWf s) : MemWf (emptyShare s c n) := by
  unfold emptyShare
  exact inv_foldl (fun _ _ h1 => inv_ite (inv_putSlot h1) h1) h

theorem inv_parkThread {s k why} (h : MemWf s) : MemWf (parkThread s k why) := by
  unfold parkThread
  exact (MemWf.of_mem (mem_withdrawWait ..) h).same rfl

theorem inv_resumeThread {s k at_} (h : MemWf s) : MemWf (resumeThread s k at_) := h

theorem inv_settleSlots {s c x} (h : MemWf s) : MemWf (settleSlots s c x) := by
  unfold settleSlots
  extract_lets k own whole s1
  split
  · exact h
  · split
    · exact h
    · split
      · split
        · exact inv_resumeThread h
        · exact h
      · split
        · exact inv_emptySlots h
        · exact inv_parkThread (inv_emptySlots h)

theorem inv_applySlotReq {s r} (h : MemWf s) : MemWf (applySlotReq s r) := by
  unfold applySlotReq
  extract_lets old before x s1 s2 s3 s4
  have hs1 : MemWf s1 := inv_ite (inv_emptySlots h) h
  have hs2 : MemWf s2 := inv_foldl (fun _ _ ha => inv_putSlot ha) hs1
  have hs3 : MemWf s3 := inv_ite h (inv_foldl (fun _ _ ha => inv_settleSlots ha) hs2)
  have hs4 : MemWf s4 := inv_ite (.of_mem (modThr_mem ..) hs3) hs3
  exact .of_mem (modThr_mem ..) hs4

theorem inv_applySlotReqs {s} (h : MemWf s) : MemWf (applySlotReqs s) := by
  unfold applySlotReqs
  extract_lets x
  have hx : MemWf x := inv_foldl (fun _ _ h1 => inv_applySlotReq h1) h
  exact hx

theorem inv_execSlotwWrite {f s} (h : MemWf s) : MemWf (outState s (execSlotwWrite f s)) := by
  unfold execSlotwWrite
  refine inv_run h (fun s1 k1 t1 h1 => ?_)
  extract_lets a v c set id regs x
  split
  · exact h1
  · split <;> exact h1

theorem inv_execSlotwRead {f s} (h : MemWf s) : MemWf (outState s (execSlotwRead f s)) := by
  unfold execSlotwRead
  refine inv_run h (fun s1 k1 t1 h1 => ?_)
  extract_lets a
  split
  · exact h1
  · exact .of_mem (mem_putScored ..) h1

theorem inv_resetSlab {s slab} (h : MemWf s) : MemWf (resetSlab s slab) := Tab.wf_filter _ h

theorem inv_execSbindWrite {f s} (h : MemWf s) : MemWf (outState s (execSbindWrite f s)) := by
  unfold execSbindWrite
  refine inv_run h (fun s1 k1 t1 h1 => ?_)
  extract_lets i v c base old fresh s11 s2 lat
  have hs2 : MemWf s2 := inv_foldl (fun _ _ h2 => inv_resetSlab h2) h1
  split
  · exact h1
  · split
    · exact h1
    · split
      · exact h1
      · split
        · exact h1
        · split
          · exact h1
          · exact inv_scored hs2

theorem inv_execSbindRead {f s} (h : MemWf s) : MemWf (outState s (execSbindRead f s)) := by
  unfold execSbindRead
  refine inv_run h (fun s1 k1 t1 h1 => ?_)
  extract_lets i
  split
  · exact h1
  · exact inv_scored h1

theorem inv_takeSlots {s c r} (h : MemWf s) : MemWf (takeSlots s c r) := by
  unfold takeSlots
  exact inv_ite h (inv_dispSlots (inv_foldl (fun _ _ h1 => inv_putSlot h1) h))

theorem inv_leaveSlots {s k t} (h : MemWf s) : MemWf (leaveSlots s k t) := by
  unfold leaveSlots
  extract_lets c svc
  split
  · split
    · exact h
    · exact inv_dispSlots (inv_emptyShare h)
  · split
    · exact h
    · exact inv_dispSlots (inv_emptySlots h)

theorem inv_renameThread {s a b} (h : MemWf s) : MemWf (renameThread s a b) := h

theorem inv_noteIdle {s c} (h : MemWf s) : MemWf (noteIdle s c) := by
  unfold noteIdle
  exact inv_ite h h

theorem inv_pokeDispatch {s p} (h : MemWf s) : MemWf (pokeDispatch s p) := by
  unfold pokeDispatch
  split <;> exact h

end Sys2Proof.Machine
end

section
/-! The canonical form of memory: worlds. -/

namespace Sys2Proof.Machine

theorem inv_openView {s p v parent depth pod rival kind} (h : MemWf s) :
    MemWf (openView s p v parent depth pod rival kind) :=
  .of_mem (mem_wrCtl ..) (.of_mem (mem_wrCtl ..) h)

theorem inv_closeView {s p v} (h : MemWf s) : MemWf (closeView s p v) := by
  unfold closeView
  exact inv_pokeDispatch h

theorem inv_forkPod {s k t d words r i vs} (h : MemWf s) : MemWf (forkPod s k t d words r i vs).1 := by
  unfold forkPod
  extract_lets p gen handle depth s1 s2 s3 s4 node s5
  have hs1 : MemWf s1 := .of_mem (mem_wrCtl ..) h
  have hs2 : MemWf s2 := .of_mem (mem_wrCtl ..) hs1
  have hs3 : MemWf s3 := .of_mem (mem_wrCtl ..) (.of_mem (mem_wrCtl ..) hs2)
  have hs4 : MemWf s4 := hs3
  have hs5 : MemWf s5 := by
    refine inv_foldl (fun a q ha => ?_) hs4
    have hb : MemWf (openView a p q.1 (viewOf t) depth i q.2 0) := inv_openView ha
    exact hb
  exact hs5

theorem inv_execFork {f s} (h : MemWf s) : MemWf (outState s (execFork f s)) := by
  unfold execFork
  refine inv_run h (fun s1 k1 t1 h1 => ?_)
  extract_lets c ptr p sg
  split
  · exact h1
  · split
    · exact h1
    · split
      · exact h1
      · split
        · exact h1
        · split
          · next he => exact inv_badAct ((inv_loadRange h1).of_eq he)
          · next g he =>
            have hg : MemWf g.s := (inv_loadRange h1).of_eq he
            extract_lets r vs
            split
            · exact hg
            · split
              · exact hg
              · split
                · exact hg
                · split
                  · exact hg
                  · split
                    · exact hg
                    · split
                      · exact hg
                      · refine inv_wbAct (inv_releaseAt hg) (fun s2 at_ h2 => ?_)
                        exact .of_mem (sched_mem ..) (.of_mem (mem_putScored ..) (inv_forkPod h2))

theorem inv_rivalKills {s p v} (h : MemWf s) : MemWf (rivalKills s p v) := by
  unfold rivalKills
  split
  · extract_lets info mine s1
    have hs1 : MemWf s1 := inv_foldl (fun _ _ ha => inv_ite (.of_mem (mem_killThread ..) ha) ha) h
    exact inv_foldl (fun _ _ ha => inv_ite (inv_killHusk (inv_reportAway ha)) ha) hs1
  · exact h

theorem inv_rivalCheck {s p v} (h : MemWf s) : MemWf (rivalCheck s p v) := by
  unfold rivalCheck
  split
  · exact h
  · split
    · exact h
    · split
      · exact h
      · extract_lets i s1 s2
        have hs1 : MemWf s1 := .of_mem (mem_setCtlF ..) (inv_setViewState h)
        have hs2 : MemWf s2 := .of_mem (mem_setCtlF ..) hs1
        exact inv_ite (.of_mem (mem_wrCtl ..) hs2) hs1

theorem inv_wendAct {s k t score} (h : MemWf s) : MemWf (actState (wendAct s k t score)) := by
  unfold wendAct
  extract_lets p s1
  split
  · exact inv_wbAct (inv_releaseAt h) (fun _ _ h1 => .of_mem (mem_beginEnd ..) (inv_markRivalEnd h1))
  · exact h

theorem inv_execWend {f s} (h : MemWf s) : MemWf (outState s (execWend f s)) := by
  unfold execWend
  refine inv_run h (fun s1 k1 t1 h1 => ?_)
  split
  · exact h1
  · split
    · exact h1
    · exact inv_wendAct h1

theorem inv_execWjoin {f s} (h : MemWf s) : MemWf (outState s (execWjoin f s)) := by
  unfold execWjoin
  refine inv_run h (fun s1 k1 t1 h1 => ?_)
  extract_lets p h2
  split
  · exact h1
  · split
    · exact h1
    · split
      · exact h1
      · extract_lets s2 q
        have hs2 : MemWf s2 := .of_mem (mem_setCtlF ..) h1
        exact .of_mem (holdUntil_mem ..) (inv_scored (.of_mem (mem_acquireAt ..) hs2))

theorem inv_performOp {s k t op} (h : MemWf s) : MemWf (performOp s k t op).1 := by
  unfold performOp
  extract_lets x u refuse ptr e p target m at_ s1
  split
  · split
    · exact .of_mem (mem_postThread ..) h
    · exact .of_mem (mem_postThread ..) h
    · next he1 => exact (inv_storePiece h).of_eq he1
  · split
    · exact .of_mem (mem_postThread ..) h
    · exact .of_mem (mem_postThread ..) h
    · exact .of_mem (mem_postThread ..) h
    · exact h
    · exact .of_mem (mem_postThread ..) h
    · next he1 => exact (inv_stampWrite h).of_eq he1
  · split
    · exact .of_mem (mem_postThread ..) h
    · exact inv_doPublish h
  · split
    · exact inv_sendReply h
    · split
      · exact .of_mem (mem_postThread ..) h
      · split <;> exact h

theorem inv_performOps {s k t ops} (h : MemWf s) : MemWf (performOps s k t ops).1 := by
  unfold performOps
  exact inv_foldl_fst (fun _ _ h1 => inv_performOp h1) h

theorem inv_foldErrors {s k p v} (h : MemWf s) : MemWf (foldErrors s k p v) := by
  unfold foldErrors
  split
  · exact h
  · refine inv_foldl (fun s1 b1 h1 => ?_) h
    extract_lets r b
    have hr : MemWf r.1 := by
      unfold r
      split <;> exact .of_mem (mem_readSectors ..) h1
    have hb : MemWf b := inv_foldl (fun _ _ h2 => h2) hr
    split
    · exact hr
    · exact .of_mem (mem_postUnit ..) hb

theorem inv_commitView {s k t p v} (h : MemWf s) : MemWf (commitView s k t p v).1 := by
  unfold commitView
  extract_lets u ops s1 s2 s3
  have hs1 : MemWf s1 := inv_foldLines (inv_foldErrors h)
  have hs2 : MemWf s2 := inv_setViewState hs1
  split
  · exact inv_performOps hs2
  · split <;> exact hs2

theorem inv_execViewFold {part view s} (h : MemWf s) : MemWf (outState s (execViewFold part view s)) := by
  unfold execViewFold
  exact inv_ite (inv_closeView h) h

theorem inv_execViewSweep {part view s} (h : MemWf s) : MemWf (outState s (execViewSweep part view s)) := by
  unfold execViewSweep
  exact inv_ite (inv_closeView (inv_dropLines (inv_freeFrames h))) h

theorem inv_chooseAct {s k t d h0 i j} (h : MemWf s) : MemWf (actState (chooseAct s k t d h0 i j)) := by
  unfold chooseAct
  extract_lets p count view out
  split
  · exact h
  · refine inv_wbAct (inv_releaseAt h) (fun s1 n h1 => ?_)
    extract_lets q s2 s3 s4
    have hq : MemWf q.1 := by
      unfold q
      clear_value view
      split
      · exact inv_commitView h1
      · exact h1
    have hs2 : MemWf s2 := by
      refine inv_foldl (fun a m ha => ?_) hq
      split
      · exact inv_discardView ha
      · exact ha
    have hs3 : MemWf s3 := .of_mem (mem_acquireAt ..) hs2
    have hs4 : MemWf s4 := .of_mem (modThr_mem ..) (inv_freePod hs3)
    exact .of_mem (holdUntil_mem ..) hs4

theorem inv_withPod {s k t w f} (h : MemWf s) (hf : ∀ n, MemWf (actState (f n))) : MemWf (actState (withPod s k t w f)) := by
  unfold withPod
  extract_lets p
  split
  · exact h
  · split
    · exact h
    · split
      · exact h
      · exact hf _

theorem inv_execChoose {f s} (h : MemWf s) : MemWf (outState s (execChoose f s)) := by
  unfold execChoose
  refine inv_run h (fun s1 k1 t1 h1 => ?_)
  extract_lets h2 b p
  refine inv_withPod h1 (fun n1 => ?_)
  split
  · exact inv_chooseAct h1
  · split
    · exact h1
    · exact inv_chooseAct h1

theorem inv_execChooseMin {f s} (h : MemWf s) : MemWf (outState s (execChooseMin f s)) := by
  unfold execChooseMin
  exact inv_run h (fun _ _ _ h1 => inv_withPod h1 (fun _ => inv_chooseAct h1))

theorem inv_execTend {f s} (h : MemWf s) : MemWf (outState s (execTend f s)) := by
  unfold execTend
  refine inv_run h (fun s1 k1 t1 h1 => ?_)
  split
  · exact h1
  · split
    · exact h1
    · split
      · exact inv_wendAct h1
      · split
        · exact inv_redWait h1
        · split
          · exact inv_redMismatch h1
          · exact .of_mem (mem_beginEnd ..) h1

theorem inv_dropLine {s p v line} (h : MemWf s) : MemWf (dropLine s p v line) := h

theorem inv_frameLine {s p v line e} (h : MemWf s) : MemWf (frameLine s p v line e) := by
  unfold frameLine
  exact inv_wrMemN (inv_wrMemBytes h)

theorem inv_execShadowFrameWriteout {part view line s} (h : MemWf s) :
    MemWf (outState s (execShadowFrameWriteout part view line s)) := by
  unfold execShadowFrameWriteout
  extract_lets pl i lost b
  have hl : MemWf lost := (inv_failView (inv_dropLine h)).of_val rfl
  split
  · exact h
  · split
    · exact inv_frameLine h
    · split
      · exact hl
      · split
        · extract_lets e s1 s2 s3
          have hs1 : MemWf s1 := inv_wrMemN (inv_wrMemN (inv_wrMemN h))
          have hs2 : MemWf s2 := inv_wrMemN hs1
          have hs3 : MemWf s3 := .of_mem (mem_setCtlF ..) hs2
          exact inv_frameLine hs3
        · exact hl

end Sys2Proof.Machine
end

section
/-! The canonical form of memory: node records, launch, sprouts and the end of a thread. -/

namespace Sys2Proof.Machine

theorem inv_acceptNode {s key bs vaddr hint} (h : MemWf s) : MemWf (acceptNode s key bs vaddr hint) := by
  unfold acceptNode
  exact inv_pokeDispatch (inv_nodeReport h)

theorem memWf_nodes {s : State} {nodes : Tab Node} (h : MemWf s) : MemWf { s with nodes := nodes } := h

theorem inv_execLaunch {f s} (h : MemWf s) : MemWf (outState s (execLaunch f s)) := by
  unfold execLaunch
  refine inv_run h (fun s1 k1 t1 h1 => ?_)
  extract_lets ptr
  split
  · exact h1
  · split
    · exact h1
    · split
      · exact h1
      · split
        · next he => exact inv_badAct ((inv_loadRange h1).of_eq he)
        · next g he =>
          have hg : MemWf g.s := (inv_loadRange h1).of_eq he
          refine inv_wbAct (inv_releaseAt hg) (fun s2 at_ h2 => ?_)
          split
          · exact h2
          · next key _ =>
            extract_lets bs known st noted s3
            have hn : MemWf noted := inv_wrMem h2
            have hs3 : MemWf s3 := inv_ite (inv_acceptNode h2) (memWf_nodes hn)
            exact .of_mem (holdUntil_mem ..) (.of_mem (mem_putScored ..) hs3)

theorem inv_succFault {p key addrs size addr e} (h : MemWf e.2.2) : MemWf (succFault p key addrs size addr e) := by
  unfold succFault
  exact .of_mem (mem_postLate ..) h

theorem inv_succStep {s loc} (h : MemWf s) : MemWf (succStep s loc) := by
  unfold succStep
  split
  · split
    · split
      · exact inv_pokeDispatch (inv_modNode h)
      · exact inv_modNode h
    · split
      · exact h
      · exact inv_wrMemN h
  · exact inv_wrMemN h

theorem inv_runSuccs {p key l s} (h : MemWf s) : MemWf (runSuccs p key l s) := by
  induction l generalizing s with
  | nil => exact h
  | cons a r ih =>
    unfold runSuccs
    split
    · next he => exact inv_succFault ((inv_translate h).of_eq he)
    · next he =>
        extract_lets v
        split
        · next he1 => exact inv_succFault ((inv_translate ((inv_translate h).of_eq he)).of_eq he1)
        · next he1 => exact ih (inv_succStep ((inv_translate ((inv_translate h).of_eq he)).of_eq he1))

theorem inv_nodeDone {s key k t} (h : MemWf s) : MemWf (nodeDone s key k t) := by
  unfold nodeDone
  split
  · exact h
  · split
    · exact h
    · extract_lets s1 s2 s3
      have hs1 : MemWf s1 := inv_ite (inv_commitView h) h
      have hs2 : MemWf s2 := inv_modNode hs1
      have hs3 : MemWf s3 := inv_ite hs2 (inv_timelineCount hs2)
      exact inv_pokeDispatch (inv_runSuccs hs3)

theorem inv_execDispatcherFaultReply {part token action s} (h : MemWf s) :
    MemWf (outState s (execDispatcherFaultReply part token action s)) := by
  unfold execDispatcherFaultReply
  split
  · exact h
  · extract_lets s1 s2
    have hs2 : MemWf s2 := by
      unfold s2
      split
      · exact inv_walkAgain h
      · exact h
    exact inv_ite (inv_runSuccs hs2) h

theorem inv_armSprouts {s p c} (h : MemWf s) : MemWf (armSprouts s p c) := by
  unfold armSprouts
  exact inv_foldl (fun _ _ h1 => inv_ite h1 (inv_ite h1 h1)) (inv_ite h h)

theorem inv_execSpawn {f s} (h : MemWf s) : MemWf (outState s (execSpawn f s)) := by
  unfold execSpawn
  refine inv_run h (fun s1 k1 t1 h1 => ?_)
  split
  · exact h1
  · extract_lets ptr c
    split
    · exact h1
    · split
      · exact h1
      · split
        · next he2 => exact inv_badAct ((inv_loadRange h1).of_eq he2)
        · next he2 =>
            extract_lets pod d x3 s11
            split
            · exact (inv_loadRange h1).of_eq he2
            · split
              · exact (inv_loadRange h1).of_eq he2
              · split
                · exact (inv_loadRange h1).of_eq he2
                · exact inv_scored (inv_armSprouts (inv_modNode (((inv_loadRange h1).of_eq he2).same rfl)))

theorem inv_execTake {f s} (h : MemWf s) : MemWf (outState s (execTake f s)) := by
  unfold execTake
  refine inv_run h (fun s1 k1 t1 h1 => ?_)
  extract_lets ptr
  split
  · exact h1
  · split
    · exact h1
    · split
      · exact h1
      · split
        · exact inv_scored h1
        · split
          · next he2 => exact inv_badAct ((inv_storeRange h1).of_eq he2)
          · next he2 =>
              extract_lets x4 s11 s2 s3
              have hx4 : MemWf x4 := (inv_storeRange h1).of_eq he2
              have hs2 : MemWf s2 := inv_modNode (.of_mem (mem_noteStore ..) hx4)
              have hs3 : MemWf s3 := inv_rivalCheck (inv_nodeDone hs2)
              exact inv_scored hs3

theorem inv_putThread {s c r key n pc g2 tid tcoord f} (h : MemWf s) : MemWf (putThread s c r key n pc g2 tid tcoord f) := by
  unfold putThread
  exact inv_channelsPlaced (.of_mem (mem_acquireAt ..) ((inv_takeSlots h).same rfl))

theorem inv_startSprout {s c x} (h : MemWf s) : MemWf (optState s id (startSprout s c x)) := by
  unfold startSprout
  split
  · exact h
  · split
    · exact h
    · exact inv_modNode (inv_putThread h)

theorem inv_execSproutLocalStart {core s} (h : MemWf s) : MemWf (outState s (execSproutLocalStart core s)) := by
  unfold execSproutLocalStart
  split
  · exact h
  · extract_lets s1
    have hs1 : MemWf s1 := by
      unfold s1
      split
      · next he1 => exact (inv_startSprout h).of_eq he1
      · exact h
    exact inv_ite hs1 hs1

theorem inv_execSproutSteal {core s} (h : MemWf s) : MemWf (outState s (execSproutSteal core s)) := by
  unfold execSproutSteal
  split
  · exact h
  · extract_lets idle starts s1
    have hs1 : MemWf s1 := by
      unfold s1
      split
      · exact h
      · split
        · exact h
        · split
          · next he3 => exact (inv_startSprout h).of_eq he3
          · exact h
    split
    · exact h
    · exact inv_ite hs1 hs1

theorem inv_leaveNode {s k t} (h : MemWf s) : MemWf (leaveNode s k t) := by
  unfold leaveNode
  extract_lets p s0 s1 one
  split
  · exact inv_rivalCheck (inv_rivalKills (inv_ite h h))
  · exact inv_nodeDone (inv_modNode (inv_rivalCheck (inv_rivalKills (inv_ite h h))))

theorem inv_releaseHeld {s k t} (h : MemWf s) : MemWf (wbState (releaseHeld s k t)) := by
  refine inv_foldl_of (σ := wbState) (fun x q hx => ?_) h
  split
  · next s1 at_ =>
    have hs1 : MemWf s1 := hx
    split
    · next s2 a2 he =>
      have hs2 : MemWf s2 := (inv_releaseObject hs1).of_eq he
      exact hs2
    · exact inv_releaseObject hs1
  · exact hx

theorem inv_leaveService {s k t} (h : MemWf s) : MemWf (leaveService s k t) := by
  unfold leaveService
  exact inv_ite (.of_mem (mem_setCtlF ..) h) h

theorem inv_execThreadEnd {k s} (h : MemWf s) : MemWf (outState s (execThreadEnd k s)) := by
  unfold execThreadEnd
  split
  · exact h
  · split
    · exact h
    · split
      · next s1 _ he =>
        have hs1 : MemWf s1 := (inv_releaseAt h).of_eq he
        split
        · next s2 _ he2 =>
          have hs2 : MemWf s2 := (inv_releaseHeld hs1).of_eq he2
          extract_lets s3 s4 s5 s6 s7 s8 s9
          have hs3 : MemWf s3 := inv_ite (.of_mem (mem_killMatrix ..) hs2) hs2
          have hs4 : MemWf s4 := inv_disarmTimelines (inv_leaveGroups hs3)
          have hs5 : MemWf s5 := hs4
          have hs6 : MemWf s6 := inv_foldl (fun _ _ ha => inv_discardPod ha) hs5
          have hs7 : MemWf s7 := inv_leaveService (inv_leaveSlots hs6)
          have hs8 : MemWf s8 := hs7
          have hs9 : MemWf s9 := inv_ite hs8 (inv_noteIdle hs8)
          exact inv_ite hs8 (inv_pokeDispatch (inv_leaveNode hs9))
        · exact .of_mem (sched_mem ..) hs1
      · exact .of_mem (sched_mem ..) h

end Sys2Proof.Machine
end

section
/-! The canonical form of memory: the dispatcher. -/

namespace Sys2Proof.Machine

theorem inv_wakeCore {s c} (h : MemWf s) : MemWf (wakeCore s c).1 := by
  unfold wakeCore
  split <;> exact h

theorem inv_taskThread {s key n tid c redund} (h : MemWf s) : MemWf (optState s id (taskThread s key n tid c redund)) := by
  unfold taskThread
  split
  · exact h
  · next r _ =>
    have hw : MemWf (wakeCore s c).1 := inv_wakeCore h
    exact memWf_some (inv_putThread hw)

theorem inv_taskOn {s key n tid c} (h : MemWf s) : MemWf (optState s id (taskOn s key n tid c)) := by
  unfold taskOn
  split
  · cases he : taskThread s key n tid c 1 with
    | none => exact h
    | some a =>
      have ha : MemWf a := (inv_taskThread h).of_eq he
      cases he2 : taskThread a key n tid c 2 with
      | none =>
        rw [Option.bind_some, he2]
        exact h
      | some b =>
        rw [Option.bind_some, he2]
        exact (inv_taskThread ha).of_eq he2
  · exact inv_taskThread h

theorem inv_countTask {s key c} (h : MemWf s) : MemWf (countTask s key c) := by
  unfold countTask
  exact inv_modNode h

theorem inv_taskFirst {s key n tid l} (h : MemWf s) : MemWf (optState s id (taskFirst s key n tid l)) := by
  induction l with
  | nil => exact h
  | cons c r ih =>
    unfold taskFirst
    split
    · next he => exact inv_countTask ((inv_taskOn h).of_eq he)
    · exact ih

theorem inv_gangOn {s key n g} (h : MemWf s) : MemWf (optState s id (gangOn s key n g)) := by
  refine inv_foldl_of (σ := optState s id) (fun x tid hx => ?_) h
  cases x with
  | none => exact h
  | some a =>
    cases he : taskFirst a key n tid ((candidates a n tid).filter (fun c => gangOf a c == g)) with
    | none =>
      rw [Option.bind_some, he]
      exact h
    | some b =>
      rw [Option.bind_some, he]
      exact (inv_taskFirst hx).of_eq he

theorem inv_placeNode {s key n} (h : MemWf s) : MemWf (optState s id (placeNode s key n)) := by
  unfold placeNode
  split
  · cases he : (((candidates s n 0).map (gangOf s)).eraseDups).findSome? (fun g => gangOn s key n g) with
    | none => exact h
    | some u =>
      obtain ⟨g, -, hg⟩ := List.exists_of_findSome?_eq_some he
      exact (inv_gangOn h).of_eq hg
  · exact inv_taskFirst h

theorem memWf_staged {s0 s : State} {nodes : Tab Node} {m : Node} (h : MemWf s) :
    MemWf (optState s0 Prod.fst (some ({ s with nodes := nodes }, m))) := h

theorem inv_stageNode {s key n} (h : MemWf s) : MemWf (optState s Prod.fst (stageNode s key n)) := by
  unfold stageNode
  split
  · split
    · exact h
    · extract_lets m opened
      have ho : MemWf opened := inv_openView h
      exact memWf_staged ho
  · exact h

theorem inv_tryNodes {late l s} (h : MemWf s) : MemWf (triedState (tryNodes late l s)) := by
  induction l generalizing s with
  | nil => exact h
  | cons q r ih =>
    unfold tryNodes
    split
    · split <;> exact ih h
    · split
      · split
        · exact ih h
        · exact ih ((MemWf.of_mem (mem_postRaw ..) h).same rfl)
      · split
        · exact h
        · split
          · split <;> exact ih h
          · next he =>
              split
              · next he1 => exact (inv_placeNode ((inv_stageNode h).of_eq he)).of_eq he1
              · exact h

theorem inv_putRival {s r c} (h : MemWf s) : MemWf (optState s id (putRival s r c)) := by
  unfold putRival
  extract_lets t n sp w u
  split
  · exact h
  · extract_lets k u1 s1 s2
    have hs1 : MemWf s1 := inv_takeSlots (inv_wakeCore h)
    have hs2 : MemWf s2 := inv_channelsPlaced (.of_mem (mem_acquireAt ..) hs1)
    exact inv_ite (inv_modNode hs2) hs2

theorem inv_execRivalPlace {part s} (h : MemWf s) : MemWf (outState s (execRivalPlace part s)) := by
  unfold execRivalPlace
  extract_lets s0
  have hs0 : MemWf s0 := .of_mem (unsched_mem ..) h
  split
  · exact inv_pokeDispatch hs0
  · next r _ _ =>
    split
    · exact .of_mem (sched_mem ..) hs0
    · split
      · exact .of_mem (sched_mem ..) hs0
      · next s1 he =>
        obtain ⟨c, -, hc⟩ := List.exists_of_findSome?_eq_some he
        have hs1 : MemWf s1 := (inv_putRival hs0).of_eq hc
        extract_lets s2
        have hs2 : MemWf s2 := hs1
        exact inv_ite (.of_mem (sched_mem ..) (.of_mem (unsched_mem ..) hs2)) (.of_mem (sched_mem ..) hs2)

theorem inv_execServiceThreadStart {part s} (h : MemWf s) : MemWf (outState s (execServiceThreadStart part s)) := by
  unfold execServiceThreadStart
  extract_lets st s0 w c x sp room t u k s1 s2 s3
  have hs0 : MemWf s0 := .of_mem (mem_setCtlF ..) h
  have hs1 : MemWf s1 := .of_mem (setThr_mem ..) (inv_takeSlots (inv_dispSlots (inv_emptySlots hs0)))
  have hs2 : MemWf s2 := .of_mem (mem_setCtlF ..) (.of_mem (setSprPart_mem ..) hs1)
  have hs3 : MemWf s3 := inv_channelsPlaced (.of_mem (mem_acquireAt ..) hs2)
  split
  · exact hs0
  · exact .of_mem (sched_mem ..) hs3

end Sys2Proof.Machine
end

section
/-! The canonical form of memory: pre-emption and husks. -/

namespace Sys2Proof.Machine

theorem inv_huskErrors {s qs} (h : MemWf s) : MemWf (huskErrors s qs).1 := by
  unfold huskErrors
  split
  · exact h
  · exact inv_foldl_fst (fun _ _ h1 => .of_mem (mem_readSector ..) h1) h

theorem inv_huskRead {s slot t} (h : MemWf s) : MemWf (huskRead s slot t).1 := by
  unfold huskRead
  exact inv_huskErrors h

theorem inv_contextErrors {s k t} (h : MemWf s) : MemWf (contextErrors s k t).1 := by
  unfold contextErrors
  split
  · exact h
  · extract_lets c
    refine inv_foldl_fst (fun x1 b1 h1 => ?_) h
    split
    · exact h1
    · next he => exact .of_mem (mem_logError ..) ((inv_findEcc h1).of_eq he)

theorem inv_saveCheck {s k slot t} (h : MemWf s) : MemWf (saveCheck s k slot t).1 := by
  unfold saveCheck
  exact inv_huskErrors (inv_contextErrors h)

theorem inv_huskWrote {s slot t} (h : MemWf s) : MemWf (huskWrote s slot t) := by
  unfold huskWrote
  exact inv_foldl (fun _ _ h1 => .of_mem (mem_writeArray ..) (.of_mem (mem_clearPoison ..) h1)) h

theorem inv_endHusk {s key t} (h : MemWf s) : MemWf (endHusk s key t) := by
  unfold endHusk
  extract_lets s1 s2 s3
  have hs1 : MemWf s1 := by
    unfold s1
    split
    · next he => exact (inv_releaseHeld h).of_eq he
    · exact h
  have hs2 : MemWf s2 := inv_disarmTimelines (inv_leaveGroups hs1)
  have hs3 : MemWf s3 := inv_foldl (fun _ _ ha => inv_discardPod ha) hs2
  exact inv_leaveNode (inv_markRivalEnd hs3)

theorem inv_huskFailed {s p cause slotNo key core ctx t} (h : MemWf s) :
    MemWf (huskFailed s p cause slotNo key core ctx t) := by
  unfold huskFailed
  extract_lets info
  split
  · exact inv_endHusk (inv_rollback h)
  · exact inv_endHusk (.of_mem (mem_postRaw ..) h)

theorem inv_spillThread {s k slot begin_} (h : MemWf s) : MemWf (spillThread s k slot begin_) := by
  unfold spillThread
  split
  · exact h
  · extract_lets s1 s2 marked s2' s3 s4
    have hs1 : MemWf s1 := by
      unfold s1
      split
      · next he => exact (inv_releaseAt h).of_eq he
      · exact h
    have hs2 : MemWf s2 := inv_foldl (fun _ _ ha => inv_wrMemBytes ha) (inv_wrMemBytes (inv_huskWrote hs1))
    have hm : MemWf marked := inv_wrMem hs2
    have hs2' : MemWf s2' := hm
    have hs3 : MemWf s3 := inv_leaveSlots (inv_dispSlots (inv_emptySlots hs2'))
    have hs4 : MemWf s4 := inv_renameThread (inv_noteIdle hs3)
    exact inv_pokeDispatch hs4

theorem inv_spillOr {s p i k begin_ t} (h : MemWf s) : MemWf (spillOr s p i k begin_ t).1 := by
  unfold spillOr
  extract_lets r s1 s2
  split
  · exact inv_pokeDispatch (inv_huskFailed (inv_noteIdle ((inv_leaveSlots (inv_saveCheck h)).same rfl)))
  · exact inv_spillThread (inv_saveCheck h)

theorem inv_entriesFor {s k} (h : MemWf s) : MemWf (entriesFor s k) := by
  unfold entriesFor
  split
  · exact h
  · extract_lets c sp
    split
    · exact inv_resumeThread h
    · split
      · exact h
      · split
        · exact inv_resumeThread (inv_takeSlots h)
        · exact h

theorem inv_restore {s p slot c r share} (h : MemWf s) : MemWf (restore s p slot c r share) := by
  unfold restore
  extract_lets t k u s1 s2
  have hs1 : MemWf s1 := inv_wrMem h
  exact inv_channelsPlaced (inv_entriesFor (.of_mem (mem_acquireAt ..) hs1))

theorem inv_restoreOr {s p slotNo c r share} (h : MemWf s) : MemWf (restoreOr s p slotNo c r share).1 := by
  unfold restoreOr
  extract_lets slot t e gone
  have he : MemWf gone := inv_huskRead h
  have hg : MemWf { gone with husks := e.1.husks.del slot } := he
  split
  · exact memWf_fst (inv_huskFailed (inv_wrMem hg))
  · exact memWf_fst (inv_restore he)

theorem inv_execFill {f s} (h : MemWf s) : MemWf (outState s (execFill f s)) := by
  unfold execFill
  refine inv_run h (fun s1 k1 t1 h1 => ?_)
  extract_lets i v p want c x st no
  split
  · exact h1
  · split
    · exact h1
    · split
      · exact inv_scored h1
      · split
        · exact inv_scored h1
        · extract_lets q
          split <;> exact inv_scored (inv_restoreOr h1)

theorem inv_execSpill {f s} (h : MemWf s) : MemWf (outState s (execSpill f s)) := by
  unfold execSpill
  refine inv_run h (fun s1 k1 t1 h1 => ?_)
  extract_lets v c key p again
  split
  · exact h1
  · split
    · exact inv_scored h1
    · split
      · exact inv_scored h1
      · extract_lets mine s11 u q
        have hs11 : MemWf s11 := inv_ite h1 (inv_parkThread h1)
        split
        · exact inv_scored h1
        · split
          · exact hs11
          · split
            · exact hs11
            · exact inv_scored (inv_spillOr hs11)

theorem inv_execHuskAutoFill {part s} (h : MemWf s) : MemWf (outState s (execHuskAutoFill part s)) := by
  unfold execHuskAutoFill
  split
  · exact h
  · extract_lets t
    split
    · exact h
    · exact inv_restoreOr h

theorem inv_without {s ks} (h : MemWf s) : MemWf (without s ks) := by
  unfold without
  refine inv_foldl (fun s1 b1 h1 => ?_) h
  split
  · exact h1
  · exact inv_leaveSlots h1

theorem inv_execPreemptPark {part s} (h : MemWf s) : MemWf (outState s (execPreemptPark part s)) := by
  unfold execPreemptPark
  split
  · exact h
  · split
    · exact h
    · split
      · exact h
      · next k _ =>
        extract_lets s1
        have hp : MemWf (parkThread s k .preempted) := inv_parkThread h
        have hs1 : MemWf s1 := .of_mem (unsched_mem ..) hp
        exact .of_mem (sched_mem ..) (.of_mem (sched_mem ..) hs1)

theorem inv_execHuskSpill {k s} (h : MemWf s) : MemWf (outState s (execHuskSpill k s)) := by
  unfold execHuskSpill
  split
  · exact h
  · extract_lets p wanted
    split
    · exact h
    · split
      · split
        · exact inv_resumeThread h
        · exact inv_spillOr h
      · split
        · exact h
        · split
          · exact h
          · split
            · exact h
            · exact inv_resumeThread h

theorem inv_resumeFilled {s p} (h : MemWf s) : MemWf (resumeFilled s p) := by
  unfold resumeFilled
  exact inv_foldl (fun _ _ h1 => inv_ite (inv_entriesFor h1) h1) h

theorem inv_dispatchTry {s part late} (h : MemWf s) : MemWf (dispatchTry s part late) := by
  unfold dispatchTry
  extract_lets s0 later
  have hs0 : MemWf s0 := inv_resumeFilled h
  split
  · exact hs0
  · split
    · exact inv_ite hs0 hs0
    · split
      · exact hs0
      · split
        · next he => exact (inv_tryNodes hs0).of_eq he
        · next he =>
            have h1 := (inv_tryNodes hs0).of_eq he
            exact inv_ite h1 h1
        · next he =>
            have h1 := (inv_tryNodes hs0).of_eq he
            exact inv_ite h1 h1
        · next he =>
            have h1 := (inv_tryNodes hs0).of_eq he
            exact inv_ite h1 h1

theorem inv_execDispatchPlace {part s} (h : MemWf s) : MemWf (outState s (execDispatchPlace part s)) := by
  unfold execDispatchPlace
  exact inv_dispatchTry h

theorem inv_settleDispatch {s} (h : MemWf s) : MemWf (settleDispatch s) := by
  unfold settleDispatch
  exact inv_foldl (fun _ _ h1 => inv_dispatchTry h1) h

end Sys2Proof.Machine
end

section
/-! The canonical form of memory: thermal control. -/

namespace Sys2Proof.Machine

theorem inv_rankCores {s} (h : MemWf s) : MemWf (rankCores s) := by
  unfold rankCores
  exact inv_foldl (fun _ _ h1 => h1) h

theorem inv_clearShed {s c} (h : MemWf s) : MemWf (clearShed s c) := by
  unfold clearShed
  exact inv_foldl (fun _ _ h1 => inv_setSlot h1) h

theorem inv_watchCore {s c} (h : MemWf s) : MemWf (watchCore s c) := by
  unfold watchCore
  split
  · exact h
  · exact inv_ite (inv_ite h h) (inv_ite h h)

theorem inv_execThermalRankingUpdate {temps s} (h : MemWf s) : MemWf (outState s (execThermalRankingUpdate temps s)) := by
  unfold execThermalRankingUpdate
  extract_lets s1 s2 s3
  have hs1 : MemWf s1 := inv_foldl (fun _ _ ha => .of_mem (mem_setCtlF ..) ha) h
  have hs2 : MemWf s2 := inv_foldl (fun _ _ ha => inv_watchCore ha) (inv_rankCores hs1)
  have hs3 : MemWf s3 := inv_foldl (fun _ _ ha => inv_ite (.of_mem (sched_mem ..) ha) ha) hs2
  exact memWf_next (inv_foldl (fun _ _ ha => inv_ite (.of_mem (sched_mem ..) ha) ha) hs3)

theorem inv_execSlotShed {core s} (h : MemWf s) : MemWf (outState s (execSlotShed core s)) := by
  unfold execSlotShed
  split
  · exact h
  · extract_lets again
    have ha : MemWf again := .of_mem (sched_mem ..) h
    split
    · exact ha
    · extract_lets w s1 k s2
      have hs1 : MemWf s1 := inv_setSlot ha
      have hs2 : MemWf s2 := inv_emptySlots hs1
      have hp : MemWf (parkThread s2 k .displaced) := inv_parkThread hs2
      split
      · exact hs1
      · split
        · exact hs2
        · split
          · exact hs2
          · exact .of_mem (sched_mem ..) hp

theorem inv_execShedClear {core s} (h : MemWf s) : MemWf (outState s (execShedClear core s)) := by
  unfold execShedClear
  refine inv_ite h ?_
  split
  · exact inv_pokeDispatch (inv_clearShed h)
  · exact inv_clearShed h

theorem inv_execThermalDisplacement {k s} (h : MemWf s) : MemWf (outState s (execThermalDisplacement k s)) := by
  unfold execThermalDisplacement
  split
  · exact h
  · next t _ =>
    split
    · split
      · exact h
      · exact .of_mem (mem_logEvent ..) (.of_mem (setThr_mem ..) h)
    · split
      · exact h
      · split
        · exact .of_mem (sched_mem ..) h
        · split
          · exact .of_mem (sched_mem ..) h
          · split
            · exact h
            · extract_lets s0 w k2 u w1 s1 s2 s3 idle s4
              have hs0 : MemWf s0 := by
                unfold s0
                split
                · next he => exact (inv_releaseAt h).of_eq he
                · exact h
              have hw : MemWf w1 := inv_wakeCore hs0
              clear_value w1
              have hd : MemWf { w1 with threads := w.1.threads.del k } := hw
              have hs1 : MemWf s1 := inv_takeSlots (.of_mem (setThr_mem ..) hd)
              have hs2 : MemWf s2 := inv_renameThread hs1
              have hs3 : MemWf s3 := by
                unfold s3
                split
                · exact .of_mem (setSprPart_mem ..) hs2
                · exact hs2
              have hi : MemWf idle := inv_noteIdle hs3
              have hs4 : MemWf s4 := hi
              exact inv_pokeDispatch (.of_mem (sched_mem ..) (.of_mem (mem_acquireAt ..) hs4))

theorem inv_execCoreGate {core s} (h : MemWf s) : MemWf (outState s (execCoreGate core s)) := by
  unfold execCoreGate
  exact inv_ite h h

theorem inv_execCoreWake {core s} (h : MemWf s) : MemWf (outState s (execCoreWake core s)) := by
  unfold execCoreWake
  extract_lets s1
  refine ?_
  split
  · exact inv_pokeDispatch (inv_noteIdle h)
  · exact inv_noteIdle h

end Sys2Proof.Machine
end

section
/-! The canonical form of memory: command chains and copy engines. -/

namespace Sys2Proof.Machine

theorem inv_engAt {s n p v a len write} (h : MemWf s) : MemWf (exceptState engState Prod.fst (engAt s n p v a len write)) := by
  unfold engAt
  split
  · split
    · next he => exact (inv_translate h).of_eq he
    · next he =>
        split
        · exact (inv_translate h).of_eq he
        · split <;> exact (inv_translate h).of_eq he
  · split
    · extract_lets c o w q
      split
      · exact h
      · split
        · exact h
        · split <;> exact h.same (mem_windowWake ..)
    · split
      · exact h
      · split
        · extract_lets e o
          split <;> exact h
        · exact h

theorem inv_engHold {s n until_} (h : MemWf s) : MemWf (engHold s n until_) := h

theorem inv_engLine {n p v a loc len s} (h : MemWf s) : MemWf (exceptState engState Prod.fst (engLine n p v a loc len s)) := by
  unfold engLine
  extract_lets g s1 bad
  split <;> exact inv_ite (h.same (mem_memRead ..)) (inv_engHold (h.same (mem_memRead ..)))

theorem inv_engRead {n p v l s} (h : MemWf s) : MemWf (exceptState engState Prod.fst (engRead n p v l s)) := by
  induction l generalizing s with
  | nil => exact h
  | cons q r ih =>
    unfold engRead
    split
    · next e he => exact (inv_engAt h).of_eq he
    · next s1 _ _ he =>
        split
        · next e he1 =>
            have hs1 : MemWf s1 := (inv_engAt h).of_eq he
            have hengState : MemWf (engState e) := (inv_engLine hs1).of_eq he1
            exact hengState
        · next s3 _ _ he1 =>
            split
            · next e he2 =>
                have hs1 : MemWf s1 := (inv_engAt h).of_eq he
                have hs3 : MemWf s3 := (inv_engLine hs1).of_eq he1
                have hengState : MemWf (engState e) := (ih hs3).of_eq he2
                exact hengState
            · next s31 _ _ he2 =>
                have hs1 : MemWf s1 := (inv_engAt h).of_eq he
                have hs3 : MemWf s3 := (inv_engLine hs1).of_eq he1
                have hs31 : MemWf s31 := (ih hs3).of_eq he2
                exact hs31

theorem inv_engPut {s p v va loc bs bad} (h : MemWf s) : MemWf (engPut s p v va loc bs bad) := by
  unfold engPut
  extract_lets s1
  have hv : MemWf (makeVersion s none p v va loc) := .of_mem (mem_makeVersion ..) h
  have hs1 : MemWf s1 := .of_mem (mem_portWrote ..) (inv_wrVersionBytes hv)
  exact inv_foldl (fun _ _ ha => ha) hs1

theorem inv_setChain {s n c} (h : MemWf s) : MemWf (setChain s n c) := h

theorem inv_modEntry {s n seq f} (h : MemWf s) : MemWf (modEntry s n seq f) := by
  unfold modEntry
  exact inv_setChain h

theorem inv_postChain {s n cause info view} (h : MemWf s) : MemWf (postChain s n cause info view) := by
  unfold postChain
  exact inv_postView h

theorem inv_wantEntry {s n after} (h : MemWf s) : MemWf (wantEntry s n after) := by
  unfold wantEntry
  split <;> exact h

theorem inv_runEngine {s eng} (h : MemWf s) : MemWf (runEngine s eng) := by
  unfold runEngine
  split
  · exact h
  · split <;> exact h

theorem inv_shadowPending {s n e up} (h : MemWf s) : MemWf (shadowPending s n e up) := by
  unfold shadowPending
  split
  · exact h.same (mem_setCtlF ..)
  · exact h

theorem inv_freeFollowers {s n seq} (h : MemWf s) : MemWf (freeFollowers s n seq) := by
  unfold freeFollowers
  exact inv_foldl (fun _ _ h1 => inv_ite (inv_runEngine h1) h1) h

theorem inv_dropEntries {s n gone} (h : MemWf s) : MemWf (dropEntries s n gone) := by
  unfold dropEntries
  extract_lets c out s1 s2
  have hs1 : MemWf s1 := inv_foldl (fun _ _ h1 => inv_shadowPending h1) h
  exact inv_foldl (fun _ _ h1 => inv_freeFollowers h1) hs1

theorem inv_dropHead {s n} (h : MemWf s) : MemWf (dropHead s n) := h

theorem inv_stopAt {s n cause e} (h : MemWf s) : MemWf (stopAt s n cause e) := by
  unfold stopAt
  extract_lets s1 s2
  have hs1 : MemWf s1 := inv_dropHead (inv_dropEntries h)
  have hs2 : MemWf s2 := .of_mem (mem_setCtlF ..) hs1
  exact inv_setChainState hs2

theorem inv_stallAt {s n e write addr off size late} (h : MemWf s) : MemWf (stallAt s n e write addr off size late) := by
  unfold stallAt
  extract_lets token cause msg s1 s2
  have ht : MemWf { s with nextId := token + 1, tokens := s.tokens.put token (0x8000 + n, cause, wd addr) } := h
  have hs1 : MemWf s1 := .of_mem (mem_postLate ..) ht
  have hs2 : MemWf s2 := inv_modEntry hs1
  exact inv_ite hs2 (inv_setFaultOff (inv_setChainState hs2))

theorem inv_execKick {f s} (h : MemWf s) : MemWf (outState s (execKick f s)) := by
  unfold execKick
  refine inv_run h (fun s1 k1 t1 h1 => ?_)
  extract_lets n v d
  split
  · exact h1
  · split
    · exact h1
    · split
      · exact h1
      · split
        · exact h1
        · split
          · exact h1
          · refine inv_wbAct (inv_releaseAt h1) (fun s2 n1 h2 => ?_)
            split <;> exact h2

theorem inv_kickDone {s k} (h : MemWf s) : MemWf (kickDone s k) := by
  unfold kickDone
  exact inv_finishWait h

theorem inv_execKickApply {chain tail view kicker s} (h : MemWf s) :
    MemWf (outState s (execKickApply chain tail view kicker s)) := by
  unfold execKickApply
  extract_lets d a c s1 s2
  have hs1 : MemWf s1 := .of_mem (mem_setCtlF ..) (.of_mem (mem_setCtlF ..) h)
  have hs2 : MemWf s2 := inv_setChain hs1
  clear_value s2
  split
  · exact memWf_next (inv_kickDone h)
  · split
    · split
      · exact .of_mem (mem_enterWait ..) h
      · exact h
    · exact memWf_next (inv_kickDone (inv_wantEntry (inv_ite (inv_setChainState hs2) hs2)))

theorem inv_offerEntry {s n e} (h : MemWf s) : MemWf (offerEntry s n e) := by
  unfold offerEntry
  split <;> exact h

theorem inv_landed {s n seq follow} (h : MemWf s) : MemWf (landed s n seq follow) := by
  unfold landed
  exact inv_ite (.of_mem (sched_mem ..) (inv_modEntry h)) (.of_mem (sched_mem ..) (inv_modEntry h))

theorem inv_refuseEntry {s n cause info} (h : MemWf s) : MemWf (refuseEntry s n cause info) := by
  unfold refuseEntry
  exact inv_setChainState (inv_postChain h)

theorem inv_startChainEntry {s n e} (h : MemWf s) : MemWf (startChainEntry s n e) := by
  unfold startChainEntry
  extract_lets a mc c e0 s1 s2 s3 s4
  have hs2 : MemWf s2 := .of_mem (mem_setCtlF ..) h
  have hs3 : MemWf s3 := inv_shadowPending hs2
  have hs4 : MemWf s4 := inv_ite hs3 (inv_ite (inv_offerEntry hs3) (inv_ite (inv_landed hs3) (inv_runEngine hs3)))
  exact inv_wantEntry hs4

theorem inv_startGood {s n e} (h : MemWf s) : MemWf (startGood s n e) := by
  unfold startGood
  exact inv_ite (inv_refuseEntry h) (inv_ite (inv_refuseEntry h) (inv_ite (inv_refuseEntry h) (inv_startChainEntry h)))

theorem inv_readEntry {s n} (h : MemWf s) : MemWf (readEntry s n) := by
  unfold readEntry
  extract_lets c s0 p h1
  have hs0 : MemWf s0 := inv_setChain h
  split
  · exact hs0
  · split
    · exact inv_refuseEntry hs0
    · split
      · next s1 _ he =>
        have hs1 : MemWf s1 := (inv_engRead hs0).of_eq he
        exact .of_mem (sched_mem ..) (inv_setChain hs1)
      · next s1 _ _ he =>
        have hs1 : MemWf s1 := (inv_engRead hs0).of_eq he
        exact inv_refuseEntry hs1
      · next sf _ _ he =>
        have hsf : MemWf sf := (inv_engRead hs0).of_eq he
        extract_lets token msg s1
        have hs1 : MemWf s1 := by
          have ht : MemWf { sf with nextId := token + 1, tokens := sf.tokens.put token (0x8000 + n, 0x53, wd h1) } := hsf
          exact .of_mem (mem_postLate ..) ht
        exact inv_setFaultOff (inv_setChainState (inv_setChain hs1))
      · next s1 _ _ he =>
        have hs1 : MemWf s1 := (inv_engRead hs0).of_eq he
        extract_lets e from_ late s2 s3 kept
        have hs2 : MemWf s2 := inv_setChain hs1
        have hs3 : MemWf s3 := inv_setChain hs1
        split
        · split
          · exact .of_mem (sched_mem ..) hs2
          · exact .of_mem (sched_mem ..) hs2
        · split
          · exact inv_refuseEntry hs3
          · split
            · exact inv_refuseEntry hs3
            · split
              · exact inv_setChain hs3
              · exact inv_startGood hs3

theorem inv_startHeld {s n} (h : MemWf s) : MemWf (startHeld s n) := by
  unfold startHeld
  split
  · exact h
  · split
    · exact inv_ite (inv_refuseEntry h) (inv_startGood h)
    · exact h

theorem inv_execChainEntryRead {chain s} (h : MemWf s) : MemWf (outState s (execChainEntryRead chain s)) := by
  unfold execChainEntryRead
  exact inv_readEntry h

theorem inv_execChainEntryReread {chain s} (h : MemWf s) : MemWf (outState s (execChainEntryReread chain s)) := by
  unfold execChainEntryReread
  exact inv_readEntry h

theorem inv_execChainEntryNotReady {chain s} (h : MemWf s) : MemWf (outState s (execChainEntryNotReady chain s)) := by
  unfold execChainEntryNotReady
  split
  · exact h
  · exact inv_refuseEntry (inv_setChain h)

theorem inv_srcRead {n p v src len s} (h : MemWf s) : MemWf (exceptState engState Prod.fst (srcRead n p v src len s)) := by
  unfold srcRead
  split
  · exact h
  · exact inv_engRead h

theorem inv_planChunk {s n e} (h : MemWf s) : MemWf (exceptState engState Chunk.s (planChunk s n e)) := by
  unfold planChunk
  extract_lets d p rowD r o so base finish st
  have hf : ∀ a src dst, MemWf a → MemWf (exceptState engState Chunk.s (finish a src dst)) := by
    intro a src dst ha
    unfold finish
    split <;> exact ha
  clear_value finish
  split
  · exact hf _ _ _ h
  · split <;> exact hf _ _ _ h
  · exact hf _ _ _ h
  · split
    · next he => exact (inv_engRead h).of_eq he
    · next s1 bs _ he =>
      have hs1 : MemWf s1 := (inv_engRead h).of_eq he
      extract_lets k len origin
      split
      · exact hs1
      · split <;> exact hf _ _ _ hs1

theorem inv_chunkBytes {n e c} (h : MemWf c.s) : MemWf (exceptState engState Prod.fst (chunkBytes n e c)) := by
  unfold chunkBytes
  extract_lets p f es ed i0 i1 js
  split
  · exact h
  · split
    · split
      · next he => exact (inv_srcRead h).of_eq he
      · next s1 bs bad he =>
        have hs1 : MemWf s1 := (inv_srcRead h).of_eq he
        exact hs1
    · exact inv_srcRead h

theorem inv_chunkPlace {n e s c} (hs : MemWf s) (_hc : MemWf c.s) :
    MemWf (exceptState engState Prod.fst (chunkPlace n e s c)) := by
  unfold chunkPlace
  split
  · exact hs
  · exact inv_engAt hs

theorem inv_barPlace {n e s} (h : MemWf s) : MemWf (exceptState engState Prod.fst (barPlace n e s)) := by
  unfold barPlace
  split
  · exact h
  · exact inv_exceptMap (inv_engAt h) (fun _ hq => hq)

theorem inv_stopChain {s n cause info e} (h : MemWf s) : MemWf (stopChain s n cause info e) := by
  unfold stopChain
  exact inv_stopAt (inv_postChain h)

theorem inv_chunkBad {n e b write start len} (h : MemWf (engState b)) : MemWf (chunkBad n e b write start len) := by
  cases b with
  | fault => exact inv_stallAt h
  | stop => exact inv_stopChain h
  | wait => exact inv_engHold h

theorem inv_landChunk {s n e va loc v bar bs bad} (h : MemWf s) : MemWf (landChunk s n e va loc v bar bs bad) := by
  unfold landChunk
  extract_lets x s0 p s3 s4 m s5
  have hs0 : MemWf s0 := inv_ite (.of_mem (mem_crcCheck ..) h) (inv_engHold (.of_mem (mem_crcCheck ..) h))
  have hs3 : MemWf s3 := inv_engPut hs0
  have hs4 : MemWf s4 := by
    unfold s4
    split
    · exact inv_barLand hs3
    · exact hs3
  have hs5 : MemWf s5 := inv_modEntry hs4
  split
  · exact inv_stopChain hs0
  · split
    · exact inv_landed hs5
    · exact hs5

theorem inv_putChunk {s n e c bs bad} (hs : MemWf s) (hc : MemWf c.s) : MemWf (putChunk s n e c bs bad) := by
  unfold putChunk
  split
  · next he => exact inv_chunkBad ((inv_chunkPlace hs hc).of_eq he)
  · next he =>
      split
      · next he1 => exact inv_chunkBad ((inv_barPlace ((inv_chunkPlace hs hc).of_eq he)).of_eq he1)
      · next he1 => exact inv_landChunk ((inv_barPlace ((inv_chunkPlace hs hc).of_eq he)).of_eq he1)

theorem inv_ownChunk {n e c} (h : MemWf c.s) : MemWf (ownChunk n e c) := by
  unfold ownChunk
  split
  · next he => exact inv_chunkBad ((inv_chunkBytes h).of_eq he)
  · next he => exact inv_putChunk ((inv_chunkBytes h).of_eq he) h

theorem inv_catchUp {fuel s n seq upTo} (h : MemWf s) : MemWf (catchUp fuel s n seq upTo) := by
  induction fuel generalizing s with
  | zero => exact h
  | succ fuel ih =>
    unfold catchUp
    split
    · exact h
    · split
      · exact h
      · split
        · exact inv_runEngine (inv_modEntry h)
        · next c he =>
          have hc : MemWf c.s := (inv_planChunk h).of_eq he
          split
          · exact h
          · extract_lets s1
            have hs1 : MemWf s1 := inv_ownChunk hc
            exact inv_ite (ih hs1) (inv_runEngine (inv_modEntry hs1))

theorem inv_followChunk {s n f e c bs bad} (hs : MemWf s) (hc : MemWf c.s) : MemWf (followChunk s n f e c bs bad) := by
  unfold followChunk
  split
  · exact inv_ite (inv_putChunk hs hc) (inv_runEngine (inv_modEntry (inv_putChunk hs hc)))
  · exact inv_catchUp hs

theorem inv_wakeWindows {s as} (h : MemWf s) : MemWf (wakeWindows s as).1 := by
  unfold wakeWindows
  refine inv_foldl_fst (fun x1 b1 h1 => ?_) h
  split
  · exact .of_mem (mem_windowWake ..) h1
  · exact h1

theorem inv_moveChunk {s n e} (h : MemWf s) : MemWf (moveChunk s n e) := by
  unfold moveChunk
  split
  · next he => exact inv_chunkBad ((inv_planChunk h).of_eq he)
  · next c he =>
    have hc : MemWf c.s := (inv_planChunk h).of_eq he
    extract_lets w
    have hw : MemWf w.1 := inv_wakeWindows hc
    split
    · exact inv_engHold hw
    · split
      · exact inv_stopChain h
      · split
        · next he2 => exact inv_chunkBad ((inv_chunkBytes hc).of_eq he2)
        · next s1 bs bad he2 =>
          have hs1 : MemWf s1 := (inv_chunkBytes hc).of_eq he2
          extract_lets s2
          have hs2 : MemWf s2 := inv_putChunk hs1 hc
          exact inv_ite (inv_foldl (fun _ _ ha => inv_followChunk ha hc) hs2) hs2

theorem inv_execEngineChunk {engine s} (h : MemWf s) : MemWf (outState s (execEngineChunk engine s)) := by
  unfold execEngineChunk
  extract_lets s0 last
  split
  · exact inv_runEngine h
  · extract_lets s1
    split
    · exact h
    · exact inv_runEngine (inv_moveChunk h)

theorem inv_reportPlace {s n e} (h : MemWf s) : MemWf (exceptState engState Prod.fst (reportPlace s n e)) := by
  unfold reportPlace
  extract_lets a
  split
  · exact h
  · split <;> next he => exact (inv_engAt h).of_eq he

theorem inv_recordEntry {s n e place} (h : MemWf s) : MemWf (recordEntry s n e place) := by
  unfold recordEntry
  extract_lets p s1 s2 s3 k s4 s5 x
  have hs1 : MemWf s1 := .of_mem (mem_setCtlF ..) h
  have hs2 : MemWf s2 := by
    unfold s2
    split
    · exact inv_engPut hs1
    · exact hs1
  have hs3 : MemWf s3 := inv_ite hs2 (inv_timelineCount hs2)
  have hs4 : MemWf s4 := inv_ite (inv_announce hs3) hs3
  have hs5 : MemWf s5 := inv_dropEntries hs4
  exact hs5

theorem inv_recordGo {fuel s n} (h : MemWf s) : MemWf (recordGo fuel s n) := by
  induction fuel generalizing s with
  | zero => exact h
  | succ fuel ih =>
    unfold recordGo
    split
    · exact h
    · split
      · split
        · next he1 => exact (inv_reportPlace h).of_eq he1
        · exact h
        · next he1 => exact ih (inv_recordEntry ((inv_reportPlace h).of_eq he1))
      · exact h

theorem inv_execEntryCompletion {chain s} (h : MemWf s) : MemWf (outState s (execEntryCompletion chain s)) := by
  unfold execEntryCompletion
  exact inv_wantEntry (inv_startHeld (inv_ite (inv_setChainState (inv_recordGo h)) (inv_recordGo h)))

theorem inv_unstall {s n} (h : MemWf s) : MemWf (unstall s n) := by
  unfold unstall
  split
  · exact h
  · split
    · exact inv_setFaultOff (inv_setChainState h)
    · split <;> exact inv_setFaultOff (inv_setChainState h)

theorem inv_execChainFaultReply {chain token action s} (h : MemWf s) :
    MemWf (outState s (execChainFaultReply chain token action s)) := by
  unfold execChainFaultReply
  extract_lets c sf s0 s1
  have hsf : MemWf sf := by
    unfold sf
    split
    · exact inv_walkAgain h
    · exact h
  split
  · split
    · exact hsf
    · split
      · exact inv_wantEntry (inv_unstall hsf)
      · exact inv_setChainState hsf
  · split
    · exact h
    · split
      · extract_lets s11
        have hs11 : MemWf s11 := inv_modEntry hsf
        exact inv_wantEntry (inv_runEngine (inv_unstall hs11))
      · split
        · extract_lets s11
          have hs11 : MemWf s11 := inv_unstall (inv_modEntry hsf)
          exact inv_freeFollowers hs11
        · exact inv_stopAt hsf

theorem inv_execChainStart {chain s} (h : MemWf s) : MemWf (outState s (execChainStart chain s)) := by
  unfold execChainStart
  split
  · exact h
  · extract_lets c s1 s2
    have hs1 : MemWf s1 := inv_setChain h
    have hs2 : MemWf s2 := .of_mem (unsched_mem ..) hs1
    exact memWf_next (inv_wantEntry (inv_setChainState hs2))

theorem inv_execChainStop {chain s} (h : MemWf s) : MemWf (outState s (execChainStop chain s)) := by
  unfold execChainStop
  split
  · exact h
  · split
    · exact inv_setChainState (inv_dropHead h)
    · exact inv_stopAt h

theorem inv_execChainResync {chain s} (h : MemWf s) : MemWf (outState s (execChainResync chain s)) := by
  unfold execChainResync
  split
  · exact h
  · exact ((inv_setChain h).same (mem_setCtlF ..)).same (mem_setCtlF ..)

theorem inv_execMcastGroupClose {group s} (h : MemWf s) : MemWf (outState s (execMcastGroupClose group s)) := by
  unfold execMcastGroupClose
  exact inv_foldl (fun _ _ h1 => inv_ite (inv_landed h1) (inv_runEngine (inv_modEntry h1))) h

theorem inv_followRow {s n e a len} (h : MemWf s) : MemWf (exceptState engState Prod.fst (followRow s n e a len)) := by
  unfold followRow
  split
  · exact inv_engLine h
  · exact inv_engRead h

theorem inv_followRows {s n e len a rows} (h : MemWf s) :
    MemWf (exceptState (fun o => optState s Prod.fst o) Prod.fst (followRows s n e len a rows)) := by
  induction rows generalizing s a with
  | zero => exact h
  | succ rows ih =>
    unfold followRows
    split
    · next s1 c he =>
      have hs1 : MemWf s1 := (inv_followRow h).of_eq he
      exact hs1
    · exact h
    · next s1 bs bad he =>
      have hs1 : MemWf s1 := (inv_followRow h).of_eq he
      split
      · exact h
      · have hr := ih (a := a + len) hs1
        revert hr
        cases followRows s1 n e len (a + len) rows with
        | error o =>
          cases o with
          | none => exact fun _ => h
          | some q => exact id
        | ok q => exact id

theorem inv_followBad {s n e} (h : MemWf s) : MemWf (followBad s n e) := by
  unfold followBad
  exact inv_landed (inv_postChain h)

theorem inv_dropFollowLock {s n e} (h : MemWf s) : MemWf (dropFollowLock s n e) := h

theorem inv_followEnter {s n e k t} (h : MemWf s) : MemWf (followEnter s n e k t) := by
  unfold followEnter
  extract_lets w td ta tb ld s0 lock s1 s3
  have hs0 : MemWf s0 := inv_dropFollowLock h
  have hs1 : MemWf s1 := hs0
  have hs3 : MemWf s3 := inv_enterMatrix hs0
  have hm : MemWf (modEntry s1 n e.seq (fun y => { y with phase := 5 })) := inv_modEntry hs1
  split
  · exact .of_mem (sched_mem ..) hm
  · split
    · exact inv_followBad hs0
    · exact inv_modEntry hs3

theorem inv_followStep {s n e} (h : MemWf s) : MemWf (followStep s n e) := by
  unfold followStep
  extract_lets w k td ta tb ld a
  split
  · exact inv_followBad h
  · split
    · exact inv_followBad h
    · split
      · exact inv_followEnter h
      · split
        · exact h
        · extract_lets x1 eb len cols
          split
          · exact inv_followBad h
          · split
            · next he1 => exact ((inv_followRows h).of_eq he1).same rfl
            · exact inv_followBad h
            · next he1 => exact inv_followEnter (inv_injectTile (((inv_followRows h).of_eq he1).same rfl))

theorem inv_execFollowOnMma {chain s} (h : MemWf s) : MemWf (outState s (execFollowOnMma chain s)) := by
  unfold execFollowOnMma
  split
  · exact h
  · exact inv_followStep h

end Sys2Proof.Machine
end

section
/-! The canonical form of memory: the Ethernet ports. -/

namespace Sys2Proof.Machine

theorem inv_countUp {s a} (h : MemWf s) : MemWf (countUp s a) := h

theorem inv_macWrite {s a bs} (h : MemWf s) : MemWf (macWrite s a bs) := by
  unfold macWrite
  split
  · exact h
  · exact inv_foldl (fun _ _ h1 => h1.same (mem_portWrote ..)) (wf_wrMemBytes _ _ h)

theorem inv_ringDone {s port c ord} (h : MemWf s) : MemWf (ringDone s port c ord) := by
  unfold ringDone
  exact inv_ite (inv_timelineCount (.of_mem (mem_setCtlF ..) h)) (.of_mem (mem_setCtlF ..) h)

theorem inv_rxDeliver {s port bs filter ts} (h : MemWf s) : MemWf (rxDeliver s port bs filter ts) := by
  unfold rxDeliver
  extract_lets b
  split
  · exact inv_countUp h
  · exact inv_ringDone (inv_macWrite (inv_macWrite (inv_macWrite (inv_macWrite (inv_macWrite h)))))

theorem inv_meterPass {s i n ts} (h : MemWf s) : MemWf (meterPass s i n ts).1 := by
  unfold meterPass
  extract_lets a need r s1
  split
  · exact h
  · split
    · exact h
    · split
      · exact h
      · exact inv_ite (.of_mem (mem_setCtlF ..) h) h

theorem inv_portLog {s port cause info} (h : MemWf s) : MemWf (portLog s port cause info) := by
  unfold portLog
  exact h.same (mem_logEvent ..)

theorem inv_latchWrite {s l} (h : MemWf s) : MemWf (latchWrite s l) := by
  unfold latchWrite
  split
  · exact h
  · exact inv_wrMemBytes h

theorem inv_latchFrame {s port i ts held payload} (h : MemWf s) : MemWf (latchFrame s port i ts held payload) := by
  unfold latchFrame
  exact inv_foldl (fun _ _ h1 => inv_latchWrite h1) h

theorem inv_frameSteps {s port i n ts f} (h : MemWf s) : MemWf (frameSteps s port i n ts f).1 := by
  unfold frameSteps
  extract_lets w gate meter r late held s1
  have hr : MemWf r.1 := by
    unfold r
    split
    · exact inv_meterPass h
    · exact h
  have hs1 : MemWf s1 := inv_ite (inv_portLog hr) hr
  clear_value r
  split
  · exact h
  · split
    · exact inv_portLog h
    · split
      · exact inv_portLog hr
      · split
        · exact hs1
        · exact inv_ite (inv_latchFrame hs1) hs1

theorem inv_execFrameReceived {port frame ts s} (h : MemWf s) : MemWf (outState s (execFrameReceived port frame ts s)) := by
  unfold execFrameReceived
  extract_lets b s1
  have hs1 : MemWf s1 := inv_countUp h
  refine memWf_ite h (memWf_ite (inv_countUp h) ?_)
  split
  · exact inv_rxDeliver hs1
  · extract_lets r s2
    have hr : MemWf r.1 := inv_frameSteps (inv_countUp hs1)
    have hs2 : MemWf s2 := inv_countUp hr
    exact memWf_ite (inv_ite (inv_rxDeliver hs2) hs2) (inv_countUp hr)

theorem inv_execLinkChange {port up s} (h : MemWf s) : MemWf (outState s (execLinkChange port up s)) := by
  unfold execLinkChange
  exact memWf_ite h (memWf_next (.of_mem (sched_mem ..) (.of_mem (mem_setCtlF ..) h)))

theorem inv_modWire {s port f} (h : MemWf s) : MemWf (modWire s port f) := h

theorem inv_egressCull {s port} (h : MemWf s) : MemWf (egressCull s port) := by
  unfold egressCull
  exact inv_foldl (fun _ _ h1 => inv_portLog h1) h

theorem inv_execGateListControlStore {port v s} (h : MemWf s) : MemWf (outState s (execGateListControlStore port v s)) := by
  unfold execGateListControlStore
  exact h.same (mem_wrCtl ..)

theorem inv_execGateListEntry {port s} (h : MemWf s) : MemWf (outState s (execGateListEntry port s)) := by
  unfold execGateListEntry
  extract_lets w
  split
  · exact h
  · extract_lets e ends s0 s1 s2
    have hs0 : MemWf s0 := by
      unfold s0
      split <;> exact h
    have hs2 : MemWf s2 := by
      unfold s2
      split <;> exact hs0
    exact inv_egressCull hs2

theorem inv_restartGates {s port} (h : MemWf s) : MemWf (restartGates s port) := by
  unfold restartGates
  extract_lets a s1 w u s2
  have hs1 : MemWf s1 := inv_ite (.of_mem (mem_setCtlF ..) (.of_mem (mem_wrCtl ..) h)) h
  have hu : MemWf u := .of_mem (unsched_mem ..) hs1
  have hs2 : MemWf s2 := hu
  have hg : MemWf { s2 with gateOn := s2.gateOn.del port } := hs2
  exact inv_ite (.of_mem (sched_mem ..) hs2) (.of_mem (sched_mem ..) (inv_modWire hg))

theorem inv_txComplete {s port d ts} (h : MemWf s) : MemWf (txComplete s port d ts) := by
  unfold txComplete
  exact inv_ringDone (inv_macWrite (inv_ite (inv_macWrite h) h))

theorem inv_txNext {s port} (h : MemWf s) : MemWf (txNext s port) := by
  unfold txNext
  extract_lets again ts
  split
  · extract_lets on s0 s1
    refine inv_egressCull ?_
    split
    · exact inv_ite h (inv_modWire h)
    · exact inv_txComplete (inv_ite h (inv_modWire h))
  · split
    · exact inv_egressCull (inv_modWire h)
    · split
      · exact h
      · exact inv_modWire h

theorem inv_execTxFrameSend {port s} (h : MemWf s) : MemWf (outState s (execTxFrameSend port s)) := by
  unfold execTxFrameSend
  split
  · exact h
  · split
    · extract_lets s1
      have hs1 : MemWf s1 := by
        unfold s1
        split <;> exact h
      exact hs1
    · exact inv_txNext h

theorem inv_execEgressFrameBuild {port entry s} (h : MemWf s) : MemWf (outState s (execEgressFrameBuild port entry s)) := by
  unfold execEgressFrameBuild
  extract_lets a d off len img bs s1
  split
  · exact h
  · split
    · exact h.same (mem_postUnit ..)
    · exact inv_egressCull h

theorem inv_placeEgress {s} (h : MemWf s) : MemWf (placeEgress s) := by
  unfold placeEgress
  exact inv_foldl (fun _ _ h1 => inv_foldl (fun _ _ h2 => inv_ite h2 h2) h1) h

end Sys2Proof.Machine
end

section
/-! The canonical form of memory: the boundary tick and the testa link. -/

namespace Sys2Proof.Machine

theorem inv_setRole {s r} (h : MemWf s) : MemWf (setRole s r) := h

theorem inv_linkPost {s cause info} (h : MemWf s) : MemWf (linkPost s cause info) := by
  unfold linkPost
  exact .of_mem (mem_postUnit ..) h

theorem inv_takeRole {s r stamp} (h : MemWf s) : MemWf (takeRole s r stamp) := by
  unfold takeRole
  exact inv_linkPost (inv_setRole (inv_ite (h.same (mem_setCtlF ..)) h))

theorem memWf_sending {s : State} {sending : Tab (Nat × Nat)} (h : MemWf s) : MemWf { s with sending := sending } := h

theorem inv_execReplicationSend {entry s} (h : MemWf s) : MemWf (outState s (execReplicationSend entry s)) := by
  unfold execReplicationSend
  split
  · exact h
  · split
    · exact h
    · extract_lets size n last r seq s1
      have hr : MemWf { s with sentRecs := s.sentRecs ++ [(seq, r)], unacked := s.unacked ++ [(seq, r)] } := h
      have hs1 : MemWf s1 := .of_mem (mem_setCtlF ..) hr
      split
      · exact h
      · exact .of_mem (sched_mem ..) (memWf_sending hs1)

theorem memWf_unacked {s : State} {unacked : List (Nat × List Byte)} (h : MemWf s) : MemWf { s with unacked := unacked } := h

theorem memWf_missing {s : State} {missing : Option Nat} (h : MemWf s) :
    MemWf (match missing with
      | none => s
      | some m => { s with sentRecs := s.sentRecs ++ s.unacked.filter (fun r => seqDiff r.1 m < 2 ^ 31) }) := by
  cases missing <;> exact h

theorem inv_execReplicationAck {ack missing s} (h : MemWf s) : MemWf (outState s (execReplicationAck ack missing s)) := by
  unfold execReplicationAck
  extract_lets a u s1
  have hu : MemWf u := .of_mem (mem_setCtlF ..) h
  have hs1 : MemWf s1 := (inv_ite (memWf_unacked hu) h).of_val rfl
  exact memWf_next ((memWf_missing hs1).of_val rfl)

theorem inv_stageRecord {s r} (h : MemWf s) : MemWf (stageRecord s r) := h

theorem memWf_acks {s : State} {acks : List (Nat × Option Nat)} (h : MemWf s) : MemWf { s with acks := acks } := h

theorem inv_execReplicationRecordReceive {rec_ s} (h : MemWf s) :
    MemWf (outState s (execReplicationRecordReceive rec_ s)) := by
  unfold execReplicationRecordReceive
  split
  · exact h
  · extract_lets seq want d s1
    have hs1 : MemWf s1 := .of_mem (mem_setCtlF ..) (inv_stageRecord h)
    split
    · exact memWf_next (memWf_acks hs1)
    · split
      · exact memWf_next (inv_linkPost (memWf_acks h))
      · exact h

theorem inv_applyCopy {s e} (h : MemWf s) : MemWf (applyCopy s e) := by
  unfold applyCopy
  split
  · exact h
  · exact (inv_wrMemBytes h).same rfl

theorem inv_applyCopies {s} (h : MemWf s) : MemWf (applyCopies s) := by
  unfold applyCopies
  split
  · exact inv_foldl (fun _ _ h1 => inv_applyCopy h1) h
  · exact h

theorem inv_execLaneLoss {lanes s} (h : MemWf s) : MemWf (outState s (execLaneLoss lanes s)) := by
  unfold execLaneLoss
  extract_lets lost s1
  split
  · exact h
  · exact inv_foldl (fun _ _ h1 => inv_ite h1 h1) (inv_linkPost (.of_mem (mem_setCtlF ..) h))

theorem inv_execHeartbeatReceive {stamp role promo _rxseq serial s} (h : MemWf s) :
    MemWf (outState s (execHeartbeatReceive stamp role promo _rxseq serial s)) := by
  unfold execHeartbeatReceive
  split <;> exact h

theorem inv_missBeat {s stamp} (h : MemWf s) : MemWf (missBeat s stamp) := by
  unfold missBeat
  exact inv_ite h (inv_ite (inv_takeRole h) (inv_ite (inv_ite (inv_setRole (inv_linkPost h)) (inv_linkPost h)) h))

theorem inv_execHeartbeatMissed {stamp s} (h : MemWf s) : MemWf (outState s (execHeartbeatMissed stamp s)) := by
  unfold execHeartbeatMissed
  exact inv_missBeat h

theorem inv_linkTick {s prev} (h : MemWf s) : MemWf (linkTick s prev) := by
  unfold linkTick
  extract_lets s1 s2 s3
  have hs1 : MemWf s1 := inv_applyCopies h
  have hs2 : MemWf s2 := inv_ite hs1 (inv_takeRole hs1)
  have hs3 : MemWf s3 := by
    unfold s3
    split
    · exact hs2
    · split
      · exact hs2
      · exact inv_missBeat hs2
  split
  · split <;> exact hs3
  · exact hs2

theorem inv_performLatches {s} (h : MemWf s) : MemWf (performLatches s) := by
  unfold performLatches
  exact inv_foldl (fun _ _ h1 => wf_wrMemBytes _ _ h1) h

theorem inv_execJobDeadlineMiss {node s} (h : MemWf s) : MemWf (outState s (execJobDeadlineMiss node s)) := by
  unfold execJobDeadlineMiss
  split
  · exact h
  · split
    · exact h
    · exact .of_mem (mem_postRaw ..) h

theorem inv_nodesTick {s} (h : MemWf s) : MemWf (nodesTick s) := by
  unfold nodesTick
  exact inv_foldl (fun _ _ h1 => inv_pokeDispatch h1) (inv_foldl (fun _ _ h1 => inv_ite h1 h1) h)

theorem inv_scanOverruns {s} (h : MemWf s) : MemWf (scanOverruns s) := by
  unfold scanOverruns
  exact inv_foldl (fun _ _ h1 => inv_ite (.of_mem (mem_postUnit ..) h1) h1) h

theorem memWf_ticked {s : State} {slip : Bool} {ticks : List Int} (h : MemWf s) :
    MemWf { s with slipKept := slip, ticks := ticks } := h

theorem memWf_cycle {s : State} {due hold : Int} (h : MemWf s) :
    MemWf { s with cycTick := true, cycDue := due, cycHold := hold } := h

theorem inv_execBoundaryTick {s} (h : MemWf s) : MemWf (outState s (execBoundaryTick s)) := by
  unfold execBoundaryTick
  split
  · exact h
  · extract_lets prev s1 now stamp s1b kept s2 s3 s4 s5 s6
    have hs1 : MemWf s1 := inv_swapTwin (inv_performLatches h)
    have hs1b : MemWf s1b := .of_mem (mem_wrCtl ..) (.of_mem (mem_wrCtl ..) hs1)
    have hk : MemWf kept := inv_ite hs1b (.of_mem (mem_wrCtl ..) hs1b)
    have hs2 : MemWf s2 := memWf_ticked (s := kept) hk
    have hs3 : MemWf s3 := inv_scanOverruns (inv_nodesTick hs2)
    have hs4 : MemWf s4 := (inv_placeEgress (inv_foldl (fun _ _ ha => inv_restartGates ha) hs3)).of_val rfl
    have hs5 : MemWf s5 := (inv_ite hs4 (.of_mem (sched_mem ..) hs4)).of_val rfl
    have hs6 : MemWf s6 := .of_mem (sched_mem ..) (inv_markCycle (inv_linkTick hs5))
    exact memWf_next (inv_placeTick (memWf_cycle (s := s6) hs6))

theorem inv_execEgressCheck {pubcount s} (h : MemWf s) : MemWf (outState s (execEgressCheck pubcount s)) := by
  unfold execEgressCheck
  exact inv_ite (.of_mem (mem_postUnit ..) h) h

end Sys2Proof.Machine
end

section
/-! The canonical form of memory: what ends waits, interrupts threads and takes units offline. -/

namespace Sys2Proof.Machine

theorem inv_regWritten {s k ids} (h : MemWf s) : MemWf (regWritten s k ids) := by
  unfold regWritten
  extract_lets w
  split
  · exact h
  · split
    · exact h
    · exact inv_ite h h

theorem inv_execScoreboardResultArrival {k id s} (h : MemWf s) : MemWf (outState s (execScoreboardResultArrival k id s)) := by
  unfold execScoreboardResultArrival
  exact inv_regWritten h

theorem inv_execLoadValueQueueStuck {k s} (h : MemWf s) : MemWf (outState s (execLoadValueQueueStuck k s)) := by
  unfold execLoadValueQueueStuck
  split
  · exact inv_rollback h
  · exact h

theorem inv_execWaitLimitExpiry {k s} (h : MemWf s) : MemWf (outState s (execWaitLimitExpiry k s)) := by
  unfold execWaitLimitExpiry
  split
  · exact h
  · split
    · exact h
    · split
      · exact h
      · extract_lets s1
        have hs1 : MemWf s1 := .of_mem (perfBump_mem ..) h
        have hw : MemWf (withdrawWait s1 k) := .of_mem (mem_withdrawWait ..) hs1
        split
        · exact memWf_outState h (inv_execLoadValueQueueStuck hs1)
        · exact inv_failWait hw

theorem inv_execTrapEntry {k cause info tpc s} (h : MemWf s) : MemWf (outState s (execTrapEntry k cause info tpc s)) := by
  unfold execTrapEntry
  exact inv_raise h

theorem inv_execUiDelivery {k s} (h : MemWf s) : MemWf (outState s (execUiDelivery k s)) := by
  unfold execUiDelivery
  split
  · exact h
  · next t _ =>
    split
    · exact h
    · split
      · exact h
      · split
        · exact memWf_next (inv_raise (.of_mem (setThr_mem ..) h))
        · extract_lets u q
          have hq : MemWf q.1 := .of_mem (mem_acquireAt ..) h
          exact .of_mem (setThr_mem ..) hq

theorem inv_execControlSpaceStore {addr v s} (h : MemWf s) : MemWf (outState s (execControlSpaceStore addr v s)) := by
  unfold execControlSpaceStore
  exact inv_ite (h.same (mem_ctlStore ..)) h

theorem inv_execPatrolScrub {sector s} (h : MemWf s) : MemWf (outState s (execPatrolScrub sector s)) := by
  unfold execPatrolScrub
  split
  · exact h
  · exact .of_mem (mem_readSector ..) h

theorem inv_execDirtyLineUnowned {core view line s} (h : MemWf s) :
    MemWf (outState s (execDirtyLineUnowned core view line s)) := by
  -- under a name of its own the log of bad sectors is not evaluated where two matches on it are compared
  obtain ⟨logBad, hl⟩ : ∃ f, f = wbBad := ⟨_, rfl⟩
  have hw : ∀ key i bad, MemWf (traceState (logBad s key i bad).1) := by
    rw [hl]
    exact fun _ _ _ => inv_wbBad h
  unfold execDirtyLineUnowned
  rw [← hl]
  clear hl
  split
  · exact h
  · extract_lets va key
    split
    · next s1 _ he =>
      have hs1 : MemWf s1 := MemWf.of_eq_fst (f := traceState) (hw key 0 _) he
      exact memWf_next (inv_ite hs1 (.of_mem (mem_l1Drop ..) hs1))
    · exact h

theorem inv_execTraceConflictLog {slice s} (h : MemWf s) : MemWf (outState s (execTraceConflictLog slice s)) := by
  unfold execTraceConflictLog
  refine inv_foldl (fun s1 b1 h1 => ?_) h
  split
  · next he => exact ((inv_wbLine h1).of_eq_fst he).same rfl
  · exact h1

theorem inv_machineFate {s cause unit inst} (h : MemWf s) : MemWf (machineFate s cause unit inst) := by
  unfold machineFate
  extract_lets a s1 s2 info s3 s4
  have hs1 : MemWf s1 := .of_mem (mem_wrCtl ..) (.of_mem (mem_wrCtl ..) (.of_mem (mem_wrCtl ..) (.of_mem (mem_wrCtl ..) h)))
  have hs2 : MemWf s2 := hs1
  have hs3 : MemWf s3 := inv_foldl (fun _ _ h1 => .of_mem (mem_killThread ..) h1) hs2
  have hs4 : MemWf s4 := inv_foldl (fun _ _ h1 => .of_mem (mem_postUnit ..) h1) hs3
  clear_value s4
  split
  · exact hs4
  · exact .of_mem (mem_dueTrap ..) (.of_mem (mem_withdrawWait ..) hs4)

theorem inv_execMachineCheck {cause unit inst s} (h : MemWf s) : MemWf (outState s (execMachineCheck cause unit inst s)) := by
  unfold execMachineCheck
  exact inv_machineFate h

theorem inv_execDramChannelFailure {channel s} (h : MemWf s) : MemWf (outState s (execDramChannelFailure channel s)) := by
  unfold execDramChannelFailure
  exact inv_machineFate h

theorem inv_execSlabHardFault {half s} (h : MemWf s) : MemWf (outState s (execSlabHardFault half s)) := by
  unfold execSlabHardFault
  split
  · exact h
  · extract_lets info s1 cores s2
    have hs1 : MemWf s1 := .of_mem (mem_setCtlF ..) h
    have hs2 : MemWf s2 := inv_foldl (fun _ _ ha => .of_mem (mem_postUnit ..) ha) hs1
    exact memWf_next (inv_foldl (fun _ _ ha => .of_mem (mem_killThread ..) ha) hs2)

theorem inv_execThermalTrip {s} (_h : MemWf s) : MemWf (outState s (execThermalTrip s)) := by
  unfold execThermalTrip
  exact MemWf.same wf_reset (mem_setCtlF ..)

end Sys2Proof.Machine
end

section
/-! The canonical form of memory: boot and attestation. -/

namespace Sys2Proof.Machine

theorem inv_startHosts {s} (h : MemWf s) : MemWf (startHosts s) := by
  unfold startHosts
  exact inv_foldl (fun _ _ h1 => h1) h

theorem inv_loadImage {s at_} (h : MemWf s) : MemWf (loadImage s at_) := by
  unfold loadImage
  extract_lets h1 digest profile s1 s2 s3
  have hs1 : MemWf s1 := h
  clear_value s1
  have hs2 : MemWf s2 := inv_foldl (fun _ _ h2 => .of_mem (mem_wrCtl ..) h2) hs1
  clear_value s2
  have hs3 : MemWf s3 := inv_macWrite hs2
  exact inv_startHosts (.of_mem (setThr_mem ..) hs3)

theorem inv_execBoot {s} (h : MemWf s) : MemWf (outState s (execBoot s)) := by
  unfold execBoot
  have hl : ∀ a, MemWf (loadImage s a) := fun _ => inv_loadImage h
  split
  · exact memWf_next (hl 0)
  · split
    · exact memWf_next (hl 0x1000000)
    · exact h

theorem inv_execAttestationRequest {v s} (h : MemWf s) : MemWf (outState s (execAttestationRequest v s)) := by
  unfold execAttestationRequest
  split
  · exact h
  · extract_lets s1
    have hs1 : MemWf s1 := .of_mem (mem_setCtlF ..) h
    exact hs1

theorem inv_execAttestationDone {s} (h : MemWf s) : MemWf (outState s (execAttestationDone s)) := by
  unfold execAttestationDone
  split
  · exact h
  · exact .of_mem (mem_setCtlF ..) (inv_macWrite h)

end Sys2Proof.Machine
end

section
/-! The canonical form of memory: one instruction. -/

namespace Sys2Proof.Machine

theorem inv_exec {i s} (h : MemWf s) : MemWf (outState s (exec i s)) := by
  unfold exec
  split
  · exact inv_execAdd h
  · exact inv_execSub h
  · exact inv_execMul h
  · exact inv_execMulh h
  · exact inv_execDiv h
  · exact inv_execRem h
  · exact inv_execAnd h
  · exact inv_execOr h
  · exact inv_execXor h
  · exact inv_execShl h
  · exact inv_execShr h
  · exact inv_execSar h
  · exact inv_execMin h
  · exact inv_execMax h
  · exact inv_execSlt h
  · exact inv_execSel h
  · exact inv_execAddsat h
  · exact inv_execSubsat h
  · exact inv_execClz h
  · exact inv_execBext h
  · exact inv_execBins h
  · exact inv_execLea h
  · exact inv_execLi h
  · exact inv_execFadd h
  · exact inv_execFsub h
  · exact inv_execFmul h
  · exact inv_execFfma h
  · exact inv_execFdiv h
  · exact inv_execFsqrt h
  · exact inv_execFmin h
  · exact inv_execFmax h
  · exact inv_execFlt h
  · exact inv_execFcvt h
  · exact inv_execBeq h
  · exact inv_execBne h
  · exact inv_execBlt h
  · exact inv_execBge h
  · exact inv_execJmp h
  · exact inv_execJal h
  · exact inv_execJr h
  · exact inv_execJrLink h
  · exact inv_execLoop h
  · exact inv_execNop h
  · exact inv_execTend h
  · exact inv_execTrap h
  · exact inv_execBrk h
  · exact inv_execEret h
  · exact inv_execUiret h
  · exact inv_execLd8 h
  · exact inv_execLd16 h
  · exact inv_execLd32 h
  · exact inv_execLd64 h
  · exact inv_execSt8 h
  · exact inv_execSt16 h
  · exact inv_execSt32 h
  · exact inv_execSt64 h
  · exact inv_execLdacq h
  · exact inv_execStrel h
  · exact inv_execLdfe h
  · exact inv_execStfe h
  · exact inv_execFechk h
  · exact inv_execFence h
  · exact inv_execCachectl h
  · exact inv_execAmoadd h
  · exact inv_execAmobit h
  · exact inv_execAmomin h
  · exact inv_execAmomax h
  · exact inv_execAmoswap h
  · exact inv_execCas h
  · exact inv_execFaddaU h
  · exact inv_execFaddaO h
  · exact inv_execFmaxa h
  · exact inv_execAcq h
  · exact inv_execAcqSh h
  · exact inv_execAcqGrant h
  · exact inv_execRel h
  · exact inv_execBmove h
  · exact inv_execBfill h
  · exact inv_execTcfgWrite h
  · exact inv_execTcfgRead h
  · exact inv_execTld h
  · exact inv_execTst h
  · exact inv_execTgather h
  · exact inv_execTscatter h
  · exact inv_execTscaddU h
  · exact inv_execTscaddO h
  · exact inv_execTmovr h
  · exact inv_execTmovs h
  · exact inv_execTbcast h
  · exact inv_execVadd h
  · exact inv_execVsub h
  · exact inv_execVmul h
  · exact inv_execVfma h
  · exact inv_execVmin h
  · exact inv_execVmax h
  · exact inv_execVlog h
  · exact inv_execVshr h
  · exact inv_execVcmp h
  · exact inv_execVsel h
  · exact inv_execVcvt h
  · exact inv_execVrecip h
  · exact inv_execVrsqrt h
  · exact inv_execVexp2 h
  · exact inv_execVred h
  · exact inv_execVargmax h
  · exact inv_execVquant h
  · exact inv_execVdeq h
  · exact inv_execBqadd h
  · exact inv_execMma h
  · exact inv_execMmasp h
  · exact inv_execMatrixEntryStart h
  · exact inv_execMatrixKstepBoundary h
  · exact inv_execMatrixEntryComplete h
  · exact inv_execTlook h
  · exact inv_execTset h
  · exact inv_execTsetInvalidate h
  · exact inv_execBfmt h
  · exact inv_execBfmtRead h
  · exact inv_execSgset h
  · exact inv_execProbe h
  · exact inv_execSpawn h
  · exact inv_execTake h
  · exact inv_execGjoin h
  · exact inv_execGleave h
  · exact inv_execGbar h
  · exact inv_execTcadd h
  · exact inv_execTcwait h
  · exact inv_execTcwaitArm h
  · exact inv_execTcwaitDisarm h
  · exact inv_execTcset h
  · exact inv_execCsend h
  · exact inv_execChannelWordArrive h
  · exact inv_execCrecv h
  · exact inv_execChannelCreditReturn h
  · exact inv_execCpoll h
  · exact inv_execLaunch h
  · exact inv_execFork h
  · exact inv_execChoose h
  · exact inv_execChooseMin h
  · exact inv_execWend h
  · exact inv_execWjoin h
  · exact inv_execKick h
  · exact inv_execKickApply h
  · exact inv_execBinit h
  · exact inv_execBwait h
  · exact inv_execBwaitArm h
  · exact inv_execBwaitDisarm h
  · exact inv_execBtest h
  · exact inv_execSeqwait h
  · exact inv_execPublish h
  · exact inv_execSread h
  · exact inv_execSreadStatus h
  · exact inv_execSwrite h
  · exact inv_execCwait h
  · exact inv_execRdptp h
  · exact inv_execRdcyc h
  · exact inv_execMfs h
  · exact inv_execMts h
  · exact inv_execSbindWrite h
  · exact inv_execSbindRead h
  · exact inv_execSlotwWrite h
  · exact inv_execSlotwRead h
  · exact inv_execPtinv h
  · exact inv_execPtinvAll h
  · exact inv_execMbsend h
  · exact inv_execMailboxArrive h
  · exact inv_execMbrecv h
  · exact inv_execMbrecvArm h
  · exact inv_execMbrecvDisarm h
  · exact inv_execSpill h
  · exact inv_execFill h
  · exact inv_execTrapEntry h
  · exact inv_execUiDelivery h
  · exact inv_execWaitLimitExpiry h
  · exact inv_execThreadEnd h
  · exact inv_execDispatcherFaultReply h
  · exact inv_execDispatchPlace h
  · exact inv_execRivalPlace h
  · exact inv_execPreemptPark h
  · exact inv_execHuskSpill h
  · exact inv_execHuskAutoFill h
  · exact inv_execSproutLocalStart h
  · exact inv_execSproutSteal h
  · exact inv_execTranslationWalk h
  · exact inv_execFaultReply h
  · exact inv_execPostRetry h
  · exact inv_execLoadValueQueueStuck h
  · exact inv_execChainEntryRead h
  · exact inv_execChainEntryReread h
  · exact inv_execChainEntryNotReady h
  · exact inv_execEngineChunk h
  · exact inv_execChainFaultReply h
  · exact inv_execEntryCompletion h
  · exact inv_execFollowOnMma h
  · exact inv_execMcastGroupClose h
  · exact inv_execChainStart h
  · exact inv_execChainStop h
  · exact inv_execChainResync h
  · exact inv_execEgressCheck h
  · exact inv_execJobDeadlineMiss h
  · exact inv_execPtpStep h
  · exact inv_execPtpAdjust h
  · exact inv_execGateListControlStore h
  · exact inv_execGateListEntry h
  · exact inv_execFrameReceived h
  · exact inv_execTxFrameSend h
  · exact inv_execEgressFrameBuild h
  · exact inv_execLinkChange h
  · exact inv_execLaneLoss h
  · exact inv_execReplicationSend h
  · exact inv_execReplicationRecordReceive h
  · exact inv_execHeartbeatReceive h
  · exact inv_execHeartbeatMissed h
  · exact inv_execSlotShed h
  · exact inv_execShedClear h
  · exact inv_execThermalRankingUpdate h
  · exact inv_execThermalDisplacement h
  · exact inv_execCoreGate h
  · exact inv_execCoreWake h
  · exact inv_execThermmodeWrite h
  · exact inv_execViewSweep h
  · exact inv_execViewFold h
  · exact inv_execShadowFrameWriteout h
  · exact inv_execHeldMbsendRetry h
  · exact inv_execPatrolScrub h
  · exact inv_execDirtyLineUnowned h
  · exact inv_execTraceConflictLog h
  · exact inv_execTracectlWrite h
  · exact inv_execSlabHardFault h
  · exact inv_execMachineCheck h
  · exact inv_execDramChannelFailure h
  · exact inv_execWatchdogExpiry h
  · exact inv_execWdoglimWrite h
  · exact inv_execPerfselWrite h
  · exact inv_execAuditWrite h
  · exact inv_execErrinjWrite h
  · exact inv_execEventRingReadAdvance h
  · exact inv_execServiceThreadStart h
  · exact inv_execControlSpaceStore h
  · exact inv_execAttestationRequest h
  · exact inv_execScoreboardResultArrival h
  · exact inv_execReplicationAck h
  · exact inv_execBoundaryTick h
  · exact inv_execScanRelease h
  · exact inv_execCycleDomainStart h
  · exact inv_execCycleDomainStop h
  · exact inv_execPtpDisciplineLost h
  · exact inv_execPtpDisciplineRestored h
  · exact inv_execBoot h
  · exact inv_execAttestationDone h
  · exact inv_execThermalTrip h
  · exact inv_execErrlogClear h

end Sys2Proof.Machine
end

section
/-! The canonical form of memory: fetch, the barrel and one step. -/

namespace Sys2Proof.Machine

theorem inv_l1iUse {s c a} (h : MemWf s) : MemWf (l1iUse s c a) := by
  unfold l1iUse
  exact inv_ite h h

theorem inv_l1iDrop {s c a} (h : MemWf s) : MemWf (l1iDrop s c a) := h

theorem inv_l1iFill {s c a loc} (h : MemWf s) : MemWf (l1iFill s c a loc) := by
  unfold l1iFill
  exact inv_l1iUse (.of_mem (mem_writeArray ..) (inv_foldl (fun _ _ h1 => inv_ite h1 h1) h))

theorem inv_l1iParity {s k a} (h : MemWf s) : MemWf (optState s id (l1iParity s k a)) :=
  inv_optionMap (inv_findEcc h) (fun _ hr => .of_mem (mem_logError ..) (inv_l1iDrop hr))

theorem inv_fetchLine {s k t a} (h : MemWf s) : MemWf (exceptState fetchedState Prod.fst (fetchLine s k t a)) := by
  unfold fetchLine
  split
  · next he => exact (inv_translate h).of_eq he
  · next he => split <;> next he1 => exact (inv_demandRange ((inv_translate h).of_eq he)).of_eq he1

theorem inv_fetchWord {s k t a} (h : MemWf s) : MemWf (exceptState fetchedState Prod.fst (fetchWord s k t a)) := by
  unfold fetchWord
  extract_lets miss cached
  have hmiss : ∀ x, MemWf x → MemWf (exceptState fetchedState Prod.fst (miss x)) := by
    intro x hx
    unfold miss
    split
    · next he => exact (inv_fetchLine hx).of_eq he
    · next s1 loc lat he =>
      have hs1 : MemWf s1 := (inv_fetchLine hx).of_eq he
      exact inv_l1iFill hs1
  clear_value miss
  split
  · exact hmiss s h
  · split
    · next s1 he => exact hmiss s1 ((inv_l1iParity h).of_eq he)
    · exact inv_l1iUse h

theorem inv_fetchWords {k t n s a} (h : MemWf s) : MemWf (exceptState fetchedState Prod.fst (fetchWords k t n s a)) := by
  induction n generalizing s a with
  | zero => exact h
  | succ n ih =>
    unfold fetchWords
    split
    · next he => exact (inv_fetchWord h).of_eq he
    · next s1 w he =>
      have hs1 : MemWf s1 := (inv_fetchWord h).of_eq he
      exact inv_exceptMap (ih hs1) (fun _ hr => hr)

theorem inv_fetchRest {s k t a w} (h : MemWf s) : MemWf (fetchedState (fetchRest s k t a w)) := by
  unfold fetchRest
  extract_lets room
  split
  · exact h
  · split
    · exact h
    · split
      · exact h
      · split <;> next he => exact (inv_fetchWords h).of_eq he

theorem inv_fetch {s k t} (h : MemWf s) : MemWf (fetchedState (fetch s k t)) := by
  unfold fetch
  split
  · exact h
  · split
    · exact h
    · split
      · exact h
      · split
        · next he1 => exact (inv_fetchWord h).of_eq he1
        · next he1 => exact inv_fetchRest ((inv_fetchWord h).of_eq he1)

theorem inv_takeRegError {s k n} (h : MemWf s) : MemWf (takeRegError s k n).1 := by
  unfold takeRegError
  split
  · exact h
  · next he =>
      extract_lets s2
      split
      · exact ((inv_findEcc h).of_eq he).same (mem_killThread ..)
      · exact (inv_findEcc h).of_eq he

theorem inv_afterIssue {s0 k s} (_hs0 : MemWf s0) (hs : MemWf s) : MemWf (afterIssue s0 k s) := by
  unfold afterIssue
  split
  · exact inv_regWritten hs
  · exact hs

theorem inv_noteSlot {s k t} (h : MemWf s) : MemWf (noteSlot s k t) := by
  unfold noteSlot
  extract_lets s1
  split <;> exact h

theorem inv_noteIssue {s k t} (h : MemWf s) : MemWf (noteIssue s k t) := by
  unfold noteIssue
  exact inv_ite (inv_noteSlot h) ((inv_noteSlot h).same rfl)

theorem inv_issueInstr {s k t i} (h : MemWf s) : MemWf (outState s (issueInstr s k t i)) := by
  unfold issueInstr
  have hn : MemWf { noteIssue s k t with cur := some k, hint := hintOf i } := inv_noteIssue (s := s) h
  have he := inv_exec (i := i) hn
  generalize { noteIssue s k t with cur := some k, hint := hintOf i } = u at he ⊢
  split
  · next s1 e => exact inv_afterIssue h (he.of_eq e)
  · exact h
  · exact h

theorem inv_slotTrap {s1 k cause info t} (h : MemWf s1) : MemWf (outState s1 (slotTrap s1 k cause info t)) := by
  unfold slotTrap
  exact inv_raise (inv_noteSlot h)

theorem inv_issueWords {s k t ws} (h : MemWf s) : MemWf (outState s (issueWords s k t ws)) := by
  unfold issueWords
  extract_lets w0
  split
  · next i _ =>
    split
    · next n _ =>
      extract_lets r
      have hr : MemWf r.1 := inv_takeRegError h
      split
      · exact hr
      · exact memWf_outState h (inv_issueInstr hr)
    · exact inv_issueInstr h
  · exact inv_slotTrap h
  · exact inv_slotTrap h

theorem inv_useSlot {s k t} (h : MemWf s) : MemWf (outState s (useSlot s k t)) := by
  unfold useSlot
  split
  · exact .of_mem (mem_killThread ..) h
  · split
    · exact inv_noteSlot h
    · split
      · exact inv_slotTrap h
      · split
        · exact inv_slotTrap h
        · split
          · exact memWf_outState h (inv_exec (inv_noteSlot h))
          · have hf : MemWf (fetchedState (fetch s k t)) := inv_fetch h
            split
            · next s1 c i he =>
              have hs1 : MemWf s1 := hf.of_eq he
              exact memWf_outState h (inv_slotTrap hs1)
            · next s1 c a late he =>
              have hs1 : MemWf s1 := hf.of_eq he
              exact .of_mem (mem_enterFault ..) hs1
            · next s1 lat he =>
              have hs1 : MemWf s1 := hf.of_eq he
              exact .of_mem (holdUntil_mem ..) hs1
            · next s1 ws he =>
              have hs1 : MemWf s1 := hf.of_eq he
              exact memWf_outState h (inv_issueWords hs1)

theorem inv_dueEvent {s} (h : MemWf s) : MemWf (optState s Prod.snd (dueEvent s)) := by
  unfold dueEvent
  split
  · exact h
  · split <;> exact h

theorem inv_settleClk {s} (h : MemWf s) : MemWf (settleClk s) := by
  unfold settleClk
  extract_lets z a b c
  have hz : MemWf z := inv_ite h (inv_settleBars h)
  have ha : MemWf a := inv_ite hz (inv_settleGroups hz)
  have hb : MemWf b := inv_ite ha (inv_settleTimelines ha)
  have hc : MemWf c := inv_ite hb (inv_settleChains hb)
  exact inv_ite hc (inv_settleDispatch hc)

theorem inv_nextClk {s} (h : MemWf s) : MemWf (nextClk s) := by
  unfold nextClk
  exact inv_ite (inv_ite (inv_settlePubs h) h) (inv_ite (inv_settlePubs h) h)

theorem inv_endOfClk {s} (h : MemWf s) : MemWf (endOfClk s) := by
  unfold endOfClk
  split
  · exact h
  · split
    · exact inv_nextClk (inv_lowerAll (inv_writeErrors (inv_writeEvents h)))
    · exact inv_settleClk h

theorem inv_wakeThreads {s} (h : MemWf s) : MemWf (wakeThreads s) := by
  unfold wakeThreads
  refine inv_foldl (fun s1 b1 h1 => ?_) h
  split
  · split <;> exact h1
  · exact h1

theorem inv_atSlots {s} (h : MemWf s) : MemWf (atSlots s) := by
  unfold atSlots
  split
  · exact inv_wakeThreads (inv_ite (inv_applySlotReqs h) h)
  · exact h

theorem inv_slotStep {s} (h : MemWf s) : MemWf (outState s (slotStep s)) := by
  unfold slotStep
  split
  · next p k _ =>
    have hp : MemWf { s with bpos := p + 1 } := h
    split
    · exact memWf_outState h (inv_useSlot hp)
    · exact hp
  · exact inv_endOfClk h

theorem inv_stepOnce {s} (h : MemWf s) : MemWf (outState s (stepOnce s)) := by
  unfold stepOnce
  split
  · exact h
  · split
    · next i s1 he =>
      have hs1 : MemWf s1 := (inv_dueEvent h).of_eq he
      exact memWf_outState h (inv_exec hs1)
    · exact memWf_outState h (inv_slotStep (inv_atSlots h))

theorem inv_step {s} (h : MemWf s) : MemWf (outState s (step s)) := by
  unfold step
  exact inv_stepOnce h

/-- Settles O59, by the invariant along every function of the step. -/
theorem stepKeepsMemoryForm : Obligations.StepKeepsMemoryForm := by
  unfold Obligations.StepKeepsMemoryForm
  intro s s1 h e
  exact MemWf.of_eq (f := outState s) (inv_step h) e

end Sys2Proof.Machine
end

section
/-! Translation walks, fault replies and the watchdog (10 R236 to R239, 19 R457): what leaves the watchdog's count and its event
as they stand, how a killed thread is left, and what each of the three events answers. -/

namespace Sys2Proof.Machine

/-! What keeps the watchdogs: their counts and their events. -/

/-- No watchdog's count changes, and no event of a watchdog is lost. -/
def KeepsWatchdogs (s u : State) : Prop :=
  u.wdog = s.wdog ∧ ∀ c part, (c, Instr.watchdogExpiry part) ∈ s.agenda → (c, Instr.watchdogExpiry part) ∈ u.agenda

theorem keepsWatchdogs_of_same {s u : State} (hw : u.wdog = s.wdog) (ha : u.agenda = s.agenda) : KeepsWatchdogs s u :=
  ⟨hw, fun _ _ h => ha ▸ h⟩

theorem KeepsWatchdogs.trans {s u v : State} (h : KeepsWatchdogs s u) (h' : KeepsWatchdogs u v) : KeepsWatchdogs s v :=
  ⟨h'.1.trans h.1, fun c part hq => h'.2 c part (h.2 c part hq)⟩

theorem keepsWatchdogs_sched (s : State) (due : Nat) (i : Instr) : KeepsWatchdogs s (sched s due i) :=
  ⟨rfl, fun _ _ h => (mem_sched ..).2 (.inr h)⟩

theorem keepsWatchdogs_setThr (s : State) (k : Nat) (t : Thread) : KeepsWatchdogs s (setThr s k t) := keepsWatchdogs_of_same rfl rfl

theorem keepsWatchdogs_foldl {β : Type} (f : State → β → State) (hf : ∀ a b, KeepsWatchdogs a (f a b)) (l : List β) (s : State) :
    KeepsWatchdogs s (l.foldl f s) := by
  induction l generalizing s with
  | nil => exact keepsWatchdogs_of_same rfl rfl
  | cons b l ih => exact (hf s b).trans (ih (f s b))

theorem keepsWatchdogs_postRaw (s : State) (p : Nat) (msg : List Byte) : KeepsWatchdogs s (postRaw s p msg) := by
  simp only [postRaw, postLate]
  split
  · exact (keepsWatchdogs_of_same rfl rfl : KeepsWatchdogs s { s with posts := _ }).trans (keepsWatchdogs_sched _ _ _)
  · exact keepsWatchdogs_of_same rfl rfl

theorem keepsWatchdogs_postThread (s : State) (k : Nat) (t : Thread) (cause : Nat) (info pc : Word) :
    KeepsWatchdogs s (postThread s k t cause info pc) := by
  simp only [postThread]
  split
  · exact keepsWatchdogs_of_same rfl rfl
  · split <;> exact keepsWatchdogs_postRaw ..

theorem keepsWatchdogs_wrCtl (s : State) (a : Nat) (v : Word) : KeepsWatchdogs s (wrCtl s a v) :=
  keepsWatchdogs_of_same (wrCtl_wdog ..) (wrCtl_agenda ..)

theorem keepsWatchdogs_withdrawGroup (s : State) (t : Thread) (key : Nat) : KeepsWatchdogs s (withdrawGroup s t key) := by
  unfold withdrawGroup
  split
  · exact keepsWatchdogs_wrCtl ..
  · exact keepsWatchdogs_of_same rfl rfl

/-- Of the agenda only a kick of the thread's own is withdrawn. -/
theorem keepsWatchdogs_withdrawWait (s : State) (k : Nat) : KeepsWatchdogs s (withdrawWait s k) := by
  simp only [withdrawWait]
  split
  · exact keepsWatchdogs_of_same rfl rfl
  next t _ =>
    split
    · exact keepsWatchdogs_of_same rfl rfl
    next w _ =>
      split
      · exact (keepsWatchdogs_setThr s k _).trans (keepsWatchdogs_withdrawGroup _ _ _)
      · exact (keepsWatchdogs_setThr s k _).trans (keepsWatchdogs_sched _ _ _)
      · exact keepsWatchdogs_of_same rfl rfl
      · exact ⟨rfl, fun _ _ h => List.mem_filter.2 ⟨h, rfl⟩⟩
      · exact keepsWatchdogs_setThr s k _

theorem keepsWatchdogs_killMatrix (s : State) (k : Nat) : KeepsWatchdogs s (killMatrix s k) := by
  refine KeepsWatchdogs.trans (keepsWatchdogs_foldl _ (fun a q => ?_) _ s) (keepsWatchdogs_of_same rfl rfl)
  split
  · exact keepsWatchdogs_sched ..
  · exact keepsWatchdogs_of_same rfl rfl

theorem keepsWatchdogs_beginEnd (s : State) (k : Nat) : KeepsWatchdogs s (beginEnd s k) := by
  simp only [beginEnd]
  split
  · exact keepsWatchdogs_of_same rfl rfl
  · split
    · exact keepsWatchdogs_of_same rfl rfl
    · exact (keepsWatchdogs_setThr s k _).trans (keepsWatchdogs_sched _ _ _)

theorem markRivalEnd_threads (s : State) (t : Thread) (killed : Bool) : (markRivalEnd s t killed).threads = s.threads := by
  simp only [markRivalEnd]
  split <;> rfl

theorem keepsWatchdogs_markRivalEnd (s : State) (t : Thread) (killed : Bool) : KeepsWatchdogs s (markRivalEnd s t killed) := by
  simp only [markRivalEnd]
  split <;> exact keepsWatchdogs_of_same rfl rfl

theorem keepsWatchdogs_killQuiet (s : State) (k : Nat) : KeepsWatchdogs s (killQuiet s k) := by
  simp only [killQuiet]
  split
  · exact keepsWatchdogs_of_same rfl rfl
  · split
    · exact keepsWatchdogs_of_same rfl rfl
    · exact ((((keepsWatchdogs_setThr s k _).trans (keepsWatchdogs_withdrawWait _ k)).trans (keepsWatchdogs_killMatrix _ k)).trans
        (keepsWatchdogs_markRivalEnd _ _ _)).trans (keepsWatchdogs_beginEnd _ k)

theorem keepsWatchdogs_killThread (s : State) (k cause : Nat) (info pc : Word) : KeepsWatchdogs s (killThread s k cause info pc) := by
  simp only [killThread]
  split
  · exact keepsWatchdogs_of_same rfl rfl
  · exact (keepsWatchdogs_postThread ..).trans (keepsWatchdogs_killQuiet ..)

/-! A killed thread is ending, whatever state it was in. -/

theorem beforeTrap_run (s : State) (t : Thread) : (beforeTrap s t).run = t.run := by
  unfold beforeTrap
  split
  · split <;> rfl
  · rfl

theorem killQuiet_ending {s : State} {k : Nat} {t : Thread} (h : thr s k = some t) :
    ∃ v, thr (killQuiet s k) k = some v ∧ v.run = .ending := by
  by_cases hr : t.run = .ending
  · exact ⟨t, by simp only [killQuiet, h, if_pos hr], hr⟩
  · obtain ⟨r, hne, hw⟩ := thr_withdrawWait (thr_setThr_self s k (beforeTrap s t)) (by rwa [beforeTrap_run])
    have hm := (thr_of_threads ((markRivalEnd_threads (killMatrix (withdrawWait (setThr s k (beforeTrap s t)) k) k) t true).trans
      (killMatrix_threads _ k)) k).trans hw
    simp only [killQuiet, h, if_neg hr]
    exact ⟨_, thr_beginEnd hm hne, rfl⟩

theorem postThread_threads (s : State) (k : Nat) (t : Thread) (cause : Nat) (info pc : Word) :
    (postThread s k t cause info pc).threads = s.threads := by
  cases hh : t.host with
  | false => exact (postThread_posts info pc hh).2
  | true => simp only [postThread, hh, if_true]

theorem killThread_ending {s : State} {k : Nat} {t : Thread} (cause : Nat) (info pc : Word) (h : thr s k = some t) :
    ∃ v, thr (killThread s k cause info pc) k = some v ∧ v.run = .ending := by
  simp only [killThread, h]
  exact killQuiet_ending ((thr_of_threads (postThread_threads ..) k).trans h)

/-! The end of a walk (10 R236 to R238). -/

theorem exec_translationWalk_ok {s : State} {k : Nat} {t : Thread} {w : Wait} {va : Word} {kind : Nat} {r : Nat × Nat × State}
    (h : thr s k = some t) (hw : waitOf t = some w) (hk : w.kind = .translation)
    (hr : walkResult s (portOf k) (partOf t) va.toNat (kind % 8) = .ok r) :
    exec (.translationWalk k va kind) s = .next (wakeAccess r.2.2 k (s.clk + r.2.1)) := by
  change execTranslationWalk k va kind s = _
  simp only [execTranslationWalk, h, hw, hk, ne_eq, not_true_eq_false, if_false, hr]

theorem exec_translationWalk_error {s : State} {k : Nat} {t : Thread} {w : Wait} {va : Word} {kind : Nat} {e : Nat × Nat × State}
    (h : thr s k = some t) (hw : waitOf t = some w) (hk : w.kind = .translation)
    (he : walkResult s (portOf k) (partOf t) va.toNat (kind % 8) = .error e) :
    exec (.translationWalk k va kind) s = .next (enterFault e.2.2 k w.words e.1 (kind % 8) (kind / 8) va.toNat e.2.1) := by
  change execTranslationWalk k va kind s = _
  simp only [execTranslationWalk, h, hw, hk, ne_eq, not_true_eq_false, if_false, he]

/-- The last walk for the page answers, once it has ended. -/
theorem walkResult_of_last {s : State} {port p v kind : Nat} {x : Walk} {rest : List Walk}
    (hl : s.walks.getD port [] = rest ++ [x]) (hdue : x.due ≤ s.clk) (hfor : walkFor p v x = true) :
    walkResult s port p v kind = granted v kind (x.entry, 0, tlbNow s port) := by
  simp only [walkResult, hl, List.reverse_append, List.reverse_singleton, List.singleton_append, List.find?_cons, hdue, hfor,
    decide_true, Bool.and_self]

/-! A reply (10 R239). -/

theorem exec_faultReply_unknown {s : State} {core : Nat} {token : Word} {action : Nat} (h : s.tokens.get? token.toNat = none) :
    exec (.faultReply core token action) s = .next s := by
  change execFaultReply core token action s = _
  simp only [execFaultReply, h]

/-- A reply to the fault a device thread waits for: the token is taken, and the action is done. -/
theorem exec_faultReply_known {s : State} {k : Nat} {t : Thread} {w : Wait} {token addr : Word} {cause : Nat} (action : Nat)
    (h : thr s k = some t) (hw : waitOf t = some w) (hk : w.kind = .translation)
    (htok : s.tokens.get? token.toNat = some (k, cause, addr)) (hkey : w.key = token.toNat) (hlt : k < 8192) :
    let s1 := { s with tokens := s.tokens.del token.toNat }
    let r := walkAgain s1 (portOf k) (partOf t) addr.toNat
    exec (.faultReply (k / 64) token action) s =
      if action = 0 then .next (sched r.1 (s.clk + r.2) (.translationWalk k addr w.arg.toNat))
      else if action = 1 then .next (failWait s1 k w cause addr)
      else .next (killThread s1 k cause addr t.pc) := by
  have hdevice : ¬ (0x8000 ≤ k ∨ coreOf k ≠ k / 64) := not_or.2 ⟨by omega, not_not.2 rfl⟩
  have hthr : thr { s with tokens := s.tokens.del token.toNat } k = some t := h
  change execFaultReply (k / 64) token action s = _
  simp only [execFaultReply, htok, if_neg hdevice, hthr, Option.bind_some, hw, Option.map_some, hk, hkey, ne_eq, not_true_eq_false,
    or_self, if_false]

/-! The watchdog (19 R457). -/

/-- The state of a watchdog that has started to count again. -/
def watchdogAgain (s : State) (part lim : Nat) : State :=
  sched { s with wdog := s.wdog.put part s.clk } (s.clk + lim) (.watchdogExpiry part)

theorem exec_watchdogExpiry_off {s : State} {part : Nat} (hlim : sprPart s part rWDOGLIM = 0) :
    exec (.watchdogExpiry part) s = .next s := by
  have hzero : (sprPart s part rWDOGLIM).toNat = 0 := by rw [hlim]; rfl
  change execWatchdogExpiry part s = _
  simp only [execWatchdogExpiry, if_pos hzero]

theorem exec_watchdogExpiry_early {s : State} {part : Nat} (hlim : (sprPart s part rWDOGLIM).toNat ≠ 0)
    (hclk : s.clk < s.wdog.getD part 0 + (sprPart s part rWDOGLIM).toNat) :
    exec (.watchdogExpiry part) s = .next (sched (unsched s (fun i => i == .watchdogExpiry part))
      (s.wdog.getD part 0 + (sprPart s part rWDOGLIM).toNat) (.watchdogExpiry part)) := by
  change execWatchdogExpiry part s = _
  simp only [execWatchdogExpiry, if_neg hlim, if_pos hclk]

theorem exec_watchdogExpiry_due {s : State} {part k : Nat} {t : Thread} (hlim : (sprPart s part rWDOGLIM).toNat ≠ 0)
    (hclk : s.wdog.getD part 0 + (sprPart s part rWDOGLIM).toNat ≤ s.clk) (hsvc : svcThread s part = some k) (h : thr s k = some t) :
    exec (.watchdogExpiry part) s = .next
      (if thOf t = true then killThread (watchdogAgain s part (sprPart s part rWDOGLIM).toNat) k 0x7E t.pc t.pc
      else setThr (watchdogAgain s part (sprPart s part rWDOGLIM).toNat) k
        { t with deferred := t.deferred ++ [(0x7E, wd (sprPart s part rWDOGLIM).toNat)] }) := by
  have hsvc' : svcThread (watchdogAgain s part (sprPart s part rWDOGLIM).toNat) part = some k := hsvc
  have hthr : thr (watchdogAgain s part (sprPart s part rWDOGLIM).toNat) k = some t := h
  change execWatchdogExpiry part s = _
  simp only [execWatchdogExpiry, if_neg hlim, if_neg (Nat.not_lt.2 hclk), ← watchdogAgain.eq_def, hsvc', hthr, modThr_eq _ hthr]
  split <;> rfl

theorem keepsWatchdogs_watchdogDone (s : State) (k : Nat) (t u : Thread) :
    KeepsWatchdogs s (if thOf t = true then killThread s k 0x7E t.pc t.pc else setThr s k u) := by
  split
  · exact keepsWatchdogs_killThread ..
  · exact keepsWatchdogs_setThr ..

/-- Settles O43: the walk's answer, the three replies, and the watchdog before and at its end. -/
theorem faultRepliesAndWatchdog : Obligations.FaultRepliesAndWatchdog := by
  intro s k t h
  refine ⟨fun w va kind r hw hk hr => exec_translationWalk_ok h hw hk hr,
    fun w va kind e hw hk he => exec_translationWalk_error h hw hk he,
    fun port p v kind x rest hl hdue hfor => walkResult_of_last hl hdue hfor,
    fun core token action htok => exec_faultReply_unknown htok,
    fun w token cause addr hw hk htok hkey hlt => ?_, fun part hlim => exec_watchdogExpiry_off hlim, ?_, ?_⟩
  · have hreply (action : Nat) := exec_faultReply_known action h hw hk htok hkey hlt
    exact ⟨hreply 0, hreply 1, hreply 2⟩
  · intro part lim hlim hclk hsvc
    refine ⟨_, exec_watchdogExpiry_due hlim hclk hsvc h, ?_⟩
    obtain ⟨hwdog, hagenda⟩ := keepsWatchdogs_watchdogDone (watchdogAgain s part lim) k t
      { t with deferred := t.deferred ++ [(0x7E, wd lim)] }
    refine ⟨?_, hagenda _ _ ((mem_sched ..).2 (.inl rfl)), fun hth => ?_, fun hth => ?_⟩
    · rw [hwdog]
      exact Tab.get?_put_self ..
    · simp only [hth, Bool.false_eq_true, if_false]
      exact thr_setThr_self ..
    · simp only [hth, if_true]
      exact killThread_ending 0x7E t.pc t.pc (s := watchdogAgain s part lim) h
  · intro part lim hlim hclk
    exact ⟨_, exec_watchdogExpiry_early hlim hclk, rfl, (mem_sched ..).2 (.inl rfl)⟩

end Sys2Proof.Machine
end

section
/-! Errors found outside a demand access (10 R228, R229): a write-back whose page the translation cache does not hold reads the
page table first. An uncorrectable error of DRAM in the bucket of the page's entry poisons the entry's sector, the page no longer
translates, and the line stays dirty with no sector of it poisoned. -/

namespace Sys2Proof.Machine

/-- The walk's own reads lose the page: the line stays where it is. -/
theorem wbBad_of_page_lost {s : State} {key : Nat} (i : Nat) (bad : List Nat)
    (hlook : tlbLook s (clusterOf (l1Core key)) (l1Part key) (l1Addr key) = none)
    (hlost : translateAny (walkReads s (l1Part key) (l1Addr key)) (clusterOf (l1Core key)) (l1Part key) (l1Addr key) = none) :
    wbBad s key i bad = (.go (walkReads s (l1Part key) (l1Addr key)), 0) := by
  simp only [wbBad, hlook, Option.isNone_none, if_true, hlost]

theorem exec_dirtyLineUnowned_kept {s s1 : State} {core view p n : Nat} {line : Word} (hp : partOfCore s core = some p)
    (hwb : wbBad s (l1Key core p view (lineOf line.toNat)) 0 (((dirtyBytes s (l1Key core p view (lineOf line.toNat))).map
      (fun i => lineOf line.toNat / 32 + i / 32)).eraseDups) = (.go s1, n))
    (hdirty : (dirtyBytes s1 (l1Key core p view (lineOf line.toNat))).isEmpty = false) :
    exec (.dirtyLineUnowned core view line) s = .next s1 := by
  change execDirtyLineUnowned core view line s = _
  -- under a name of its own the write-back is not evaluated where two matches on it are compared
  obtain ⟨writeBack, hf⟩ : ∃ f, f = wbBad := ⟨_, rfl⟩
  rw [← hf] at hwb
  unfold execDirtyLineUnowned
  rw [← hf]
  clear hf
  split
  · next hnone => exact nomatch hp.symm.trans hnone
  · next q hq =>
    obtain rfl := Option.some.inj (hp.symm.trans hq)
    extract_lets va key
    split
    · next s2 _ hgo =>
      obtain rfl := TraceAct.go.inj (Prod.mk.inj (hwb.symm.trans hgo)).1
      rw [if_pos (Bool.or_eq_true_iff.2 (.inr (by rw [hdirty]; rfl)))]
    · next hnot => exact absurd hwb (hnot _ _)

/-- A dirty byte of core 0's L1D at 0x10040, whose page the page table of partition 0 maps to frame 2 by an entry at 0x97C0; the
entry's sector has an uncorrectable error in DRAM. -/
def unreadablePageEntry : State :=
  { State.reset with
    binding := [(0, 0xFFFFFFFFFFFF0000)], l1d := [(l1Key 0 0 0 0x10040, ⟨0xAB, true, 3, false⟩)],
    ctl := [(partBase 0 + 0x120, 10), (remapHdr 0, 1)], mem := [(0x97C0, 0x3D), (0x97C1, 1), (0x97C8, 2)],
    badEcc := [(eccKey 8 (channelOf 0x97C0) (0x97C0 / 32), true)] }

/-- The line of the dirty byte. -/
def unreadableKey : Nat := l1Key 0 0 0 0x10040

theorem unreadablePageEntry_translates :
    partOfCore unreadablePageEntry 0 = some 0 ∧ translateAny unreadablePageEntry 0 0 0x10040 = some 0x20040 ∧
      (unreadablePageEntry.l1d.get? unreadableKey).map (fun b => b.dirty) = some true := by decide +kernel

theorem unreadablePageEntry_lost :
    (tlbLook unreadablePageEntry (clusterOf (l1Core unreadableKey)) (l1Part unreadableKey) (l1Addr unreadableKey)).isNone ∧
      (translateAny (walkReads unreadablePageEntry (l1Part unreadableKey) (l1Addr unreadableKey)) (clusterOf (l1Core unreadableKey))
        (l1Part unreadableKey) (l1Addr unreadableKey)).isNone := by decide +kernel

/-- After the walk's reads the byte is still dirty, and its sector, of DRAM address 0x20040, is not poisoned. -/
theorem unreadablePageEntry_kept :
    (dirtyBytes (walkReads unreadablePageEntry (l1Part unreadableKey) (l1Addr unreadableKey)) unreadableKey).isEmpty = false ∧
      (walkReads unreadablePageEntry (l1Part unreadableKey) (l1Addr unreadableKey)).poison.get? (sectorKey 0 0 0x20040) = none := by
  decide +kernel

/-- Refutes O24: a dirty line that is found uncorrectable is not poisoned in DRAM when reading its page-table entry, for the
write-back, meets an uncorrectable error. -/
theorem not_errorEvents : ¬ Obligations.ErrorEvents := by
  rintro ⟨hall, -, -⟩
  obtain ⟨-, -, hline, -⟩ := hall unreadablePageEntry
  obtain ⟨hpart, hloc, hdirty⟩ := unreadablePageEntry_translates
  obtain ⟨hlook, hlost⟩ := unreadablePageEntry_lost
  obtain ⟨hkept, hpoison⟩ := unreadablePageEntry_kept
  have hwb (bad : List Nat) := wbBad_of_page_lost 0 bad (Option.isNone_iff_eq_none.1 hlook) (Option.isNone_iff_eq_none.1 hlost)
  obtain ⟨u, hu, hsectors⟩ := hline 0 0 0x10040 0 0x20040 _ 0 hpart (by decide) (by decide) hloc (hwb _) ⟨0, by decide, hdirty⟩
  have hnext := hu.symm.trans (exec_dirtyLineUnowned_kept hpart (hwb _) hkept)
  rw [Host.Outcome.next.inj hnext] at hsectors
  exact nomatch hpoison.symm.trans (hsectors 0 (by decide) ⟨0, rfl, by decide, hdirty⟩)

end Sys2Proof.Machine
end

section
/-! Bytes of loads and stores of one line (10 R215, R222, R223; 11 R245): what a read behind a port keeps even where it finds an
error or an injection is armed, the translation a load takes, and the bytes of the core's L1D after a store. -/

namespace Sys2Proof.Machine

/-! What reads behind a port keep, whatever errors they find. -/

/-- Threads, bytes, tags, the hint and L1D, without the error registers. -/
def dataView (s : State) : ReadView := { readView s with dspr := [], badEcc := [] }

theorem dataView_of_readView {s s1 : State} (h : readView s1 = readView s) : dataView s1 = dataView s :=
  congrArg (fun q => { q with dspr := [], badEcc := [] }) h

theorem dataView_of_l1d {s s1 : State} {m : Tab L1Byte} (h : readView s1 = { readView s with l1d := m }) :
    dataView s1 = { dataView s with l1d := m } :=
  congrArg (fun q => { q with dspr := [], badEcc := [] }) h

theorem dataView_foldl {α β : Type} (g : α → State) (f : α → β → α) (hf : ∀ a b, dataView (g (f a b)) = dataView (g a)) (l : List β)
    (a : α) : dataView (g (l.foldl f a)) = dataView (g a) :=
  foldl_keeps (fun x => dataView (g x)) f hf l a

theorem dataView_injectAt (s : State) (array inst line : Nat) (places : List Nat) :
    dataView (injectAt s array inst line places) = dataView s := by
  simp only [injectAt]
  split <;> rfl

theorem dataView_writeArray (s : State) (array inst a n : Nat) : dataView (writeArray s array inst a n) = dataView s :=
  dataView_injectAt ..

theorem findEcc_state {s s1 : State} {array inst q : Nat} {ue : Bool} (h : findEcc s array inst q = some (s1, ue)) :
    s1 = { s with badEcc := s.badEcc.del (eccKey array inst q) } := by
  obtain ⟨_, _, he⟩ := Option.map_eq_some_iff.1 h
  exact (Prod.mk.inj he).1.symm

theorem dataView_readSector (s : State) (who : Option Nat) (p u array inst q : Nat) :
    dataView (readSector s who p u array inst q).1 = dataView s := by
  unfold readSector
  split
  · rfl
  · next s1 ue hf =>
    rw [findEcc_state hf]
    dsimp only
    split <;> rfl

theorem dataView_readSectors (s : State) (who : Option Nat) (p u array inst : Nat) (qs : List Nat) :
    dataView (readSectors s who p u array inst qs).1 = dataView s := by
  unfold readSectors
  split
  · rfl
  · refine dataView_foldl Prod.fst _ (fun acc q => ?_) qs (s, ([] : List Nat))
    exact dataView_readSector acc.1 who p u array inst q

theorem dataView_postRaw (s : State) (p : Nat) (msg : List Byte) : dataView (postRaw s p msg) = dataView s := by
  rw [postRaw_frame]
  rfl

theorem dataView_l2Evict (s : State) (e : L2Way) : dataView (l2Evict s e) = dataView s := by
  unfold l2Evict
  extract_lets loc u p keys s0 r src s1 s2 s3
  have hr : dataView r.1 = dataView s := (dataView_readSectors s0 _ _ _ _ _ _).trans rfl
  have h2 : dataView s2 = dataView s := by
    simp only [s2]
    split
    · exact hr
    · exact (dataView_postRaw s1 _ _).trans hr
  split
  · split
    · exact (dataView_writeArray _ _ _ _ _).trans ((dataView_of_readView (readView_crcCheck s2 loc)).trans h2)
    · exact h2
  · split <;> rfl

theorem dataView_l2Use (s : State) (p u loc : Nat) (dirty keep : Bool) : dataView (l2Use s p u loc dirty keep).1 = dataView s := by
  unfold l2Use
  dsimp only
  split
  · rfl
  · split
    · rfl
    · exact (dataView_l2Evict _ _).trans rfl

theorem dataView_l2Fill (s : State) (who : Option Nat) (p u loc : Nat) (qs : List Nat) :
    dataView (l2Fill s who p u loc qs).1 = dataView s := by
  refine (dataView_readSectors _ _ _ _ _ _ _).trans ?_
  split <;> rfl

theorem dataView_l2Read (s : State) (who : Option Nat) (cl p v loc n : Nat) (keep : Bool) :
    dataView (l2Read s who cl p v loc n keep).s = dataView s := by
  unfold l2Read
  extract_lets chain u r f e lat c
  have hr : dataView r.1 = dataView s := dataView_l2Use ..
  have hf : dataView f.1 = dataView s := by
    simp only [f]
    split
    · exact hr
    · exact (dataView_l2Fill ..).trans hr
  have he : dataView e.1 = dataView s := (dataView_readSectors ..).trans hf
  have hc : dataView c.1 = dataView s := by
    simp only [c]
    split
    · exact he
    · exact (dataView_of_readView (readView_crcCheck _ _)).trans he
  show dataView (if 16 ≤ cl then _ else c.1) = dataView s
  split <;> exact hc

theorem dataView_memRead (s : State) (who : Option Nat) (cl p v loc n : Nat) (far : Bool) :
    dataView (memRead s who cl p v loc n far).s = dataView s := by
  unfold memRead
  split
  · exact dataView_l2Read ..
  · extract_lets e c
    have he : dataView e.1 = dataView s := by
      simp only [e]
      split <;> exact dataView_readSectors ..
    show dataView c.1 = dataView s
    simp only [c]
    split
    · exact (dataView_of_readView (readView_crcCheck _ _)).trans he
    · exact he

/-- A line is read with its data as it stands: of DRAM, where no error of a view tag waits to be found. -/
theorem dataView_demandLine {s : State} {who core : Option Nat} {cl fig p v va loc n : Nat} {r : State × Nat}
    (h : loc < dramTop → s.badEcc = []) (hd : demandLine s who core cl fig p v va loc n = .ok r) : dataView r.1 = dataView s := by
  have ht : (if loc < dramTop then tagErrorL2 s who p v loc else s) = s := by
    split
    · next hl => simp only [tagErrorL2, h hl, List.isEmpty_nil, if_true]
    · rfl
  simp only [demandLine, ht] at hd
  split at hd
  · cases hd
  · split at hd
    · cases hd
    · split at hd
      · cases hd
      · cases hd
        exact dataView_memRead ..

/-! An access within one line. -/

theorem cut_of_line {a n : Nat} (hn : 0 < n) (hl : a % 64 + n ≤ 64) : cut a n = [(a, n)] := by
  rw [cut, show n / 64 + 2 = n / 64 + 1 + 1 by omega, pieces_succ _ a n (by omega), Nat.min_eq_left (by omega), Nat.sub_self,
    pieces_zero]

/-- A demand read within one line keeps the data. -/
theorem dataView_demandRange_of_line {s s1 : State} {who core : Option Nat} {cl fig p v va loc n lat : Nat} (hn : 0 < n)
    (hl : va % 64 + n ≤ 64) (h : loc < dramTop → s.badEcc = []) (hd : demandRange s who core cl fig p v va loc n = .ok (s1, lat)) :
    dataView s1 = dataView s := by
  simp only [demandRange, cut_of_line hn hl, List.foldl_cons, List.foldl_nil, Nat.add_sub_cancel] at hd
  cases hr : demandLine s who core cl fig p v va loc n with
  | error e => rw [hr] at hd; cases hd
  | ok r =>
    rw [hr] at hd
    cases hd
    exact dataView_demandLine h hr

/-! The translation of an access whose port has no walks. -/

theorem readView_newWalk_of_noError {s : State} (h : s.badEcc = []) (port p v : Nat) :
    readView (newWalk s port p v).2.2 = readView s := by
  have hb : readView (if p < 16 then perfBump s p 5 else s) = readView s := by split <;> rfl
  show readView (walkReads (if p < 16 then perfBump s p 5 else s) p v) = readView s
  rw [walkReads, show (if p < 16 then perfBump s p 5 else s).badEcc = [] from (congrArg ReadView.badEcc hb).trans h]
  exact hb

theorem readView_lookUp_of_noError {s : State} (h : s.badEcc = []) (port p v : Nat) :
    readView (lookUp s port p v).2.2 = readView s := by
  have h0 := readView_tlbNow s port
  unfold lookUp
  dsimp only
  split
  · exact h0
  · split
    · exact h0
    · exact (readView_newWalk_of_noError ((congrArg ReadView.badEcc h0).trans h) _ _ _).trans h0

theorem readView_translate_of_noError {s s1 : State} {port p v kind loc w : Nat} (h : s.badEcc = [])
    (ht : translate s port p v kind = .ok (loc, w, s1)) : readView s1 = readView s := by
  unfold translate at ht
  split at ht
  · split at ht
    · cases ht; rfl
    · cases ht
  · rw [granted_state ht, readView_lookUp_of_noError h]

theorem walk_perfBump (s : State) (p e q v : Nat) : walk (perfBump s p e) q v = walk s q v := rfl

/-- A walk that finds no error on its way finds what the page table holds. -/
theorem newWalk_entry {s : State} (h : s.badEcc = []) (port p v : Nat) : (newWalk s port p v).1 = walk s p v := by
  have hb (q : Nat) : walkReads (perfBump s q 5) p v = perfBump s q 5 := by
    rw [walkReads, show (perfBump s q 5).badEcc = [] from h]
    rfl
  have hs : walkReads s p v = s := by
    rw [walkReads, h]
    rfl
  show walk (walkReads (if p < 16 then perfBump s p 5 else s) p v) p v = walk s p v
  split
  · rw [hb, walk_perfBump]
  · rw [hs]

theorem granted_loc {v kind loc w : Nat} {s1 : State} {q : Option TlbEntry × Nat × State} (h : granted v kind q = .ok (loc, w, s1)) :
    ∃ e, q.1 = some e ∧ loc = physAddr e v := by
  unfold granted at h
  split at h
  · cases h
  · next e c s2 =>
    split at h
    · cases h
      exact ⟨e, rfl, rfl⟩
    · cases h

section
variable {s : State} {port : Nat} (hw : s.walks.getD port [] = [])
include hw

theorem tlbNow_of_no_walks : tlbNow s port = s := by simp only [tlbNow, hw, List.filter_nil]

theorem walkJoined_of_no_walks (p v : Nat) : walkJoined s port p v = none := by
  simp only [walkJoined, walksAt, hw, List.filter_nil, List.reverse_nil, List.find?_nil]

theorem tlbLook_of_no_walks (p v : Nat) : tlbLook s port p v = tlbFind s port p v := by
  simp only [tlbLook, hw, List.reverse_nil, List.find?_nil, Option.bind_none, Option.none_or]

theorem lookUp_entry_of_no_walks (h : s.badEcc = []) (p v : Nat) :
    (lookUp s port p v).1 = (tlbFind s port p v).or (walk s p v) := by
  simp only [lookUp, tlbNow_of_no_walks hw, walkJoined_of_no_walks hw]
  split
  · next e he => rw [he]; rfl
  · next hn => rw [hn, newWalk_entry h]; rfl

theorem translateAny_of_no_walks (p v : Nat) :
    translateAny s port p v =
      if hostFlat s p then some v else ((tlbFind s port p v).or (walk s p v)).map (fun e => physAddr e v) := by
  rw [translateAny, tlbLook_of_no_walks hw]
  cases tlbFind s port p v <;> rfl

/-- An access that is granted goes where translation without rights goes. -/
theorem translate_loc_of_no_walks {p v kind loc w : Nat} {s1 : State} (h : s.badEcc = [])
    (ht : translate s port p v kind = .ok (loc, w, s1)) : translateAny s port p v = some loc := by
  rw [translateAny_of_no_walks hw, ← lookUp_entry_of_no_walks hw h]
  unfold translate at ht
  split at ht
  · next hflat =>
    rw [if_pos hflat]
    split at ht
    · cases ht
      rfl
    · cases ht
  · next hflat =>
    obtain ⟨e, he, hloc⟩ := granted_loc ht
    rw [if_neg hflat, he, hloc]
    rfl

end

/-! Loads. -/

/-- A byte in the root view: of the core's L1D, else of memory. -/
theorem coreByte_root (s : State) (c p va loc : Nat) :
    coreByte s c p 0 va loc = ((s.l1d.get? (l1Key c p 0 va)).map (fun b => b.val)).getD (rdMem s loc) := by
  show coreByteGo s c p va loc [0] = _
  rw [coreByteGo]
  cases s.l1d.get? (l1Key c p 0 va) <;> rfl

theorem coreByte_root_of_dataView {s s1 : State} (h : dataView s1 = dataView s) (c p va loc : Nat) :
    coreByte s1 c p 0 va loc = coreByte s c p 0 va loc := by
  have hl : s1.l1d = s.l1d := congrArg ReadView.l1d h
  have hm : s1.mem = s.mem := congrArg ReadView.mem h
  rw [coreByte_root, coreByte_root, hl, rdMem, hm]
  rfl

/-- In the root view a line is found where all the bytes asked for are present. -/
theorem l1Find_root (s : State) (c p va n : Nat) :
    l1Find s c p va n (viewChain s p 0) 0 = if l1Hit s c p 0 va n then some (0, 0) else none := by
  show l1Find s c p va n [0] 0 = _
  simp only [l1Find, beq_self_eq_true, Bool.true_or, ite_self]

theorem l1Miss_bytes {s : State} {k c p va n kind size loc : Nat} {g : Got} (h : s.badEcc = [])
    (hw : s.walks.getD (clusterOf c) [] = []) (hn : 0 < n) (hl : va % 64 + n ≤ 64)
    (hloc : translateAny s (clusterOf c) p va = some loc) (hg : l1Miss s k c p 0 va n kind size = .ok g) :
    g.bytes = (upFrom 0 n).map (fun i => coreByte s c p 0 (va + i) (loc + i)) := by
  unfold l1Miss at hg
  split at hg
  · cases hg
  · next loc' w s1 ht =>
    obtain rfl := Option.some.inj ((translate_loc_of_no_walks hw h ht).symm.trans hloc)
    have h1 := readView_translate_of_noError h ht
    split at hg
    · cases hg
    · next s2 lat hd =>
      have h2 := (dataView_demandRange_of_line hn hl (fun _ => (congrArg ReadView.badEcc h1).trans h) hd).trans (dataView_of_readView h1)
      cases hg
      exact List.map_congr_left fun i _ => coreByte_root_of_dataView h2 ..

theorem l1Ecc_of_noError {s : State} (h : s.badEcc = []) (k c p v va n : Nat) : l1Ecc s k c p v va n = (s, .none) := by
  have hf (q : Nat) : findEcc s 2 c q = none := by rw [findEcc, h]; rfl
  have hn : (sectorsOf va n).findSome? (fun q => (findEcc s 2 c q).map (fun r => (q, r))) = none := by simp [hf]
  rw [l1Ecc, hn]

/-- The bytes of a hit are those the core sees: all of them lie in its L1D. -/
theorem l1Hit_bytes {s : State} {c p va n : Nat} (loc : Nat) (h : l1Hit s c p 0 va n = true) :
    (upFrom va n).map (fun a => ((s.l1d.get? (l1Key c p 0 a)).map (fun b => b.val)).getD 0) =
      (upFrom 0 n).map (fun i => coreByte s c p 0 (va + i) (loc + i)) := by
  refine List.ext_getElem? fun i => ?_
  simp only [List.getElem?_map, upFrom_getElem?, Nat.zero_add]
  split
  · next hi =>
    have hsome := List.all_eq_true.1 h (va + i) ((mem_upFrom ..).2 ⟨by omega, by omega⟩)
    obtain ⟨b, hb⟩ := Option.isSome_iff_exists.1 hsome
    simp only [Option.map_some, coreByte_root, hb, Option.getD_some]
  · rfl

theorem dramLoad_bytes {s : State} {k : Nat} {t : Thread} {va n kind size loc : Nat} {g : Got} (hk : isHostKey k = false)
    (h : s.badEcc = []) (hw : s.walks.getD (clusterOf (coreOf k)) [] = []) (hn : 0 < n) (hl : va % 64 + n ≤ 64)
    (hloc : translateAny s (clusterOf (coreOf k)) (partOf t) va = some loc) (hg : dramLoad s k t 0 va n kind size = .ok g) :
    g.bytes = (upFrom 0 n).map (fun i => coreByte s (coreOf k) (partOf t) 0 (va + i) (loc + i)) := by
  have htag : tagErrorL1 s k (coreOf k) (partOf t) va = s := by simp only [tagErrorL1, h, List.isEmpty_nil, if_true]
  simp only [dramLoad, hk, Bool.false_eq_true, if_false, htag, l1Find_root] at hg
  by_cases hhit : l1Hit s (coreOf k) (partOf t) 0 va n = true
  · simp only [hhit, if_true, l1Ecc_of_noError h] at hg
    split at hg
    · cases hg
    · cases hg
      exact l1Hit_bytes loc hhit
  · simp only [hhit] at hg
    exact l1Miss_bytes h hw hn hl hloc hg

/-- A place in a core's window is none of DRAM. -/
theorem place_scratch {s : State} {t : Thread} {ptr : Word} {kind a n c loc : Nat}
    (h : place s t ptr kind a n = .ok (.scratch c loc)) : 0x8000000000000 ≤ a ∧ dramTop ≤ loc := by
  have hloc (o : Nat) : dramTop ≤ scratchLoc s ((a - 0x8000000000000) / 2 ^ 32) o := by
    simp only [dramTop, scratchLoc]
    omega
  unfold place at h
  dsimp only at h
  repeat' split at h
  all_goals cases h
  all_goals exact ⟨by omega, hloc _⟩

theorem loadPtr_scratch_bytes {s : State} {k : Nat} {t : Thread} {ptr : Word} {n a c loc : Nat} {need : Rights} {g : Got} (hn : 0 < n)
    (hl : a % 64 + n ≤ 64) (ha : ea t ptr n need = .ok a) (hp : place s t ptr 0 a n = .ok (.scratch c loc))
    (hg : loadPtr s k t ptr n need = .ok g) : g.bytes = (upFrom loc n).map (rdMem s) := by
  obtain ⟨hwin, hdram⟩ := place_scratch hp
  have hcross : crossing s a n = none := if_neg fun h => absurd h.1 (Nat.not_lt.2 hwin)
  simp only [loadPtr, ha, loadRange, loadElemsRange, hcross, cut_of_line hn hl, loadParts, loadPiece, hp] at hg
  split at hg
  · cases hg
  · next g1 h1 =>
    cases hg
    split at h1
    · cases h1
    · next s1 lat hd =>
      cases h1
      have hs := (dataView_demandRange_of_line hn hl (fun h => absurd h (Nat.not_lt.2 hdram)) hd).trans
        (dataView_of_readView (readView_windowWake s c))
      have hm : s1.mem = s.mem := congrArg ReadView.mem hs
      simp only [List.append_nil]
      refine List.map_congr_left fun x _ => ?_
      rw [rdMem, hm]
      rfl

/-! The bytes a store puts into L1D. -/

/-- Only L1D, and its sectors' poison, take the bytes. -/
theorem readView_l1Bytes (s : State) (c p v ctx : Nat) (covers : List Nat) (va : Nat) (bs : List Byte) :
    readView (l1Bytes s c p v ctx covers va bs) = { readView s with l1d := (l1Bytes s c p v ctx covers va bs).l1d } := by
  induction bs generalizing s va with
  | nil => rfl
  | cons b r ih => exact ih ..

theorem readView_l1Write (s : State) (c p v va ctx : Nat) (bs : List Byte) :
    readView (l1Write s c p v va ctx bs) = { readView s with l1d := (l1Write s c p v va ctx bs).l1d } :=
  congrArg (fun q => { q with l1d := (l1Write s c p v va ctx bs).l1d }) (readView_l1Bytes s c p v ctx (sectorsIn va bs.length) va bs)

/-- The value of a byte of L1D, whatever it is marked with. -/
def l1Val (m : Tab L1Byte) (key : Nat) : Option Byte := (m.get? key).map (fun b => b.val)

theorem l1Val_put_self (m : Tab L1Byte) (key : Nat) (b : L1Byte) : l1Val (m.put key b) key = some b.val := by
  rw [l1Val, Tab.get?_put_self]
  rfl

theorem l1Val_put_ne (m : Tab L1Byte) {key x : Nat} (b : L1Byte) (h : key ≠ x) : l1Val (m.put key b) x = l1Val m x := by
  rw [l1Val, Tab.get?_put_ne _ _ _ _ h]
  rfl

theorem l1Bytes_val_out (s : State) (c p v ctx : Nat) (covers : List Nat) (va : Nat) (bs : List Byte) {x : Nat}
    (hx : x < va ∨ va + bs.length ≤ x) :
    l1Val (l1Bytes s c p v ctx covers va bs).l1d (l1Key c p v x) = l1Val s.l1d (l1Key c p v x) := by
  induction bs generalizing s va with
  | nil => rfl
  | cons b r ih =>
    rw [List.length_cons] at hx
    have hne : l1Key c p v va ≠ l1Key c p v x := by simp only [l1Key]; omega
    rw [l1Bytes, ih _ _ (by omega)]
    exact l1Val_put_ne s.l1d _ hne

theorem l1Bytes_val_in (s : State) (c p v ctx : Nat) (covers : List Nat) (va : Nat) (bs : List Byte) {i : Nat} {b : Byte}
    (h : bs[i]? = some b) : l1Val (l1Bytes s c p v ctx covers va bs).l1d (l1Key c p v (va + i)) = some b := by
  induction bs generalizing s va i with
  | nil => simp at h
  | cons b' r ih =>
    rw [l1Bytes]
    cases i with
    | zero =>
      obtain rfl : b' = b := by simpa using h
      rw [l1Bytes_val_out _ _ _ _ _ _ _ _ (.inl (by omega))]
      exact l1Val_put_self s.l1d _ _
    | succ j =>
      rw [show va + (j + 1) = va + 1 + j by omega]
      exact ih _ _ (by simpa using h)

/-- A new last writer changes no value. -/
theorem l1Val_writers (ctx : Nat) (l : List Nat) (m : Tab L1Byte) (key : Nat) :
    l1Val (l.foldl (fun m a => m.modify a (fun b => { b with writer := ctx })) m) key = l1Val m key := by
  refine foldl_keeps (fun m : Tab L1Byte => l1Val m key) _ (fun m a => ?_) l m
  simp only [l1Val, Tab.get?_modify]
  split
  · rw [Option.map_map]
    rfl
  · rfl

theorem l1Write_l1d (s : State) (c p v va ctx : Nat) (bs : List Byte) :
    (l1Write s c p v va ctx bs).l1d = (upFrom (l1Key c p v (lineOf va)) 64).foldl
      (fun m a => m.modify a (fun b => { b with writer := ctx })) (l1Bytes s c p v ctx (sectorsIn va bs.length) va bs).l1d := by
  simp only [l1Write]

theorem l1Write_val_out (s : State) (c p v va ctx : Nat) (bs : List Byte) {x : Nat} (hx : x < va ∨ va + bs.length ≤ x) :
    l1Val (l1Write s c p v va ctx bs).l1d (l1Key c p v x) = l1Val s.l1d (l1Key c p v x) := by
  rw [l1Write_l1d, l1Val_writers, l1Bytes_val_out _ _ _ _ _ _ _ _ hx]

theorem l1Write_val_in (s : State) (c p v va ctx : Nat) (bs : List Byte) {i : Nat} {b : Byte} (h : bs[i]? = some b) :
    l1Val (l1Write s c p v va ctx bs).l1d (l1Key c p v (va + i)) = some b := by
  rw [l1Write_l1d, l1Val_writers, l1Bytes_val_in _ _ _ _ _ _ _ _ h]

/-! A store to a line whose set has room. -/

theorem partOf_lt_sixteen {t : Thread} (h : t.host = false) : partOf t < 16 := by
  simp only [partOf, h, Bool.false_eq_true, if_false]
  exact bits_lt ..

theorem l1Core_l1Key {c p a : Nat} (hp : p < 16) (ha : a < 2 ^ 52) : l1Core (l1Key c p 0 a) = c := by
  simp only [l1Core, l1Key]
  omega

/-- A line used in a set where fewer than ten other lines stand makes none leave. -/
theorem l1Use_of_others {s : State} {key : Nat} (keep : Bool)
    (h : ((s.l1dSets.getD (l1Set (l1Core key) (l1Addr key)) []).filter (fun e => e.line != key)).length < 10) :
    ∃ ways, l1Use s key keep = { s with l1dSets := s.l1dSets.put (l1Set (l1Core key) (l1Addr key)) ways } := by
  have hl : ((l1Ways s (l1Core key) (l1Addr key)).filter (fun e => e.line != key)).length < 10 := by
    rw [l1Ways, List.filter_comm]
    exact Nat.lt_of_le_of_lt (List.length_filter_le _ _) h
  simp only [l1Use, hl, if_true]
  exact ⟨_, rfl⟩

theorem dataView_l1dSets (s : State) (sets : Tab (List L1Way)) :
    dataView { s with l1dSets := sets } = { dataView s with l1dSets := sets } := rfl

/-- The state after a store of a line, but for L1D's sets and the error registers: the bytes stand in L1D. -/
theorem dataView_l1Store {s : State} {c p va : Nat} (k : Nat) (bs : List Byte) (hp : p < 16) (hva : va < 2 ^ 52) (hh : s.hint < 2)
    (hset : ((s.l1dSets.getD (l1Set c va) []).filter (fun e => e.line != l1Key c p 0 (lineOf va))).length < 10) :
    ∃ sets, dataView (l1Store s k c p 0 va bs) =
      { dataView s with l1d := (l1Write s c p 0 va (ctxOf k) bs).l1d, l1dSets := sets } := by
  have hline : lineOf va < 2 ^ 52 := by simp only [lineOf]; omega
  have hsame : l1Set c (lineOf va) = l1Set c va := by simp only [l1Set, lineOf]; omega
  have hwrote : ∀ a, dataView (injectAt (writeArray (l1Write s c p 0 va (ctxOf k) bs) 2 c va bs.length) 7 (16 + c) a [a]) =
      { dataView s with l1d := (l1Write s c p 0 va (ctxOf k) bs).l1d } := fun a =>
    (dataView_injectAt ..).trans ((dataView_writeArray ..).trans
      (dataView_of_l1d (readView_l1Write s c p 0 va (ctxOf k) bs)))
  unfold l1Store
  extract_lets s1 s2
  have h1 := hwrote (va / 64)
  have hs2 : s2 = l1Use s1 (l1Key c p 0 (lineOf va)) (s1.hint == 1) := rfl
  clear_value s2
  change dataView s1 = _ at h1
  clear_value s1
  generalize (l1Write s c p 0 va (ctxOf k) bs).l1d = m at h1 ⊢
  obtain ⟨ways, hu⟩ := l1Use_of_others (s := s1) (key := l1Key c p 0 (lineOf va)) (s1.hint == 1) (by
    rw [l1Core_l1Key hp hline, l1Addr_l1Key c p 0 hline, show s1.l1dSets = s.l1dSets from congrArg ReadView.l1dSets h1, hsame]
    exact hset)
  rw [hu] at hs2
  have hhint : s2.hint < 2 := by
    rw [hs2]
    exact lt_of_eq_of_lt (congrArg ReadView.hint h1) hh
  rw [if_neg (by omega), afterHint_of_lt_two hhint, hs2, dataView_l1dSets, h1]
  exact ⟨_, rfl⟩

/-- What a store of a line leaves: the bytes in the core's L1D, all else that is read as it was. -/
structure LineStored (s s1 : State) (c p va : Nat) (bs : List Byte) : Prop where
  written : ∀ i b, bs[i]? = some b → l1Val s1.l1d (l1Key c p 0 (va + i)) = some b
  others  : ∀ x, x < va ∨ va + bs.length ≤ x → l1Val s1.l1d (l1Key c p 0 x) = l1Val s.l1d (l1Key c p 0 x)
  mem     : s1.mem = s.mem
  vmem    : s1.vmem = s.vmem
  tags    : s1.tags = s.tags
  threads : s1.threads = s.threads

theorem lineStored_of_dataView {s s0 s1 : State} {c p va ctx : Nat} {bs : List Byte} {sets : Tab (List L1Way)}
    (h0 : dataView s0 = dataView s)
    (h : dataView s1 = { dataView s0 with l1d := (l1Write s0 c p 0 va ctx bs).l1d, l1dSets := sets }) : LineStored s s1 c p va bs := by
  obtain ⟨m, hm⟩ : ∃ m, m = (l1Write s0 c p 0 va ctx bs).l1d := ⟨_, rfl⟩
  rw [← hm] at h
  have hl : s1.l1d = m := congrArg ReadView.l1d h
  have hl0 : s0.l1d = s.l1d := congrArg ReadView.l1d h0
  refine ⟨fun i b hb => ?_, fun x hx => ?_, (congrArg ReadView.mem h).trans (congrArg ReadView.mem h0),
    (congrArg ReadView.vmem h).trans (congrArg ReadView.vmem h0), (congrArg ReadView.tags h).trans (congrArg ReadView.tags h0),
    (congrArg ReadView.threads h).trans (congrArg ReadView.threads h0)⟩
  · rw [hl, hm, l1Write_val_in s0 c p 0 va ctx bs hb]
  · rw [hl, hm, l1Write_val_out s0 c p 0 va ctx bs hx, hl0]

theorem makeVersion_root (s : State) (c : Option Nat) (p va loc : Nat) : makeVersion s c p 0 va loc = s := by
  simp only [makeVersion, true_or, if_true]

theorem dramStore_stored {s : State} {k : Nat} {t : Thread} {va size : Nat} {bs : List Byte} {g : Put} (hk : isHostKey k = false)
    (hhost : t.host = false) (h : s.badEcc = []) (hva : va < 2 ^ 52) (hh : s.hint < 2)
    (hset : ((s.l1dSets.getD (l1Set (coreOf k) va) []).filter
      (fun e => e.line != l1Key (coreOf k) (partOf t) 0 (lineOf va))).length < 10)
    (hg : dramStore s k t 0 va size bs = .ok g) : LineStored s g.s (coreOf k) (partOf t) va bs := by
  have hp := partOf_lt_sixteen hhost
  simp only [dramStore, hk, Bool.false_eq_true, if_false, makeVersion_root] at hg
  split at hg
  · cases hg
    obtain ⟨_, hs⟩ := dataView_l1Store k bs hp hva hh hset
    exact lineStored_of_dataView rfl hs
  · split at hg
    · cases hg
    · next loc w s1 ht =>
      have h1 := readView_translate_of_noError h ht
      split at hg
      · cases hg
      · cases hg
        have hh1 : s1.hint < 2 := lt_of_eq_of_lt (congrArg ReadView.hint h1) hh
        rw [← show s1.l1dSets = s.l1dSets from congrArg ReadView.l1dSets h1] at hset
        obtain ⟨_, hs⟩ := dataView_l1Store k bs hp hva hh1 hset
        exact lineStored_of_dataView (dataView_of_readView h1) hs

/-- Settles O54: the bytes of a hit, of a miss and of a scratchpad, and the core's L1D after a store. -/
theorem dramAccess : Obligations.DramAccess := by
  refine ⟨fun s k t => ⟨fun va n kind size loc g hk _ h hw hn hl hloc hg => dramLoad_bytes hk h hw hn hl hloc hg,
    fun ptr n need a c loc g hn hl ha hp hg => loadPtr_scratch_bytes hn hl ha hp hg⟩,
    fun s k t va size bs g hk hhost h _ _ hva hh hset hg => ?_⟩
  obtain ⟨hin, hout, hmem, hvmem, htags, hthreads⟩ := dramStore_stored hk hhost h (by omega) hh hset hg
  refine ⟨fun i b loc hb => ?_, fun x loc _ hx => ?_, hmem, hvmem, htags, hthreads⟩
  · rw [coreByte_root, ← l1Val.eq_def, hin i b hb]
    rfl
  · rw [coreByte_root, coreByte_root, ← l1Val.eq_def, ← l1Val.eq_def, hout x hx, rdMem, hmem]
    rfl

end Sys2Proof.Machine
end

section
/-! Full/empty words (11 R250, R259, R263; 12 R276): what emptying and filling a word of the root view changes, and what ldfe, stfe
and fechk do with the word they find. -/

namespace Sys2Proof.Machine

/-! One word of the root view. -/

/-- The root's tags are those of memory. -/
theorem tagOf_root (s : State) (p loc : Nat) : tagOf s p 0 loc = s.tags.getD (loc / 8) false := rfl

theorem wrVersionBytes_root (s : State) (p a : Nat) (bs : List Byte) : wrVersionBytes s p 0 a bs = wrMemBytes s a bs := by
  induction bs generalizing s a with
  | nil => rfl
  | cons b r ih => exact ih _ _

theorem tags_wrMemBytes (s : State) (a : Nat) (bs : List Byte) : (wrMemBytes s a bs).tags = s.tags := by rw [wrMemBytes_frame]

theorem setTag_root (s : State) (p va loc : Nat) (full : Bool) :
    setTag s p 0 va loc full = { s with tags := s.tags.putD (loc / 8) false full } := by
  simp only [setTag, makeVersion_root, if_true]

theorem dataView_clearPoison (s : State) (p v loc n : Nat) : dataView (clearPoison s p v loc n) = dataView s :=
  foldl_keeps dataView _ (fun _ _ => by split <;> rfl) _ s

/-- What a write does behind its port, beside the bytes: nothing that is read. -/
theorem dataView_portWrote (s : State) (p v loc n : Nat) : dataView (portWrote s p v loc n) = dataView s := by
  unfold portWrote
  extract_lets s1 r s2
  have h1 : dataView s1 = dataView s := dataView_clearPoison ..
  have hr : dataView r.1 = dataView s := (dataView_l2Use ..).trans h1
  have h2 : dataView s2 = dataView s := by
    unfold s2
    split
    · exact hr
    · exact (dataView_l2Fill ..).trans hr
  clear_value s1 r s2
  split
  · exact (dataView_injectAt ..).trans ((dataView_writeArray ..).trans h2)
  · split <;> exact (dataView_writeArray ..).trans h1

theorem feTake_root (s : State) (p loc : Nat) :
    feTake s p 0 loc = ({ s with tags := s.tags.putD (loc / 8) false false }, BitVec.ofNat 64 (rdMemN s loc 8)) := by
  rw [feTake, setTag_root]
  rfl

/-- Filling a word of the root view sets its tag and writes its eight bytes. -/
theorem dataView_feFill_root (s : State) (p loc : Nat) (x : Word) :
    dataView (feFill s p 0 loc x) = dataView (wrMemN { s with tags := s.tags.putD (loc / 8) false true } loc 8 x.toNat) := by
  rw [feFill, dataView_portWrote, wrVersionBytes_root, setTag_root]
  rfl

theorem tags_feFill_root (s : State) (p loc : Nat) (x : Word) :
    (feFill s p 0 loc x).tags = s.tags.putD (loc / 8) false true :=
  (congrArg ReadView.tags (dataView_feFill_root s p loc x)).trans (tags_wrMemBytes ..)

theorem rdMem_feFill_root (s : State) (p loc : Nat) (x : Word) (a : Nat) :
    rdMem (feFill s p 0 loc x) a = rdMem (wrMemN { s with tags := s.tags.putD (loc / 8) false true } loc 8 x.toNat) a :=
  congrArg (fun v => v.mem.getD a 0) (dataView_feFill_root s p loc x)

/-- The bytes of the word are those of the value. -/
theorem rdMemN_feFill_root (s : State) (p loc : Nat) (x : Word) : rdMemN (feFill s p 0 loc x) loc 8 = x.toNat := by
  rw [rdMemN, funext (rdMem_feFill_root s p loc x)]
  exact (rdMemN_wrMemN_same _ loc 8 x.toNat).trans (Nat.mod_eq_of_lt x.isLt)

theorem rdMem_feFill_root_out (s : State) (p : Nat) {loc a : Nat} (x : Word) (h : a < loc ∨ loc + 8 ≤ a) :
    rdMem (feFill s p 0 loc x) a = rdMem s a := by
  rw [rdMem_feFill_root, wrMemN, rdMem_wrMemBytes_out _ _ _ _ (by rwa [toBytes_length])]
  rfl

/-! The instructions. -/

/-- An effect goes on with the word that its port found. -/
theorem withWord_ok {s : State} {r : PortRes} {w : PortWord} {act : PortWord → Act} (h : r = .ok w) : withWord s r act = act w := by
  rw [h]
  rfl

/-- The release actions that stand before stfe's effect: none once it has waited for them. -/
def stfeRelease (s : State) (k : Nat) (t : Thread) : WbRes :=
  if (waitMark t).any (fun w => w.kind == .release) then .done s s.clk else releaseAt s k t 3

theorem stfeRelease_done {s s1 : State} {k at_ : Nat} {t : Thread}
    (h : if (waitMark t).any (fun w => w.kind == .release) then s1 = s ∧ at_ = s.clk else releaseAt s k t 3 = .done s1 at_) :
    stfeRelease s k t = .done s1 at_ := by
  unfold stfeRelease
  split at h
  · next hd => rw [if_pos hd, h.1, h.2]
  · next hd => rw [if_neg hd, h]

section
variable {f : MForm} {s s1 : State} {k a at_ : Nat} {t : Thread} {w : PortWord}

theorem ldfe_takes (hi : issues (.ldfe f) s k t = true) (hw : feWord s k t (ptrM s t f 8) needFe = .ok w)
    (htag : tagOf w.s (partOf t) w.view w.loc = true) :
    let took := feTake w.s (partOf t) w.view w.loc
    let acquired := acquireAt took.1 k t 3
    Does (.ldfe f) s k t (serveFeAll (holdUntil (putScored acquired.1 k (acquired.1.clk + w.lat) [(f.d.toNat, took.2)] []) k
      (if t.host then s.clk else s.clk + w.lat + acquired.2)) w.loc) :=
  does_of_next rfl hi ((withWord_ok hw).trans (if_pos htag))

theorem ldfe_waits (hi : issues (.ldfe f) s k t = true) (hw : feWord s k t (ptrM s t f 8) needFe = .ok w)
    (htag : tagOf w.s (partOf t) w.view w.loc = false) :
    ∃ r, r.kind = .feLoad ∧ r.cause = 0x33 ∧ exec (.ldfe f) s = .next (tick (enterWait w.s k (wordsOf (.ldfe f)) r)) :=
  ⟨_, rfl, rfl, waits_of_wait rfl hi ((withWord_ok hw).trans (if_neg (Bool.eq_false_iff.mp htag)))⟩

theorem fechk_looks (hi : issues (.fechk f) s k t = true) (hw : feWord s k t (ptrM s t f 8) needFeRead = .ok w) :
    Does (.fechk f) s k t (putScored w.s k (s.clk + w.lat) [(f.d.toNat, if tagOf w.s (partOf t) w.view w.loc then 1 else 0),
      ((tailC f.t).toNat, BitVec.ofNat 64 (wordAt w (partOf t) 8))] []) :=
  does_of_next rfl hi (withWord_ok hw)

section
variable (hi : issues (.stfe f) s k t = true) (hea : ea t (ptrM s t f 8) 8 needFe = .ok a) (hr : stfeRelease s k t = .done s1 at_)
include hi hea hr

theorem stfe_waits_for_release (hlate : s.clk < at_) :
    exec (.stfe f) s = .next (tick (enterWait s1 k (wordsOf (.stfe f)) { kind := .release, key := at_ })) := by
  unfold stfeRelease at hr
  refine waits_of_wait rfl hi ?_
  simp only [hea, hr, wbAct, hlate, if_true]

theorem stfe_fills (hnow : at_ ≤ s.clk) (hw : feWord s1 k t (ptrM s t f 8) needFe = .ok w)
    (htag : tagOf w.s (partOf t) w.view w.loc = false) :
    let g : Put := ⟨feFill w.s (partOf t) w.view w.loc (readG s t f.d.toNat), w.lat, false⟩
    Does (.stfe f) s k t (serveFeAll (noteStore g.s k g) w.loc) := by
  unfold stfeRelease at hr
  refine does_of_next rfl hi ?_
  simp only [hea, hr, wbAct, Nat.not_lt.mpr hnow, withWord_ok hw, htag, Bool.false_eq_true, if_false]

end

end

/-- Settles O20: each instruction by the word it finds, and the tag and the bytes of a word of the root view. -/
theorem fullEmptyWords : Obligations.FullEmptyWords := by
  refine ⟨fun f s k t w => ⟨ldfe_takes, fun a s1 at_ hi hea hrel => ?_, fechk_looks, ldfe_waits⟩, fun s p loc x => ?_⟩
  · have hr := stfeRelease_done hrel
    exact ⟨stfe_waits_for_release hi hea hr, stfe_fills hi hea hr⟩
  · simp only [feTake_root, tagOf_root, tags_feFill_root, Tab.getD_putD, if_true, true_and]
    refine ⟨rdMemN_feFill_root s p loc x, fun l hl => ?_, fun a => rdMem_feFill_root_out s p x⟩
    simp only [if_neg hl.symm, and_self]

end Sys2Proof.Machine
end

section
/-! Sync objects (11 R252; 12 R281, R282) and ordered updates (11 R265, R266; 12 R280). -/

namespace Sys2Proof.Machine

theorem objOf_setObj_same (s : State) (loc : Nat) (o : SyncObj) : objOf (setObj s loc o) loc = o := by
  simp only [objOf, setObj, Tab.getD_putD, if_true]

/-! Acquiring. -/

theorem acqAct_grants {s s1 : State} {k at_ : Nat} {t : Thread} {f : RForm} {w : PortWord} {shared : Bool}
    (hw : objectWord s k t (ptrR s t f) = .ok w) (hbound : (boundRanges w.s (partOf t) w.loc).isEmpty = false)
    (hheld : t.held.get? w.loc = none) (hfew : t.held.length < 8) (hfree : grantable w.s.clk (objOf w.s w.loc) shared = true)
    (hnone : objWaiters w.s w.loc = []) (hgrant : grantObject w.s k w.loc shared = .done s1 at_) :
    acqAct s k t f shared = .next (holdUntil s1 k (at_ + w.lat)) := by
  have hmay : ((t.held.get? w.loc).isSome || decide (8 ≤ t.held.length)) = false := by simpa [hheld] using hfew
  simp only [acqAct, withWord_ok hw, hbound, hmay, hfree, hnone, hgrant, wbAct, List.isEmpty_nil, Bool.and_self,
    Bool.false_eq_true, if_false, if_true]

/-- A grant serves the first thread that waits, then the next ones. -/
theorem exec_acqGrant_grants {s s1 : State} {p obj j at_ : Nat} {q : Wait} {rest : List (Nat × Wait)}
    (hfirst : objWaiters s obj = (j, q) :: rest) (hfree : grantable s.clk (objOf s obj) (q.arg == 1) = true)
    (hgrant : grantObject s j obj (q.arg == 1) = .done s1 at_) :
    exec (.acqGrant p obj) s = .next (grantWaiters s.threads.length (finishWait s1 j [] at_ at_) p obj) := by
  show Host.Outcome.next (grantWaiters (s.threads.length + 1) s p obj) = _
  simp only [grantWaiters, hfirst, List.head?_cons, hfree, if_true, hgrant]

/-! Releasing. -/

section
variable {f : RForm} {s s1 : State} {k at_ : Nat} {t : Thread} {w : PortWord} {failed : Bool}

theorem rel_not_held (hi : issues (.rel f) s k t = true) (hw : objectWord s k t (ptrR s t f) = .ok w)
    (hheld : t.held.get? w.loc = none) : Traps (.rel f) s s k 0x3B (ptrR s t f) t.pc :=
  traps_of_trap rfl hi ((withWord_ok hw).trans (if_pos (Option.isNone_iff_eq_none.mpr hheld)))

section
variable (hi : issues (.rel f) s k t = true) (hw : objectWord s k t (ptrR s t f) = .ok w) (hheld : t.held.get? w.loc ≠ none)
  (hbound : (boundRanges w.s (partOf t) w.loc).isEmpty = false) (hrel : releaseObject w.s k t w.loc = (.done s1 at_, failed))
include hi hw hheld hbound hrel

theorem rel_completes (hf : failed = false) : Does (.rel f) s k t (holdUntil s1 k (at_ + w.lat)) := by
  refine does_of_next rfl hi ((withWord_ok hw).trans ?_)
  simp only [Option.isNone_iff_eq_none, hheld, hbound, hrel, wbAct, hf, Bool.false_eq_true, if_false]

theorem rel_failed_period (hf : failed = true) :
    Traps (.rel f) s (holdUntil s1 k (at_ + w.lat)) k 0x3C (wd w.va) (pcAdd t.pc (4 * wordsOf (.rel f))) := by
  refine traps_of_trapPast rfl hi ((withWord_ok hw).trans ?_)
  simp only [Option.isNone_iff_eq_none, hheld, hbound, hrel, wbAct, hf, Bool.false_eq_true, if_false, if_true]

end

end

/-- A released object is held by the others. -/
theorem releaseObject_holders {s s1 : State} {k loc at_ : Nat} {t : Thread} {failed : Bool}
    (h : releaseObject s k t loc = (.done s1 at_, failed)) : k ∉ (objOf s1 loc).holders := by
  unfold releaseObject at h
  split at h
  · extract_lets p o rest m at2 s2 s3 at h
    have hk : k ∉ rest := by simp [rest]
    obtain ⟨hdone, -⟩ := Prod.mk.inj h
    obtain ⟨rfl, -⟩ := WbRes.done.inj hdone
    show k ∉ (objOf s2 loc).holders
    rw [objOf_setObj_same]
    split
    · exact List.not_mem_nil
    · exact hk
  · next hno => exact absurd (congrArg Prod.fst h) (hno _ _)

/-! Ordered updates. -/

/-- A buffer that is spilt keeps no update of its slice, and the others' stay. -/
theorem spillUpdates_updates (s : State) (p slice : Nat) :
    (spillUpdates s p slice).updates = s.updates.filter (fun u => !(u.part == p && sliceOf u.addr == slice)) := by
  unfold spillUpdates
  extract_lets buf sh off left s1
  split
  · rfl
  · exact foldl_keeps State.updates (fun a u => setObj a u.object { objOf a u.object with failed := true }) (fun _ _ => rfl) buf _

section
variable {s : State} {u : Ordered}

theorem addUpdate_discards (h : (objOf s u.object).failed = true) : addUpdate s u = s := if_pos h

/-- The update of an object that has not failed while ORDLOG's EN is 0 (11 R265; Log 43). -/
theorem addUpdate_overflows (h : (objOf s u.object).failed = false) (hen : bit (sprPart s u.part rORDLOG) 52 = false) :
    let s1 := spillUpdates s u.part (sliceOf u.addr)
    addUpdate s u = setObj s1 u.object { objOf s1 u.object with failed := true } :=
  (if_neg (Bool.eq_false_iff.mp h)).trans (if_pos hen)

theorem addUpdate_buffers (h : (objOf s u.object).failed = false) (hen : bit (sprPart s u.part rORDLOG) 52 = true)
    (hroom : (buffered s u.part (sliceOf u.addr)).length < 16) : addUpdate s u = { s with updates := s.updates ++ [u] } := by
  have hshare : (ordShare s u.part (sliceOf u.addr)).1 = true := hen
  simp only [addUpdate, h, hshare, Nat.not_le.mpr hroom, Bool.false_eq_true, Bool.true_eq_false, if_false]

end

theorem faddaO_buffers {f : RForm} {s s1 : State} {k a : Nat} {t : Thread} {w : PortWord} (hi : issues (.faddaO f) s k t = true)
    (hea : ea t (ptrR s t f) (updateBytes (amoFmt f)) needAtomic = .ok a)
    (hplace : ∀ c loc, place s t (ptrR s t f) 2 a (updateBytes (amoFmt f)) ≠ .ok (.scratch c loc))
    (hw : atomicWord s k t (ptrR s t f) a (updateBytes (amoFmt f)) = .ok w)
    (hord : orderedAt w.s k t a (amoFmt f) w.loc (wd ((opbReg s t f).toNat % 2 ^ (8 * updateBytes (amoFmt f)))) w.view = .ok s1) :
    Does (.faddaO f) s k t (noteStore s1 k ⟨s1, w.lat, false⟩) := by
  -- The arm of a scratchpad is closed by `hplace`.
  refine does_of_next rfl hi ?_
  simp only [hea, withWord_ok hw, hord]

/-- Settles O21: a grant where nothing stands before it, a release that leaves the others, and the three answers of an MSU to an
update. -/
theorem syncObjects : Obligations.SyncObjects := by
  refine ⟨fun f s s1 k t w at_ failed => ⟨fun hi hfree => ?_, fun hi hfree => ?_, fun hi hw hheld hbound hrel => ?_,
    rel_not_held, fun p obj j q rest => exec_acqGrant_grants⟩, fun s u => ⟨addUpdate_discards, fun h hen => ?_, addUpdate_buffers,
    fun f k t a w s1 => faddaO_buffers⟩⟩
  · obtain ⟨hw, hbound, hheld, hfew, hgrantable, hnone, hgrant⟩ := hfree
    exact does_of_next rfl hi (acqAct_grants hw hbound hheld hfew hgrantable hnone hgrant)
  · obtain ⟨hw, hbound, hheld, hfew, hgrantable, hnone, hgrant⟩ := hfree
    exact does_of_next rfl hi (acqAct_grants hw hbound hheld hfew hgrantable hnone hgrant)
  · exact ⟨rel_completes hi hw hheld hbound hrel, rel_failed_period hi hw hheld hbound hrel, releaseObject_holders hrel⟩
  · rw [addUpdate_overflows h hen]
    refine ⟨by rw [objOf_setObj_same], fun hnot hin => hnot ?_⟩
    change u ∈ (spillUpdates s u.part (sliceOf u.addr)).updates at hin
    rw [spillUpdates_updates] at hin
    exact List.mem_of_mem_filter hin

end Sys2Proof.Machine
end

section
/-! Loads and stores, and the bytes that a store behind a port writes (10 R215, R231; 12 R269, R271). -/

namespace Sys2Proof.Machine

/-! What a load and a store complete with. -/

/-- An n-bit number as two's complement, whatever stands above its n bits. -/
theorem sextInt_eq_toInt {n : Nat} (v : Nat) (hn : 0 < n) : sextInt v n = (BitVec.ofNat n v).toInt := by
  have hhalf : 2 ^ n = 2 * 2 ^ (n - 1) := by rw [← Nat.pow_succ', Nat.succ_eq_add_one, Nat.sub_add_cancel hn]
  rw [sextInt, BitVec.toInt_eq_toNat_cond, BitVec.toNat_ofNat]
  by_cases hneg : 2 ^ (n - 1) ≤ v % 2 ^ n
  · rw [if_pos hneg, if_neg (by omega), Nat.cast_pow, Nat.cast_ofNat]
  · rw [if_neg hneg, if_pos (by omega)]

theorem sext_eq_signExtend_ofNat {n : Nat} (v : Nat) (hn : 0 < n) : sext v n = (BitVec.ofNat n v).signExtend 64 := by
  rw [sext, sextInt_eq_toInt v hn, BitVec.signExtend]

section
variable {i : Instr} {f : MForm} {s : State} {k n : Nat} {t : Thread} {g : Got} {p : Put}

theorem loadAct_ok (h : loadPtr s k t (ptrM s t f n) n needR = .ok g) :
    loadAct s k t f n = .next (putScored g.s k (g.s.clk + g.lat)
      [(f.d.toNat, if f.q then sext (ofBytes g.bytes) (8 * n) else wd (ofBytes g.bytes))] []) := by
  simp only [loadAct, h, scored]

theorem does_of_load (he : exec i s = run i s fun s k t => loadAct s k t f n) (hn : 0 < n) (hi : issues i s k t = true)
    (h : loadPtr s k t (ptrM s t f n) n needR = .ok g) :
    Does i s k t (putScored g.s k (g.s.clk + g.lat)
      [(f.d.toNat, if f.q then (BitVec.ofNat (8 * n) (ofBytes g.bytes)).signExtend 64 else BitVec.ofNat 64 (ofBytes g.bytes))] []) := by
  rw [← sext_eq_signExtend_ofNat _ (by omega)]
  exact does_of_next he hi (loadAct_ok h)

theorem does_of_store (he : exec i s = run i s fun s k t => storeAct s k t f n) (hi : issues i s k t = true)
    (h : storePtr s k t (ptrM s t f n) (toBytes n (readG s t f.d.toNat).toNat) needW = .ok p) :
    Does i s k t (noteStore p.s k p) := by
  refine does_of_next he hi ?_
  simp only [storeAct, h]

end

/-! The bytes that a store to a port writes. -/

/-- What a store of bytes at a location leaves: those bytes, and all else that is read as it was. -/
structure BytesWritten (s s1 : State) (loc : Nat) (bs : List Byte) : Prop where
  written : ∀ i b, bs[i]? = some b → rdMem s1 (loc + i) = b
  others  : ∀ x, x < loc ∨ loc + bs.length ≤ x → rdMem s1 x = rdMem s x
  vmem    : s1.vmem = s.vmem
  l1d     : s1.l1d = s.l1d
  threads : s1.threads = s.threads

theorem rdMem_of_dataView {s s1 : State} (h : dataView s1 = dataView s) (x : Nat) : rdMem s1 x = rdMem s x :=
  congrArg (fun v => v.mem.getD x 0) h

theorem bytesWritten_of_dataView {s s0 s1 : State} {loc : Nat} {bs : List Byte} (h0 : dataView s0 = dataView s)
    (h : dataView s1 = dataView (wrMemBytes s0 loc bs)) : BytesWritten s s1 loc bs := by
  have hframe : dataView s1 = { dataView s with mem := (wrMemBytes s0 loc bs).mem } := by
    rw [h, wrMemBytes_frame, ← h0]
    rfl
  exact {
    written := fun i b hb => (rdMem_of_dataView h _).trans (rdMem_wrMemBytes_in s0 loc i bs b hb)
    others := fun x hx => ((rdMem_of_dataView h x).trans (rdMem_wrMemBytes_out s0 loc x bs hx)).trans (rdMem_of_dataView h0 x)
    vmem := congrArg ReadView.vmem hframe
    l1d := congrArg ReadView.l1d hframe
    threads := congrArg ReadView.threads hframe }

/-- Bytes of the root view that reach their port. -/
theorem dataView_portWrite_root (s : State) (p loc n : Nat) (bs : List Byte) :
    dataView (portWrote (wrVersionBytes (makeVersion s none p 0 loc loc) p 0 loc bs) p 0 loc n) = dataView (wrMemBytes s loc bs) := by
  rw [dataView_portWrote, makeVersion_root, wrVersionBytes_root]

theorem crcCheck_of_none {s : State} (h : s.crcBad = []) (loc : Nat) : crcCheck s loc = (s, 0, false) := by
  rw [crcCheck, h]
  rfl

theorem crcBad_windowWake (s : State) (c : Nat) : (windowWake s c).1.crcBad = s.crcBad := by
  unfold windowWake
  dsimp only
  split
  · split <;> rfl
  · rfl

/-! Where scratchpad and the PIM lie. -/

theorem slabRefs_lt {w : Word} {r : Nat × Nat} (h : r ∈ slabRefs w) : r.1 < 256 ∧ r.2 < 256 := by
  obtain ⟨n, -, rfl⟩ := List.mem_map.mp (List.mem_of_mem_filter h)
  exact ⟨bits_lt .., bits_lt ..⟩

theorem slabRef_lt (s : State) (c n : Nat) : (slabRef s c n).1 < 256 ∧ (slabRef s c n).2 < 256 := by
  unfold slabRef
  cases h : (slabRefs (bindEntry s c)).drop n with
  | nil => exact ⟨by decide, by decide⟩
  | cons r rest => exact slabRefs_lt (List.mem_of_mem_drop (h ▸ List.mem_cons_self))

theorem halfOf_lt (s : State) (c n : Nat) (upper : Bool) : halfOf s c n upper < 512 := by
  obtain ⟨h1, h2⟩ := slabRef_lt s c n
  unfold halfOf
  split <;> omega

/-- Scratchpad lies before the PIM, and no byte of it in the output image (10 R215; 12 R270). -/
theorem scratchLoc_not_output (s : State) (c o : Nat) : isOutput (scratchLoc s c o) = false := by
  have h := halfOf_lt s c (o / 524288) (decide (8 ≤ o % 524288 / 32768))
  have hlt : ¬ 0x9000000800000 ≤ scratchLoc s c o := by
    simp only [scratchLoc]
    omega
  simp only [isOutput, hlt, decide_false, Bool.false_and]

theorem place_scratch_not_output {s : State} {t : Thread} {ptr : Word} {kind a n c loc : Nat}
    (h : place s t ptr kind a n = .ok (.scratch c loc)) : isOutput loc = false := by
  unfold place at h
  dsimp only at h
  repeat' split at h
  all_goals cases h
  all_goals exact scratchLoc_not_output ..

/-- The PIM's addresses lie beyond the windows. -/
theorem place_pim {s : State} {t : Thread} {ptr : Word} {kind a n loc : Nat} (h : place s t ptr kind a n = .ok (.pim loc)) :
    0x8000000000000 ≤ a := by
  unfold place at h
  dsimp only at h
  repeat' split at h
  all_goals cases h
  all_goals omega

/-! Stores to a port, within one line. -/

section
variable {s : State} {k a : Nat} {t : Thread} {ptr : Word} {bs : List Byte}

theorem storePtr_of_line (hn : 0 < bs.length) (hl : a % 64 + bs.length ≤ 64) (ha : ea t ptr bs.length needW = .ok a)
    (hwin : 0x8000000000000 ≤ a) {g : Put} (hg : storePiece s k t (viewFor t ptr) ptr bs.length a bs = .ok g) :
    storePtr s k t ptr bs needW = .ok ⟨g.s, max g.lat 0, g.port || false⟩ := by
  have hcross : crossing s a bs.length = none := if_neg fun h => absurd h.1 (Nat.not_lt.mpr hwin)
  simp only [storePtr, ha, storeRange, storeElemsRange, hcross, cut_of_line hn hl, storeParts, List.take_length, hg]

theorem storePiece_scratch {v size c loc : Nat} (hp : place s t ptr 1 a bs.length = .ok (.scratch c loc)) (hcrc : s.crcBad = []) :
    ∃ g, storePiece s k t v ptr size a bs = .ok g ∧ BytesWritten s g.s loc bs := by
  have hcheck := crcCheck_of_none ((crcBad_windowWake s c).trans hcrc)
  simp only [storePiece, hp, portLoc, place_scratch_not_output hp, hcheck, ite_self, placeView, Bool.false_eq_true, and_false, if_false]
  exact ⟨_, rfl, bytesWritten_of_dataView (dataView_of_readView (readView_windowWake s c)) (dataView_portWrite_root ..)⟩

theorem storePiece_pim {size loc : Nat} (hp : place s t ptr 1 a bs.length = .ok (.pim loc)) (hv : viewOf t = 0) (hcrc : s.crcBad = []) :
    ∃ g, storePiece s k t 0 ptr size a bs = .ok g ∧ BytesWritten s g.s loc bs := by
  simp only [storePiece, hp, portLoc, hv, crcCheck_of_none hcrc, ite_self, placeView, ne_eq, not_true_eq_false, Bool.false_eq_true,
    false_and, if_false]
  exact ⟨_, rfl, bytesWritten_of_dataView rfl (dataView_portWrite_root ..)⟩

variable {loc : Nat} (hn : 0 < bs.length) (hl : a % 64 + bs.length ≤ 64) (ha : ea t ptr bs.length needW = .ok a) (hcrc : s.crcBad = [])
include hn hl ha hcrc

theorem storePtr_scratch {c : Nat} (hp : place s t ptr 1 a bs.length = .ok (.scratch c loc)) :
    ∃ g, storePtr s k t ptr bs needW = .ok g ∧ BytesWritten s g.s loc bs := by
  obtain ⟨g, hg, hw⟩ := storePiece_scratch (k := k) (v := viewFor t ptr) (size := bs.length) hp hcrc
  exact ⟨_, storePtr_of_line hn hl ha (place_scratch hp).1 hg, hw⟩

theorem storePtr_pim (hv : viewOf t = 0) (hp : place s t ptr 1 a bs.length = .ok (.pim loc)) :
    ∃ g, storePtr s k t ptr bs needW = .ok g ∧ BytesWritten s g.s loc bs := by
  have hroot : viewFor t ptr = 0 := by rw [viewFor, hv, ite_self]
  obtain ⟨g, hg, hw⟩ := storePiece_pim (k := k) (size := bs.length) hp hv hcrc
  exact ⟨_, storePtr_of_line hn hl ha (place_pim hp) (hroot ▸ hg), hw⟩

end

/-- Settles O16: each load and store by its access, and the bytes of a store to a scratchpad and to the PIM. -/
theorem loadsAndStores : Obligations.LoadsAndStores := by
  refine ⟨fun f s k t g h => ⟨does_of_load rfl (Nat.succ_pos _), does_of_load rfl (Nat.succ_pos _), does_of_load rfl (Nat.succ_pos _),
      does_of_load rfl (Nat.succ_pos _), does_of_store rfl, does_of_store rfl, does_of_store rfl, does_of_store rfl⟩,
    fun s k t ptr bs a c loc hn hl ha hp hcrc => ?_, fun s k t ptr bs a loc hn hl ha hv hp hcrc => ?_⟩
  · obtain ⟨g, hg, hin, hout, hvmem, hl1d, hthreads⟩ := storePtr_scratch hn hl ha hcrc hp
    exact ⟨g, hg, hin, hout, hvmem, hl1d, hthreads⟩
  · obtain ⟨g, hg, hin, hout, hvmem, hl1d, hthreads⟩ := storePtr_pim hn hl ha hcrc hv hp
    exact ⟨g, hg, hin, hout, hvmem, hl1d, hthreads⟩

end Sys2Proof.Machine
end

section
/-! Atomics (12 R277 to R280). -/

namespace Sys2Proof.Machine

/-! What an atomic completes with. -/

section
variable {i : Instr} {f : RForm} {s : State} {k a n : Nat} {t : Thread} {w : PortWord} {new : Nat → Nat → Nat}
  {act : State → Nat → Thread → Act}

theorem does_of_atomic (he : exec i s = run i s act) (hf : act s k t = atomicAct s k t f n new) (hi : issues i s k t = true)
    (hat : ea t (ptrR s t f) n needAtomic = .ok a ∧ atomicWord s k t (ptrR s t f) a n = .ok w) {v : Nat}
    (hv : new (wordAt w (partOf t) n) ((opbReg s t f).toNat % 2 ^ (8 * n)) = v) :
    Does i s k t (putScored (setWord w (partOf t) n v) k (s.clk + w.lat) [(f.d.toNat, BitVec.ofNat 64 (wordAt w (partOf t) n))] []) := by
  subst hv
  refine does_of_next he hi ?_
  simp only [hf, atomicAct, hat.1, withWord_ok hat.2, wd]

end

/-- The order of amomin and amomax, unsigned or of the words as two's complement (12 R278, R279). -/
theorem amoLess_eq (f : RForm) (x y : Nat) : amoLess f x y = (if tailMod f.t % 2 = 1 then decide (x < y)
    else (BitVec.ofNat (8 * amoBytes f) x).slt (BitVec.ofNat (8 * amoBytes f) y)) := by
  have hn : 0 < 8 * amoBytes f := by
    unfold amoBytes
    split <;> decide
  rw [amoLess, sextInt_eq_toInt x hn, sextInt_eq_toInt y hn, BitVec.slt]

/-! The word of a scratchpad. -/

/-- Places of a range come in rising order. -/
theorem le_of_mem_pieces {fuel a n : Nat} {q : Nat × Nat} (h : q ∈ pieces fuel a n) : a ≤ q.1 := by
  induction fuel generalizing a n with
  | zero => cases h
  | succ fuel ih =>
    by_cases hn : n = 0
    · rw [hn, pieces_zero] at h
      cases h
    · rw [pieces_succ fuel a n hn] at h
      rcases List.mem_cons.mp h with rfl | h
      · exact Nat.le_refl _
      · exact Nat.le_of_add_right_le (ih h)

theorem foldl_error {ε α β : Type} (f : Except ε α → β → Except ε α) (e : ε) (hf : ∀ b, f (.error e) b = .error e)
    (l : List β) : l.foldl f (.error e) = .error e := by
  induction l with
  | nil => rfl
  | cons b l ih => rw [List.foldl_cons, hf, ih]

/-- A demand read beyond DRAM keeps the data, over as many lines as it goes. -/
theorem dataView_demandRange_beyond_dram {s s1 : State} {who core : Option Nat} {cl fig p v va loc n lat : Nat} (hloc : dramTop ≤ loc)
    (hd : demandRange s who core cl fig p v va loc n = .ok (s1, lat)) : dataView s1 = dataView s := by
  have hin : ∀ q ∈ cut va n, va ≤ q.1 := fun q hq => le_of_mem_pieces hq
  unfold demandRange at hd
  generalize cut va n = l at hd hin
  generalize 0 = c at hd
  induction l generalizing s c with
  | nil =>
    cases hd
    rfl
  | cons q l ih =>
    rw [List.foldl_cons] at hd
    dsimp only at hd
    cases hq : demandLine s who core cl fig p v q.1 (loc + q.1 - va) q.2 with
    | error e =>
      rw [hq] at hd
      exact absurd ((foldl_error _ e (fun _ => rfl) l).symm.trans hd) nofun
    | ok r =>
      rw [hq] at hd
      have hbeyond : ¬ loc + q.1 - va < dramTop := by
        have := hin q List.mem_cons_self
        omega
      exact (ih (fun x hx => hin x (List.mem_cons_of_mem _ hx)) _ hd).trans (dataView_demandLine (fun h => absurd h hbeyond) hq)

section
variable {s : State} {k a n c loc : Nat} {t : Thread} {ptr : Word} {w : PortWord}

theorem atomicWord_scratch (hp : place s t ptr 2 a n = .ok (.scratch c loc)) (hw : atomicWord s k t ptr a n = .ok w) :
    w.loc = loc ∧ w.view = 0 ∧ dataView w.s = dataView s := by
  simp only [atomicWord, hp] at hw
  split at hw
  · cases hw
  · split at hw
    · cases hw
    · next s1 lat hd =>
      cases hw
      exact ⟨rfl, rfl, (dataView_demandRange_beyond_dram (place_scratch hp).2 hd).trans
        (dataView_of_readView (readView_windowWake s c))⟩

theorem rdMemN_of_dataView {s1 : State} (h : dataView s1 = dataView s) (x m : Nat) : rdMemN s1 x m = rdMemN s x m :=
  congrArg (fun v : ReadView => ofBytes ((upFrom x m).map (fun a => v.mem.getD a 0))) h

theorem wordAt_root (hv : w.view = 0) (p m : Nat) : wordAt w p m = rdMemN w.s w.loc m := by
  rw [wordAt, hv]
  rfl

theorem dataView_setWord_root (hv : w.view = 0) (p m v : Nat) : dataView (setWord w p m v) = dataView (wrMemN w.s w.loc m v) := by
  rw [setWord, hv]
  simp only [ite_self]
  rw [dataView_portWrote, makeVersion_root, wrVersionBytes_root]
  rfl

/-- An atomic's word in a scratchpad: what it held, what it then holds, and every other byte. -/
theorem scratchWord_updates {v : Nat} (hp : place s t ptr 2 a n = .ok (.scratch c loc)) (hw : atomicWord s k t ptr a n = .ok w)
    (hlt : v < 256 ^ n) : wordAt w (partOf t) n = rdMemN s loc n ∧ rdMemN (setWord w (partOf t) n v) loc n = v ∧
      (∀ x, x < loc ∨ loc + n ≤ x → rdMem (setWord w (partOf t) n v) x = rdMem s x) := by
  obtain ⟨rfl, hview, hs⟩ := atomicWord_scratch hp hw
  have hset := dataView_setWord_root hview (partOf t) n v
  refine ⟨?_, ?_, fun x hx => ?_⟩
  · rw [wordAt_root hview, rdMemN_of_dataView hs]
  · rw [rdMemN_of_dataView hset, rdMemN_wrMemN_same, Nat.mod_eq_of_lt hlt]
  · rw [rdMem_of_dataView hset, wrMemN, rdMem_wrMemBytes_out _ _ _ _ (by rwa [toBytes_length]), rdMem_of_dataView hs]

end

/-- Settles O18: each atomic by the word that its port serves, and the bytes of a scratchpad word. -/
theorem atomics : Obligations.Atomics := by
  refine ⟨fun f s k t a w => ⟨fun hi hat => does_of_atomic rfl rfl hi hat rfl, fun hi hat => does_of_atomic rfl rfl hi hat ?_,
      fun hi hat => does_of_atomic rfl rfl hi hat ?_, fun hi hat => does_of_atomic rfl rfl hi hat ?_,
      fun hi hat => does_of_atomic rfl rfl hi hat rfl, fun hi hat => does_of_atomic rfl rfl hi hat rfl,
      fun hi hat => does_of_atomic rfl rfl hi hat rfl, fun hi hat => does_of_atomic rfl rfl hi hat rfl⟩,
    fun s k t ptr a n v c loc w hp hw _ hlt => scratchWord_updates hp hw hlt⟩
  · generalize tailMod f.t % 4 = m
    match m with
    | 0 => rfl
    | 1 => rfl
    | m + 2 => rfl
  · rw [amoLess_eq]
    rfl
  · rw [amoLess_eq]
    rfl

end Sys2Proof.Machine
end

section
/-! Acquire loads, release stores, fences and cache control (11 R250; 12 R273 to R275, R294). -/

namespace Sys2Proof.Machine

/-! A load of eight bytes takes them as they are, whether Q asks for the sign or not. -/

theorem sext_eightBytes (v : Nat) : sext v (8 * 8) = wd v := by
  rw [sext_eq_signExtend_ofNat v (by decide), BitVec.signExtend_eq, wd]

section
variable {f : MForm} {s s1 : State} {k a at_ : Nat} {t : Thread}

theorem ldacq_within_core {g : Got} (hi : issues (.ldacq f) s k t = true) (hsc : scopeOf f < 2)
    (hg : loadPtr s k t (ptrM s t f 8) 8 needR = .ok g) :
    Does (.ldacq f) s k t (putScored g.s k (g.s.clk + g.lat) [(f.d.toNat, wd (ofBytes g.bytes))] []) := by
  refine does_of_next rfl hi ?_
  simp only [hsc, if_true, loadAct_ok hg, sext_eightBytes, ite_self]

theorem ldacq_at_port {g : Got} (hi : issues (.ldacq f) s k t = true) (hsc : 2 ≤ scopeOf f) (hea : ea t (ptrM s t f 8) 8 needR = .ok a)
    (hg : portRead s k t (ptrM s t f 8) 0 a 8 = .ok g) :
    let q := acquireAt g.s k t (scopeOf f)
    Does (.ldacq f) s k t (holdUntil (putScored q.1 k (q.1.clk + g.lat) [(f.d.toNat, wd (ofBytes g.bytes))] []) k
      (s.clk + g.lat + q.2)) := by
  refine does_of_next rfl hi ?_
  simp only [Nat.not_lt.mpr hsc, if_false, hea, hg, scored]

/-! Release stores and fences. -/

section
variable {g : Put} (hi : issues (.strel f) s k t = true) (hea : ea t (ptrM s t f 8) 8 needW = .ok a)
  (hrel : releaseAt s k t (scopeOf f) = .done s1 at_)
include hi hea hrel

theorem strel_within_core (hsc : scopeOf f < 2)
    (hg : storeRange s1 k t (ptrM s t f 8) a (toBytes 8 (readG s t f.d.toNat).toNat) = .ok g) :
    Does (.strel f) s k t (holdUntil (noteStore g.s k { g with lat := g.lat + (at_ - s.clk) }) k at_) := by
  refine does_of_next rfl hi ?_
  simp only [hea, hrel, wbAct, hsc, if_true, hg]

theorem strel_at_port (hsc : 2 ≤ scopeOf f)
    (hg : portWrite true s1 k t (ptrM s t f 8) a (toBytes 8 (readG s t f.d.toNat).toNat) = .ok g) :
    Does (.strel f) s k t (holdUntil (noteStore g.s k { g with lat := g.lat + (at_ - s.clk) }) k at_) := by
  refine does_of_next rfl hi ?_
  simp only [hea, hrel, wbAct, Nat.not_lt.mpr hsc, if_false, hg]

end

theorem fence_releases_then_acquires (hi : issues (.fence f) s k t = true)
    (hrel : releaseAt s k t (f.disp.toNat % 8) = .done s1 at_) :
    let q := acquireAt s1 k t (f.disp.toNat % 8)
    Does (.fence f) s k t (holdUntil q.1 k (at_ + q.2)) := by
  refine does_of_next rfl hi ?_
  simp only [hrel, wbAct]

end

/-! Cache control. -/

theorem wd_toNat_self (w : Word) : wd w.toNat = w := by rw [wd, BitVec.ofNat_toNat, BitVec.setWidth_eq]

theorem toNat_ne_zero {w : Word} (h : w ≠ 0) : w.toNat ≠ 0 := fun h0 => h (BitVec.eq_of_toNat_eq h0)

section
variable {f : RForm} {s : State} {k a l : Nat} {t : Thread} {p b : Word}

theorem cachectl_empty (hi : issues (.cachectl f) s k t = true) (hb : opbReg s t f = 0) : Does (.cachectl f) s k t s :=
  does_of_next rfl hi (if_pos (congrArg BitVec.toNat hb))

/-- The range of b bytes at p ends in the segment that it begins in (12 R275; 05 R116). -/
def RangeWithin (p b : Word) : Prop := p.toNat % 2 ^ 52 + b.toNat < 2 ^ 61 ∧ (p + b - 1).toNat / 2 ^ 61 = p.toNat / 2 ^ 61

theorem rangeWithin_iff (p b : Word) : RangeWithin p b ↔ ¬(2 ^ 61 ≤ ptrOff p + b.toNat ∨ ptrSeg (p + b - 1) ≠ ptrSeg p) := by
  rw [RangeWithin, ptrSeg_eq, ptrSeg_eq, ptrOff, bits, Nat.pow_zero, Nat.div_one, not_or, Nat.not_le, not_not]

section
variable (hi : issues (.cachectl f) s k t = true) (hp : readG s t f.a.toNat = p) (hb : opbReg s t f = b) (hne : b ≠ 0)
  (ha : ea t p 1 needR = .ok a) (hl : ea t (p + b - 1) 1 needR = .ok l)
include hi hp hb hne ha hl

theorem cachectl_traps_beyond_segment (hout : ¬ RangeWithin p b) : Traps (.cachectl f) s s k 0x20 (p + b - 1) t.pc := by
  rw [rangeWithin_iff, not_not] at hout
  refine traps_of_trap rfl hi ?_
  simp only [hp, hb, toNat_ne_zero hne, wd_toNat_self, ha, hl, hout, if_false, if_true]

variable (hin : RangeWithin p b)
include hin

/-- On a device thread, MOD 1 drops the clean lines of the range from the core's L1D. -/
theorem cachectl_invalidates_clean (hm : tailMod f.t = 1) (hk : isHostKey k = false) :
    Does (.cachectl f) s k t (holdUntil { s with l1d := s.l1d.filter (fun q =>
      !(l1Core q.1 == coreOf k && l1Part q.1 == partOf t && overLines a b.toNat (l1Addr q.1)) || q.2.dirty) } k (s.clk + 8)) := by
  rw [rangeWithin_iff] at hin
  refine does_of_next rfl hi ?_
  simp only [hp, hb, toNat_ne_zero hne, wd_toNat_self, ha, hl, hin, hm, hk, Bool.false_eq_true, if_false, if_true]

/-- A host core has no L1D; MOD 3 drops lines of the host cores' L1I, any other MOD does nothing (20 R458). -/
theorem cachectl_host (hk : isHostKey k = true) :
    Does (.cachectl f) s k t (if tailMod f.t = 3 then { s with l1i := s.l1i.filter (fun q =>
      !(decide (128 ≤ q.1 / 2 ^ 52) && overLines a b.toNat (q.1 % 2 ^ 52))) } else s) := by
  rw [rangeWithin_iff] at hin
  refine does_of_next rfl hi ?_
  simp only [hp, hb, toNat_ne_zero hne, wd_toNat_self, ha, hl, hin, hk, if_false, if_true]

end

end

/-- Settles O19: the two forms of an acquire load and of a release store, the fence, and cachectl by its range and its MOD. -/
theorem acquireRelease : Obligations.AcquireRelease := by
  refine ⟨fun f s k t a => ⟨fun g hi hsc hg => ldacq_within_core hi hsc hg, fun g hi hsc hea hg => ldacq_at_port hi hsc hea hg,
    fun s1 at_ g hi hea hrel => ⟨strel_within_core hi hea hrel, strel_at_port hi hea hrel⟩,
    fun s1 at_ hi hrel => fence_releases_then_acquires hi hrel⟩,
    fun f s k t a l hi => ⟨cachectl_empty hi, fun hne ha hl hout => cachectl_traps_beyond_segment hi rfl rfl hne ha hl hout,
      fun hne hin hm ha hl => ?_, fun hne hin hk ha hl => ?_⟩⟩
  · cases hk : isHostKey k with
    | true =>
      have h := cachectl_host hi rfl rfl hne ha hl hin hk
      rw [hm] at h
      exact ⟨s, h, ⟨rfl, rfl, rfl, rfl⟩, fun q hq _ => hq⟩
    | false =>
      refine ⟨_, cachectl_invalidates_clean hi rfl rfl hne ha hl hin hm hk, ⟨rfl, rfl, rfl, rfl⟩, fun q hq hdirty => ?_⟩
      exact List.mem_filter.mpr ⟨hq, by rw [hdirty, Bool.or_true]⟩
  · have h := cachectl_host hi rfl rfl hne ha hl hin hk
    refine ⟨_, h, ?_, fun hm => if_neg hm⟩
    split <;> rfl

end Sys2Proof.Machine
end

section
/-! Block moves and fills (12 R283, R284). -/

namespace Sys2Proof.Machine

/-! The chunks of a block operation. -/

section
variable {f : RForm} {s s1 : State} {k lat l : Nat} {t : Thread} {move desc : Bool} {pat : Word} {q rest : Block}

theorem blockGo_done (fuel i : Nat) (hq : q.b = 0) :
    blockGo k t f move desc pat (fuel + 1) s q i lat = .next (putScored s k (s.clk + lat) (blockRegs f move q) []) := if_pos hq

/-- A chunk that is the last leaves the registers at its end. -/
theorem blockGo_last_chunk (hq : q.b ≠ 0) (hc : blockChunk s k t f move desc pat q = .ok (s1, rest, l)) (hrest : rest.b = 0) :
    blockGo k t f move desc pat (q.b + 1) s q 0 0 = .next (putScored s1 k (s1.clk + l) (blockRegs f move rest) []) := by
  obtain ⟨fuel, hfuel⟩ := Nat.exists_eq_succ_of_ne_zero hq
  rw [blockGo, if_neg hq, hc, hfuel]
  simp only [blockGo_done _ _ hrest, Nat.zero_add, Nat.zero_max]

end

theorem Block.with_none {q : Block} (h : q.b = 0) : { q with b := 0 } = q := by
  cases q
  cases h
  rfl

/-! Fills. -/

/-- What a bfill and a bmove have to do, by their registers. -/
def fillBlock (s : State) (t : Thread) (f : RForm) : Block := ⟨readG s t f.d.toNat, 0, (readG s t f.b.toNat).toNat⟩
def moveBlock (s : State) (t : Thread) (f : RForm) : Block := ⟨readG s t f.d.toNat, readG s t f.a.toNat, (readG s t f.b.toNat).toNat⟩

section
variable {f : RForm} {s s1 : State} {k l : Nat} {t : Thread} {rest : Block}

theorem bfill_empty (hi : issues (.bfill f) s k t = true) (hn : (fillBlock s t f).b = 0) :
    Does (.bfill f) s k t (putScored s k (s.clk + 0) (blockRegs f false { fillBlock s t f with b := 0 }) []) := by
  rw [Block.with_none hn]
  exact does_of_next rfl hi (blockGo_done _ _ hn)

theorem bfill_one_chunk (hi : issues (.bfill f) s k t = true) (hn : (fillBlock s t f).b ≠ 0)
    (hc : blockChunk s k t f false false (readG s t f.a.toNat) (fillBlock s t f) = .ok (s1, rest, l)) (hrest : rest.b = 0) :
    Does (.bfill f) s k t (putScored s1 k (s1.clk + l) (blockRegs f false rest) []) :=
  does_of_next rfl hi (blockGo_last_chunk hn hc hrest)

/-! Moves. -/

/-- The source lies below the destination and they overlap: the move then goes from the end (12 R283). -/
def movesDown (t : Thread) (q : Block) : Bool :=
  match ea t q.d 1 needW, ea t q.a 1 needR with
  | .ok x, .ok y => decide (y < x ∧ x < y + q.b)
  | _, _ => false

theorem movesDown_eq_false {q : Block}
    (h : ∀ x y, ea t q.d 1 needW = .ok x → ea t q.a 1 needR = .ok y → ¬(y < x ∧ x < y + q.b)) : movesDown t q = false := by
  unfold movesDown
  split
  · next x y hx hy => exact decide_eq_false (h x y hx hy)
  · rfl

theorem bmove_same_pointers (hi : issues (.bmove f) s k t = true) (h : f.d = f.a) :
    Traps (.bmove f) s s k 0x07 (fieldInfo (.bmove f) 0 17) t.pc := traps_of_trap rfl hi (if_pos h)

section
variable (hi : issues (.bmove f) s k t = true) (hda : f.d ≠ f.a) (hdb : f.d ≠ f.b) (hab : f.a ≠ f.b)
include hi hda hdb hab

/-- With its registers apart, a bmove does its chunks. -/
theorem bmove_goes {q : Block} (hq : moveBlock s t f = q)
    (hgo : blockGo k t f true (movesDown t q) 0 (q.b + 1) s q 0 0 = .next s1) : Does (.bmove f) s k t s1 := by
  subst hq
  exact does_of_next rfl hi ((if_neg hda).trans ((if_neg (not_or.mpr ⟨hdb, hab⟩)).trans hgo))

theorem bmove_empty (hn : (moveBlock s t f).b = 0) :
    Does (.bmove f) s k t (putScored s k (s.clk + 0) (blockRegs f true { moveBlock s t f with b := 0 }) []) := by
  rw [Block.with_none hn]
  exact bmove_goes hi hda hdb hab rfl (blockGo_done _ _ hn)

theorem bmove_one_chunk (hn : (moveBlock s t f).b ≠ 0) (hup : movesDown t (moveBlock s t f) = false)
    (hc : blockChunk s k t f true false 0 (moveBlock s t f) = .ok (s1, rest, l)) (hrest : rest.b = 0) :
    Does (.bmove f) s k t (putScored s1 k (s1.clk + l) (blockRegs f true rest) []) :=
  bmove_goes hi hda hdb hab rfl (hup ▸ blockGo_last_chunk hn hc hrest)

end

end

/-- Settles O22: the refusal, the empty operations and those of one chunk. -/
theorem blockOperations : Obligations.BlockOperations := by
  refine fun f s k t => ⟨fun hi h => ⟨_, bmove_same_pointers hi h⟩, fun hi hda hdb hab hn => bmove_empty hi hda hdb hab hn,
    fun hi hn => bfill_empty hi hn, fun s1 lat hi hn hc => bfill_one_chunk hi hn hc rfl,
    fun s1 lat hi hda hdb hab hn hup hc => ?_⟩
  refine bmove_one_chunk hi hda hdb hab hn (movesDown_eq_false fun x y hx hy => ?_) hc rfl
  change ea t (readG s t f.d.toNat) 1 needW = .ok x at hx
  change ea t (readG s t f.a.toNat) 1 needR = .ok y at hy
  rw [hx, hy] at hup
  exact hup

end Sys2Proof.Machine
end

section
/-! Segment registers, translation probes and invalidations (05 R115; 10 R237; 12 R287 to R289). -/

namespace Sys2Proof.Machine

/-! Deriving segments. -/

section
variable {f : RForm} {s : State} {k : Nat} {t : Thread} {g par : BitVec 128} (hi : issues (.sgset f) s k t = true)
  (hg : readG s t f.b.toNat ++ readG s t f.a.toNat = g)

/-- The state after sgset has written its segment register. -/
def segWritten (s : State) (k n : Nat) (g : BitVec 128) : State := modThr s k (fun u => { u with segs := u.segs.putD n 0 g })

/-- A thread may derive a segment other than sg0, and a supervisor any (12 R287). -/
theorem not_unprivileged_code {n : Nat} {sup : Bool} (h : n ≠ 0 ∨ sup = true) : ¬(n = 0 ∧ sup = false) := by
  simpa [imp_iff_not_or] using h

section
include hi hg

theorem sgset_traps_malformed (hbad : segBad g = true) : Traps (.sgset f) s s k 0x22 (wd f.d.toNat) t.pc := by
  subst hg
  exact traps_of_trap rfl hi (if_pos hbad)

variable (hgood : segBad g = false)
include hgood

theorem sgset_supervisor (hfree : 8 ≤ tailMod f.t) (hsup : supOf t = true) :
    Does (.sgset f) s k t (segWritten s k f.d.toNat g) := by
  refine does_of_next rfl hi ?_
  simp only [hg, hgood, hfree, hsup, Bool.false_eq_true, if_false, if_true, segWritten]

theorem sgset_unprivileged (hfree : 8 ≤ tailMod f.t) (hsup : supOf t = false) :
    Traps (.sgset f) s s k 0x06 (wd f.d.toNat) t.pc := by
  refine traps_of_trap rfl hi ?_
  simp only [hg, hgood, hfree, hsup, Bool.false_eq_true, if_false, if_true]

variable (hder : tailMod f.t < 8)
include hder

theorem sgset_code_segment (hn : f.d.toNat = 0) (hsup : supOf t = false) : Traps (.sgset f) s s k 0x21 (wd f.d.toNat) t.pc := by
  refine traps_of_trap rfl hi ?_
  simp only [hg, hgood, Nat.not_le.mpr hder, hn, hsup, Bool.false_eq_true, if_false, and_self, if_true]

variable (hmay : f.d.toNat ≠ 0 ∨ supOf t = true) (hpar : segOf t (tailMod f.t % 8) = par) (hvalid : segValid par = true)
include hmay hpar hvalid

theorem sgset_derives (hwithin : segValid g = false ∨ segWithin g par = true) :
    Does (.sgset f) s k t (segWritten s k f.d.toNat g) := by
  refine does_of_next rfl hi ?_
  have hkeeps : (segValid g && !segWithin g par) = false := by
    rcases hwithin with h | h <;> rw [h]
    · rfl
    · exact Bool.and_false _
  simp only [hg, hgood, Nat.not_le.mpr hder, not_unprivileged_code hmay, hpar, hvalid, hkeeps, Bool.false_eq_true,
    Bool.true_eq_false, if_false, segWritten]

theorem sgset_traps_beyond_parent (hv : segValid g = true) (hbeyond : segWithin g par = false) :
    Traps (.sgset f) s s k 0x21 (wd f.d.toNat) t.pc := by
  refine traps_of_trap rfl hi ?_
  simp only [hg, hgood, Nat.not_le.mpr hder, not_unprivileged_code hmay, hpar, hvalid, hv, hbeyond, Bool.not_false,
    Bool.and_self, Bool.false_eq_true, Bool.true_eq_false, if_false, if_true]

end

/-- A derived segment has no byte and no right that its parent lacks (12 R287). -/
theorem segWithin_bounds (h : segWithin g par = true) (ht : segT g = false) :
    segBase par ≤ segBase g ∧ segBase g + segLimit g ≤ segBase par + segLimit par ∧
      (segW g = true → segW par = true) ∧ (segR g = true → segR par = true) ∧ (segX g = true → segX par = true) := by
  simp only [segWithin, ht, Bool.and_eq_true, Bool.or_eq_true, Bool.not_eq_true', decide_eq_true_eq, Bool.false_eq_true, if_false] at h
  obtain ⟨⟨⟨⟨⟨⟨⟨⟨hr, hw⟩, hx⟩, -⟩, -⟩, -⟩, -⟩, -⟩, hbase, hlimit⟩ := h
  have sub {a b : Bool} (h : a = false ∨ b = true) (ha : a = true) : b = true := h.resolve_left (by simp [ha])
  exact ⟨hbase, hlimit, sub hw, sub hr, sub hx⟩

end

/-! Probes. -/

theorem wd_segBits (g : BitVec 128) (lo : Nat) : wd (segBits g lo 64) = g.extractLsb' lo 64 := by
  refine BitVec.eq_of_toNat_eq ?_
  rw [BitVec.extractLsb'_toNat, Nat.shiftRight_eq_div_pow, wd, BitVec.toNat_ofNat, segBits, Nat.mod_mod]

section
variable {f : RForm} {s s1 : State} {k c : Nat} {t : Thread} (hi : issues (.probe f) s k t = true)
include hi

theorem probe_segment (hm : tailMod f.t = 0 ∨ tailMod f.t = 1) (ha : (readG s t f.a.toNat).toNat < 8) :
    Does (.probe f) s k t (putScored s k (s.clk + 6)
      [(f.d.toNat, (segOf t (readG s t f.a.toNat).toNat).extractLsb' (64 * tailMod f.t) 64)] []) := by
  have hlow : ¬ bits (readG s t f.a.toNat) 3 61 ≠ 0 := not_not.mpr ((bits_upper_eq_zero_iff _ rfl).mpr ha)
  refine does_of_next rfl hi ?_
  rw [← wd_segBits]
  rcases hm with hm | hm <;> simp only [hm, hlow, if_false, after6, scored]

/-- What probe answers of an address: what ea gives, as it would give it (12 R288). -/
theorem probe_address (hm : tailMod f.t = 2) {size : Nat} (hsize : bits (opbReg s t f) 8 8 = size) (hin : size ∈ [1, 2, 4, 8])
    (hhigh : (opbReg s t f).toNat / 65536 = 0) (hmid : (opbReg s t f).toNat / 64 % 4 = 0) :
    Does (.probe f) s k t (putScored s k (s.clk + 6)
      [(f.d.toNat, probeEa t (readG s t f.a.toNat) size (probeRights (opbReg s t f)))] []) := by
  have hzero : bits (opbReg s t f) 16 48 = 0 := (bits_upper_eq_zero_iff _ rfl).mpr ((Nat.div_eq_zero_iff_lt (by decide)).mp hhigh)
  have hok : ¬(bits (opbReg s t f) 6 2 ≠ 0 ∨ bits (opbReg s t f) 16 48 ≠ 0 ∨
      ¬(size = 1 ∨ size = 2 ∨ size = 4 ∨ size = 8)) := by
    simp only [List.mem_cons, List.not_mem_nil, or_false] at hin
    exact fun h => h.elim (absurd hmid) (Or.rec (absurd hzero) (absurd hin))
  refine does_of_next rfl hi ?_
  simp only [hm, hsize, hok, if_false, after6, scored]

theorem probe_translation (hm : tailMod f.t = 3) (hsup : supOf t = true) (ha : (readG s t f.a.toNat).toNat < 2 ^ 51)
    {found : Option TlbEntry} (hl : lookUp s (portOf k) (partOf t) (readG s t f.a.toNat).toNat = (found, c, s1)) :
    Does (.probe f) s k t (putScored s1 k (s1.clk + (24 + c))
      [(f.d.toNat, (found.map (fun e => probeEntry e (readG s t f.a.toNat).toNat)).getD 0)] []) := by
  have hlow : ¬ bits (readG s t f.a.toNat) 51 13 ≠ 0 := not_not.mpr ((bits_upper_eq_zero_iff _ rfl).mpr ha)
  refine does_of_next rfl hi ?_
  simp only [hm, hsup, Bool.true_eq_false, hlow, if_false, hl, scored]

theorem probe_unprivileged (hm : tailMod f.t = 3) (hsup : supOf t = false) :
    Traps (.probe f) s s k 0x06 (fieldInfo (.probe f) 1 0) t.pc := by
  refine traps_of_trap rfl hi ?_
  simp only [hm, hsup, if_true]

end

theorem probeEa_ok {t : Thread} {p : Word} {size a : Nat} {n : Rights} (h : ea t p size n = .ok a) :
    probeEa t p size n = wd (a % 2 ^ 52) := by rw [probeEa, h]

theorem probeEa_error {t : Thread} {p : Word} {size c : Nat} {n : Rights} (h : ea t p size n = .error c) :
    probeEa t p size n = wd (c * 2 ^ 56) := by rw [probeEa, h]

/-! Looking a page up at a port that has no walks. -/

section
variable {s : State} {port p v : Nat} {e : TlbEntry}

theorem lookUp_hit (hw : s.walks.getD port [] = []) (h : tlbFind s port p v = some e) : lookUp s port p v = (some e, 0, s) := by
  simp only [lookUp, tlbNow_of_no_walks hw, walkJoined_of_no_walks hw, h]

theorem lookUp_miss (hw : s.walks.getD port [] = []) (h : tlbFind s port p v = none) : lookUp s port p v = newWalk s port p v := by
  simp only [lookUp, tlbNow_of_no_walks hw, walkJoined_of_no_walks hw, h]

/-- The state in which a walk is under way: the walk is counted, and the port has it alone. -/
def walkUnderWay (s : State) (port p v : Nat) : State :=
  let s1 := if p < 16 then perfBump s p 5 else s
  { s1 with walks := s1.walks.put port [⟨p, v / 2 ^ 16, walk s p v, s.clk + walkCost port p v, false⟩] }

/-- A walk that is the only one of its cluster's port takes its figure (10 R236, R237). -/
theorem newWalk_alone (hnone : s.badEcc = []) (hport : port < 16) (hw : s.walks.getD port [] = []) :
    newWalk s port p v = (walk s p v, walkCost port p v, walkUnderWay s port p v) := by
  obtain ⟨s1, hs1⟩ : ∃ s1, s1 = if p < 16 then perfBump s p 5 else s := ⟨_, rfl⟩
  have hcount : s1.walks = s.walks ∧ s1.clk = s.clk ∧ s1.badEcc = s.badEcc ∧ walk s1 p v = walk s p v := by
    subst hs1
    split <;> exact ⟨rfl, rfl, rfl, rfl⟩
  obtain ⟨hwalks, hclk, hecc, hwalk⟩ := hcount
  have hreads : walkReads s1 p v = s1 := by rw [walkReads, hecc, hnone]; rfl
  have hend : walkEnd s1 port p v = s.clk + walkCost port p v := by
    simp only [walkEnd, walksAt, hwalks, hw, hclk, List.filter_nil, List.length_nil, Nat.not_le.mpr hport, Nat.zero_lt_succ, if_true,
      if_false]
  simp only [newWalk, ← hs1, hreads, hend, hwalks, hw, hwalk, walkPlace, walkUnderWay, Nat.add_sub_cancel_left]

theorem walkUnderWay_frame : (walkUnderWay s port p v).mem = s.mem ∧ (walkUnderWay s port p v).threads = s.threads ∧
    (walkUnderWay s port p v).tlb = s.tlb := by
  unfold walkUnderWay
  dsimp only
  split <;> exact ⟨rfl, rfl, rfl⟩

/-- A walk that ends puts what it found first in its port's cache (Log 86). -/
theorem tlbNow_walkUnderWay (hport : port < 16) (he : walk s p v = some e) :
    (tlbNow { walkUnderWay s port p v with clk := s.clk + walkCost port p v } port).tlb.get? port =
      some ((e :: (s.tlb.getD port []).filter (fun x => !(x.part == e.part && x.vpn == e.vpn && x.big == e.big))).take 4096) := by
  obtain ⟨s1, hs1⟩ : ∃ s1, s1 = ({ walkUnderWay s port p v with clk := s.clk + walkCost port p v } : State) := ⟨_, rfl⟩
  have hwalks : s1.walks.getD port [] = [⟨p, v / 2 ^ 16, some e, s.clk + walkCost port p v, false⟩] := by
    rw [hs1, ← he]
    simp only [walkUnderWay, Tab.getD_put, if_true]
  have hclk : s1.clk = s.clk + walkCost port p v := by rw [hs1]
  have htlb : s1.tlb = s.tlb := by
    rw [hs1]
    exact (walkUnderWay_frame (s := s) (port := port) (p := p) (v := v)).2.2
  have hended : (s1.walks.getD port []).filter (fun w => w.due ≤ s1.clk) =
      [⟨p, v / 2 ^ 16, some e, s.clk + walkCost port p v, false⟩] := by
    simp only [hwalks, hclk, List.filter_cons, le_refl, decide_true, if_true, List.filter_nil]
  have hcap : tlbCap port = 4096 := if_neg (Nat.not_le.mpr hport)
  rw [← hs1, tlbNow, hended]
  simp only [List.filterMap_cons, Bool.false_eq_true, if_false, List.filterMap_nil, List.foldl_cons, List.foldl_nil, tlbPut, htlb, hcap,
    Tab.get?_put_self]

end

/-! Invalidations. -/

section
variable {f : RForm} {s : State} {k : Nat} {t : Thread}

theorem ptinv_drops (hi : issues (.ptinv f) s k t = true) (ha : (readG s t f.a.toNat).toNat < 2 ^ 51) :
    Does (.ptinv f) s k t (invalidated s k t (tlbCovers (partOf t) (readG s t f.a.toNat).toNat)) :=
  does_of_next rfl hi (if_neg (not_not.mpr ((bits_upper_eq_zero_iff _ rfl).mpr ha)))

theorem ptinv_refuses (hi : issues (.ptinv f) s k t = true) (ha : 2 ^ 51 ≤ (readG s t f.a.toNat).toNat) :
    Traps (.ptinv f) s s k 0x07 (readG s t f.a.toNat) t.pc :=
  traps_of_trap rfl hi (if_pos fun h => absurd ((bits_upper_eq_zero_iff _ rfl).mp h) (Nat.not_lt.mpr ha))

theorem ptinvAll_drops (hi : issues (.ptinvAll f) s k t = true) :
    Does (.ptinvAll f) s k t (invalidated s k t (fun _ => true)) := does_of_next rfl hi rfl

end

/-- Settles O35: sgset by its checks in order, probe by its MOD, the port's answer and its cache after a walk, and the two
invalidations. -/
theorem segmentsAndTranslations : Obligations.SegmentsAndTranslations := by
  refine fun f s k t => ⟨fun hi => ⟨sgset_traps_malformed hi rfl, sgset_supervisor hi rfl, sgset_unprivileged hi rfl,
      sgset_code_segment hi rfl, fun hgood hder hmay hvalid => ⟨sgset_derives hi rfl hgood hder hmay rfl hvalid,
        sgset_traps_beyond_parent hi rfl hgood hder hmay rfl hvalid⟩⟩,
    segWithin_bounds, fun hi => ⟨?_, fun hm size hsize hin hhigh hmid => ?_, fun hm hsup ha found c s1 hl => ?_,
      fun hm hsup => ⟨_, probe_unprivileged hi hm hsup⟩⟩,
    fun port p v hnone hport hw => ⟨fun e he => lookUp_hit hw he, fun hmiss => ?_⟩, ptinv_drops, ptinv_refuses, ptinvAll_drops⟩
  · exact fun hm ha => probe_segment hi hm ha
  · have h := probe_address hi hm (hsize ▸ rfl) hin hhigh hmid
    refine ⟨fun x hx => ?_, fun c hc => ?_⟩
    · rw [probeEa_ok hx] at h
      exact h
    · rw [probeEa_error hc] at h
      exact h
  · have h := probe_translation hi hm hsup ha hl
    cases found <;> exact h
  · obtain ⟨hmem, hthreads, htlb⟩ := walkUnderWay_frame (s := s) (port := port) (p := p) (v := v)
    exact ⟨walkUnderWay s port p v, (lookUp_miss hw hmiss).trans (newWalk_alone hnone hport hw), hmem, hthreads, htlb,
      fun e he => tlbNow_walkUnderWay hport he⟩

end Sys2Proof.Machine
end

section
/-! Stamped access (05 R129; 12 R290 to R293). -/

namespace Sys2Proof.Machine

/-! A stamped access on its way. -/

/-- A stamped access through a pointer is sent (12 R290, R291): it lies beyond the header, no outbox takes it, and the issuer's L1D has
given up the lines of header and data. -/
structure StampSent (s s0 : State) (k : Nat) (t : Thread) (ptr : Word) (a at_ : Nat) : Prop where
  beyond  : 16 ≤ ptrOff ptr
  outside : viewOf t = 0 ∨ onOutput s t ptr a = false
  flushed : flushStamped s k t ptr (headerAddr t ptr) a = .done s0 at_

/-- The age of the data under a header, and when the header tells the reader to refuse them (12 R291). -/
def stampAge (h : Got) : Nat := (nowStamp h.s + 2 ^ 48 - fieldOf h.bytes 0 6) % 2 ^ 48

def StampStale (h : Got) : Prop := fieldOf h.bytes 6 2 % 2 = 0 ∨ fieldOf h.bytes 8 4 < stampAge h

theorem StampSent.not_held {s s0 : State} {k a at_ : Nat} {t : Thread} {ptr : Word} (hs : StampSent s s0 k t ptr a at_) :
    ¬(viewOf t ≠ 0 ∧ onOutput s t ptr a = true) := fun ⟨hv, ho⟩ =>
  hs.outside.elim hv fun h => Bool.false_ne_true (h.symm.trans ho)

/-- The state after a stamped read, its stamp noted until it completes (05 R129). -/
def stampNoted (s : State) (k clk stamp : Nat) : State := modThr s k (fun u => { u with stamps := u.stamps ++ [(clk, stamp)] })

/-! Reads. -/

section
variable {f : MForm} {s s0 : State} {k a at_ : Nat} {t : Thread} {h g : Got} (hea : ea t (ptrM s t f 8) 8 needSRead = .ok a)
  (hsent : StampSent s s0 k t (ptrM s t f 8) a at_)
  (hhdr : portRead s0 k t (ptrM s t f 8) 0 (headerAddr t (ptrM s t f 8)) 16 = .ok h)
include hea hsent hhdr

theorem sreadAct_stale (hst : StampStale h) (stale fresh : State → Nat → Word → Act) :
    sreadAct s k t f stale fresh = stale h.s h.lat (wd (stampAge h)) := by
  simp only [sreadAct, hea, Nat.not_lt.mpr hsent.beyond, hsent.not_held, hsent.flushed, wbAct, hhdr, if_false]
  exact if_pos hst

theorem sreadAct_fresh (hst : ¬ StampStale h) (hdata : portRead h.s k t (ptrM s t f 8) 0 a 8 = .ok g)
    (stale fresh : State → Nat → Word → Act) :
    sreadAct s k t f stale fresh =
      fresh (stampNoted g.s k (s0.clk + (h.lat + g.lat)) (fieldOf h.bytes 0 6)) (h.lat + g.lat) (wd (ofBytes g.bytes)) := by
  simp only [sreadAct, hea, Nat.not_lt.mpr hsent.beyond, hsent.not_held, hsent.flushed, wbAct, hhdr, if_false]
  refine (if_neg hst).trans ?_
  rw [hdata]
  rfl

theorem sread_traps (hi : issues (.sread f) s k t = true) (hst : StampStale h) :
    Traps (.sread f) s h.s k 0x2A (wd (stampAge h)) t.pc :=
  traps_of_trap rfl hi (sreadAct_stale hea hsent hhdr hst _ _)

theorem sread_gives (hi : issues (.sread f) s k t = true) (hst : ¬ StampStale h)
    (hdata : portRead h.s k t (ptrM s t f 8) 0 a 8 = .ok g) :
    let noted := stampNoted g.s k (s0.clk + (h.lat + g.lat)) (fieldOf h.bytes 0 6)
    Does (.sread f) s k t (putScored noted k (noted.clk + (h.lat + g.lat)) [(f.d.toNat, wd (ofBytes g.bytes))] []) :=
  does_of_next rfl hi (sreadAct_fresh hea hsent hhdr hst hdata _ _)

theorem sreadStatus_tells_stale (hi : issues (.sreadStatus f) s k t = true) (hst : StampStale h) :
    Does (.sreadStatus f) s k t (putScored h.s k (h.s.clk + h.lat) [(f.d.toNat, 0x2A)] []) :=
  does_of_next rfl hi (sreadAct_stale hea hsent hhdr hst _ _)

theorem sreadStatus_gives (hi : issues (.sreadStatus f) s k t = true) (hst : ¬ StampStale h)
    (hdata : portRead h.s k t (ptrM s t f 8) 0 a 8 = .ok g) :
    let noted := stampNoted g.s k (s0.clk + (h.lat + g.lat)) (fieldOf h.bytes 0 6)
    Does (.sreadStatus f) s k t (putScored noted k (noted.clk + (h.lat + g.lat))
      [(f.d.toNat, 0), ((tailC f.t).toNat, wd (ofBytes g.bytes))] []) :=
  does_of_next rfl hi (sreadAct_fresh hea hsent hhdr hst hdata _ _)

end

/-! Writes. -/

section
variable {f : MForm} {s s0 : State} {k a at_ : Nat} {t : Thread} {h : Got} {w v : Put}
  (hsent : StampSent s s0 k t (ptrM s t f 8) a at_)
  (hhdr : portRead s0 k t (ptrM s t f 8) 1 (headerAddr t (ptrM s t f 8)) 16 = .ok h)
include hsent hhdr

theorem stampWrite_behind {stamp : Nat} (x : Word) (hvalid : fieldOf h.bytes 6 2 % 2 = 1) (hlater : stamp < fieldOf h.bytes 0 6) :
    stampWrite s k t (ptrM s t f 8) (headerAddr t (ptrM s t f 8)) a stamp x = .behind h.s (fieldOf h.bytes 0 6) := by
  simp only [stampWrite, hsent.flushed, hhdr]
  exact if_pos ⟨hvalid, hlater⟩

theorem stampWrite_puts {stamp : Nat} {x : Word} (hput : fieldOf h.bytes 6 2 % 2 = 0 ∨ fieldOf h.bytes 0 6 ≤ stamp)
    (hw : portWrite false h.s k t (ptrM s t f 8) a (toBytes 8 x.toNat) = .ok w)
    (hv : portWrite false w.s k t (ptrM s t f 8) (headerAddr t (ptrM s t f 8))
      (toBytes 6 stamp ++ toBytes 2 (fieldOf h.bytes 6 2 / 2 * 2 + 1)) = .ok v) :
    stampWrite s k t (ptrM s t f 8) (headerAddr t (ptrM s t f 8)) a stamp x = .ok ⟨v.s, max w.lat v.lat, w.port || v.port⟩ := by
  have hgo : ¬(fieldOf h.bytes 6 2 % 2 = 1 ∧ stamp < fieldOf h.bytes 0 6) := by omega
  simp only [stampWrite, hsent.flushed, hhdr, hgo, if_false, hw, hv]

variable (hea : ea t (ptrM s t f 8) 8 needSWrite = .ok a) (hi : issues (.swrite f) s k t = true)
include hea hi

theorem swrite_traps (hvalid : fieldOf h.bytes 6 2 % 2 = 1) (hlater : ownStampin s t < fieldOf h.bytes 0 6) :
    Traps (.swrite f) s h.s k 0x6E (wd (fieldOf h.bytes 0 6)) t.pc := by
  refine traps_of_trap rfl hi ?_
  simp only [hea, Nat.not_lt.mpr hsent.beyond, hsent.not_held, if_false, stampWrite_behind hsent hhdr _ hvalid hlater]

theorem swrite_puts (hput : fieldOf h.bytes 6 2 % 2 = 0 ∨ fieldOf h.bytes 0 6 ≤ ownStampin s t)
    (hw : portWrite false h.s k t (ptrM s t f 8) a (toBytes 8 (readG s t f.d.toNat).toNat) = .ok w)
    (hv : portWrite false w.s k t (ptrM s t f 8) (headerAddr t (ptrM s t f 8))
      (toBytes 6 (ownStampin s t) ++ toBytes 2 (fieldOf h.bytes 6 2 / 2 * 2 + 1)) = .ok v) :
    Does (.swrite f) s k t
      (holdUntil (noteStore v.s k ⟨v.s, max w.lat v.lat, w.port || v.port⟩) k (s.clk + max w.lat v.lat)) := by
  refine does_of_next rfl hi ?_
  simp only [hea, Nat.not_lt.mpr hsent.beyond, hsent.not_held, if_false, stampWrite_puts hsent hhdr hput hw hv]

end

/-! The node's STAMPIN. -/

section
variable {s : State} {k key c stamp : Nat} {t : Thread} {n : Node} (hkey : t.node = some key) (hn : s.nodes.get? key = some n)
  (hst : t.stamps = [(c, stamp)])
include hkey hn hst

theorem ownStampin_of_one_read : ownStampin s t = min n.stampin stamp := by
  simp only [ownStampin, stampinOf, hst, hkey, nodeOf, Option.bind_some, hn, Option.map_some, Option.getD_some, List.foldl_cons,
    List.foldl_nil]

/-- A stamped read that has completed lowers its node's STAMPIN (05 R129). -/
theorem lowerStamps_completed {by_ : Nat} (ht : thr s k = some t) (hc : c ≤ by_) :
    (lowerStamps s k by_).nodes.get? key = some { n with stampin := min n.stampin stamp } := by
  simp only [lowerStamps, ht, hst, hkey, List.filter_cons, hc, decide_true, if_true, List.filter_nil, Tab.get?_modify, setThr, hn,
    Option.map_some, List.foldl_cons, List.foldl_nil]

end

theorem lowerStamps_under_way {s : State} {k c stamp by_ : Nat} {t : Thread} (hst : t.stamps = [(c, stamp)]) (ht : thr s k = some t)
    (hc : by_ < c) : lowerStamps s k by_ = s := by
  simp only [lowerStamps, ht, hst, List.filter_cons, Nat.not_le.mpr hc, decide_false, Bool.false_eq_true, if_false, List.filter_nil]

theorem lowerAll_of_one_thread {s : State} {k : Nat} {t : Thread} (h : s.threads = [(k, t)]) (hst : t.stamps ≠ []) :
    lowerAll s = lowerStamps s k s.clk := by
  simp [lowerAll, h, hst]

theorem thr_of_one_thread {s : State} {k : Nat} {t : Thread} (h : s.threads = [(k, t)]) : thr s k = some t := by
  simp [thr, h, Tab.get?]

/-- Settles O36: each stamped access by the header it finds, and the completion of a stamped read. -/
theorem stampedAccess : Obligations.StampedAccess := by
  refine ⟨fun f s s0 k t a at_ h g w v => ⟨?_, ?_, ?_, ?_, ?_⟩, fun s k key c stamp t n hone hkey hn hst => ?_⟩
  · rintro ⟨hi, hea, ⟨hb, ho, hf⟩, hhdr⟩ hst
    exact sread_traps hea ⟨hb, ho, hf⟩ hhdr hi hst
  · rintro ⟨hi, hea, ⟨hb, ho, hf⟩, hhdr⟩ hst hdata
    exact sread_gives hea ⟨hb, ho, hf⟩ hhdr hi hst hdata
  · rintro ⟨hi, hea, ⟨hb, ho, hf⟩, hhdr⟩ hst
    exact sreadStatus_tells_stale hea ⟨hb, ho, hf⟩ hhdr hi hst
  · rintro ⟨hi, hea, ⟨hb, ho, hf⟩, hhdr⟩ hst hdata
    exact sreadStatus_gives hea ⟨hb, ho, hf⟩ hhdr hi hst hdata
  · rintro hi hea ⟨hb, ho, hf⟩ hhdr
    exact ⟨swrite_traps ⟨hb, ho, hf⟩ hhdr hea hi, swrite_puts ⟨hb, ho, hf⟩ hhdr hea hi⟩
  · have ht := thr_of_one_thread hone
    rw [lowerAll_of_one_thread hone (by rw [hst]; exact List.cons_ne_nil _ _)]
    exact ⟨ownStampin_of_one_read hkey hn hst, lowerStamps_completed hkey hn hst ht, lowerStamps_under_way hst ht⟩

end Sys2Proof.Machine
end

section
/-! Scratchpad tags and bank formats (10 R218 to R221; 12 R285, R286). -/

namespace Sys2Proof.Machine

/-! The slot that holds a tag. -/

theorem firstFrom_eq_find? (p : Nat → Bool) (lo n : Nat) : firstFrom p lo n = (List.range' lo n).find? p := by
  induction n generalizing lo with
  | zero => rfl
  | succ n ih =>
    rw [firstFrom, List.range'_succ, List.find?_cons, ih]
    cases p lo <;> rfl

section
variable {s : State} {c tag n : Nat}

theorem tagFind_first (hn : n < slotCount s c) (h : bits (tagEntry s c n) 0 42 = tag + 2 ^ 41)
    (hfirst : ∀ m, m < n → bits (tagEntry s c m) 0 42 ≠ tag + 2 ^ 41) : tagFind s c tag = some n := by
  rw [tagFind, firstFrom_eq_find?, List.find?_range'_eq_some]
  simpa [h, hn] using hfirst

theorem tagFind_absent (h : ∀ n, n < slotCount s c → bits (tagEntry s c n) 0 42 ≠ tag + 2 ^ 41) : tagFind s c tag = none := by
  rw [tagFind, firstFrom_eq_find?, List.find?_range'_eq_none]
  simpa using h

end

/-! Looking for a tag, and installing one. -/

section
variable {f : RForm} {s : State} {k ad : Nat} {t : Thread}

theorem tlook_answers (hi : issues (.tlook f) s k t = true) (hea : ea t (readG s t f.a.toNat) 1 needNone = .ok ad) {r : Option Nat}
    (hr : tagFind s (coreOf k) (ad / 2048) = r) :
    Does (.tlook f) s k t (putScored s k (s.clk + 6) [(f.d.toNat, wd (r.getD 0xFFFF))] []) := by
  refine does_of_next rfl hi ?_
  simp only [hea, hr, after6, scored]

/-- The table after the slot that held a tag has lost it. -/
def tagLost (s : State) (c tag : Nat) : State :=
  match tagFind s c tag with
  | some j => setTagEntry s c j (setBits (tagEntry s c j) 41 1 0)
  | none => s

theorem tagLost_none {c tag : Nat} (h : tagFind s c tag = none) : tagLost s c tag = s := by rw [tagLost, h]

theorem tagLost_some {c tag j : Nat} (h : tagFind s c tag = some j) :
    tagLost s c tag = setTagEntry s c j (setBits (tagEntry s c j) 41 1 0) := by rw [tagLost, h]

/-- A slot's entry is kept under a key that no entry changes. -/
theorem setTagEntry_setTagEntry (s : State) (c j i : Nat) (v w : Word) : setTagEntry (setTagEntry s c j v) c i w =
    { s with tagTab := (s.tagTab.putD (tagKeyOf s c j) 0 v).putD (tagKeyOf s c i) 0 w } := rfl

theorem tset_installs (hi : issues (.tset f) s k t = true) (hslot : (readG s t f.b.toNat).toNat < slotCount s (coreOf k))
    (hea : ea t (readG s t f.a.toNat) 1 needNone = .ok ad) {s1 : State}
    (hs : setTagEntry (tagLost s (coreOf k) (ad / 2048)) (coreOf k) (readG s t f.b.toNat).toNat (wd (ad / 2048 + 2 ^ 41)) = s1) :
    Does (.tset f) s k t (putScored s1 k (s1.clk + 6) [(f.d.toNat, tagEntry s (coreOf k) (readG s t f.b.toNat).toNat)] []) := by
  refine does_of_next rfl hi ?_
  subst hs
  simp only [Nat.not_le.mpr hslot, if_false, hea, after6, scored] <;> rfl

theorem tset_no_slot (hi : issues (.tset f) s k t = true) (hslot : slotCount s (coreOf k) ≤ (readG s t f.b.toNat).toNat) :
    Traps (.tset f) s s k 0x07 (readG s t f.b.toNat) t.pc :=
  traps_of_trap rfl hi (if_pos hslot)

theorem tsetInvalidate_clears (hi : issues (.tsetInvalidate f) s k t = true)
    (hslot : (readG s t f.b.toNat).toNat < slotCount s (coreOf k)) :
    let i := (readG s t f.b.toNat).toNat
    let s2 := setTagEntry s (coreOf k) i (setBits (tagEntry s (coreOf k) i) 41 1 0)
    Does (.tsetInvalidate f) s k t (putScored s2 k (s2.clk + 6) [(f.d.toNat, tagEntry s (coreOf k) i)] []) :=
  does_of_next rfl hi (if_neg (Nat.not_le.mpr hslot))

theorem tsetInvalidate_no_slot (hi : issues (.tsetInvalidate f) s k t = true)
    (hslot : slotCount s (coreOf k) ≤ (readG s t f.b.toNat).toNat) : Traps (.tsetInvalidate f) s s k 0x07 (readG s t f.b.toNat) t.pc :=
  traps_of_trap rfl hi (if_pos hslot)

/-! Bank formats. -/

/-- The values that a bank's register refuses, by their fields. -/
theorem bankFormat_refused_iff (v : Word) : bits v 5 59 ≠ 0 ∨ 14 ≤ bits v 0 4 ↔ v.toNat / 32 ≠ 0 ∨ 14 ≤ v.toNat % 16 := by
  rw [ne_eq, bits_upper_eq_zero_iff v rfl, ne_eq, Nat.div_eq_zero_iff_lt (by decide), bits, Nat.pow_zero, Nat.div_one]
  exact Iff.rfl

theorem bfmt_writes (hi : issues (.bfmt f) s k t = true) (hbank : (readG s t f.a.toNat).toNat < 16 * gangOf s (coreOf k))
    (hv : ¬((opbReg s t f).toNat / 32 ≠ 0 ∨ 14 ≤ (opbReg s t f).toNat % 16)) :
    let key := bankKey s (coreOf k) (readG s t f.a.toNat).toNat
    let s1 := setBank s key 6 (opbReg s t f)
    Does (.bfmt f) s k t (putScored s1 k (s1.clk + 6) [(f.d.toNat, bankReg s key)] []) := by
  refine does_of_next rfl hi ?_
  rw [← bankFormat_refused_iff] at hv
  exact (if_neg (Nat.not_le.mpr hbank)).trans (if_neg hv)

theorem bfmt_refuses (hi : issues (.bfmt f) s k t = true) (hbank : (readG s t f.a.toNat).toNat < 16 * gangOf s (coreOf k))
    (hv : (opbReg s t f).toNat / 32 ≠ 0 ∨ 14 ≤ (opbReg s t f).toNat % 16) : Traps (.bfmt f) s s k 0x07 (opbReg s t f) t.pc :=
  traps_of_trap rfl hi ((if_neg (Nat.not_le.mpr hbank)).trans (if_pos ((bankFormat_refused_iff _).mpr hv)))

theorem bfmtRead_reads (hi : issues (.bfmtRead f) s k t = true) (hbank : (readG s t f.a.toNat).toNat < 16 * gangOf s (coreOf k)) :
    Does (.bfmtRead f) s k t (putScored s k (s.clk + 6)
      [(f.d.toNat, bankReg s (bankKey s (coreOf k) (readG s t f.a.toNat).toNat))] []) :=
  does_of_next rfl hi (if_neg (Nat.not_le.mpr hbank))

/-- The format in effect while and after a bfmt completes (10 R219). -/
theorem bankNow_setBank {key : Nat} (lat : Nat) (v : Word) (h : s.fmtOld.get? key = none) (c : Nat) :
    bankNow { setBank s key lat v with clk := c } key = if c < s.clk + lat + 1 then bankReg s key else v := by
  have hold : ({ setBank s key lat v with clk := c } : State).fmtOld.getD key [] = [(s.clk + lat + 1, bankReg s key)] := by
    simp only [setBank, Tab.getD, Tab.get?_put_self, h, Option.getD_some, Option.getD_none, List.filter_nil, List.nil_append]
  have hnew : bankReg { setBank s key lat v with clk := c } key = v := by simp only [bankReg, setBank, Tab.getD_putD, if_true]
  rw [bankNow, hold, hnew, List.find?_singleton]
  by_cases hc : c < s.clk + lat + 1 <;> simp [hc]

end

/-- Settles O34: the slot that tlook finds, the entry that tset installs or clears, and the register and the effect of bfmt. -/
theorem tagsAndBankFormats : Obligations.TagsAndBankFormats := by
  refine fun f s k t ad => ⟨fun hi hea => ⟨fun n hn h hfirst => ?_, fun h => ?_⟩,
    fun hi hslot hea => ⟨fun hnone => ?_, fun j hsome => ?_⟩, tsetInvalidate_clears, tset_no_slot, tsetInvalidate_no_slot,
    fun hi hbank hhigh hlow => ⟨?_, ?_, ?_⟩, bfmt_refuses, bfmtRead_reads⟩
  · exact (tlook_answers hi hea (tagFind_first hn h hfirst) :)
  · exact (tlook_answers hi hea (tagFind_absent h) :)
  · exact tset_installs hi hslot hea (by rw [tagLost_none hnone]; rfl)
  · exact tset_installs hi hslot hea (by rw [tagLost_some hsome]; exact setTagEntry_setTagEntry ..)
  · exact bfmt_writes hi hbank (by omega)
  · rfl
  · exact bankNow_setBank 6 _

end Sys2Proof.Machine
end

section
/-! Channels (13 R309 to R311; 17 R406): a thread at an end of a channel, and what csend, crecv and cpoll give it. -/

namespace Sys2Proof.Machine

/-- Thread k, in state t, is an end of channel v of its partition, outside every world. -/
def IsChannelEnd (s : State) (k : Nat) (t : Thread) (v : Word) (reader : Bool) : Prop :=
  t.host = false ∧ viewOf t = 0 ∧ v.toNat < 1024 ∧ chanEndpoint s (partOf t) v.toNat reader = some k

section
variable {s : State} {k : Nat} {t : Thread} {v : Word} {ends : List Bool} {g : Nat → Act}

theorem withChannel_of_end {reader : Bool} (he : IsChannelEnd s k t v reader) (hr : reader ∈ ends) :
    withChannel s k t v ends g = g (chanKey (partOf t) v.toNat) := by
  obtain ⟨hhost, hview, hch, hend⟩ := he
  have hany : ends.any (fun r => chanEndpoint s (partOf t) v.toNat r == some k) = true :=
    List.any_eq_true.2 ⟨reader, hr, beq_iff_eq.2 hend⟩
  simp only [withChannel, hhost, hview, Nat.not_le.2 hch, hany, ne_eq, not_true_eq_false, Bool.false_eq_true, if_false, if_true]

/-- A host core is no end, nor is a thread of the root view that no end of an existing channel names. -/
theorem withChannel_of_stranger {reader : Bool}
    (h : t.host = true ∨ (viewOf t = 0 ∧ v.toNat < 1024 ∧ chanEndpoint s (partOf t) v.toNat reader ≠ some k)) :
    withChannel s k t v [reader] g = .trap s 0x32 v := by
  rcases h with hhost | ⟨hview, hch, hend⟩
  · exact if_pos hhost
  · have hany : [reader].any (fun r => chanEndpoint s (partOf t) v.toNat r == some k) = false := by simpa using hend
    simp only [withChannel, hview, Nat.not_le.2 hch, hany, ne_eq, not_true_eq_false, Bool.false_eq_true, if_false, ite_self]

end

/-! What a word sent and a word taken do to the channel. -/

/-- A word sent from core to core: the channel has given a credit for it, and it follows the words under way. -/
def wordSent (s : State) (key core : Nat) (w : Word) : State :=
  { s with chanUsed := s.chanUsed.put key (s.chanUsed.getD key 0 + 1),
           chanWay := s.chanWay.put key (s.chanWay.getD key [] ++ [(core, w)]) }

/-- The newest word's way from thread k to the reader begins, where there is one. -/
def wordOnItsWay (s : State) (now k p ch : Nat) : State :=
  match chanEndpoint s p ch true with
  | some r => sched s (now + chanPath k r) (.channelWordArrive p ch)
  | none => s

theorem wordOnItsWay_some {s : State} {p ch r : Nat} (h : chanEndpoint s p ch true = some r) (now k : Nat) :
    wordOnItsWay s now k p ch = sched s (now + chanPath k r) (.channelWordArrive p ch) := by rw [wordOnItsWay, h]

theorem wordOnItsWay_none {s : State} {p ch : Nat} (h : chanEndpoint s p ch true = none) (now k : Nat) :
    wordOnItsWay s now k p ch = s := by rw [wordOnItsWay, h]

/-- The state in which a channel's buffer has lost its oldest word. -/
def wordTaken (s : State) (key : Nat) (rest : List Word) : State := { s with chanBuf := s.chanBuf.putD key [] rest }

/-- The credit of a word taken: on its way to the writer, or given back at once where the channel has none. -/
def creditGiven (s : State) (k p ch : Nat) : State :=
  match chanEndpoint s p ch false with
  | some x => sched { s with chanBack := s.chanBack.put (chanKey p ch) (s.chanBack.getD (chanKey p ch) 0 + 1) } (s.clk + chanPath k x)
      (.channelCreditReturn p ch)
  | none => { s with chanUsed := s.chanUsed.putD (chanKey p ch) 0 (s.chanUsed.getD (chanKey p ch) 0 - 1) }

theorem creditGiven_some {s : State} {p ch x : Nat} (h : chanEndpoint s p ch false = some x) (k : Nat) :
    creditGiven s k p ch = sched { s with chanBack := s.chanBack.put (chanKey p ch) (s.chanBack.getD (chanKey p ch) 0 + 1) }
      (s.clk + chanPath k x) (.channelCreditReturn p ch) := by rw [creditGiven, h]

theorem creditGiven_none {s : State} {p ch : Nat} (h : chanEndpoint s p ch false = none) (k : Nat) :
    creditGiven s k p ch = { s with chanUsed := s.chanUsed.putD (chanKey p ch) 0 (s.chanUsed.getD (chanKey p ch) 0 - 1) } := by
  rw [creditGiven, h]

section
variable {f : RForm} {s : State} {k : Nat} {t : Thread}

/-! csend (13 R310). -/

section
variable (hi : issues (.csend f) s k t = true) (he : IsChannelEnd s k t (readG s t f.a.toNat) false)
include hi he

theorem csend_waits (hfull : 16 ≤ s.chanUsed.getD (chanKey (partOf t) (readG s t f.a.toNat).toNat) 0) :
    exec (.csend f) s = .next (tick (enterWait s k (wordsOf (.csend f))
      { kind := .chanSend, key := chanKey (partOf t) (readG s t f.a.toNat).toNat, cause := 0x30 })) :=
  waits_of_wait rfl hi ((withChannel_of_end he List.mem_cons_self).trans (if_pos (Nat.sub_eq_zero_of_le hfull)))

theorem csend_sends {s1 s2 : State} {at_ : Nat} (hfree : s.chanUsed.getD (chanKey (partOf t) (readG s t f.a.toNat).toNat) 0 < 16)
    (hrel : releaseAt s k t 3 = .done s1 at_)
    (hs2 : wordOnItsWay (wordSent s1 (chanKey (partOf t) (readG s t f.a.toNat).toNat) (coreOf k) (opbReg s t f)) s.clk k (partOf t)
      (readG s t f.a.toNat).toNat = s2) : Does (.csend f) s k t s2 := by
  subst hs2
  refine does_of_next rfl hi ((withChannel_of_end he List.mem_cons_self).trans ?_)
  simp only [chanCredits, Nat.sub_ne_zero_of_lt hfree, if_false, hrel, wbAct]
  rfl

end

theorem csend_refused (hi : issues (.csend f) s k t = true)
    (h : t.host = true ∨ (viewOf t = 0 ∧ (readG s t f.a.toNat).toNat < 1024 ∧
      chanEndpoint s (partOf t) (readG s t f.a.toNat).toNat false ≠ some k)) :
    Traps (.csend f) s s k 0x32 (readG s t f.a.toNat) t.pc :=
  traps_of_trap rfl hi (withChannel_of_stranger h)

/-! crecv (13 R310). -/

section
variable (hi : issues (.crecv f) s k t = true) (he : IsChannelEnd s k t (readG s t f.a.toNat) true)
include hi he

theorem crecv_waits (hnone : s.chanBuf.getD (chanKey (partOf t) (readG s t f.a.toNat).toNat) [] = []) :
    exec (.crecv f) s = .next (tick (enterWait s k (wordsOf (.crecv f))
      { kind := .chanRecv, key := chanKey (partOf t) (readG s t f.a.toNat).toNat, cause := 0x31 })) := by
  refine waits_of_wait rfl hi ((withChannel_of_end he List.mem_cons_self).trans ?_)
  simp only [chanWords, hnone]

theorem crecv_takes {w : Word} {rest : List Word} {s2 : State}
    (hsome : s.chanBuf.getD (chanKey (partOf t) (readG s t f.a.toNat).toNat) [] = w :: rest)
    (hs2 : creditGiven (wordTaken s (chanKey (partOf t) (readG s t f.a.toNat).toNat) rest) k (partOf t)
      (readG s t f.a.toNat).toNat = s2) :
    Does (.crecv f) s k t (holdUntil (putScored (acquireAt s2 k t 3).1 k ((acquireAt s2 k t 3).1.clk + 10) [(f.d.toNat, w)] []) k
      (s.clk + (acquireAt s2 k t 3).2)) := by
  subst hs2
  refine does_of_next rfl hi ((withChannel_of_end he List.mem_cons_self).trans ?_)
  simp only [chanWords, hsome, scored]
  rfl

end

theorem crecv_refused (hi : issues (.crecv f) s k t = true)
    (h : t.host = true ∨ (viewOf t = 0 ∧ (readG s t f.a.toNat).toNat < 1024 ∧
      chanEndpoint s (partOf t) (readG s t f.a.toNat).toNat true ≠ some k)) :
    Traps (.crecv f) s s k 0x32 (readG s t f.a.toNat) t.pc :=
  traps_of_trap rfl hi (withChannel_of_stranger h)

/-! cpoll (13 R311). -/

theorem cpoll_counts_words (hi : issues (.cpoll f) s k t = true) (he : IsChannelEnd s k t (readG s t f.a.toNat) true) :
    Does (.cpoll f) s k t (putScored s k (s.clk + 10)
      [(f.d.toNat, wd (s.chanBuf.getD (chanKey (partOf t) (readG s t f.a.toNat).toNat) []).length)] []) :=
  does_of_next rfl hi ((withChannel_of_end he List.mem_cons_self).trans (if_pos he.2.2.2))

theorem cpoll_counts_credits (hi : issues (.cpoll f) s k t = true) (he : IsChannelEnd s k t (readG s t f.a.toNat) false)
    (hne : chanEndpoint s (partOf t) (readG s t f.a.toNat).toNat true ≠ some k) :
    Does (.cpoll f) s k t (putScored s k (s.clk + 4)
      [(f.d.toNat, wd (s.chanUsed.getD (chanKey (partOf t) (readG s t f.a.toNat).toNat) 0))] []) :=
  does_of_next rfl hi ((withChannel_of_end he (List.mem_cons_of_mem _ List.mem_cons_self)).trans (if_neg hne))

end

/-! What arrives (13 R310). -/

section
variable {s : State} {p ch : Nat}

theorem exec_channelWordArrive {w : Nat × Word} {rest : List (Nat × Word)} (h : s.chanWay.getD (chanKey p ch) [] = w :: rest) :
    exec (.channelWordArrive p ch) s = .next { s with
      chanWay := s.chanWay.putD (chanKey p ch) [] rest,
      chanBuf := s.chanBuf.put (chanKey p ch) (s.chanBuf.getD (chanKey p ch) [] ++ [w.2]) } := by
  change execChannelWordArrive p ch s = _
  simp only [execChannelWordArrive, h, chanWords]

theorem exec_channelCreditReturn (h : s.chanBack.getD (chanKey p ch) 0 ≠ 0) :
    exec (.channelCreditReturn p ch) s = .next { s with
      chanBack := s.chanBack.putD (chanKey p ch) 0 (s.chanBack.getD (chanKey p ch) 0 - 1),
      chanUsed := s.chanUsed.putD (chanKey p ch) 0 (s.chanUsed.getD (chanKey p ch) 0 - 1) } :=
  congrArg Host.Outcome.next (if_neg h)

end

/-- Settles O41: a channel's ends send, receive and count, or wait; others take 0x32; words and credits arrive. -/
theorem channels : Obligations.Channels := by
  refine fun f s k t => ⟨fun hi he => ⟨csend_waits hi he, fun s1 at_ hfree hrel => ⟨fun r hr => ?_, fun hr => ?_⟩⟩,
    fun hi he => ⟨crecv_waits hi he, fun w rest hsome => ⟨fun x hx => ?_, fun hx => ?_⟩⟩,
    fun hi => ⟨cpoll_counts_words hi, cpoll_counts_credits hi⟩, csend_refused, crecv_refused,
    fun q c w rest h => ?_, fun q c h => ?_⟩
  · exact csend_sends hi he hfree hrel (wordOnItsWay_some hr ..)
  · exact csend_sends hi he hfree hrel (wordOnItsWay_none hr ..)
  · exact crecv_takes hi he hsome (creditGiven_some hx _)
  · exact crecv_takes hi he hsome (creditGiven_none hx _)
  · exact ⟨_, exec_channelWordArrive h, (Tab.getD_put ..).trans (if_pos rfl), (Tab.getD_putD ..).trans (if_pos rfl), rfl, rfl⟩
  · exact ⟨_, exec_channelCreditReturn h, (Tab.getD_putD ..).trans (if_pos rfl), (Tab.getD_putD ..).trans (if_pos rfl), rfl, rfl⟩

end Sys2Proof.Machine
end

section
/-! Mailboxes (13 R295, R312 to R316; 16 R394): sending and receiving, and how a message that arrives, a post or a held message
enters a mailbox. -/

namespace Sys2Proof.Machine

/-! One mailbox, and a message taken out of it. -/

theorem mboxOf_setMbox_same (s : State) (c : Nat) (m : Mailbox) : mboxOf (setMbox s c m) c = m := by
  simp only [mboxOf, setMbox, Tab.getD_putD, if_true]

/-- A message whose stores meet no fault is taken: it leaves the mailbox and stands in memory. -/
theorem takeMessage_ok {s : State} {k c a : Nat} {t : Thread} {ptr : Word} {msg : List Byte} {rest : List (List Byte)} {g : Put}
    (hea : ea t ptr 64 needW = .ok a) (hg : storeRange s k t ptr a msg = .ok g) :
    takeMessage s k c t ptr msg rest = .ok (noteStore (setMbox g.s c { mboxOf g.s c with msgs := rest }) k g) := by
  simp only [takeMessage, hea, hg]

/-! mbsend (13 R312, R313; 16 R394). -/

section
variable {f : RForm} {s : State} {k a : Nat} {t : Thread}

theorem mbsend_refused {c : Nat} {info : Word} (hi : issues (.mbsend f) s k t = true)
    (hbad : mbsendBad s t (.mbsend f) (readG s t f.a.toNat) = some (c, info)) : Traps (.mbsend f) s s k c info t.pc := by
  refine traps_of_trap rfl hi ?_
  simp only [hbad]

/-- The destination has no room, or an earlier message of the thread's own is still held for it. -/
def mustHold (s : State) (k dst : Nat) : Bool :=
  mboxFull s dst || s.posts.any (fun h => h.part == none && h.core == dst && h.owner == k)

section
variable (hi : issues (.mbsend f) s k t = true) (hgood : mbsendBad s t (.mbsend f) (readG s t f.a.toNat) = none)
  (hea : ea t (readG s t f.b.toNat) 64 needR = .ok a) (ha : a % 8 = 0)
include hi hgood hea ha

theorem mbsend_waits (hv : viewOf t = 0) (hport : bit (readG s t f.a.toNat) 16 = false)
    (hhold : mustHold s k (bits (readG s t f.a.toNat) 0 16) = true) :
    exec (.mbsend f) s = .next (tick (enterWait s k (wordsOf (.mbsend f))
      { kind := .mailSend, key := bits (readG s t f.a.toNat) 0 16, cause := 0x3E, info := readG s t f.a.toNat })) := by
  refine waits_of_wait rfl hi ?_
  simp only [hgood, hea, ha, ne_eq, not_true_eq_false, if_false]
  exact if_pos ⟨hv, hport, hhold⟩

section
variable {g : Got} (hg : loadRange s k t (readG s t f.b.toNat) a 64 = .ok g)
include hg

theorem mbsend_sends (hv : viewOf t = 0) (hport : bit (readG s t f.a.toNat) 16 = false)
    (hfree : mustHold s k (bits (readG s t f.a.toNat) 0 16) = false) :
    let dst := bits (readG s t f.a.toNat) 0 16
    let at_ := max (s.clk + g.lat + mailFigure k dst) t.mailAt
    Does (.mbsend f) s k t (sched (modThr (setMbox g.s dst { mboxOf g.s dst with reserved := (mboxOf g.s dst).reserved + 1 }) k
      (fun u => { u with mailAt := at_ })) at_ (.mailboxArrive dst k g.bytes)) := by
  unfold mustHold at hfree
  refine does_of_next rfl hi ?_
  simp only [hgood, hea, ha, hg, hfree, hv, hport, ne_eq, not_true_eq_false, Bool.false_eq_true, and_false, if_false]

theorem mbsend_replies (hv : viewOf t = 0) (hport : bit (readG s t f.a.toNat) 16 = true) :
    Does (.mbsend f) s k t (sendReply g.s (s.clk + g.lat + mailFigure k (bits (readG s t f.a.toNat) 0 16))
      (bits (readG s t f.a.toNat) 0 16) g.bytes) := by
  refine does_of_next rfl hi ?_
  simp only [hgood, hea, ha, hg, hv, hport, ne_eq, not_true_eq_false, Bool.true_eq_false, false_and, and_false, if_false, if_true]

theorem mbsend_in_world {s1 : State} (hv : viewOf t ≠ 0)
    (hop : holdOp g.s (partOf t) (viewOf t) ⟨3, (readG s t f.a.toNat).toNat, 64, 0, 0, g.bytes, t.pc, k⟩ = some s1) :
    Does (.mbsend f) s k t s1 := by
  refine does_of_next rfl hi ?_
  simp only [hgood, hea, ha, hg, hv, hop, ne_eq, not_true_eq_false, not_false_eq_true, false_and, if_false, if_true]

end

end

/-! mbrecv (13 R316). -/

theorem petWatchdog_mboxes (s : State) (k : Nat) (t : Thread) : (petWatchdog s k t).mboxes = s.mboxes := by
  unfold petWatchdog
  split <;> rfl

theorem mboxOf_petWatchdog (s : State) (k : Nat) (t : Thread) (c : Nat) : mboxOf (petWatchdog s k t) c = mboxOf s c := by
  rw [mboxOf, petWatchdog_mboxes, ← mboxOf]

section
variable (hi : issues (.mbrecv f) s k t = true) (hh : t.host = false)
include hi hh

theorem mbrecv_in_world (hv : viewOf t ≠ 0) : Traps (.mbrecv f) s s k 0x43 (readG s t f.a.toNat) t.pc := by
  refine traps_of_trap rfl hi ?_
  simp only [hh, hv, ne_eq, not_false_eq_true, Bool.false_eq_true, if_false, if_true]

variable (hv : viewOf t = 0) (hea : ea t (readG s t f.a.toNat) 64 needW = .ok a) (ha : a % 8 = 0)
include hv hea ha

theorem mbrecv_waits (hnone : (mboxOf s (coreOf k)).msgs = []) :
    exec (.mbrecv f) s = .next (tick (enterWait (petWatchdog s k t) k (wordsOf (.mbrecv f))
      { kind := .mailRecv, key := coreOf k, arg := readG s t f.a.toNat, dst := f.d.toNat, cause := 0x31 })) := by
  refine waits_of_wait rfl hi ?_
  simp only [hh, hv, hea, ha, mboxOf_petWatchdog, hnone, ne_eq, not_true_eq_false, Bool.false_eq_true, if_false]

theorem mbrecv_takes {msg : List Byte} {rest : List (List Byte)} {g : Put} (hsome : (mboxOf s (coreOf k)).msgs = msg :: rest)
    (hg : storeRange (petWatchdog s k t) k t (readG s t f.a.toNat) a msg = .ok g) :
    let s1 := noteStore (setMbox g.s (coreOf k) { mboxOf g.s (coreOf k) with msgs := rest }) k g
    Does (.mbrecv f) s k t (putScored s1 k (s1.clk + 10) [(f.d.toNat, wd rest.length)] []) := by
  refine does_of_next rfl hi ?_
  simp only [hh, hv, hea, ha, mboxOf_petWatchdog, hsome, takeMessage_ok hea hg, scored, ne_eq, not_true_eq_false,
    Bool.false_eq_true, if_false]

end

/-- An arming or its end in the root view of a device thread: the mailbox with its notifier changed, and the one before in D. -/
theorem withNotifier_device {i : Instr} {d : BitVec 7} {change : Mailbox → Mailbox} (hh : t.host = false) (hv : viewOf t = 0) :
    withNotifier s k t i d change = .next (putScored (setMbox s (coreOf k) (change (mboxOf s (coreOf k)))) k (s.clk + 10)
      [(d.toNat, notifierWord (mboxOf s (coreOf k)))] []) := by
  simp only [withNotifier, hh, hv, ne_eq, not_true_eq_false, Bool.false_eq_true, if_false]
  rfl

theorem mbrecvArm_arms (hi : issues (.mbrecvArm f) s k t = true) (hh : t.host = false) (hv : viewOf t = 0) :
    Does (.mbrecvArm f) s k t (putScored (setMbox s (coreOf k) { mboxOf s (coreOf k) with notifier := some k }) k (s.clk + 10)
      [(f.d.toNat, notifierWord (mboxOf s (coreOf k)))] []) :=
  does_of_next rfl hi (withNotifier_device hh hv)

theorem disarmed_eq (m : Mailbox) (k : Nat) : (if m.notifier = some k then { m with notifier := none } else m) =
    { m with notifier := if m.notifier = some k then none else m.notifier } := by
  split <;> rfl

theorem mbrecvDisarm_disarms (hi : issues (.mbrecvDisarm f) s k t = true) (hh : t.host = false) (hv : viewOf t = 0) :
    Does (.mbrecvDisarm f) s k t (putScored (setMbox s (coreOf k)
      { mboxOf s (coreOf k) with notifier := if (mboxOf s (coreOf k)).notifier = some k then none else (mboxOf s (coreOf k)).notifier })
      k (s.clk + 10) [(f.d.toNat, notifierWord (mboxOf s (coreOf k)))] []) := by
  refine does_of_next rfl hi ((withNotifier_device hh hv).trans ?_)
  rw [disarmed_eq]

end

/-! A message that reaches its mailbox (13 R315, R316). -/

section
variable {s : State} {c : Nat}

theorem waiters_of_threads {u : State} (h : u.threads = s.threads) (pick : Nat → Thread → Wait → Bool) :
    waiters u pick = waiters s pick := by rw [waiters, h, ← waiters]

theorem firstReceiver_of_threads {u : State} (h : u.threads = s.threads) : firstReceiver u c = firstReceiver s c := by
  rw [firstReceiver, waiters_of_threads h, ← firstReceiver]

theorem mboxDeliver_keeps (msg : List Byte) (hn : (mboxOf s c).notifier = none) (hr : firstReceiver s c = none) :
    mboxDeliver s c msg = setMbox s c { mboxOf s c with msgs := (mboxOf s c).msgs ++ [msg] } := by
  have hr' (m : Mailbox) : firstReceiver (setMbox s c m) c = none := (firstReceiver_of_threads rfl).trans hr
  simp only [mboxDeliver, hn, serveReceiver, hr']

theorem mboxDeliver_serves {j : Nat} {w : Wait} {t : Thread} {msg : List Byte} {s1 : State} (hn : (mboxOf s c).notifier = none)
    (hr : firstReceiver s c = some (j, w)) (ht : thr s j = some t) (hempty : (mboxOf s c).msgs = [])
    (htake : takeMessage (setMbox s c { mboxOf s c with msgs := [msg] }) j c t w.arg msg [] = .ok s1) :
    mboxDeliver s c msg = finishWait s1 j [(w.dst, 0)] (s.clk + 10) s.clk := by
  have hr' (m : Mailbox) : firstReceiver (setMbox s c m) c = some (j, w) := (firstReceiver_of_threads rfl).trans hr
  have ht' (m : Mailbox) : thr (setMbox s c m) j = some t := ht
  simp only [hn] at htake
  simp only [mboxDeliver, hn, serveReceiver, hr', mboxOf_setMbox_same, hempty, List.nil_append, ht', htake]
  rfl

/-- A mailbox with the entry of a message given back. -/
def entryFreed (s : State) (c : Nat) : State := setMbox s c { mboxOf s c with reserved := (mboxOf s c).reserved - 1 }

theorem exec_mailboxArrive (c j : Nat) (msg : List Byte) (s : State) :
    exec (.mailboxArrive c j msg) s = .next (mboxDeliver (entryFreed s c) c msg) := rfl

theorem mboxOf_entryFreed : mboxOf (entryFreed s c) c = { mboxOf s c with reserved := (mboxOf s c).reserved - 1 } :=
  mboxOf_setMbox_same ..

end

/-! Posts and held messages, each alone (13 R315; 16 R394). -/

section
variable {pick : State → Held → Bool} {s : State} {c : Nat} {h : Held} (retry : Instr) (hposts : s.posts = [h])

/-- One try of a mailbox's messages: what it accepts of those that are due, and the others' next try. -/
def offer (pick : State → Held → Bool) (l : List Held) (s : State) (c : Nat) (retry : Instr) : State :=
  holdPosts (acceptHeld (fun a h => pick a h && decide (h.next ≤ a.clk)) l s c) pick retry

theorem exec_postRetry (c : Nat) (s : State) :
    exec (.postRetry c) s = .next (offer (fun a h => postsFor a c h) (postOrder s.posts) s c (.postRetry c)) := rfl

theorem exec_heldMbsendRetry (c : Nat) (s : State) :
    exec (.heldMbsendRetry c) s = .next (offer (keptFor c) s.posts s c (.heldMbsendRetry c)) := rfl

include hposts

theorem offer_accepts (hpick : pick s h = true) (hdue : h.next ≤ s.clk) (hroom : mboxFull s c = false)
    (hn : (mboxOf s c).notifier = none) (hr : firstReceiver s c = none) :
    offer pick [h] s c retry =
      setMbox { s with posts := [] } c { mboxOf s c with msgs := (mboxOf s c).msgs ++ [h.msg] } := by
  have hkept : mboxDeliver { s with posts := [] } c h.msg =
      setMbox { s with posts := [] } c { mboxOf s c with msgs := (mboxOf s c).msgs ++ [h.msg] } :=
    mboxDeliver_keeps h.msg hn ((firstReceiver_of_threads rfl).trans hr)
  have herase : s.posts.erase h = [] := by rw [hposts, List.erase_cons_head]
  simp only [offer, acceptHeld, hpick, hdue, hroom, decide_true, Bool.not_false, Bool.and_self, if_true, herase, hkept, holdPosts]
  rfl

theorem offer_holds (hpick : pick s h = true) (hdue : h.next ≤ s.clk) (hfull : mboxFull s c = true) :
    offer pick [h] s c retry = sched { s with posts := [{ h with next := s.clk + 256 }] } (s.clk + 256) retry := by
  simp only [offer, acceptHeld, hfull, Bool.not_true, Bool.and_false, Bool.false_eq_true, if_false, holdPosts, hposts, List.any_cons,
    List.any_nil, List.map_cons, List.map_nil, hpick, hdue, decide_true, Bool.and_self, Bool.or_false, if_true]

theorem offer_early (hclk : s.clk < h.next) : offer pick [h] s c retry = s := by
  simp only [offer, acceptHeld, Nat.not_le.2 hclk, decide_false, Bool.and_false, Bool.false_and, Bool.false_eq_true, if_false,
    holdPosts, hposts, List.any_cons, List.any_nil, Bool.or_self]

end

/-- Settles O42: what mbsend and mbrecv do, wait for or refuse, and how messages, posts and held messages enter a mailbox. -/
theorem mailboxes : Obligations.Mailboxes := by
  refine fun f s k t a => ⟨fun hi c info => mbsend_refused hi, fun hi hgood hea ha => ⟨?_, ?_, ?_, ?_⟩,
    fun hi hh hv hea ha => ⟨?_, ?_⟩, mbrecv_in_world, mbrecvArm_arms, mbrecvDisarm_disarms,
    fun c j msg hn => ⟨fun hr => ?_, fun j2 w t2 s1 hr ht hempty htake => ?_⟩,
    fun c h hposts hpick hdue hroom hn hr => ?_, fun c h hposts hpick hdue hfull => ?_, fun c h hposts hclk => ?_,
    fun c h hposts hpart hcore hdue hn => ⟨fun hroom hr => ?_, fun hfull => ?_⟩⟩
  · exact mbsend_waits hi hgood hea ha
  · exact fun g hg => mbsend_sends hi hgood hea ha hg
  · exact fun g hg => mbsend_replies hi hgood hea ha hg
  · exact fun g s1 hg => mbsend_in_world hi hgood hea ha hg
  · exact mbrecv_waits hi hh hv hea ha
  · exact fun msg rest g => mbrecv_takes hi hh hv hea ha
  · have hkept := mboxDeliver_keeps (s := entryFreed s c) msg (by rw [mboxOf_entryFreed, hn]) ((firstReceiver_of_threads rfl).trans hr)
    rw [mboxOf_entryFreed] at hkept
    exact ⟨_, (exec_mailboxArrive ..).trans (congrArg _ hkept), by rw [mboxOf_setMbox_same], by rw [mboxOf_setMbox_same], rfl,
      rfl, rfl, rfl, rfl⟩
  · refine (exec_mailboxArrive ..).trans (congrArg _ (mboxDeliver_serves (s := entryFreed s c) ?_ ?_ ht ?_ ?_))
    · rw [mboxOf_entryFreed, hn]
    · exact (firstReceiver_of_threads rfl).trans hr
    · rw [mboxOf_entryFreed, hempty]
    · rw [mboxOf_entryFreed]
      exact htake
  · rw [exec_postRetry, hposts]
    exact ⟨_, congrArg _ (offer_accepts _ hposts hpick hdue hroom hn hr), by rw [mboxOf_setMbox_same], rfl, rfl⟩
  · rw [exec_postRetry, hposts]
    exact ⟨_, congrArg _ (offer_holds _ hposts hpick hdue hfull), rfl, (mem_sched ..).2 (.inl rfl)⟩
  · rw [exec_postRetry, hposts]
    exact congrArg _ (offer_early _ hposts hclk)
  · have hpick : keptFor c s h = true := by simp [keptFor, hpart, hcore]
    rw [exec_heldMbsendRetry, hposts]
    exact ⟨_, congrArg _ (offer_accepts _ hposts hpick hdue hroom hn hr), rfl, by rw [mboxOf_setMbox_same]⟩
  · have hpick : keptFor c s h = true := by simp [keptFor, hpart, hcore]
    rw [exec_heldMbsendRetry, hposts]
    exact ⟨_, congrArg _ (offer_holds _ hposts hpick hdue hfull), rfl, (mem_sched ..).2 (.inl rfl)⟩

end Sys2Proof.Machine
end

section
/-! Sparse tables: a change of a key that is absent, and writes at the keys of a list. -/

namespace Sys2Proof.Tab

variable {α : Type}

theorem modify_absent {t : Tab α} {k : Nat} (h : t.get? k = none) (f : α → α) : t.modify k f = t := by
  rw [modify, h]

/-- After writes at the keys of a list, each of them holds its own value, and every other key what it held. -/
theorem getD_foldl_putD [DecidableEq α] (d : α) (f : Nat → α) (l : List Nat) (t : Tab α) (k : Nat) :
    (l.foldl (fun a j => a.putD j d (f j)) t).getD k d = if k ∈ l then f k else t.getD k d := by
  induction l generalizing t with
  | nil => rfl
  | cons j l ih =>
    rw [List.foldl_cons, ih, getD_putD]
    by_cases hl : k ∈ l
    · simp [hl]
    · by_cases hj : j = k
      · simp [hj]
      · simp [hl, hj, Ne.symm hj]

end Sys2Proof.Tab
end

section
/-! What the bookkeeping of placements leaves alone: the agenda, the slot tables and the marks of idle cores are all that it
writes (13 R303, R308; 15 R352, R355, R357, R370). -/

namespace Sys2Proof.Machine

/-- A state beside its agenda, its slot tables and its marks of idle cores. -/
def besidePlaces (s : State) : State := { s with agenda := [], slots := [], slotNow := [], idleAt := [] }

section
variable {s u : State}

theorem threads_of_besidePlaces (h : besidePlaces u = besidePlaces s) : u.threads = s.threads := (congrArg State.threads h :)

theorem mem_of_besidePlaces (h : besidePlaces u = besidePlaces s) : u.mem = s.mem := (congrArg State.mem h :)

theorem nodes_of_besidePlaces (h : besidePlaces u = besidePlaces s) : u.nodes = s.nodes := (congrArg State.nodes h :)

theorem deques_of_besidePlaces (h : besidePlaces u = besidePlaces s) : u.deques = s.deques := (congrArg State.deques h :)

theorem pspr_of_besidePlaces (h : besidePlaces u = besidePlaces s) : u.pspr = s.pspr := (congrArg State.pspr h :)

theorem viewEnd_of_besidePlaces (h : besidePlaces u = besidePlaces s) : u.viewEnd = s.viewEnd := (congrArg State.viewEnd h :)

end

/-! The agenda. -/

theorem besidePlaces_sched (s : State) (due : Nat) (i : Instr) : besidePlaces (sched s due i) = besidePlaces s := rfl

theorem besidePlaces_pokeDispatch (s : State) (p : Nat) : besidePlaces (pokeDispatch s p) = besidePlaces s := by
  unfold pokeDispatch
  split <;> rfl

theorem besidePlaces_noteIdle (s : State) (c : Nat) : besidePlaces (noteIdle s c) = besidePlaces s := by
  unfold noteIdle
  extract_lets
  split <;> rfl

theorem besidePlaces_armSprouts (s : State) (p c : Nat) : besidePlaces (armSprouts s p c) = besidePlaces s := by
  have hone (a : State) (i : Instr) :
      besidePlaces (if a.agenda.any (fun q => q.2 == i) then a else sched a (next64 a.clk) i) = besidePlaces a := by split <;> rfl
  refine (foldl_keeps besidePlaces _ (fun a x => ?_) _ _).trans (hone s _)
  split
  · rfl
  · exact hone a _

theorem besidePlaces_channelsPlaced (s : State) (k : Nat) (t : Thread) : besidePlaces (channelsPlaced s k t) = besidePlaces s := by
  refine foldl_keeps besidePlaces _ (fun a q => ?_) _ _
  split
  · exact foldl_keeps besidePlaces _ (fun b w => besidePlaces_sched ..) _ _
  · rfl

/-! The slot tables. -/

theorem besidePlaces_putSlot (s : State) (c i : Nat) (v : Word) : besidePlaces (putSlot s c i v) = besidePlaces s := by
  unfold putSlot
  split <;> rfl

theorem besidePlaces_emptySlots (s : State) (c x : Nat) (keep : List Nat) : besidePlaces (emptySlots s c x keep) = besidePlaces s := by
  refine foldl_keeps besidePlaces _ (fun a i => ?_) _ _
  split
  · exact besidePlaces_putSlot ..
  · rfl

theorem besidePlaces_emptyShare (s : State) (c n : Nat) : besidePlaces (emptyShare s c n) = besidePlaces s := by
  refine foldl_keeps besidePlaces _ (fun a i => ?_) _ _
  split
  · exact besidePlaces_putSlot ..
  · rfl

theorem besidePlaces_dispSlots (s : State) (c : Nat) {f : State → State} (hf : besidePlaces (f s) = besidePlaces s) :
    besidePlaces (dispSlots s c f) = besidePlaces s := hf

theorem besidePlaces_takeSlots (s : State) (c : Nat) (r : Room) : besidePlaces (takeSlots s c r) = besidePlaces s := by
  unfold takeSlots
  extract_lets v
  split
  · rfl
  · exact besidePlaces_dispSlots _ _ (foldl_keeps besidePlaces _ (fun a i => besidePlaces_putSlot ..) _ _)

theorem besidePlaces_leaveSlots (s : State) (k : Nat) (t : Thread) : besidePlaces (leaveSlots s k t) = besidePlaces s := by
  unfold leaveSlots
  extract_lets c
  split
  · split
    · rfl
    · exact besidePlaces_dispSlots _ _ (besidePlaces_emptyShare ..)
  · split
    · rfl
    · exact besidePlaces_dispSlots _ _ (besidePlaces_emptySlots ..)

end Sys2Proof.Machine
end

section
/-! Launching nodes (13 R301), and the deques of sprouts (13 R305 to R307). -/

namespace Sys2Proof.Machine

/-! A node's report (13 R299) writes its record alone. -/

theorem nodeReport_frame (s : State) (key : Nat) :
    nodeReport s key = { s with mem := (nodeReport s key).mem, free := (nodeReport s key).free } := by
  unfold nodeReport
  split
  · rfl
  · exact (congrArg (fun u : State => { u with free := s.free + 1 }) (wrMemBytes_frame ..) :)

theorem nodeReport_nodes (s : State) (key : Nat) : (nodeReport s key).nodes = s.nodes := by rw [nodeReport_frame]

section
variable (s : State) (key : Nat) (f : Node → Node)

theorem modNode_nodes : (modNode s key f).nodes = s.nodes.modify key f := nodeReport_nodes ..

theorem modNode_threads : (modNode s key f).threads = s.threads := by rw [modNode, nodeReport_frame]

theorem modNode_deques : (modNode s key f).deques = s.deques := by rw [modNode, nodeReport_frame]

end

/-! launch (13 R301). -/

section
variable {f : RForm} {s : State} {k a : Nat} {t : Thread}

theorem launch_in_world (hi : issues (.launch f) s k t = true) (hv : viewOf t ≠ 0) :
    Traps (.launch f) s s k 0x4B (readG s t f.a.toNat) t.pc :=
  traps_of_trap rfl hi (if_pos hv)

/-- A record checked and answered: its node is queued, or its status stands in it. -/
def launchDone (s : State) (key st : Nat) (bs : List Byte) (vaddr : Word) (hint : Nat × Nat) : State :=
  if st = 0 then acceptNode s key bs vaddr hint
  else { wrMem s (key + 0x51) (BitVec.ofNat 8 st) with nodes := s.nodes }

theorem launch_answers {g : Got} {s1 s2 : State} {at_ key : Nat} (hi : issues (.launch f) s k t = true) (hv : viewOf t = 0)
    (hea : ea t (readG s t f.a.toNat) 128 needRW = .ok a) (ha : a % 128 = 0)
    (hg : loadRange s k t (readG s t f.a.toNat) a 128 = .ok g) (hrel : releaseAt g.s k t 3 = .done s1 at_)
    (hloc : recordLoc s1 k t (readG s t f.a.toNat) a = some key) (hnew : nodeOf s1 key = none)
    {bs : List Byte} (hbs : (upFrom key 128).map (rdMem s1) = bs) {st : Nat}
    (hst : launchStatus s1 (if t.host || supOf t then none else some (partOf t)) bs (fieldOf bs 0x50 1) = st)
    (hs2 : launchDone s1 key st bs (wd a) (launchHint k t (((tailExt f.t).map (fun e => e.hb.toNat)).getD 0) a) = s2) :
    Does (.launch f) s k t (holdUntil (putScored s2 k (s.clk + g.lat + 24) [(f.d.toNat, wd st)] []) k at_) := by
  refine does_of_next rfl hi ?_
  simp only [hv, hea, ha, hg, hrel, wbAct, hloc, hnew, hbs, hst, Tab.modify_absent hnew, ← hs2, launchDone, ne_eq, not_true_eq_false,
    if_false]

theorem acceptNode_nodes (s : State) (key : Nat) (bs : List Byte) (vaddr : Word) (hint : Nat × Nat) :
    ∃ n, (acceptNode s key bs vaddr hint).nodes.get? key = some n ∧ n.state = (if fieldOf bs 0x20 4 = 0 then 2 else 1) ∧
      n.count = fieldOf bs 0x10 4 ∧ n.entry = wd (fieldOf bs 0 8) ∧ (fieldOf bs 0x20 4 = 0 → n.qclk = s.clk) := by
  unfold acceptNode
  extract_lets n kn seg0 m
  have hnodes : (pokeDispatch (nodeReport { s with nodes := s.nodes.put key m } key) n.part).nodes = s.nodes.put key m := by
    rw [nodes_of_besidePlaces (besidePlaces_pokeDispatch ..), nodeReport_nodes]
  rw [hnodes]
  exact ⟨m, Tab.get?_put_self .., rfl, rfl, rfl, fun hpreds => if_pos hpreds⟩

/-! spawn (13 R306). -/

theorem spawn_outside_node (hi : issues (.spawn f) s k t = true) (hn : t.node = none) : Traps (.spawn f) s s k 0x07 0 t.pc := by
  refine traps_of_trap rfl hi ?_
  simp only [hn]

/-- The deque of a core with a sprout at its end, the sprout counted by its node, and its starts due. -/
def sproutAdded (s : State) (p c : Nat) (x : Sprout) : State :=
  armSprouts (modNode { s with deques := s.deques.put c (dequeOf s c ++ [x]) } x.node (fun n => { n with sprouts := n.sprouts + 1 })) p c

/-- The sprout that a thread of a node makes of a record. -/
def sproutOf (t : Thread) (key : Nat) (bs : List Byte) : Sprout := ⟨bs, key, viewOf t, bits (getSpr t rWDEPTH) 0 3, podOf t⟩

section
variable {g : Got} {key : Nat} (hi : issues (.spawn f) s k t = true) (hn : t.node = some key)
  (hea : ea t (readG s t f.a.toNat) 32 needR = .ok a) (ha : a % 8 = 0) (hg : loadRange s k t (readG s t f.a.toNat) a 32 = .ok g)
  (hzero : allZero (g.bytes.drop 0x1A) = true) (hentry : fieldOf g.bytes 0 8 < 2 ^ 52) (hpod : fieldOf g.bytes 0x18 2 = podOf t)
include hi hn hea ha hg hzero hentry hpod

theorem spawn_full (hfull : 64 ≤ (dequeOf g.s (coreOf k)).length) : Traps (.spawn f) s g.s k 0x37 0 t.pc := by
  refine traps_of_trap rfl hi ?_
  simp only [hn, hea, ha, hg, hzero, Nat.not_le.2 hentry, hpod, hfull, ne_eq, not_true_eq_false, Bool.true_eq_false, or_self,
    if_false, if_true]

theorem spawn_adds (hroom : (dequeOf g.s (coreOf k)).length < 64) :
    let s1 := sproutAdded g.s (partOf t) (coreOf k) (sproutOf t key g.bytes)
    Does (.spawn f) s k t (putScored s1 k (s1.clk + (g.lat + 4)) [(f.d.toNat, wd ((dequeOf g.s (coreOf k)).length + 1))] []) := by
  refine does_of_next rfl hi ?_
  simp only [hn, hea, ha, hg, hzero, Nat.not_le.2 hentry, hpod, Nat.not_le.2 hroom, ne_eq, not_true_eq_false, Bool.true_eq_false,
    or_self, if_false, scored, List.length_append, List.length_singleton]
  rfl

end

theorem sproutAdded_frame (s : State) (p c : Nat) (x : Sprout) :
    dequeOf (sproutAdded s p c x) c = dequeOf s c ++ [x] ∧ (sproutAdded s p c x).threads = s.threads ∧
    (sproutAdded s p c x).nodes = s.nodes.modify x.node (fun n => { n with sprouts := n.sprouts + 1 }) := by
  have h : besidePlaces (sproutAdded s p c x) = besidePlaces (modNode _ x.node _) := besidePlaces_armSprouts ..
  refine ⟨?_, (threads_of_besidePlaces h).trans (modNode_threads ..), (nodes_of_besidePlaces h).trans (modNode_nodes ..)⟩
  rw [dequeOf, deques_of_besidePlaces h, modNode_deques]
  exact (Tab.getD_put ..).trans (if_pos rfl)

/-! take (13 R307). -/

section
variable (hi : issues (.take f) s k t = true) (hh : t.host = false) (hea : ea t (readG s t f.a.toNat) 32 needW = .ok a)
  (ha : a % 8 = 0)
include hi hh hea ha

theorem take_none (hnone : dequeOf s (coreOf k) = []) : Does (.take f) s k t (putScored s k (s.clk + 10) [(f.d.toNat, 0)] []) := by
  refine does_of_next rfl hi ?_
  simp only [hh, hea, ha, hnone, List.getLast?_nil, scored, ne_eq, not_true_eq_false, Bool.false_eq_true, if_false]

theorem take_newest {x : Sprout} {g : Put} (hx : (dequeOf s (coreOf k)).getLast? = some x)
    (hg : storeRange s k t (readG s t f.a.toNat) a x.bytes = .ok g) :
    let s1 := { g.s with deques := g.s.deques.put (coreOf k) (dequeOf g.s (coreOf k)).dropLast }
    let s2 := modNode (noteStore s1 k g) x.node (fun n => { n with sprouts := n.sprouts - 1 })
    let s3 := rivalCheck (nodeDone s2 x.node k t) (partOf t) x.view
    Does (.take f) s k t (putScored s3 k (s3.clk + 10) [(f.d.toNat, 1)] []) := by
  refine does_of_next rfl hi ?_
  simp only [hh, hea, ha, hx, hg, scored, ne_eq, not_true_eq_false, Bool.false_eq_true, if_false]

end

end

/-- Settles O46: a launch refused, accepted or answered with its status, and a core's deque of sprouts. -/
theorem nodesAndSprouts : Obligations.NodesAndSprouts := by
  refine fun f s k t a => ⟨launch_in_world, fun g s1 at_ key hi hv hea ha hg hrel hloc hnew => ?_, fun s1 own bs known hz => ?_,
    fun g key hi hn hea ha hg hzero hentry hpod => ⟨spawn_full hi hn hea ha hg hzero hentry hpod, fun hroom => ?_⟩,
    spawn_outside_node, fun hi hh hea ha => ⟨take_none hi hh hea ha, fun x g => take_newest hi hh hea ha⟩⟩
  · have hanswers {s2 : State} := launch_answers (s2 := s2) hi hv hea ha hg hrel hloc hnew rfl rfl
    exact ⟨fun hst => ⟨hanswers (if_pos hst), acceptNode_nodes ..⟩, fun hst => hanswers (if_neg hst)⟩
  · exact if_pos (.inl hz)
  · obtain ⟨hdeque, hthreads, hnodes⟩ := sproutAdded_frame g.s (partOf t) (coreOf k) (sproutOf t key g.bytes)
    refine ⟨_, spawn_adds hi hn hea ha hg hzero hentry hpod hroom, hdeque, hthreads, fun n hnode => ?_⟩
    exact ⟨_, by rw [hnodes, Tab.get?_modify]; exact (if_pos rfl).trans (congrArg _ hnode), rfl⟩

end Sys2Proof.Machine
end

section
/-! Starts and ends of threads: sprouts started and stolen (13 R308; 02 R46), the end of a thread (02 R29), a dispatcher's reply
(13 R302, R303), and the service thread (15 R349). -/

namespace Sys2Proof.Machine

/-! Sprouts started and stolen. -/

section
variable {s : State} {core : Nat}

theorem exec_sproutLocalStart_empty (h : dequeOf s core = []) : exec (.sproutLocalStart core) s = .next s := by
  change execSproutLocalStart core s = _
  simp only [execSproutLocalStart, h]

theorem exec_sproutLocalStart_last {x : Sprout} {a : State} (h : dequeOf s core = [x]) (hstart : startSprout s core x = some a) :
    exec (.sproutLocalStart core) s = .next { a with deques := a.deques.put core [] } := by
  have hgone : dequeOf { a with deques := a.deques.put core [] } core = [] := (Tab.getD_put ..).trans (if_pos rfl)
  change execSproutLocalStart core s = _
  simp only [execSproutLocalStart, h, hstart, hgone, List.isEmpty_nil, if_true]

theorem exec_sproutLocalStart_no_room {x : Sprout} {r : List Sprout} (h : dequeOf s core = x :: r)
    (hstart : startSprout s core x = none) :
    exec (.sproutLocalStart core) s = .next (sched s (s.clk / 64 * 64 + 64) (.sproutLocalStart core)) := by
  change execSproutLocalStart core s = _
  simp only [execSproutLocalStart, h, hstart, List.isEmpty_cons, Bool.false_eq_true, if_false]

theorem exec_sproutSteal_unowned (h : partOfCore s core = none) : exec (.sproutSteal core) s = .next s := by
  change execSproutSteal core s = _
  simp only [execSproutSteal, h]

/-- A core that has a context free and no thread ready. -/
def coreIdle (s : State) (core : Nat) : Bool :=
  (coreThreads s core).all (fun q => !isReady s q.2) && (upFrom 0 64).any (ctxFree s core)

/-- Some core's start of its own sprouts is due. -/
def localStartDue (s : State) : Bool :=
  s.agenda.any (fun q => match q.2 with
    | .sproutLocalStart _ => decide (q.1 ≤ s.clk)
    | _ => false)

theorem coreIdle_of_free (hready : ∀ q ∈ s.threads, q.2.host = false → coreOf q.1 = core → isReady s q.2 = false)
    (hfree : ctxFree s core 0 = true) : coreIdle s core = true := by
  refine Bool.and_eq_true_iff.2 ⟨List.all_eq_true.2 fun q hq => ?_, List.any_eq_true.2 ⟨0, (mem_upFrom ..).2 (by omega), hfree⟩⟩
  obtain ⟨hmem, hown⟩ := List.mem_filter.1 hq
  obtain ⟨hhost, hcore⟩ := Bool.and_eq_true_iff.1 hown
  rw [hready q hmem (Bool.not_eq_true' _ ▸ hhost) (beq_iff_eq.1 hcore), Bool.not_false]

theorem no_localStartDue (h : ∀ q ∈ s.agenda, ∀ c, q.2 ≠ .sproutLocalStart c) : localStartDue s = false := by
  refine List.any_eq_false.2 fun q hq => ?_
  split
  · next c hc => exact absurd hc (h q hq c)
  · exact Bool.false_ne_true

/-- A core that has stolen tries again while a core of its partition has sprouts. -/
def stealAgain (s : State) (p core : Nat) : State :=
  if (coreList s p).any (fun c => !(dequeOf s c).isEmpty) then sched s (s.clk / 64 * 64 + 64) (.sproutSteal core) else s

theorem besidePlaces_stealAgain (s : State) (p core : Nat) : besidePlaces (stealAgain s p core) = besidePlaces s := by
  unfold stealAgain
  split <;> rfl

theorem exec_sproutSteal_steals {p v : Nat} {x : Sprout} {r : List Sprout} {a : State} (hp : partOfCore s core = some p)
    (hlocal : localStartDue s = false) (hidle : coreIdle s core = true) (hfrom : stealFrom s p core = some v)
    (hdeque : dequeOf s v = x :: r) (hstart : startSprout s core x = some a) :
    exec (.sproutSteal core) s = .next (stealAgain (perfBump { a with deques := a.deques.put v r } p 0x0A) p core) := by
  unfold coreIdle at hidle
  change execSproutSteal core s = _
  simp only [execSproutSteal, hp]
  refine (if_neg (Bool.eq_false_iff.1 hlocal)).trans ?_
  simp only [hidle, hfrom, hdeque, hstart, if_true]
  rfl

end

/-! The end of a thread (02 R29). -/

section
variable {s : State} {k : Nat} {t : Thread}

theorem leaveService_other (h : svcThread s (partOf t) ≠ some k) : leaveService s k t = s := if_neg h

theorem svcThread_of_pspr {u : State} (h : u.pspr = s.pspr) (p : Nat) : svcThread u p = svcThread s p := by
  rw [svcThread, sprPart, h, ← sprPart, ← svcThread]

theorem rivalCheck_root (s : State) (p : Nat) : rivalCheck s p 0 = s := if_pos (.inl rfl)

/-- A thread of no node and no world, outside a redundant pair, whose view no rival has left, leaves nothing behind. -/
theorem leaveNode_alone (hv : viewOf t = 0) (hr : redundOf t = 0) (hend : s.viewEnd.get? (partOf t * 1024) = none)
    (hn : t.node = none) : leaveNode s k t = s := by
  have hkills : rivalKills s (partOf t) 0 = s := by simp only [rivalKills, Nat.add_zero, hend]
  simp only [leaveNode, hr, hv, hn, hkills, zero_ne_one, if_false, rivalCheck_root]

/-- The mailboxes after a notifier's end (13 R316). -/
def notifierGone (s : State) (k : Nat) : State :=
  { s with mboxes := s.mboxes.map (fun q => (q.1, if q.2.notifier = some k then { q.2 with notifier := none } else q.2)) }

/-- The thread is gone from its context. -/
def threadGone (s : State) (k : Nat) : State := { s with threads := s.threads.del k }

theorem besidePlaces_threadGone {u : State} (h : besidePlaces u = besidePlaces s) :
    besidePlaces (threadGone u k) = besidePlaces (threadGone s k) :=
  (congrArg (fun x : State => threadGone x k) h :)

theorem exec_threadEnd_not_ending (h : thr s k = some t) (hrun : t.run ≠ .ending) : exec (.threadEnd k) s = .next s := by
  change execThreadEnd k s = _
  simp only [execThreadEnd, h, if_pos hrun]

/-- Thread k, in state t, has nothing that its end would give back: no object, group, pod, timeline, matrix work or node, no view
that a rival has left, and it is not the service thread. -/
structure EndsAlone (s : State) (k : Nat) (t : Thread) : Prop where
  held : t.held = []
  groups : t.groups = []
  view : t.host = true ∨ (viewOf t = 0 ∧ redundOf t = 0 ∧ s.viewEnd.get? (partOf t * 1024) = none)
  matrix : matBusy s k = false
  timelines : s.tlNote = []
  pods : ownedPods s (partOf t) k = []
  service : svcThread s (partOf t) ≠ some k
  node : t.node = none

/-- Beside the tables of its core, such a thread's end takes it from its context and its mailbox alone. -/
theorem exec_threadEnd_alone {s1 : State} {at_ : Nat} (h : thr s k = some t) (hrun : t.run = .ending)
    (hrel : releaseAt s k t 3 = .done s1 at_) (ha : EndsAlone s1 k t) :
    ∃ u, exec (.threadEnd k) s = .next u ∧ besidePlaces u = besidePlaces (threadGone (notifierGone s1 k) k) := by
  have hheld : releaseHeld s1 k t = .done s1 s1.clk := by rw [releaseHeld, ha.held, List.foldl_nil]
  have hgroups : leaveGroups s1 k t = s1 := by rw [leaveGroups, ha.groups, List.foldl_nil]
  have hnote : disarmTimelines s1 k = s1 := by rw [disarmTimelines, ha.timelines, List.filter_nil, List.foldl_nil]
  have hpods : ownedPods (notifierGone s1 k) (partOf t) k = [] := ha.pods
  have hplaces := besidePlaces_leaveSlots (notifierGone s1 k) k t
  have hsvc : leaveService (leaveSlots (notifierGone s1 k) k t) k t = leaveSlots (notifierGone s1 k) k t :=
    leaveService_other (by rw [svcThread_of_pspr (pspr_of_besidePlaces hplaces)]; exact ha.service)
  unfold notifierGone at hpods hsvc
  change ∃ u, execThreadEnd k s = _ ∧ _
  simp only [execThreadEnd, h, hrun, hrel, hheld, ha.matrix, hgroups, hnote, hpods, List.foldl_nil, hsvc, ne_eq, not_true_eq_false,
    Bool.false_eq_true, if_false]
  refine ⟨_, rfl, ?_⟩
  have hgone := besidePlaces_threadGone (k := k) hplaces
  split
  · exact hgone
  next hhost =>
    obtain ⟨hv, hr, hend⟩ := ha.view.resolve_left hhost
    have hidle (x : State) : besidePlaces (if isHuskKey k = true then x else noteIdle x (coreOf k)) = besidePlaces x := by
      split
      · rfl
      · exact besidePlaces_noteIdle ..
    have hleft := (hidle _).trans hgone
    have hend' := (congrArg (Tab.get? · (partOf t * 1024)) (viewEnd_of_besidePlaces hleft)).trans hend
    exact (besidePlaces_pokeDispatch ..).trans ((congrArg besidePlaces (leaveNode_alone hv hr hend' ha.node)).trans hleft)

end

/-! A dispatcher's reply (13 R302). -/

section
variable {s : State} {part : Nat} {token : Word}

theorem exec_dispatcherFaultReply_unknown (action : Nat)
    (h : s.succWait.find? (fun q => q.1 == part && q.2.2.2 == token.toNat) = none) :
    exec (.dispatcherFaultReply part token action) s = .next s := by
  change execDispatcherFaultReply part token action s = _
  simp only [execDispatcherFaultReply, h]

/-- A reply that a list of successors waited for is taken. -/
def replyTaken (s : State) (tk : Nat) : State :=
  { s with succWait := s.succWait.filter (fun q => q.2.2.2 != tk), tokens := s.tokens.del tk }

section
variable {p key tk : Nat} {addrs : List Word}
  (h : s.succWait.find? (fun q => q.1 == part && q.2.2.2 == token.toNat) = some (p, key, addrs, tk))
include h

theorem exec_dispatcherFaultReply_ends {action : Nat} (ha : action ≠ 0) :
    exec (.dispatcherFaultReply part token action) s = .next (replyTaken s tk) := by
  change execDispatcherFaultReply part token action s = _
  simp only [execDispatcherFaultReply, h, if_neg ha, replyTaken]

theorem exec_dispatcherFaultReply_goes_on (htok : s.tokens.get? tk = none) :
    exec (.dispatcherFaultReply part token 0) s = .next (runSuccs p key addrs (replyTaken s tk)) := by
  change execDispatcherFaultReply part token 0 s = _
  simp only [execDispatcherFaultReply, h, htok, if_true, replyTaken]

theorem exec_dispatcherFaultReply_walks {x : Nat × Nat × Word} (htok : s.tokens.get? tk = some x) :
    exec (.dispatcherFaultReply part token 0) s =
      .next (runSuccs p key addrs (walkAgain (replyTaken s tk) 0 p x.2.2.toNat).1) := by
  change execDispatcherFaultReply part token 0 s = _
  simp only [execDispatcherFaultReply, h, htok, if_true, replyTaken]

end

end

/-! The service thread (15 R349). -/

section
variable {s : State} {part : Nat}

theorem exec_serviceThreadStart_refused (h : startStatus s part ≠ 0) :
    exec (.serviceThreadStart part) s = .next (setCtlF s (partBase part) 4 4 (startStatus s part)) := by
  change execServiceThreadStart part s = _
  simp only [execServiceThreadStart, if_pos h]

/-- The core and the context that a partition's start block names. -/
def startCore (s : State) (part : Nat) : Nat := bits (rdCtl s (partBase part + 0x18)) 0 7
def startCtx (s : State) (part : Nat) : Nat := bits (rdCtl s (partBase part + 0x18)) 8 6

/-- The room that the start block asks for. -/
def startRoom (s : State) (part : Nat) : Room :=
  let w := rdCtl s (partBase part + 0x18)
  ⟨startCtx s part, (carveG s (startCore s part) (bits w 24 5 * 8)).getD 0, (carveT s (startCore s part) (bits w 32 6)).getD 0,
    fixedSet (bits w 16 4) (bits w 20 2), none⟩

/-- The service thread as it starts: supervisor, SP in g2, the start block's PC and segments. -/
def startThread (s : State) (part : Nat) : Thread :=
  let w := rdCtl s (partBase part + 0x18)
  let t := blankThread s part (startCore s part) (startRoom s part) (bits w 24 5 * 8) (bits w 32 6) (4 * 2 ^ bits w 20 2)
  { t with pc := rdCtl s (partBase part + 8), gpr := Tab.putD [] 2 0 (rdCtl s (partBase part + 0x10)),
           segs := (upFrom 0 8).foldl (fun a i => a.putD i 0 (svcSeg s part i)) [], spr := t.spr.putD rMODE 0 1 }

/-- A fresh thread's MODE is 0, so that its g2 is no shadow register. -/
theorem setGpr_blankThread (s : State) (p c : Nat) (r : Room) (gsize tcount spacing : Nat) (v : Word) :
    setGpr (blankThread s p c r gsize tcount spacing) 2 v =
      { blankThread s p c r gsize tcount spacing with gpr := Tab.putD [] 2 0 v } := by
  have hshadow : isShadow (blankThread s p c r gsize tcount spacing) 2 = false := Bool.and_false _
  simp only [setGpr, hshadow, OfNat.ofNat_ne_zero, Bool.false_eq_true, if_false]
  rfl

theorem partOf_startThread (h : part < 16) : partOf (startThread s part) = part := by
  have hspr : getSpr (startThread s part) rPARTITION = wd part := by
    simp only [getSpr, startThread, blankThread, Tab.getD_putD]
    rfl
  have hhost : (startThread s part).host = false := rfl
  simp only [partOf, hhost, hspr, Bool.false_eq_true, if_false, bits, wd_toNat part (by omega)]
  omega

theorem startThread_starts (s : State) (part : Nat) :
    (startThread s part).pc = rdCtl s (partBase part + 8) ∧ supOf (startThread s part) = true ∧ (startThread s part).host = false ∧
    (startThread s part).gpr.getD 2 0 = rdCtl s (partBase part + 0x10) ∧
    ∀ i, i < 8 → (startThread s part).segs.getD i 0 = svcSeg s part i := by
  refine ⟨rfl, ?_, rfl, (Tab.getD_putD ..).trans (if_pos rfl), fun i hi => ?_⟩
  · have hmode : getSpr (startThread s part) rMODE = 1 := by
      simp only [getSpr, startThread, Tab.getD_putD, if_true]
    rw [supOf, hmode]
    rfl
  · exact (Tab.getD_foldl_putD ..).trans (if_pos ((mem_upFrom ..).2 (by omega)))

/-- SVCTHREAD as a start writes it. -/
theorem svcThread_of_sprPart {c x : Nat} (hc : c < 128) (hx : x < 64) (h : sprPart s part rSVCTHREAD = wd (c + x * 2 ^ 8 + 2 ^ 14)) :
    svcThread s part = some (c * 64 + x) := by
  have hw : (wd (c + x * 2 ^ 8 + 2 ^ 14)).toNat = c + x * 2 ^ 8 + 2 ^ 14 := wd_toNat _ (by omega)
  have hbound : bit (wd (c + x * 2 ^ 8 + 2 ^ 14)) 14 = true := by
    rw [bit_eq_bits, bits, hw]
    exact beq_iff_eq.2 (by omega)
  have hcore : bits (wd (c + x * 2 ^ 8 + 2 ^ 14)) 0 7 = c := by rw [bits, hw]; omega
  have hctx : bits (wd (c + x * 2 ^ 8 + 2 ^ 14)) 8 6 = x := by rw [bits, hw]; omega
  simp only [svcThread, h, hbound, hcore, hctx, if_true]

/-- The service thread in its context, with the entries it takes. -/
def serviceInContext (s : State) (part : Nat) : State :=
  let c := startCore s part
  let x := startCtx s part
  setThr (takeSlots (dispSlots (setCtlF s (partBase part) 4 4 0) c (fun a => emptySlots a c x [])) c (startRoom s part))
    (c * 64 + x) (startThread s part)

/-- The same with SVCTHREAD and the header that name it. -/
def serviceStarted (s : State) (part : Nat) : State :=
  setCtlF (setSprPart (serviceInContext s part) part rSVCTHREAD (wd (startCore s part + startCtx s part * 2 ^ 8 + 2 ^ 14)))
    (partBase part) 2 1 1

theorem exec_serviceThreadStart_starts (h : startStatus s part = 0) :
    let k := startCore s part * 64 + startCtx s part
    let s3 := channelsPlaced (acquireAt (serviceStarted s part) k (startThread s part) 3).1 k (startThread s part)
    exec (.serviceThreadStart part) s = .next (sched s3 s3.clk (.postRetry (startCore s part))) := by
  change execServiceThreadStart part s = _
  simp only [execServiceThreadStart, h, setGpr_blankThread, ne_eq, not_true_eq_false, if_false]
  rfl

theorem serviceStarted_threads : (serviceStarted s part).threads =
    s.threads.put (startCore s part * 64 + startCtx s part) (startThread s part) := by
  have hempty : besidePlaces (dispSlots (setCtlF s (partBase part) 4 4 0) (startCore s part)
      (fun a => emptySlots a (startCore s part) (startCtx s part) [])) = besidePlaces (setCtlF s (partBase part) 4 4 0) :=
    besidePlaces_dispSlots _ _ (besidePlaces_emptySlots ..)
  have hslots := threads_of_besidePlaces ((besidePlaces_takeSlots _ (startCore s part) (startRoom s part)).trans hempty)
  exact congrArg (Tab.put · (startCore s part * 64 + startCtx s part) (startThread s part)) hslots

theorem serviceStarted_svcThread :
    sprPart (serviceStarted s part) part rSVCTHREAD = wd (startCore s part + startCtx s part * 2 ^ 8 + 2 ^ 14) := by
  rw [serviceStarted, sprPart, setCtlF_pspr, ← sprPart, sprPart_setSprPart, if_pos rfl]

theorem acquireAt_frame (s : State) (k : Nat) (t : Thread) (n : Nat) :
    (acquireAt s k t n).1 = { s with l1d := (acquireAt s k t n).1.l1d, acqAt := (acquireAt s k t n).1.acqAt } := by
  unfold acquireAt
  split <;> rfl

/-- What a placed thread sees and the words that begin their way to it change neither threads nor partition registers. -/
theorem acquired_placed (s : State) (k : Nat) (t : Thread) :
    (channelsPlaced (acquireAt s k t 3).1 k t).threads = s.threads ∧ (channelsPlaced (acquireAt s k t 3).1 k t).pspr = s.pspr := by
  have hplaces := besidePlaces_channelsPlaced (acquireAt s k t 3).1 k t
  rw [threads_of_besidePlaces hplaces, pspr_of_besidePlaces hplaces, acquireAt_frame]
  exact ⟨rfl, rfl⟩

end

/-- Settles O47: sprouts started and stolen, a thread's end, a dispatcher's reply, and the start of a service thread. -/
theorem threadStartsAndEnds : Obligations.ThreadStartsAndEnds := by
  refine fun s => ⟨fun core => exec_sproutLocalStart_empty, fun core x a => exec_sproutLocalStart_last,
    fun core x r => exec_sproutLocalStart_no_room, fun core p v x r a hp hlocal hready hfree hfrom hdeque hstart => ?_,
    fun core => exec_sproutSteal_unowned,
    fun k t s1 at_ h hrun hrel hheld hgroups hview hmat hnote hpods hsvc hn => ?_, fun k t => exec_threadEnd_not_ending,
    fun part token action => exec_dispatcherFaultReply_unknown action,
    fun part token p key addrs tk h => ⟨exec_dispatcherFaultReply_goes_on h, fun x => exec_dispatcherFaultReply_walks h,
      exec_dispatcherFaultReply_ends h (by decide), exec_dispatcherFaultReply_ends h (by decide)⟩,
    fun part hst hlt => ?_, fun part hst hpart => ?_⟩
  · have hplaces := besidePlaces_stealAgain (perfBump { a with deques := a.deques.put v r } p 0x0A) p core
    refine ⟨_, exec_sproutSteal_steals hp (no_localStartDue hlocal) (coreIdle_of_free hready hfree) hfrom hdeque hstart, ?_,
      (threads_of_besidePlaces hplaces :)⟩
    rw [deques_of_besidePlaces hplaces]
    exact (Tab.getD_put ..).trans (if_pos rfl)
  · obtain ⟨u, hu, hplaces⟩ := exec_threadEnd_alone h hrun hrel ⟨hheld, hgroups, hview, hmat, hnote, hpods, hsvc, hn⟩
    have hthreads : u.threads = s1.threads.del k := threads_of_besidePlaces hplaces
    refine ⟨u, hu, ?_, fun j hj => ?_, (mem_of_besidePlaces hplaces :)⟩
    · rw [hthreads, Tab.get?_del_self]
    · rw [hthreads, Tab.get?_del_ne _ _ _ hj.symm]
  · exact ⟨_, exec_serviceThreadStart_refused hst, (ctlF_setCtlF _ _ _ _ _ (by decide)).trans (Nat.mod_eq_of_lt hlt), rfl⟩
  · obtain ⟨hpc, hsup, hhost, hsp, hsegs⟩ := startThread_starts s part
    obtain ⟨hthreads, hpspr⟩ := acquired_placed (serviceStarted s part) (startCore s part * 64 + startCtx s part) (startThread s part)
    rw [serviceStarted_threads] at hthreads
    have hsvc := svcThread_of_sprPart (bits_lt ..) (bits_lt ..) (serviceStarted_svcThread (s := s) (part := part))
    exact ⟨_, startThread s part, exec_serviceThreadStart_starts hst, (congrArg (Tab.get? · _) hthreads).trans (Tab.get?_put_self ..),
      hpc, hsup, hhost, hsp, partOf_startThread hpart, (svcThread_of_pspr hpspr part).trans hsvc, hsegs,
      fun j hj => (congrArg (Tab.get? · j) hthreads).trans (Tab.get?_put_ne _ _ _ _ hj.symm)⟩

end Sys2Proof.Machine
end

section
/-! The dispatcher's tries (13 R303), husks filled and spilled (15 R360 to R365), and pre-emption (15 R359). -/

namespace Sys2Proof.Machine

/-! A husk restored, or a thread saved, where no error is found (15 R365). -/

section
variable {s : State} {p i c : Nat} {r : Nat × Nat × Nat}

theorem restoreOr_clean {x : Thread} (share : Option Nat) (hx : huskThread s p (huskSlot s p i) = x)
    (hclean : huskRead s (huskSlot s p i) x = (s, false)) :
    restoreOr s p i c r share = (restore s p (huskSlot s p i) c r share, true) := by
  subst hx
  simp only [restoreOr, hclean, Bool.false_eq_true, if_false]

theorem spillOr_clean {k : Nat} {t : Thread} (begin_ : Nat) (hclean : saveCheck s k (huskSlot s p i) t = (s, false)) :
    spillOr s p i k begin_ t = (spillThread s k (huskSlot s p i) begin_, true) := by
  simp only [spillOr, hclean, Bool.false_eq_true, if_false]

end

/-! fill (15 R363). -/

section
variable {f : RForm} {s : State} {k : Nat} {t : Thread}

/-- The partition whose husks an instruction of thread t names: a host core's is partition 0. -/
def huskPart (t : Thread) : Nat := if t.host then 0 else partOf t

/-- The context that fill's second operand names, if it names one. -/
def wantedCtx (v : Word) : Option Nat := if bit v 15 then none else some (bits v 8 6)

/-- Some field of fill's second operand that is to be zero is not. -/
def badTarget (v : Word) : Prop := bits v 7 1 ≠ 0 ∨ bits v 14 1 ≠ 0 ∨ bits v 16 48 ≠ 0

theorem not_badTarget {v : Word} (h7 : bits v 7 1 = 0) (h14 : bits v 14 1 = 0) (h16 : bits v 16 48 = 0) : ¬ badTarget v := by
  simp only [badTarget, h7, h14, h16, ne_eq, not_true_eq_false, or_self, not_false_eq_true]

/-- A slot that a partition's husk area does not have. -/
def noHuskSlot (s : State) (p n : Nat) : Prop := huskEn s p = false ∨ huskCount s p ≤ n

theorem not_noHuskSlot {p n : Nat} (hen : huskEn s p = true) (hcount : n < huskCount s p) : ¬ noHuskSlot s p n := by
  simp only [noHuskSlot, hen, Bool.true_eq_false, Nat.not_le.2 hcount, or_self, not_false_eq_true]

section
variable (hi : issues (.fill f) s k t = true)
include hi

theorem fill_bad_target (hbad : badTarget (opbReg s t f)) : Traps (.fill f) s s k 0x07 (opbReg s t f) t.pc :=
  traps_of_trap rfl hi (if_pos hbad)

variable (htarget : ¬ badTarget (opbReg s t f))
include htarget

theorem fill_no_slot (hslot : noHuskSlot s (huskPart t) (readG s t f.a.toNat).toNat) :
    Traps (.fill f) s s k 0x07 (readG s t f.a.toNat) t.pc :=
  traps_of_trap rfl hi ((if_neg htarget).trans (if_pos hslot))

variable (hhas : ¬ noHuskSlot s (huskPart t) (readG s t f.a.toNat).toNat)
include hhas

theorem fill_refused {st : Nat} (hst : fillStatus s (huskPart t) (readG s t f.a.toNat).toNat (bits (opbReg s t f) 0 7)
      (wantedCtx (opbReg s t f)) = st) (hne : st ≠ 0) :
    Does (.fill f) s k t (putScored s k (s.clk + 1) [(f.d.toNat, wd (2 ^ 63 + st))] []) := by
  subst hst
  exact does_of_next rfl hi ((if_neg htarget).trans ((if_neg hhas).trans (if_pos hne)))

theorem fill_restores {x : Thread} {r : Nat × Nat × Nat} {slot : Nat}
    (hslot : huskSlot s (huskPart t) (readG s t f.a.toNat).toNat = slot)
    (hx : huskThread s (huskPart t) slot = x)
    (hst : fillStatus s (huskPart t) (readG s t f.a.toNat).toNat (bits (opbReg s t f) 0 7) (wantedCtx (opbReg s t f)) = 0)
    (hroom : roomFor s (bits (opbReg s t f) 0 7) x (wantedCtx (opbReg s t f)) = some r) (hclean : huskRead s slot x = (s, false))
    {s1 : State} (hs1 : restore s (huskPart t) slot (bits (opbReg s t f) 0 7) r (huskShare s (bits (opbReg s t f) 0 7) x) = s1) :
    Does (.fill f) s k t (putScored s1 k (s1.clk + huskTime x) [(f.d.toNat, wd r.1)] []) := by
  subst hslot hx hs1
  refine does_of_next rfl hi ((if_neg htarget).trans ((if_neg hhas).trans ((if_neg (not_not.2 hst)).trans ?_)))
  unfold huskPart wantedCtx at *
  simp only [hroom, restoreOr_clean _ rfl hclean, if_true, scored]

end

/-! spill (15 R362). -/

/-- The thread that spill's operand names. -/
def spillKey (a : Word) : Nat := bits a 0 7 * 64 + bits a 8 6

/-- The partition in which thread t spills the thread of an operand. -/
def spillPart (s : State) (t : Thread) (a : Word) : Nat := if t.host then (partOfCore s (bits a 0 7)).getD 0 else partOf t

/-- What spill refuses at once (15 R362). -/
def spillBad (s : State) (k : Nat) (t : Thread) (a : Word) : Prop :=
  bits a 7 1 ≠ 0 ∨ bits a 14 50 ≠ 0 ∨ coreIn s (spillPart s t a) (bits a 0 7) = false ∨ spillKey a = k ∨
    svcThread s (spillPart s t a) = some (spillKey a) ∨ scanRuns s (spillPart s t a) = true

/-- A thread that issues, and that neither a fill nor a spill has in hand. -/
def spillable (s : State) (x : Thread) : Prop :=
  x.run ≠ .incoming ∧ x.run ≠ .ending ∧ x.park ≠ .spilling ∧ (x.park = .filled → x.earliest ≤ s.clk)

theorem spillable_filled {x : Thread} (h : spillable s x) : ¬ (x.park = .filled ∧ s.clk < x.earliest) := by
  obtain ⟨-, -, -, hfilled⟩ := h
  exact fun ⟨hpark, hlate⟩ => absurd (hfilled hpark) (Nat.not_le.2 hlate)

section
variable (hi : issues (.spill f) s k t = true)
include hi

theorem spill_refused (hbad : spillBad s k t (readG s t f.a.toNat)) : Traps (.spill f) s s k 0x07 (readG s t f.a.toNat) t.pc :=
  traps_of_trap rfl hi (if_pos hbad)

variable (hgood : ¬ spillBad s k t (readG s t f.a.toNat))
include hgood

theorem spill_no_slot (hslot : freeHusk s (spillPart s t (readG s t f.a.toNat)) = none) :
    Does (.spill f) s k t (putScored s k (s.clk + 1) [(f.d.toNat, wd (2 ^ 63 + 1))] []) := by
  refine does_of_next rfl hi ((if_neg hgood).trans ?_)
  unfold spillPart at hslot
  simp only [hslot, scored]

variable {i : Nat} (hslot : freeHusk s (spillPart s t (readG s t f.a.toNat)) = some i)
include hslot

theorem spill_no_thread (hnone : thr s (spillKey (readG s t f.a.toNat)) = none) :
    Does (.spill f) s k t (putScored s k (s.clk + 1) [(f.d.toNat, wd (2 ^ 63 + 2))] []) := by
  refine does_of_next rfl hi ((if_neg hgood).trans ?_)
  unfold spillPart at hslot
  unfold spillKey at hnone
  simp only [hslot, hnone, scored]

variable {x u : Thread} {s1 : State} (hx : thr s (spillKey (readG s t f.a.toNat)) = some x) (hmay : spillable s x)
  (hs1 : parkThread s (spillKey (readG s t f.a.toNat)) .spilling = s1)
  (hu : (thr s1 (spillKey (readG s t f.a.toNat))).getD x = u) (hidle : matBusy s1 (spillKey (readG s t f.a.toNat)) = false)
include hx hmay hs1 hu hidle

theorem spill_saves (hready : u.earliest ≤ s1.clk)
    (hclean : saveCheck s1 (spillKey (readG s t f.a.toNat)) (huskSlot s1 (spillPart s t (readG s t f.a.toNat)) i) u = (s1, false))
    {s2 : State}
    (hs2 : spillThread s1 (spillKey (readG s t f.a.toNat)) (huskSlot s1 (spillPart s t (readG s t f.a.toNat)) i) s1.clk = s2) :
    Does (.spill f) s k t (putScored s2 k (s2.clk + (huskTime u + 56)) [(f.d.toNat, wd i)] []) := by
  subst hs2
  have hsave := spillOr_clean s1.clk hclean
  have hfilled := spillable_filled hmay
  obtain ⟨hincoming, hending, hspilling, -⟩ := hmay
  refine does_of_next rfl hi ((if_neg hgood).trans ?_)
  unfold spillPart spillKey at *
  simp only [hslot, hx, hincoming, hending, hspilling, hfilled, hs1, hu, hidle, Nat.not_lt.2 hready, hsave, and_false, or_self,
    false_and, Bool.false_eq_true, if_false, if_true, scored]

theorem spill_waits (hlate : s1.clk < u.earliest) :
    exec (.spill f) s = .next (tick (enterWait s1 k (wordsOf (.spill f))
      { kind := .result, key := u.earliest, arg := wd (spillKey (readG s t f.a.toNat) + 1) })) := by
  have hfilled := spillable_filled hmay
  obtain ⟨hincoming, hending, hspilling, -⟩ := hmay
  refine waits_of_wait rfl hi ((if_neg hgood).trans ?_)
  unfold spillPart spillKey at *
  simp only [hslot, hx, hincoming, hending, hspilling, hfilled, hs1, hu, hidle, hlate, and_false, or_self, false_and, Bool.false_eq_true,
    if_false, if_true]

end

end

/-! The allocator's fills (15 R364). -/

section
variable {s : State} {part : Nat}

theorem exec_huskAutoFill_none (h : nextHusk s part = none) : exec (.huskAutoFill part) s = .next s := by
  change execHuskAutoFill part s = _
  simp only [execHuskAutoFill, h]

theorem exec_huskAutoFill_restores {i c : Nat} {r : Nat × Nat × Nat} (h : nextHusk s part = some (i, c))
    (hroom : roomFor s c (huskThread s part (huskSlot s part i)) none = some r)
    (hclean : huskRead s (huskSlot s part i) (huskThread s part (huskSlot s part i)) = (s, false)) :
    exec (.huskAutoFill part) s = .next (restore s part (huskSlot s part i) c r
      (huskShare s c (huskThread s part (huskSlot s part i)))) := by
  change execHuskAutoFill part s = _
  simp only [execHuskAutoFill, h, hroom, restoreOr_clean _ rfl hclean]

/-! Pre-emption (15 R359). -/

theorem exec_preemptPark_unwanted (h : waitingNode s part = none) : exec (.preemptPark part) s = .next s := by
  change execPreemptPark part s = _
  simp only [execPreemptPark, h]

/-- A thread that is not yet on its way out of its context. -/
def notParkedAway (s : State) (j : Nat) : Bool := ((thr s j).map (fun x => x.park != .preempted && x.park != .spilling)).getD false

/-- A victim parked, its spill asked for, and the next victim's clk. -/
def victimParked (s : State) (part j : Nat) : State :=
  let s1 := unsched (parkThread s j .preempted) (fun i => i == .huskSpill j)
  sched (sched s1 (max (engineFree s1 (clusterOf (coreOf j))) (((thr s1 j).map (fun t => t.earliest)).getD 0)) (.huskSpill j))
    (s1.clk + 1) (.preemptPark part)

theorem exec_preemptPark_parks {key j : Nat} {n : Node} {rest : List Nat} (h : waitingNode s part = some (key, n))
    (hroom : (freeHusk s part).isSome = true) (hvictims : preemption s key n = some (j :: rest)) (hj : notParkedAway s j = true) :
    exec (.preemptPark part) s = .next (victimParked s part j) := by
  have hnone : (freeHusk s part).isNone = false := by rw [← Option.not_isSome, hroom]; rfl
  unfold notParkedAway at hj
  change execPreemptPark part s = _
  simp only [execPreemptPark, h, hnone, Bool.false_eq_true, if_false, hvictims, List.find?_cons, hj]
  rfl

theorem withdrawWait_clk (s : State) (k : Nat) : (withdrawWait s k).clk = s.clk := by
  unfold withdrawWait
  split
  · rfl
  · split
    · rfl
    · split
      · unfold withdrawGroup
        split <;> rfl
      all_goals rfl

theorem thr_withdrawWait_isSome {k : Nat} {t : Thread} (h : thr s k = some t) : ∃ u, thr (withdrawWait s k) k = some u := by
  cases hw : waitOf t with
  | none => exact ⟨t, by simp only [withdrawWait, h, hw]⟩
  | some w => exact ⟨_, (thr_of_threads (withdrawWait_threads h hw) k).trans (thr_setThr_self s k _)⟩

theorem thr_parkThread {k : Nat} {t : Thread} (why : Park) (h : thr s k = some t) :
    ∃ u, thr (parkThread s k why) k = some u ∧ u.run = .parked ∧ u.park = why := by
  obtain ⟨u, hu⟩ := thr_withdrawWait_isSome h
  exact ⟨_, thr_modThr_self _ hu, rfl, rfl⟩

theorem victimParked_parks {j : Nat} {t : Thread} (h : thr s j = some t) :
    ∃ x, thr (victimParked s part j) j = some x ∧ x.run = .parked ∧ x.park = .preempted ∧
      (s.clk + 1, Instr.preemptPark part) ∈ (victimParked s part j).agenda ∧
      ∃ due, (due, Instr.huskSpill j) ∈ (victimParked s part j).agenda := by
  obtain ⟨x, hx, hrun, hpark⟩ := thr_parkThread .preempted h
  refine ⟨x, hx, hrun, hpark, (mem_sched ..).2 (.inl ?_), _, (mem_sched ..).2 (.inr ((mem_sched ..).2 (.inl rfl)))⟩
  exact congrArg (fun c => (c + 1, Instr.preemptPark part)) (withdrawWait_clk s j).symm

/-! The spill engine (15 R359, R362). -/

section
variable {j : Nat} {x : Thread} (h : thr s j = some x)
include h

theorem exec_huskSpill_elsewhere (hnot : x.run ≠ .parked ∨ (x.park ≠ .preempted ∧ x.park ≠ .spilling)) :
    exec (.huskSpill j) s = .next s := by
  change execHuskSpill j s = _
  by_cases hrun : x.run = .parked
  · obtain ⟨hpre, hspill⟩ := hnot.resolve_left (not_not.2 hrun)
    simp only [execHuskSpill, h, hrun, hpre, hspill, ne_eq, not_true_eq_false, not_false_eq_true, if_false, if_true]
  · simp only [execHuskSpill, h, hrun, ne_eq, not_false_eq_true, if_true]

variable (hrun : x.run = .parked)
include hrun

theorem exec_huskSpill_saves {i : Nat} (hspill : x.park = .spilling) (hslot : freeHusk s (partOf x) = some i)
    (hclean : saveCheck s j (huskSlot s (partOf x) i) x = (s, false)) :
    exec (.huskSpill j) s = .next (spillThread s j (huskSlot s (partOf x) i) (s.clk - huskTime x)) := by
  change execHuskSpill j s = _
  simp only [execHuskSpill, h, hrun, hspill, hslot, spillOr_clean _ hclean, ne_eq, not_true_eq_false, if_false, if_true]

variable (hpre : x.park = .preempted) (hidle : matBusy s j = false)
include hpre hidle

theorem exec_huskSpill_resumes (hnode : waitingNode s (partOf x) = none) :
    exec (.huskSpill j) s = .next (resumeThread s j s.clk) := by
  change execHuskSpill j s = _
  simp only [execHuskSpill, h, hrun, hpre, hidle, hnode, reduceCtorEq, ne_eq, not_true_eq_false, Bool.false_and, Bool.false_eq_true,
    if_false]

theorem exec_huskSpill_begins {i key : Nat} {n : Node} (hslot : freeHusk s (partOf x) = some i)
    (hnode : waitingNode s (partOf x) = some (key, n)) (hvictim : victim s key (effPriority s n) (j, x) = true) :
    exec (.huskSpill j) s =
      .next (sched (setThr s j { x with park := .spilling }) (s.clk + huskTime x) (.huskSpill j)) := by
  change execHuskSpill j s = _
  simp only [execHuskSpill, h, hrun, hpre, hidle, hnode, hvictim, hslot, reduceCtorEq, ne_eq, not_true_eq_false, Option.isSome_some,
    Bool.and_self, Bool.false_eq_true, if_false, if_true]

end

/-! One try of a dispatcher (13 R303). -/

/-- The state that a dispatcher's try starts from: its own event gone, and restored threads with the sets that have become free. -/
def tryFrom (s : State) (part : Nat) : State := resumeFilled (unsched s (fun i => i == .dispatchPlace part)) part

theorem exec_dispatchPlace_early (hclk : (tryFrom s part).clk < (tryFrom s part).tried.getD part 0) :
    exec (.dispatchPlace part) s =
      .next (sched (tryFrom s part) ((tryFrom s part).tried.getD part 0) (.dispatchPlace part)) :=
  congrArg Host.Outcome.next (if_pos hclk)

/-- What a try leaves for later: another one after some clk, where anything is left to do. -/
def tryLater (s : State) (part n : Nat) : State :=
  if dispatchLeft s part then sched s (s.clk + n) (.dispatchPlace part) else s

/-- The state after a try of the nodes, by its result. -/
def triedNodes (part : Nat) : Tried → State
  | .forks s => { s with lateDisp := s.lateDisp ++ [part] }
  | .placed s => tryLater { s with tried := s.tried.put part (s.clk + 1) } part 1
  | .idle s => tryLater s part 256
  | .blocked s _ _ => sched (tryLater s part 256) s.clk (.preemptPark part)

theorem exec_dispatchPlace_tries (hclk : (tryFrom s part).tried.getD part 0 ≤ (tryFrom s part).clk)
    (hrivals : partRivals (tryFrom s part) part = []) (hhusk : nextHusk (tryFrom s part) part = none) {r : Tried}
    (hr : tryNodes false (queued (tryFrom s part) part) (tryFrom s part) = r) :
    exec (.dispatchPlace part) s = .next (triedNodes part r) := by
  change Host.Outcome.next (dispatchTry s part false) = _
  unfold tryFrom at *
  simp only [dispatchTry, Nat.not_lt.2 hclk, hrivals, hhusk, hr, List.isEmpty_nil, Bool.not_true, Option.isSome_none,
    Bool.false_eq_true, if_false]
  cases r <;> rfl

/-- A task goes to the first core of its list that takes it. -/
theorem taskFirst_head {key tid c : Nat} {n : Node} {cs : List Nat} {a : State} (h : taskOn s key n tid c = some a) :
    taskFirst s key n tid (c :: cs) = some (countTask a key c) := by
  simp only [taskFirst, h]

end

/-- Settles O48: fill and spill with their statuses, the allocator's fill, pre-emption, the spill engine, and a dispatcher's try. -/
theorem dispatchAndHusks : Obligations.DispatchAndHusks := by
  refine fun f s k t => ⟨fun hi => ⟨fill_bad_target hi, fun h7 h14 h16 => fill_no_slot hi (not_badTarget h7 h14 h16),
      fun h7 h14 h16 hen hcount => ⟨fill_refused hi (not_badTarget h7 h14 h16) (not_noHuskSlot hen hcount) rfl,
        fun r hst hroom hclean => ?_⟩⟩,
    fun hi => ⟨spill_refused hi, spill_no_slot hi, fun i hgood => spill_no_thread hi hgood,
      fun i x hgood hslot hx h1 h2 h3 h4 hidle => ⟨fun hready hclean => ?_, fun hlate => ?_⟩⟩,
    fun part => exec_huskAutoFill_none, fun part i c r => exec_huskAutoFill_restores, fun part => exec_preemptPark_unwanted,
    fun part key n j rest hnode hroom hvictims hj => ?_, fun j x => exec_huskSpill_elsewhere, fun j x h hrun hpre hidle hnode => ?_,
    fun j x i h hrun hslot => ⟨fun key n hpre hidle hnode hvictim => ?_, fun hspill hclean => ?_⟩,
    fun part => ⟨exec_dispatchPlace_early, fun hclk hrivals hhusk => ?_⟩, fun key n tid c cs a => taskFirst_head⟩
  · exact fill_restores hi (not_badTarget h7 h14 h16) (not_noHuskSlot hen hcount) rfl rfl hst hroom hclean rfl
  · exact spill_saves hi hgood hslot hx ⟨h1, h2, h3, h4⟩ rfl rfl hidle hready hclean rfl
  · exact spill_waits hi hgood hslot hx ⟨h1, h2, h3, h4⟩ rfl rfl hidle hlate
  · obtain ⟨t, ht, -⟩ := Option.map_eq_some_iff.1 hj
    obtain ⟨x, hparked⟩ := victimParked_parks (part := part) ht
    exact ⟨_, x, exec_preemptPark_parks hnode hroom hvictims (congrArg (Option.getD · false) hj), hparked⟩
  · exact ⟨_, _, exec_huskSpill_resumes h hrun hpre hidle hnode, thr_modThr_self _ h, rfl, rfl, rfl⟩
  · exact exec_huskSpill_begins h hrun hpre hidle hslot hnode hvictim
  · exact exec_huskSpill_saves h hrun hspill hslot hclean
  · have htries {r : Tried} := exec_dispatchPlace_tries (r := r) hclk hrivals hhusk
    refine ⟨fun s1 hr => ⟨fun hleft => ?_, fun hleft => ?_⟩, fun s1 hr => htries hr, fun s1 hr hleft => ?_,
      fun s1 key n hr hleft => ?_⟩
    · exact (htries hr).trans (congrArg _ (if_neg (Bool.eq_false_iff.1 hleft)))
    · exact (htries hr).trans (congrArg _ (if_pos hleft))
    · exact (htries hr).trans (congrArg _ (if_pos hleft))
    · exact (htries hr).trans (congrArg (fun u => Host.Outcome.next (sched u s1.clk (.preemptPark part))) (if_pos hleft))

end Sys2Proof.Machine
end
